-- ==== Sys2Proof/Word.lean ====
section
/-! DEFINITION. The word types of the device (spec 00_scope R8, R9) and their plainest operations. -/

namespace Sys2Proof

/-- One byte of storage. -/
abbrev Byte := BitVec 8
/-- A halfword, the unit of instruction starts (R45). -/
abbrev Half := BitVec 16
/-- A 32-bit instruction word or lane value. -/
abbrev W32 := BitVec 32
/-- A scalar register value (R15). -/
abbrev Word := BitVec 64
/-- A 56-bit virtual address (R192). -/
abbrev VAddr := BitVec 56
/-- A vector register of 64 lanes of 32 bits, lane i in bits 32i+31..32i (R23). -/
abbrev VWord := BitVec 2048
/-- One 128-byte block (R276). -/
abbrev Block := BitVec 1024
/-- A 20-bit domain identifier (R246). -/
abbrev DomId := BitVec 20
/-- A key identifier GEN<19:12>, INDEX<11:0> (R275). -/
abbrev KeyId := BitVec 20
/-- A cause code of Table 19.1. -/
abbrev Cause := BitVec 8

end Sys2Proof
end

