-- ==== Sys2Proof/Config.lean ====
section
/-! DEFINITION. What an implementation fixes and the free values: constants without a body, so that no proof can
learn a value of them. -/

namespace Sys2Proof.Config

/-- The implementation's approximation by `vrcp.f32` of the reciprocal of the source's significand (R147). -/
opaque rcpBits : BitVec 32 → BitVec 32
/-- The same for `vrsqrt.f32`, the significand taken with an even exponent (R147). -/
opaque rsqrtBits : BitVec 32 → BitVec 32
/-- The implementation's approximation by `vexp2.f32` of two to the source's fraction (R147). -/
opaque exp2Bits : BitVec 32 → BitVec 32
/-- The implementation's value of `vlog2.f32` (R147). -/
opaque log2Bits : BitVec 32 → BitVec 32
/-- The implementation's value of `vtanh.f32` for a positive source (R147). -/
opaque tanhBits : BitVec 32 → BitVec 32
/-- Values the security core draws fresh: CHECK values, nonces (R263, R377); the argument is State.freeCtr. -/
opaque fresh : Nat → BitVec 64
/-- SHA-384 of a byte string (R387). -/
opaque sha384 : List (BitVec 8) → BitVec 384
/-- The ECDSA P-384 signature with the device identity key over a digest (R388). -/
opaque sign : BitVec 384 → BitVec 768
/-- The ECDSA and LMS checks of a signed image both pass (R360, R387). -/
opaque signatureOk : List (BitVec 8) → Bool
/-- The LMS signature bytes of an image, as block 7 reports them (R388). -/
opaque lmsOf : List (BitVec 8) → BitVec 384
/-- The device's certificate chain (R388), whose bytes the manual does not give. -/
opaque certChain : List (BitVec 8)
/-- The fabric port that traffic to a device takes: the spec fixes none (R385, R392). -/
opaque portOf : BitVec 15 → Nat
/-- The proof of its identity that a peer's FINISH carries verifies (R385); the arguments are the peer's number and the request's bytes. -/
opaque finishOk : BitVec 15 → List (BitVec 8) → Bool
/-- The frame to which firmware migrates the page of a retired frame (R403); the arguments are the old frame and State.freeCtr. -/
opaque spareFrame : Nat → Nat → Nat
/-- A field of an SPDM answer whose value the manual does not give; the argument is the answer's code (R388). -/
opaque spdmField : Nat → List (BitVec 8)
/-- The way a cache set gives up when it is full (R61, R274); the argument is State.freeCtr. -/
opaque victim : Nat → Nat
/-- Which of the units in flight of an operation lands next (R220, R307); the argument is State.freeCtr. -/
opaque unitOrder : Nat → Nat
/-- The column of shuttles at which a memory heddle stands: the spec places no heddle (R268). -/
opaque heddleColumn : Nat → Nat

/-- The entry of a 64 KiB group through which an access is translated where the sixteen differ (R346). -/
opaque groupPick : Nat → Nat
/-- How many words a fetcher reads ahead of a parse point (R332); the argument is State.freeCtr. -/
opaque readAhead : Nat → Nat
/-- The hash of a block's number that places it in a slice of a die's shared cache (R274). -/
opaque sliceHash : Nat → Nat

end Sys2Proof.Config
end

