-- ==== Sys2Proof/Syntax.lean ====
section
/-! DEFINITION. The instructions and events of the device, one constructor for each row of the opcode table.
Register fields keep their 5-bit operand codes, because their reading depends on the issuing thread's view (R16, R22). -/

namespace Sys2Proof

/-- The governing predicate of an RR instruction: P and PN (R53). -/
structure Gov where
  p : BitVec 3
  n : Bool
  deriving DecidableEq, Repr

/-- The ordering fields of the X format: ACQ, REL and SCOPE (R52). -/
structure Ord where
  acq : Bool
  rel : Bool
  scope : BitVec 3
  deriving DecidableEq, Repr

/-- The fields of a modifier word (Table 2.1, R58). -/
structure Mod where
  rnd : BitVec 3
  pow : BitVec 6
  absb : Bool
  absa : Bool
  negb : Bool
  nega : Bool
  clamp : BitVec 2
  sat : Bool
  deriving DecidableEq, Repr

/-- Why an issued word is no instruction (R46, R54, R57, R59, R60). -/
inductive IllegalWhy where
  | zeroHalfword | reservedMajor | unassignedCode | nonzeroUnused | badModifier | startMap
  deriving DecidableEq, Repr

/-- What the memory system answers to an outstanding access: success with its data, a PCI Express
completion status (R202), or a refusal by the owner of a peer page with its cause (R194). -/
inductive MemAnswer where
  | ok (data : BitVec 64)
  | unsupportedRequest
  | completerAbort
  | refused (cause : BitVec 8)
  deriving DecidableEq, Repr

/-- The operation of an atomic, F5<3:0> of Table 7.6. -/
inductive AmoOp where
  | swap | add | and | or | xor | maxS | minS | maxN | minN | cas | faddF32
  deriving DecidableEq, Repr

/-- What an access asks of a location. -/
inductive AccKind where
  | load | store | atomic (op : AmoOp)
  deriving DecidableEq, Repr

/-- An access arriving from a peer device at a port heddle (R194). -/
structure PeerAccess where
  device : BitVec 15
  port : BitVec 5
  va : BitVec 64
  size : BitVec 4
  kind : AccKind
  data : BitVec 64
  compare : BitVec 64
  tag : Nat
  /-- the domain whose protected context makes the access (Table 7.2 row 6) -/
  dom : BitVec 20
  deriving DecidableEq, Repr

/-- A bind record of 32 bytes (Table 17.5). -/
structure BindRecord where
  w0 : BitVec 64
  w1 : BitVec 64
  w2 : BitVec 64
  w3 : BitVec 64
  deriving DecidableEq, Repr

/-- Who writes a management register (Tables 18.1, 19.3, 21.3). -/
inductive RegWriter where
  | host | treadle
  deriving DecidableEq, Repr

/-- What a read of stored HBM data finds in its ECC (R382, R403). -/
inductive EccOutcome where
  | clean | corrected | tagMismatch | uncorrectable
  deriving DecidableEq, Repr

/-- A signed image as the boot stages see it (R387): its bytes and the outcomes of its checks. -/
structure BootImage where
  bytes : List (BitVec 8)
  ecdsaOk : Bool
  lmsOk : Bool
  svnOk : Bool
  deriving DecidableEq, Repr

/-- What the boot stages read: the security firmware, the treadle and parse images, and the standard
drafts 0 to 6 (R387), with the boot ROM's bytes. -/
structure BootInputs where
  rom : List (BitVec 8)
  secfw : BootImage
  treadle : BootImage
  parse : BootImage
  drafts : List BootImage
  deriving DecidableEq, Repr

/-- A host AtomicOp request (R390): `op` 0 FetchAdd, 1 Swap, 2 CAS; `width` 0 for 32 bits, 1 for 64, 2 for 128 (which the completer does
not serve). -/
structure HostAtomic where
  op : BitVec 2
  width : BitVec 2
  off : BitVec 36
  operand : BitVec 64
  compare : BitVec 64
  deriving DecidableEq, Repr

/-- What a switch plane's management agent reports when a port trains up (R411). -/
structure PlaneReport where
  peerDev : BitVec 15
  peerPort : BitVec 5
  peerId : BitVec 128
  authentic : Bool
  deriving DecidableEq, Repr

/-- A mesh link, a die bridge or a fabric port (R400). -/
inductive LinkName where
  | mesh (die : BitVec 2)
  | bridge (a b : BitVec 2)
  | port (k : BitVec 5)
  deriving DecidableEq, Repr

/-- A lane of a link (R400, Table 21.4). -/
structure LinkLane where
  name : LinkName
  lane : BitVec 8
  deriving DecidableEq, Repr

/-- An SPDM request on the host's DOE mailbox (no peer) or on the fabric's management lane (R388). -/
structure SpdmRequest where
  peer : Option (BitVec 15)
  session : Nat
  param1 : BitVec 8
  param2 : BitVec 8
  nonce : BitVec 256
  payload : List (BitVec 8)
  deriving DecidableEq, Repr

/-- The instructions and events of the opcode table. -/
inductive Instr where
  /-- `ADD` (R104): Writes A + B, wrapping modulo 2^64, to D. -/
  | add (d a b : BitVec 5) (g : Gov)
  /-- `SUB` (R104): Writes A − B, wrapping modulo 2^64, to D. -/
  | sub (d a b : BitVec 5) (g : Gov)
  /-- `AND` (R104): Writes the bitwise AND of A and B to D. -/
  | and (d a b : BitVec 5) (g : Gov)
  /-- `OR` (R104): Writes the bitwise OR of A and B to D. -/
  | or (d a b : BitVec 5) (g : Gov)
  /-- `XOR` (R104): Writes the bitwise XOR of A and B to D. -/
  | xor (d a b : BitVec 5) (g : Gov)
  /-- `ANDN` (R104): Writes A AND NOT B to D. -/
  | andn (d a b : BitVec 5) (g : Gov)
  /-- `ORN` (R104): Writes A OR NOT B to D. -/
  | orn (d a b : BitVec 5) (g : Gov)
  /-- `XNOR` (R104): Writes NOT (A XOR B) to D. -/
  | xnor (d a b : BitVec 5) (g : Gov)
  /-- `SHL` (R104): Writes A shifted left by B<5:0> to D. -/
  | shl (d a b : BitVec 5) (g : Gov)
  /-- `SHR` (R104): Writes A shifted right with zero fill by B<5:0> to D. -/
  | shr (d a b : BitVec 5) (g : Gov)
  /-- `SAR` (R104): Writes A shifted right with sign fill by B<5:0> to D. -/
  | sar (d a b : BitVec 5) (g : Gov)
  /-- `ROL` (R104): Writes A rotated left by B<5:0> to D. -/
  | rol (d a b : BitVec 5) (g : Gov)
  /-- `ROR` (R104): Writes A rotated right by B<5:0> to D. -/
  | ror (d a b : BitVec 5) (g : Gov)
  /-- `MIN_S64` (R104): Writes the signed smaller of A and B to D. -/
  | minS64 (d a b : BitVec 5) (g : Gov)
  /-- `MAX_S64` (R104): Writes the signed larger of A and B to D. -/
  | maxS64 (d a b : BitVec 5) (g : Gov)
  /-- `MIN_N64` (R104): Writes the unsigned smaller of A and B to D. -/
  | minN64 (d a b : BitVec 5) (g : Gov)
  /-- `MAX_N64` (R104): Writes the unsigned larger of A and B to D. -/
  | maxN64 (d a b : BitVec 5) (g : Gov)
  /-- `SLT_S64` (R104): Writes 1 to D when A < B signed, else 0. -/
  | sltS64 (d a b : BitVec 5) (g : Gov)
  /-- `SLT_N64` (R104): Writes 1 to D when A < B unsigned, else 0. -/
  | sltN64 (d a b : BitVec 5) (g : Gov)
  /-- `SEQ` (R104): Writes 1 to D when A equals B, else 0. -/
  | seq (d a b : BitVec 5) (g : Gov)
  /-- `SNE` (R104): Writes 1 to D when A differs from B, else 0. -/
  | sne (d a b : BitVec 5) (g : Gov)
  /-- `CLZ` (R104): Writes the count of leading zero bits of B to D. -/
  | clz (d b : BitVec 5) (g : Gov)
  /-- `CTZ` (R104): Writes the count of trailing zero bits of B to D. -/
  | ctz (d b : BitVec 5) (g : Gov)
  /-- `POPC` (R104): Writes the count of one bits of B to D. -/
  | popc (d b : BitVec 5) (g : Gov)
  /-- `SEXT_S8` (R104): Writes B<7:0> sign-extended to D. -/
  | sextS8 (d b : BitVec 5) (g : Gov)
  /-- `SEXT_S16` (R104): Writes B<15:0> sign-extended to D. -/
  | sextS16 (d b : BitVec 5) (g : Gov)
  /-- `SEXT_S32` (R104): Writes B<31:0> sign-extended to D. -/
  | sextS32 (d b : BitVec 5) (g : Gov)
  /-- `ZEXT_N32` (R104): Writes B<31:0> zero-extended to D. -/
  | zextN32 (d b : BitVec 5) (g : Gov)
  /-- `CMPP_EQ` (R104): Writes predicate D with A = B in every lane position. -/
  | cmppEq (d a b : BitVec 5) (g : Gov)
  /-- `CMPP_NE` (R104): Writes predicate D with A ≠ B in every lane position. -/
  | cmppNe (d a b : BitVec 5) (g : Gov)
  /-- `CMPP_LT_S64` (R104): Writes predicate D with A < B signed. -/
  | cmppLtS64 (d a b : BitVec 5) (g : Gov)
  /-- `CMPP_GE_S64` (R104): Writes predicate D with A ≥ B signed. -/
  | cmppGeS64 (d a b : BitVec 5) (g : Gov)
  /-- `CMPP_LT_N64` (R104): Writes predicate D with A < B unsigned. -/
  | cmppLtN64 (d a b : BitVec 5) (g : Gov)
  /-- `CMPP_GE_N64` (R104): Writes predicate D with A ≥ B unsigned. -/
  | cmppGeN64 (d a b : BitVec 5) (g : Gov)
  /-- `SEL` (R105): Writes A or B to D as the P and PN fields select, without predication. -/
  | sel (d a b : BitVec 5) (g : Gov)
  /-- `ADDI` (R106): Writes A plus the sign-extended immediate to D. -/
  | addi (d a : BitVec 5) (i : BitVec 12)
  /-- `ANDI` (R106): Writes A AND the sign-extended immediate to D. -/
  | andi (d a : BitVec 5) (i : BitVec 12)
  /-- `ORI` (R106): Writes A OR the sign-extended immediate to D. -/
  | ori (d a : BitVec 5) (i : BitVec 12)
  /-- `XORI` (R106): Writes A XOR the sign-extended immediate to D. -/
  | xori (d a : BitVec 5) (i : BitVec 12)
  /-- `SHLI` (R106): Writes A shifted left by k to D. -/
  | shli (d a : BitVec 5) (k : BitVec 6)
  /-- `SHRI` (R106): Writes A shifted right with zero fill by k to D. -/
  | shri (d a : BitVec 5) (k : BitVec 6)
  /-- `SARI` (R106): Writes A shifted right with sign fill by k to D. -/
  | sari (d a : BitVec 5) (k : BitVec 6)
  /-- `SLTI` (R106): Writes 1 to D when A is below the immediate, signed. -/
  | slti (d a : BitVec 5) (i : BitVec 12)
  /-- `LIH` (R107): Writes the sign-extended I20 times 4096 to D. -/
  | lih (d : BitVec 5) (i : BitVec 20)
  /-- `MUL` (R109): Writes the low 64 bits of A × B to D. -/
  | mul (d a b : BitVec 5) (g : Gov)
  /-- `MULH_S64` (R109): Writes the high 64 bits of the signed product to D. -/
  | mulhS64 (d a b : BitVec 5) (g : Gov)
  /-- `MULH_N64` (R109): Writes the high 64 bits of the unsigned product to D. -/
  | mulhN64 (d a b : BitVec 5) (g : Gov)
  /-- `DIV_S64` (R109): Writes the truncated signed quotient, with fixed results for zero and overflow. -/
  | divS64 (d a b : BitVec 5) (g : Gov)
  /-- `DIV_N64` (R109): Writes the unsigned quotient, all ones for division by zero. -/
  | divN64 (d a b : BitVec 5) (g : Gov)
  /-- `REM_S64` (R109): Writes the signed remainder, A for division by zero. -/
  | remS64 (d a b : BitVec 5) (g : Gov)
  /-- `REM_N64` (R109): Writes the unsigned remainder, A for division by zero. -/
  | remN64 (d a b : BitVec 5) (g : Gov)
  /-- `LEA` (R111): Adds B << k within the 56-bit address, keeping A's upper byte. -/
  | lea (d a b : BitVec 5) (k : BitVec 3)
  /-- `PTAG` (R112): Sets a pointer's colour from B<3:0>. -/
  | ptag (d a b : BitVec 5)
  /-- `PCHK` (R113): Writes a word describing what an access through A would meet, without accessing. -/
  | pchk (d a : BitVec 5)
  /-- `BDESC` (R115): Builds a bound word from a size and permissions. -/
  | bdesc (d a b : BitVec 5)
  /-- `BEQ` (R118): Branches when A equals B. -/
  | beq (a b : BitVec 5) (o : BitVec 10) (h : BitVec 2)
  /-- `BNE` (R118): Branches when A differs from B. -/
  | bne (a b : BitVec 5) (o : BitVec 10) (h : BitVec 2)
  /-- `BLT` (R118): Branches when A < B signed. -/
  | blt (a b : BitVec 5) (o : BitVec 10) (h : BitVec 2)
  /-- `BGE` (R118): Branches when A ≥ B signed. -/
  | bge (a b : BitVec 5) (o : BitVec 10) (h : BitVec 2)
  /-- `BLTN` (R118): Branches when A < B unsigned. -/
  | bltn (a b : BitVec 5) (o : BitVec 10) (h : BitVec 2)
  /-- `BGEN` (R118): Branches when A ≥ B unsigned. -/
  | bgen (a b : BitVec 5) (o : BitVec 10) (h : BitVec 2)
  /-- `BEQZ` (R119): Branches when A is zero. -/
  | beqz (a : BitVec 5) (o : BitVec 15) (h : BitVec 2)
  /-- `BNEZ` (R119): Branches when A is nonzero. -/
  | bnez (a : BitVec 5) (o : BitVec 15) (h : BitVec 2)
  /-- `BLTZ` (R119): Branches when A is negative. -/
  | bltz (a : BitVec 5) (o : BitVec 15) (h : BitVec 2)
  /-- `BGEZ` (R119): Branches when A is zero or positive. -/
  | bgez (a : BitVec 5) (o : BitVec 15) (h : BitVec 2)
  /-- `BGTZ` (R119): Branches when A is positive. -/
  | bgtz (a : BitVec 5) (o : BitVec 15) (h : BitVec 2)
  /-- `BLEZ` (R119): Branches when A is zero or negative. -/
  | blez (a : BitVec 5) (o : BitVec 15) (h : BitVec 2)
  /-- `BQE` (R119): Branches when queue A holds no filled entry, without popping. -/
  | bqe (a : BitVec 5) (o : BitVec 15) (h : BitVec 2)
  /-- `BQF` (R119): Branches when queue A has no free entry, without pushing. -/
  | bqf (a : BitVec 5) (o : BitVec 15) (h : BitVec 2)
  /-- `J` (R120): Transfers control PC-relative. -/
  | j (o : BitVec 25)
  /-- `JAL` (R120): Writes PC + 4 to the link register and transfers control. -/
  | jal (o : BitVec 25)
  /-- `JR` (R121): Transfers control to A plus the immediate after address and alignment checks. -/
  | jr (a : BitVec 5) (i : BitVec 12)
  /-- `JALR` (R121): Writes PC + 4 to D and transfers control to A plus the immediate. -/
  | jalr (d a : BitVec 5) (i : BitVec 12)
  /-- `RET` (R121): Transfers control to the link register plus the immediate. -/
  | ret (i : BitVec 12)
  /-- `LOOP` (R122): Decrements A and branches while the result is nonzero. -/
  | loop (a : BitVec 5) (o : BitVec 15) (h : BitVec 2)
  /-- `ASTART` (R125): Starts the access stream at A with its s1 set from B. -/
  | astart (a b : BitVec 5)
  /-- `ASTOP` (R126): Stops the access stream, completing issued work and emptying the branch-outcome queue. -/
  | astop
  /-- `PUSHB` (R127): Pushes one bit, A ≠ 0, onto the branch-outcome queue. -/
  | pushb (a : BitVec 5)
  /-- `QCLR` (R128): Discards every filled and reserved entry of a queue. -/
  | qclr (b : BitVec 5)
  /-- `QLEN` (R128): Writes the number of filled and reserved entries of a queue to D. -/
  | qlen (d b : BitVec 5)
  /-- `BRQ` (R127): Pops the other stream's oldest branch-outcome bit and branches when it is 1. -/
  | brq (o : BitVec 15) (h : BitVec 2)
  /-- `BRQN` (R127): Pops the other stream's oldest branch-outcome bit and branches when it is 0. -/
  | brqn (o : BitVec 15) (h : BitVec 2)
  /-- `MFS` (R131): Reads a status register, zero-extended, into D. -/
  | mfs (d : BitVec 5) (i : BitVec 12)
  /-- `MTS` (R131): Writes the low bits of A to a status register, keeping read-only fields. -/
  | mts (a : BitVec 5) (i : BitVec 12)
  /-- `FADD` (R132): Writes the rounded f32 sum of A and B. -/
  | fadd (d a b : BitVec 5) (g : Gov)
  /-- `FSUB` (R132): Writes the rounded f32 difference of A and B. -/
  | fsub (d a b : BitVec 5) (g : Gov)
  /-- `FMUL` (R132): Writes the rounded f32 product of A and B. -/
  | fmul (d a b : BitVec 5) (g : Gov)
  /-- `FDIV` (R132): Writes the rounded f32 quotient of A and B. -/
  | fdiv (d a b : BitVec 5) (g : Gov)
  /-- `FSQRT` (R132): Writes the rounded f32 square root of B. -/
  | fsqrt (d b : BitVec 5) (g : Gov)
  /-- `FMIN` (R132): Writes the f32 minimum of A and B by Table 3.4. -/
  | fmin (d a b : BitVec 5) (g : Gov)
  /-- `FMAX` (R132): Writes the f32 maximum of A and B by Table 3.4. -/
  | fmax (d a b : BitVec 5) (g : Gov)
  /-- `FFMA` (R132): Writes A × B + D with one rounding. -/
  | ffma (d a b : BitVec 5) (g : Gov)
  /-- `FABS` (R132): Writes |B| as f32. -/
  | fabs (d b : BitVec 5) (g : Gov)
  /-- `FNEG` (R132): Writes −B as f32. -/
  | fneg (d b : BitVec 5) (g : Gov)
  /-- `FCVT_F32_S64` (R132): Converts the signed integer B to f32. -/
  | fcvtF32S64 (d b : BitVec 5) (g : Gov)
  /-- `FCVT_S64_F32` (R132): Converts f32 B to a saturated signed 64-bit integer. -/
  | fcvtS64F32 (d b : BitVec 5) (g : Gov)
  /-- `FCVT_F32_N64` (R132): Converts the unsigned integer B to f32. -/
  | fcvtF32N64 (d b : BitVec 5) (g : Gov)
  /-- `FCVT_N64_F32` (R132): Converts f32 B to a saturated unsigned 64-bit integer. -/
  | fcvtN64F32 (d b : BitVec 5) (g : Gov)
  /-- `FCMPP_EQ` (R132): Writes predicate D with the f32 equality of A and B. -/
  | fcmppEq (d a b : BitVec 5) (g : Gov)
  /-- `FCMPP_LT` (R132): Writes predicate D with A < B in f32. -/
  | fcmppLt (d a b : BitVec 5) (g : Gov)
  /-- `FCMPP_LE` (R132): Writes predicate D with A ≤ B in f32. -/
  | fcmppLe (d a b : BitVec 5) (g : Gov)
  /-- `FCMPP_UN` (R132): Writes predicate D with A or B unordered. -/
  | fcmppUn (d a b : BitVec 5) (g : Gov)
  /-- `MODIFIER_WORD` (R57): A 64-bit instruction whose modifier word sets rounding, scaling, clamping and saturation of the eligible instruction that follows. -/
  | modifierWord (m : Mod) (i : Instr)
  /-- `LD_S8` (R197): Loads one byte, sign-extended. -/
  | ldS8 (d a : BitVec 5) (i : BitVec 12)
  /-- `LD_N8` (R197): Loads one byte, zero-extended. -/
  | ldN8 (d a : BitVec 5) (i : BitVec 12)
  /-- `LD_S16` (R197): Loads two bytes, sign-extended. -/
  | ldS16 (d a : BitVec 5) (i : BitVec 12)
  /-- `LD_N16` (R197): Loads two bytes, zero-extended. -/
  | ldN16 (d a : BitVec 5) (i : BitVec 12)
  /-- `LD_S32` (R197): Loads four bytes, sign-extended. -/
  | ldS32 (d a : BitVec 5) (i : BitVec 12)
  /-- `LD_N32` (R197): Loads four bytes, zero-extended. -/
  | ldN32 (d a : BitVec 5) (i : BitVec 12)
  /-- `LD_B64` (R197): Loads eight bytes. -/
  | ldB64 (d a : BitVec 5) (i : BitVec 12)
  /-- `ST_B8` (R197): Stores one byte of D. -/
  | stB8 (d a : BitVec 5) (i : BitVec 12)
  /-- `ST_B16` (R197): Stores two bytes of D. -/
  | stB16 (d a : BitVec 5) (i : BitVec 12)
  /-- `ST_B32` (R197): Stores four bytes of D. -/
  | stB32 (d a : BitVec 5) (i : BitVec 12)
  /-- `ST_B64` (R197): Stores eight bytes of D. -/
  | stB64 (d a : BitVec 5) (i : BitVec 12)
  /-- `LD_INDEXED` (R198): Loads from A + (B << SH), sized and extended by the selector. -/
  | ldIndexed (d a b : BitVec 5) (k : BitVec 2) (sx : Bool) (sz : BitVec 2) (g : Gov)
  /-- `ST_INDEXED` (R198): Stores D to A + (B << SH), sized by the selector. -/
  | stIndexed (d a b : BitVec 5) (k sz : BitVec 2) (g : Gov)
  /-- `LDB` (R199): Loads through a descriptor pair after checking READ and the bound. -/
  | ldb (d a b : BitVec 5) (sx : Bool) (sz : BitVec 2) (g : Gov)
  /-- `STB` (R199): Stores through a descriptor pair after checking WRITE and the bound. -/
  | stb (d a b : BitVec 5) (sz : BitVec 2) (g : Gov)
  /-- `AMO_SWAP` (R200): Atomically replaces the location with B, returning the old value. -/
  | amoSwap (t a b : BitVec 5) (w32 : Bool) (ord : Ord)
  /-- `AMO_ADD` (R200): Atomically adds B to the location. -/
  | amoAdd (t a b : BitVec 5) (w32 : Bool) (ord : Ord)
  /-- `AMO_AND` (R200): Atomically ANDs B into the location. -/
  | amoAnd (t a b : BitVec 5) (w32 : Bool) (ord : Ord)
  /-- `AMO_OR` (R200): Atomically ORs B into the location. -/
  | amoOr (t a b : BitVec 5) (w32 : Bool) (ord : Ord)
  /-- `AMO_XOR` (R200): Atomically XORs B into the location. -/
  | amoXor (t a b : BitVec 5) (w32 : Bool) (ord : Ord)
  /-- `AMO_MAX_S` (R200): Atomically keeps the signed larger of the location and B. -/
  | amoMaxS (t a b : BitVec 5) (w32 : Bool) (ord : Ord)
  /-- `AMO_MIN_S` (R200): Atomically keeps the signed smaller of the location and B. -/
  | amoMinS (t a b : BitVec 5) (w32 : Bool) (ord : Ord)
  /-- `AMO_MAX_N` (R200): Atomically keeps the unsigned larger of the location and B. -/
  | amoMaxN (t a b : BitVec 5) (w32 : Bool) (ord : Ord)
  /-- `AMO_MIN_N` (R200): Atomically keeps the unsigned smaller of the location and B. -/
  | amoMinN (t a b : BitVec 5) (w32 : Bool) (ord : Ord)
  /-- `AMO_CAS` (R200): Atomically writes B when the location equals T's value, returning the old value. -/
  | amoCas (t a b : BitVec 5) (w32 : Bool) (ord : Ord)
  /-- `AMO_FADD_F32` (R200): Atomically adds f32 B to the location, rounding to nearest-even. -/
  | amoFaddF32 (t a b : BitVec 5) (ord : Ord)
  /-- `FENCE_ACQ` (R204): Performs acquire at the scope. -/
  | fenceAcq (scope : BitVec 3)
  /-- `FENCE_REL` (R204): Performs release at the scope, raising a deferred store fault at .sys. -/
  | fenceRel (scope : BitVec 3)
  /-- `FENCE_AR` (R204): Performs release then acquire at the scope. -/
  | fenceAr (scope : BitVec 3)
  /-- `PREF` (R205): Moves a block into the data cache for reading. -/
  | pref (a : BitVec 5) (i : BitVec 12)
  /-- `PREFW` (R205): Moves a block into the data cache writable. -/
  | prefw (a : BitVec 5) (i : BitVec 12)
  /-- `IPREF` (R205): Moves a line into the instruction cache by the fetch-ahead path. -/
  | ipref (a : BitVec 5) (i : BitVec 12)
  /-- `PREF_SC` (R205): Moves a block into the die's shared cache only. -/
  | prefSc (a : BitVec 5) (i : BitVec 12)
  /-- `BAR_INIT` (R207): Sets a barrier's EXPECT at every gang member. -/
  | barInit (a : BitVec 5) (i : BitVec 11)
  /-- `BAR_ARV` (R207): Releases at .die and adds one arrival to the barrier. -/
  | barArv (i : BitVec 11)
  /-- `BAR_WAIT` (R207): Waits until PEND is 0, then acquires at .die. -/
  | barWait (i : BitVec 11)
  /-- `BAR_SYNC` (R207): Arrives at a barrier and waits for the phase, as one instruction. -/
  | barSync (i : BitVec 11)
  /-- `BAR_TEST` (R207): Writes 1 to D when PEND is 0, else 0. -/
  | barTest (d : BitVec 5) (i : BitVec 11)
  /-- `BARRIER_PHASE_COMPLETE` (R207): When COUNT reaches EXPECT, PHASE increments, COUNT clears and every PEND clears at every member. -/
  | barrierPhaseComplete (gang : Nat) (bar : BitVec 11)
  /-- `SEND` (R210): Sends a 64-byte local-store message to an endpoint handle. -/
  | send (t a b : BitVec 5) (ord : Ord)
  /-- `RECV` (R212): Takes the oldest message of an endpoint into local store, or suspends when empty. -/
  | recv (t a b : BitVec 5)
  /-- `RBIND` (R213): Binds an endpoint to a handler, or unbinds it when A is 0. -/
  | rbind (a b : BitVec 5)
  /-- `VADD_S32` (R144): Adds 32-bit lanes, wrapping. -/
  | vaddS32 (d a b : BitVec 5) (g : Gov)
  /-- `VSUB_S32` (R144): Subtracts 32-bit lanes, wrapping. -/
  | vsubS32 (d a b : BitVec 5) (g : Gov)
  /-- `VMUL_S32` (R144): Multiplies 32-bit lanes, low half. -/
  | vmulS32 (d a b : BitVec 5) (g : Gov)
  /-- `VMULH_S32` (R144): Multiplies signed 32-bit lanes, high half. -/
  | vmulhS32 (d a b : BitVec 5) (g : Gov)
  /-- `VMIN_S32` (R144): Lane-wise signed minimum. -/
  | vminS32 (d a b : BitVec 5) (g : Gov)
  /-- `VMAX_S32` (R144): Lane-wise signed maximum. -/
  | vmaxS32 (d a b : BitVec 5) (g : Gov)
  /-- `VMIN_N32` (R144): Lane-wise unsigned minimum. -/
  | vminN32 (d a b : BitVec 5) (g : Gov)
  /-- `VMAX_N32` (R144): Lane-wise unsigned maximum. -/
  | vmaxN32 (d a b : BitVec 5) (g : Gov)
  /-- `VAND` (R144): Lane-wise bitwise AND. -/
  | vand (d a b : BitVec 5) (g : Gov)
  /-- `VOR` (R144): Lane-wise bitwise OR. -/
  | vor (d a b : BitVec 5) (g : Gov)
  /-- `VXOR` (R144): Lane-wise bitwise XOR. -/
  | vxor (d a b : BitVec 5) (g : Gov)
  /-- `VSHL` (R144): Lane-wise shift left by b<4:0>. -/
  | vshl (d a b : BitVec 5) (g : Gov)
  /-- `VSHR` (R144): Lane-wise shift right with zero fill. -/
  | vshr (d a b : BitVec 5) (g : Gov)
  /-- `VSAR` (R144): Lane-wise shift right with sign fill. -/
  | vsar (d a b : BitVec 5) (g : Gov)
  /-- `VABS_S32` (R144): Lane-wise signed absolute value. -/
  | vabsS32 (d b : BitVec 5) (g : Gov)
  /-- `VMOV` (R144): Copies B's active lanes to D. -/
  | vmov (d b : BitVec 5) (g : Gov)
  /-- `VSPLAT` (R144): Writes scalar B<31:0> into every active lane. -/
  | vsplat (d b : BitVec 5) (g : Gov)
  /-- `VID` (R144): Writes each active lane's index. -/
  | vid (d : BitVec 5) (g : Gov)
  /-- `VADD_S32_SCALAR_B` (R144): vadd.s32 with scalar B broadcast. -/
  | vaddS32ScalarB (d a b : BitVec 5) (g : Gov)
  /-- `VSUB_S32_SCALAR_B` (R144): vsub.s32 with scalar B broadcast. -/
  | vsubS32ScalarB (d a b : BitVec 5) (g : Gov)
  /-- `VMUL_S32_SCALAR_B` (R144): vmul.s32 with scalar B broadcast. -/
  | vmulS32ScalarB (d a b : BitVec 5) (g : Gov)
  /-- `VMULH_S32_SCALAR_B` (R144): vmulh.s32 with scalar B broadcast. -/
  | vmulhS32ScalarB (d a b : BitVec 5) (g : Gov)
  /-- `VMIN_S32_SCALAR_B` (R144): vmin.s32 with scalar B broadcast. -/
  | vminS32ScalarB (d a b : BitVec 5) (g : Gov)
  /-- `VMAX_S32_SCALAR_B` (R144): vmax.s32 with scalar B broadcast. -/
  | vmaxS32ScalarB (d a b : BitVec 5) (g : Gov)
  /-- `VMIN_N32_SCALAR_B` (R144): vmin.n32 with scalar B broadcast. -/
  | vminN32ScalarB (d a b : BitVec 5) (g : Gov)
  /-- `VMAX_N32_SCALAR_B` (R144): vmax.n32 with scalar B broadcast. -/
  | vmaxN32ScalarB (d a b : BitVec 5) (g : Gov)
  /-- `VAND_SCALAR_B` (R144): vand with scalar B broadcast. -/
  | vandScalarB (d a b : BitVec 5) (g : Gov)
  /-- `VOR_SCALAR_B` (R144): vor with scalar B broadcast. -/
  | vorScalarB (d a b : BitVec 5) (g : Gov)
  /-- `VXOR_SCALAR_B` (R144): vxor with scalar B broadcast. -/
  | vxorScalarB (d a b : BitVec 5) (g : Gov)
  /-- `VSHL_SCALAR_B` (R144): vshl with scalar B broadcast. -/
  | vshlScalarB (d a b : BitVec 5) (g : Gov)
  /-- `VSHR_SCALAR_B` (R144): vshr with scalar B broadcast. -/
  | vshrScalarB (d a b : BitVec 5) (g : Gov)
  /-- `VSAR_SCALAR_B` (R144): vsar with scalar B broadcast. -/
  | vsarScalarB (d a b : BitVec 5) (g : Gov)
  /-- `VADD_F32` (R146): Lane-wise f32 add, correctly rounded. -/
  | vaddF32 (d a b : BitVec 5) (g : Gov)
  /-- `VSUB_F32` (R146): Lane-wise f32 subtract. -/
  | vsubF32 (d a b : BitVec 5) (g : Gov)
  /-- `VMUL_F32` (R146): Lane-wise f32 multiply. -/
  | vmulF32 (d a b : BitVec 5) (g : Gov)
  /-- `VDIV_F32` (R146): Lane-wise f32 divide. -/
  | vdivF32 (d a b : BitVec 5) (g : Gov)
  /-- `VMIN_F32` (R146): Lane-wise f32 minimum. -/
  | vminF32 (d a b : BitVec 5) (g : Gov)
  /-- `VMAX_F32` (R146): Lane-wise f32 maximum. -/
  | vmaxF32 (d a b : BitVec 5) (g : Gov)
  /-- `VSQRT_F32` (R146): Lane-wise f32 square root. -/
  | vsqrtF32 (d b : BitVec 5) (g : Gov)
  /-- `VABS_F32` (R146): Lane-wise f32 absolute value. -/
  | vabsF32 (d b : BitVec 5) (g : Gov)
  /-- `VNEG_F32` (R146): Lane-wise f32 negation. -/
  | vnegF32 (d b : BitVec 5) (g : Gov)
  /-- `VRCP_F32` (R147): Lane-wise reciprocal approximation. -/
  | vrcpF32 (d b : BitVec 5) (g : Gov)
  /-- `VRSQRT_F32` (R147): Lane-wise reciprocal square root approximation. -/
  | vrsqrtF32 (d b : BitVec 5) (g : Gov)
  /-- `VEXP2_F32` (R147): Lane-wise base-2 exponential approximation. -/
  | vexp2F32 (d b : BitVec 5) (g : Gov)
  /-- `VLOG2_F32` (R147): Lane-wise base-2 logarithm approximation. -/
  | vlog2F32 (d b : BitVec 5) (g : Gov)
  /-- `VTANH_F32` (R147): Lane-wise hyperbolic tangent approximation. -/
  | vtanhF32 (d b : BitVec 5) (g : Gov)
  /-- `VRINT_F32` (R146): Rounds each lane to an integral value by the mode. -/
  | vrintF32 (d b : BitVec 5) (g : Gov)
  /-- `VADD_F32_SCALAR_B` (R146): vadd.f32 with scalar B broadcast. -/
  | vaddF32ScalarB (d a b : BitVec 5) (g : Gov)
  /-- `VSUB_F32_SCALAR_B` (R146): vsub.f32 with scalar B broadcast. -/
  | vsubF32ScalarB (d a b : BitVec 5) (g : Gov)
  /-- `VMUL_F32_SCALAR_B` (R146): vmul.f32 with scalar B broadcast. -/
  | vmulF32ScalarB (d a b : BitVec 5) (g : Gov)
  /-- `VDIV_F32_SCALAR_B` (R146): vdiv.f32 with scalar B broadcast. -/
  | vdivF32ScalarB (d a b : BitVec 5) (g : Gov)
  /-- `VMIN_F32_SCALAR_B` (R146): vmin.f32 with scalar B broadcast. -/
  | vminF32ScalarB (d a b : BitVec 5) (g : Gov)
  /-- `VMAX_F32_SCALAR_B` (R146): vmax.f32 with scalar B broadcast. -/
  | vmaxF32ScalarB (d a b : BitVec 5) (g : Gov)
  /-- `VFMA_F32` (R148): Per lane a × b + c, rounded once. -/
  | vfmaF32 (d a b : BitVec 5) (g : Gov)
  /-- `VFMS_F32` (R148): Per lane a × b − c, rounded once. -/
  | vfmsF32 (d a b : BitVec 5) (g : Gov)
  /-- `VFNMA_F32` (R148): Per lane −(a × b) − c, rounded once. -/
  | vfnmaF32 (d a b : BitVec 5) (g : Gov)
  /-- `VFNMS_F32` (R148): Per lane −(a × b) + c, rounded once. -/
  | vfnmsF32 (d a b : BitVec 5) (g : Gov)
  /-- `VDOT_BF16` (R148): Per lane adds two bf16 products to the f32 accumulator, rounded once. -/
  | vdotBf16 (d a b : BitVec 5) (g : Gov)
  /-- `VDOT_S8` (R149): Per lane adds four s8 products to the s32 accumulator. -/
  | vdotS8 (d a b : BitVec 5) (g : Gov)
  /-- `VFMA_F32_SCALAR_B` (R148): vfma.f32 with scalar B broadcast. -/
  | vfmaF32ScalarB (d a b : BitVec 5) (g : Gov)
  /-- `VFMS_F32_SCALAR_B` (R148): vfms.f32 with scalar B broadcast. -/
  | vfmsF32ScalarB (d a b : BitVec 5) (g : Gov)
  /-- `VFNMA_F32_SCALAR_B` (R148): vfnma.f32 with scalar B broadcast. -/
  | vfnmaF32ScalarB (d a b : BitVec 5) (g : Gov)
  /-- `VFNMS_F32_SCALAR_B` (R148): vfnms.f32 with scalar B broadcast. -/
  | vfnmsF32ScalarB (d a b : BitVec 5) (g : Gov)
  /-- `VCVT_F32_S32` (R150): Converts s32 lanes to f32. -/
  | vcvtF32S32 (d a : BitVec 5) (g : Gov)
  /-- `VCVT_S32_F32` (R150): Converts f32 lanes to saturated s32. -/
  | vcvtS32F32 (d a : BitVec 5) (g : Gov)
  /-- `VCVT_BF16_F32` (R151): Narrows f32 to bf16, shifting the result into D. -/
  | vcvtBf16F32 (d a : BitVec 5) (g : Gov)
  /-- `VCVT_F32_BF16` (R150): Widens the selected bf16 half of each lane to f32. -/
  | vcvtF32Bf16 (d a b : BitVec 5) (g : Gov)
  /-- `VCVT_F16_F32` (R151): Narrows f32 to f16, shifting the result into D. -/
  | vcvtF16F32 (d a : BitVec 5) (g : Gov)
  /-- `VCVT_F32_F16` (R150): Widens the selected f16 half of each lane to f32. -/
  | vcvtF32F16 (d a b : BitVec 5) (g : Gov)
  /-- `VCVT_E4M3_F32` (R151): Narrows f32 to e4m3, shifting the result into D. -/
  | vcvtE4m3F32 (d a : BitVec 5) (g : Gov)
  /-- `VCVT_F32_E4M3` (R150): Widens the selected e4m3 byte of each lane to f32. -/
  | vcvtF32E4m3 (d a b : BitVec 5) (g : Gov)
  /-- `VCVT_E5M2_F32` (R151): Narrows f32 to e5m2, shifting the result into D. -/
  | vcvtE5m2F32 (d a : BitVec 5) (g : Gov)
  /-- `VCVT_F32_E5M2` (R150): Widens the selected e5m2 byte of each lane to f32. -/
  | vcvtF32E5m2 (d a b : BitVec 5) (g : Gov)
  /-- `VQNT_BX4` (R152): Quantises blocks of 32 lanes to BX4 by the block scale rule. -/
  | vqntBx4 (d a : BitVec 5) (g : Gov)
  /-- `VDQNT_BX4` (R153): Dequantises BX4 blocks to f32 lanes. -/
  | vdqntBx4 (d a : BitVec 5) (g : Gov)
  /-- `VQNT_BX8I` (R152): Quantises blocks of 32 lanes to BX8I. -/
  | vqntBx8i (d a : BitVec 5) (g : Gov)
  /-- `VDQNT_BX8I` (R153): Dequantises BX8I blocks to f32 lanes. -/
  | vdqntBx8i (d a : BitVec 5) (g : Gov)
  /-- `VREDSUM_F32` (R154): Sums active f32 lanes by the fixed pairwise tree into scalar D. -/
  | vredsumF32 (d a : BitVec 5) (g : Gov)
  /-- `VREDMAX_F32` (R154): Maximum of active f32 lanes into scalar D. -/
  | vredmaxF32 (d a : BitVec 5) (g : Gov)
  /-- `VREDMIN_F32` (R154): Minimum of active f32 lanes into scalar D. -/
  | vredminF32 (d a : BitVec 5) (g : Gov)
  /-- `VREDSUM_S32` (R154): Wrapping sum of active s32 lanes into scalar D. -/
  | vredsumS32 (d a : BitVec 5) (g : Gov)
  /-- `VREDMAX_S32` (R154): Signed maximum of active lanes into scalar D. -/
  | vredmaxS32 (d a : BitVec 5) (g : Gov)
  /-- `VREDMIN_S32` (R154): Signed minimum of active lanes into scalar D. -/
  | vredminS32 (d a : BitVec 5) (g : Gov)
  /-- `VREDAND` (R154): Bitwise AND of active lanes into scalar D. -/
  | vredand (d a : BitVec 5) (g : Gov)
  /-- `VREDOR` (R154): Bitwise OR of active lanes into scalar D. -/
  | vredor (d a : BitVec 5) (g : Gov)
  /-- `VPERM` (R155): Permutes A's lanes by B's indices. -/
  | vperm (d a b : BitVec 5) (g : Gov)
  /-- `VSLUP` (R155): Slides lanes up by scalar n. -/
  | vslup (d a b : BitVec 5) (g : Gov)
  /-- `VSLDN` (R155): Slides lanes down by scalar n. -/
  | vsldn (d a b : BitVec 5) (g : Gov)
  /-- `VBCAST` (R155): Broadcasts lane n of A. -/
  | vbcast (d a b : BitVec 5) (g : Gov)
  /-- `VCOMP` (R156): Compresses A's active lanes to the low lanes of D. -/
  | vcomp (d a : BitVec 5) (g : Gov)
  /-- `VEXPD` (R156): Expands A's low lanes into D's active lanes. -/
  | vexpd (d a : BitVec 5) (g : Gov)
  /-- `VZIP` (R155): Interleaves lanes of A and B. -/
  | vzip (d a b : BitVec 5) (g : Gov)
  /-- `VUNZIP` (R155): Takes the even lanes of A followed by B. -/
  | vunzip (d a b : BitVec 5) (g : Gov)
  /-- `VCMP_EQ_S32` (R157): Writes predicate bits with lane equality. -/
  | vcmpEqS32 (d a b : BitVec 5) (g : Gov)
  /-- `VCMP_NE_S32` (R157): Writes predicate bits with lane inequality. -/
  | vcmpNeS32 (d a b : BitVec 5) (g : Gov)
  /-- `VCMP_LT_S32` (R157): Writes predicate bits with signed a < b. -/
  | vcmpLtS32 (d a b : BitVec 5) (g : Gov)
  /-- `VCMP_LE_S32` (R157): Writes predicate bits with signed a ≤ b. -/
  | vcmpLeS32 (d a b : BitVec 5) (g : Gov)
  /-- `VCMP_LT_N32` (R157): Writes predicate bits with unsigned a < b. -/
  | vcmpLtN32 (d a b : BitVec 5) (g : Gov)
  /-- `VCMP_LE_N32` (R157): Writes predicate bits with unsigned a ≤ b. -/
  | vcmpLeN32 (d a b : BitVec 5) (g : Gov)
  /-- `VCMP_EQ_F32` (R157): Writes predicate bits with f32 equality. -/
  | vcmpEqF32 (d a b : BitVec 5) (g : Gov)
  /-- `VCMP_LT_F32` (R157): Writes predicate bits with f32 a < b. -/
  | vcmpLtF32 (d a b : BitVec 5) (g : Gov)
  /-- `VCMP_LE_F32` (R157): Writes predicate bits with f32 a ≤ b. -/
  | vcmpLeF32 (d a b : BitVec 5) (g : Gov)
  /-- `VCMP_UN_F32` (R157): Writes predicate bits with f32 unordered. -/
  | vcmpUnF32 (d a b : BitVec 5) (g : Gov)
  /-- `PAND` (R158): Bitwise AND of predicates. -/
  | pand (d a b : BitVec 5) (g : Gov)
  /-- `POR` (R158): Bitwise OR of predicates. -/
  | por (d a b : BitVec 5) (g : Gov)
  /-- `PXOR` (R158): Bitwise XOR of predicates. -/
  | pxor (d a b : BitVec 5) (g : Gov)
  /-- `PNOT` (R158): Bitwise NOT of a predicate. -/
  | pnot (d b : BitVec 5) (g : Gov)
  /-- `PCNT` (R158): Counts active lanes whose predicate bit is set into scalar D. -/
  | pcnt (d b : BitVec 5) (g : Gov)
  /-- `PFIRST` (R158): Writes the lowest active set lane, or all ones, into scalar D. -/
  | pfirst (d b : BitVec 5) (g : Gov)
  /-- `VCMP_EQ_S32_SCALAR_B` (R157): vcmp.eq.s32 with scalar B. -/
  | vcmpEqS32ScalarB (d a b : BitVec 5) (g : Gov)
  /-- `VCMP_NE_S32_SCALAR_B` (R157): vcmp.ne.s32 with scalar B. -/
  | vcmpNeS32ScalarB (d a b : BitVec 5) (g : Gov)
  /-- `VCMP_LT_S32_SCALAR_B` (R157): vcmp.lt.s32 with scalar B. -/
  | vcmpLtS32ScalarB (d a b : BitVec 5) (g : Gov)
  /-- `VCMP_LE_S32_SCALAR_B` (R157): vcmp.le.s32 with scalar B. -/
  | vcmpLeS32ScalarB (d a b : BitVec 5) (g : Gov)
  /-- `VCMP_LT_N32_SCALAR_B` (R157): vcmp.lt.n32 with scalar B. -/
  | vcmpLtN32ScalarB (d a b : BitVec 5) (g : Gov)
  /-- `VCMP_LE_N32_SCALAR_B` (R157): vcmp.le.n32 with scalar B. -/
  | vcmpLeN32ScalarB (d a b : BitVec 5) (g : Gov)
  /-- `VCMP_EQ_F32_SCALAR_B` (R157): vcmp.eq.f32 with scalar B. -/
  | vcmpEqF32ScalarB (d a b : BitVec 5) (g : Gov)
  /-- `VCMP_LT_F32_SCALAR_B` (R157): vcmp.lt.f32 with scalar B. -/
  | vcmpLtF32ScalarB (d a b : BitVec 5) (g : Gov)
  /-- `VCMP_LE_F32_SCALAR_B` (R157): vcmp.le.f32 with scalar B. -/
  | vcmpLeF32ScalarB (d a b : BitVec 5) (g : Gov)
  /-- `VCMP_UN_F32_SCALAR_B` (R157): vcmp.un.f32 with scalar B. -/
  | vcmpUnF32ScalarB (d a b : BitVec 5) (g : Gov)
  /-- `VLD_B32` (R159): Loads 4 bytes per active lane from A + 4i. -/
  | vldB32 (d a : BitVec 5) (g : Gov)
  /-- `VST_B32` (R159): Stores each active lane to A + 4i. -/
  | vstB32 (d a : BitVec 5) (g : Gov)
  /-- `VLDS_B32` (R159): Loads 4 bytes per active lane with signed stride B. -/
  | vldsB32 (d a b : BitVec 5) (g : Gov)
  /-- `VSTS_B32` (R159): Stores each active lane with signed stride B. -/
  | vstsB32 (d a b : BitVec 5) (g : Gov)
  /-- `VLD_S16` (R159): Loads 2 bytes per active lane, sign-extended. -/
  | vldS16 (d a : BitVec 5) (g : Gov)
  /-- `VLD_S8` (R159): Loads 1 byte per active lane, sign-extended. -/
  | vldS8 (d a : BitVec 5) (g : Gov)
  /-- `VGATHER_B32` (R159): Loads each active lane from A plus its byte offset in B. -/
  | vgatherB32 (d a b : BitVec 5) (g : Gov)
  /-- `VSCATTER_B32` (R159): Stores each active lane to A plus its byte offset in B. -/
  | vscatterB32 (d a b : BitVec 5) (g : Gov)
  /-- `VSETL` (R141): Sets VL to min(n, %lanes) and writes it to D, or writes 0 when n is 0. -/
  | vsetl (d a : BitVec 5)
  /-- `LSLD` (R143): Loads one word per active lane from its lane slice at offset A. -/
  | lsld (d a : BitVec 5) (g : Gov)
  /-- `LSST` (R143): Stores one word per active lane to its lane slice at offset A. -/
  | lsst (d a : BitVec 5) (g : Gov)
  /-- `LSLDX` (R143): Loads one word per active lane from its slice at the lane's offset in B. -/
  | lsldx (d b : BitVec 5) (g : Gov)
  /-- `LSSTX` (R143): Stores one word per active lane to its slice at the lane's offset in B. -/
  | lsstx (d b : BitVec 5) (g : Gov)
  /-- `VADD_F32_COMPACT` (R56): Compact form of vadd.f32 d ← d + b. -/
  | vaddF32Compact (d b : BitVec 5) (p1 : Bool)
  /-- `VSUB_F32_COMPACT` (R56): Compact form of vsub.f32. -/
  | vsubF32Compact (d b : BitVec 5) (p1 : Bool)
  /-- `VMUL_F32_COMPACT` (R56): Compact form of vmul.f32. -/
  | vmulF32Compact (d b : BitVec 5) (p1 : Bool)
  /-- `VMAX_F32_COMPACT` (R56): Compact form of vmax.f32. -/
  | vmaxF32Compact (d b : BitVec 5) (p1 : Bool)
  /-- `VMIN_F32_COMPACT` (R56): Compact form of vmin.f32. -/
  | vminF32Compact (d b : BitVec 5) (p1 : Bool)
  /-- `VADD_S32_COMPACT` (R56): Compact form of vadd.s32. -/
  | vaddS32Compact (d b : BitVec 5) (p1 : Bool)
  /-- `VSUB_S32_COMPACT` (R56): Compact form of vsub.s32. -/
  | vsubS32Compact (d b : BitVec 5) (p1 : Bool)
  /-- `VMUL_S32_COMPACT` (R56): Compact form of vmul.s32. -/
  | vmulS32Compact (d b : BitVec 5) (p1 : Bool)
  /-- `VAND_COMPACT` (R56): Compact form of vand. -/
  | vandCompact (d b : BitVec 5) (p1 : Bool)
  /-- `VOR_COMPACT` (R56): Compact form of vor. -/
  | vorCompact (d b : BitVec 5) (p1 : Bool)
  /-- `VXOR_COMPACT` (R56): Compact form of vxor. -/
  | vxorCompact (d b : BitVec 5) (p1 : Bool)
  /-- `VSHL_COMPACT` (R56): Compact form of vshl. -/
  | vshlCompact (d b : BitVec 5) (p1 : Bool)
  /-- `VSHR_COMPACT` (R56): Compact form of vshr. -/
  | vshrCompact (d b : BitVec 5) (p1 : Bool)
  /-- `VSAR_COMPACT` (R56): Compact form of vsar. -/
  | vsarCompact (d b : BitVec 5) (p1 : Bool)
  /-- `VMOV_COMPACT` (R56): Compact form of vmov d ← b. -/
  | vmovCompact (d b : BitVec 5) (p1 : Bool)
  /-- `VNEG_F32_COMPACT` (R56): Compact form of vneg.f32 d ← −b. -/
  | vnegF32Compact (d b : BitVec 5) (p1 : Bool)
  /-- `MSTREAM` (R178): Enters a command streaming one activation pass into the accumulator. -/
  | mstream (t a b : BitVec 5) (ord : Ord)
  /-- `MSTREAMZ` (R178): Enters a command zeroing the accumulator and streaming one pass. -/
  | mstreamz (t a b : BitVec 5) (ord : Ord)
  /-- `MDRAIN` (R180): Enters a command draining accumulator rows into handler picks. -/
  | mdrain (t a b : BitVec 5) (ord : Ord)
  /-- `MWAIT` (R183): Waits until every command queued at issue, and its drains, have completed. -/
  | mwait
  /-- `MFMT` (R172): Enters a command setting the activation format and plane count. -/
  | mfmt (a : BitVec 5)
  /-- `MLATCH` (R173): Reads a weight image into a shadow tile and enters a command replacing the latched tile. -/
  | mlatch (a b : BitVec 5)
  /-- `MGEOM` (R179): Assigns an output tile to the gang member at issue, writing %row0, %col0 and %emask. -/
  | mgeom (d a b : BitVec 5)
  /-- `MSPAR` (R174): Enters a command loading the sparsity metadata store. -/
  | mspar (a : BitVec 5)
  /-- `MZERO` (R176): Enters a command zeroing the accumulator and tile flags. -/
  | mzero
  /-- `MSCALE` (R175): Enters a command setting MSHIFT. -/
  | mscale (a : BitVec 5)
  /-- `MROW` (R184): Waits for older array commands, then reads a half accumulator row into D. -/
  | mrow (d a : BitVec 5)
  /-- `MROWST` (R184): Captures D and enters a command writing a half accumulator row. -/
  | mrowst (d a : BitVec 5)
  /-- `BADDQ_BX4` (R188): Adds BX4 blocks in vector registers and requantises them. -/
  | baddqBx4 (d a b : BitVec 5)
  /-- `BADDQ_BX8I` (R188): Adds BX8I blocks in vector registers and requantises them. -/
  | baddqBx8i (d a b : BitVec 5)
  /-- `MFMT_COMMAND` (R168): At its queue turn the format command sets AFMT and P. -/
  | mfmtCommand (core : Nat)
  /-- `MLATCH_COMMAND` (R173): At its queue turn the shadow tile replaces the latched tile, WFMT and SPARSE. -/
  | mlatchCommand (core : Nat)
  /-- `MSPAR_COMMAND` (R174): At its queue turn loads 4,096 metadata bytes. -/
  | msparCommand (core : Nat)
  /-- `MSCALE_COMMAND` (R175): At its queue turn sets MSHIFT. -/
  | mscaleCommand (core : Nat)
  /-- `MZERO_COMMAND` (R176): At its queue turn zeroes the accumulator and clears TSPX and TINF. -/
  | mzeroCommand (core : Nat)
  /-- `MROWST_COMMAND` (R184): At its queue turn writes captured lanes into one half accumulator row. -/
  | mrowstCommand (core : Nat)
  /-- `MSTREAM_COMMAND` (R178): At its queue turn streams the pass into the accumulator and writes the completion word. -/
  | mstreamCommand (core : Nat)
  /-- `MSTREAMZ_COMMAND` (R178): At its queue turn zeroes then streams the pass. -/
  | mstreamzCommand (core : Nat)
  /-- `MDRAIN_COMMAND` (R180): At its queue turn copies rows into the drain buffer and optionally clears the tile. -/
  | mdrainCommand (core : Nat)
  /-- `ROW_PICK_BIRTH` (R181): A drained row is born as a row pick in slot 7 when it is free. -/
  | rowPickBirth (core : Nat)
  /-- `FOLLOW_ON_ENTRY` (R186): The copy engine enters a follow-on matrix command after the copy lands, when the queue has room. -/
  | followOnEntry (core op : Nat)
  /-- `COPY` (R216): Starts a strided copy from a command record. -/
  | copy (t a : BitVec 5) (ord : Ord)
  /-- `COPYL` (R217): Starts a layout-record copy gathering one convolution tap. -/
  | copyl (t a : BitVec 5) (ord : Ord)
  /-- `HALO` (R218): Starts sending border strips to mesh neighbours' local stores. -/
  | halo (t a : BitVec 5) (ord : Ord)
  /-- `WEFT` (R220): Starts a weft read whose bursts each become a pick. -/
  | weft (t a : BitVec 5) (ord : Ord)
  /-- `SEAL` (R222): Closes the open batch and writes its number to D. -/
  | seal (d : BitVec 5)
  /-- `BWAIT` (R223): Waits until at most N sealed batches are unfinished. -/
  | bwait (i : BitVec 12)
  /-- `CSEQ` (R224): Writes the last chain sequence number of an engine to D. -/
  | cseq (d : BitVec 5) (e : BitVec 2)
  /-- `CHAIN` (R226): Releases at .core and appends a new tail to an engine's chain. -/
  | chain (a b : BitVec 5)
  /-- `LAUNCH` (R227): Checks and takes resources for a gang launch on the issuer's die. -/
  | launch (t a b : BitVec 5)
  /-- `SPAWN` (R228): Creates a pick running a handler, in a free slot or via the run queue. -/
  | spawn (t a : BitVec 5)
  /-- `SUSPEND` (R229): Releases, writes the thread back and waits for the event of the wait key. -/
  | suspend (a : BitVec 5)
  /-- `YIELD` (R229): Writes the thread back runnable at once. -/
  | yield
  /-- `EXIT` (R229): Stops the access stream, waits for engine work, releases and ends the thread. -/
  | exit
  /-- `GRP_FORM` (R230): Forms a vector group once every member of the rectangle has issued it. -/
  | grpForm (d a : BitVec 5)
  /-- `GRP_JOIN` (R232): Reattaches detached followers at a common address. -/
  | grpJoin
  /-- `GRP_LEAVE` (R232): Detaches a follower permanently or dissolves the group at the leader. -/
  | grpLeave
  /-- `FORWARDED_WORD` (R231): A follower executes an instruction word forwarded by its leader. -/
  | forwardedWord (tid : Nat)
  /-- `SEQ_OPEN` (R233): Asks the security core for a fresh key slot and writes its reference. -/
  | seqOpen (d : BitVec 5)
  /-- `SEQ_CLOSE` (R235): Retires a sequence key everywhere and invalidates its cached lines. -/
  | seqClose (a : BitVec 5)
  /-- `SEQ_BIND` (R234): Binds a live sequence key reference to %seqkey. -/
  | seqBind (a : BitVec 5)
  /-- `TRAP` (R236): Raises a trap with the immediate cause. -/
  | trap (i : BitVec 8)
  /-- `RFE` (R236): Returns from supervisor mode to %epc and the saved mode. -/
  | rfe
  /-- `WFM` (R236): Waits for a message, a pending event, or 65,536 cycles. -/
  | wfm
  /-- `MFSP` (R236): Reads a privileged or heddle status register. -/
  | mfsp (d : BitVec 5) (i : BitVec 12)
  /-- `MTSP` (R236): Writes a privileged status register. -/
  | mtsp (a : BitVec 5) (i : BitVec 12)
  /-- `DIR_LD` (R238): Reads a block's directory entry. -/
  | dirLd (d a : BitVec 5)
  /-- `DIR_ST` (R238): Writes a block's directory entry. -/
  | dirSt (a b : BitVec 5)
  /-- `TAG_GET` (R238): Reads a block's metadata byte. -/
  | tagGet (d a : BitVec 5)
  /-- `TAG_SET` (R238): Sets a block's access state and optionally its colour. -/
  | tagSet (a b : BitVec 5)
  /-- `BXFER` (R239): Writes the data buffer to home memory or loads the block into it. -/
  | bxfer (t a b : BitVec 5)
  /-- `REPLY` (R239): Sends an ACK or DATA reply on the reply lane to a node. -/
  | reply (a b : BitVec 5)
  /-- `NACK` (R239): Sends NACK for the block to the dispatching sender. -/
  | nack (a : BitVec 5)
  /-- `FWD` (R239): Sends one request of a permitted TYPE on the reserved slot and records the forward. -/
  | fwd (a b : BitVec 5)
  /-- `HEND` (R240): Ends the handler and frees its thread and reply slot. -/
  | hend
  /-- `HANDLER_STEP_LIMIT` (R241): A handler that would issue a 513th instruction aborts, poisoning the block. -/
  | handlerStepLimit (tid : Nat)
  /-- `HANDLER_WATCHDOG` (R241): A handler running 16,384 cycles aborts with cause 0x30. -/
  | handlerWatchdog (tid : Nat)
  /-- `RDMISS` (R237): A read miss reaching a home heddle is dispatched through the draft's table. -/
  | rdmiss (msg : Nat)
  /-- `WRMISS` (R237): A write miss reaching a home heddle is dispatched or refused while busy. -/
  | wrmiss (msg : Nat)
  /-- `UPGRADE` (R237): An upgrade request reaching a home heddle is dispatched. -/
  | upgrade (msg : Nat)
  /-- `WB` (R395): A write-back reaches the home; dispatched, refused, or taken as a recorded forward's answer. -/
  | wb (msg : Nat)
  /-- `RECALLACK` (R394): A reply-lane answer reaches the home heddle and is dispatched whatever the state. -/
  | recallack (msg : Nat)
  /-- `RECALL` (R393): A recall reaches a shuttle's data cache, which invalidates and answers. -/
  | recall (msg : Nat)
  /-- `FWD_REQUEST` (R393): A forward reaches a shuttle, which downgrades and answers with its data. -/
  | fwdRequest (msg : Nat)
  /-- `PUSH` (R393): A pushed block reaches a shuttle, which may install it read-only. -/
  | push (msg : Nat)
  /-- `RED` (R393): A partial request reaches a shuttle, which returns and drops its partial. -/
  | red (msg : Nat)
  /-- `DATA_REPLY` (R364): A DATA reply reaches the requester, which installs the block and performs the access. -/
  | dataReply (msg : Nat)
  /-- `ACK_REPLY` (R364): An ACK reply reaches the requester, keeping its copy or refusing the access. -/
  | ackReply (msg : Nat)
  /-- `NACK_REPLY` (R364): A NACK reaches the requester, which schedules a retry. -/
  | nackReply (msg : Nat)
  /-- `POISON_REPLY` (R364): A poison reply makes the requester's access take 0x31. -/
  | poisonReply (msg : Nat)
  /-- `NACK_RETRY` (R362): A refused coherence request is retried after its backoff, translated afresh. -/
  | nackRetry (req : Nat)
  /-- `CAUSAL_UPDATE` (R286): A deliverable update from another die is applied at the die point. -/
  | causalUpdate (src dst : BitVec 2)
  /-- `CAUSAL_BEAT` (R286): A beat from another die advances that die's count. -/
  | causalBeat (src dst : BitVec 2)
  /-- `WRITE_REQUEST_DELIVERY` (R286): A deliverable write, atomic or contribution is applied at its home, counting an event. -/
  | writeRequestDelivery (src dst : BitVec 2)
  /-- `READ_REPLY_DELIVERY` (R286): A deliverable read reply is given to its requester. -/
  | readReplyDelivery (src dst : BitVec 2)
  /-- `ANNOUNCE_TIMER` (R285): Announces a changed event count on every bridge within 32 cycles. -/
  | announceTimer (die : BitVec 2)
  /-- `MEMORY_RESPONSE` (R196): Data or acknowledgement for an outstanding access fills its pending register or reserved entry. -/
  | memoryResponse (req : Nat) (ans : MemAnswer)
  /-- `PEER_STORE_REFUSAL` (R196): A peer's refusal of a posted store becomes a pending deferred store fault. -/
  | peerStoreRefusal (req : Nat) (cause : BitVec 8)
  /-- `PEER_ACCESS_ARRIVAL` (R194): An access from a peer device is checked and performed at the owning port heddle. -/
  | peerAccessArrival (acc : PeerAccess)
  /-- `ENGINE_UNIT_ISSUE` (R307): An engine checks and issues its next unit, or posts a fault message. -/
  | engineUnitIssue (core op : Nat)
  /-- `ENGINE_UNIT_COMPLETE` (R307): An issued unit lands, or fails a late check and faults. -/
  | engineUnitComplete (core op : Nat)
  /-- `ENGINE_OPERATION_COMPLETE` (R214): An operation's release, token write and batch count take place. -/
  | engineOperationComplete (core op : Nat)
  /-- `WEFT_BURST_BIRTH` (R220): A returned burst is born as a pick when a slot and bobbin are free. -/
  | weftBurstBirth (core : Nat)
  /-- `STRIP_ARRIVAL` (R219): A halo strip lands and the neighbour's mailbox counter increments. -/
  | stripArrival (core : Nat) (dir : BitVec 2)
  /-- `CHAIN_ENTRY_START` (R226): An engine starts the chain entry at its cursor. -/
  | chainEntryStart (core : Nat) (eng : BitVec 2)
  /-- `CHAIN_NEXT_POLL` (R226): An engine rereads a zero NEXT every microsecond. -/
  | chainNextPoll (core : Nat) (eng : BitVec 2)
  /-- `CHAIN_ENTRY_COMPLETE` (R226): A chain entry completes and its sequence number is written in order. -/
  | chainEntryComplete (core : Nat) (eng : BitVec 2)
  /-- `GANG_RELEASE` (R258): Once the rectangle is free, the launch installs lines, writes state and releases the gang. -/
  | gangRelease (launch : Nat)
  /-- `BOBBIN_CLAIM` (R340): An idle shuttle or slot claims the best runnable bobbin of its domain. -/
  | bobbinClaim (core slot : Nat)
  /-- `RUN_QUEUE_RETRY` (R340): An append to a full run-queue list is retried every microsecond. -/
  | runQueueRetry (tid : Nat)
  /-- `PENDING_BIRTH` (R413): A birth that waited for a bobbin takes place when one is freed. -/
  | pendingBirth (birth : Nat)
  /-- `MIGRATION_RECORD_START` (R268): The home die starts a migrated pick in a free slot, which reissues its access. -/
  | migrationRecordStart (core slot : Nat)
  /-- `MESH_INTERRUPT` (R262): Pre-empts a shuttle, spilling endpoints and saving its full thread. -/
  | meshInterrupt (core : Nat)
  /-- `PICK_PREEMPT_DEADLINE` (R262): Picks still running 2,048 cycles after pre-emption are saved as by yield. -/
  | pickPreemptDeadline (core : Nat)
  /-- `EVENT_ENTRY` (R376): A user thread enters supervisor mode at %tvec when an event message waits. -/
  | eventEntry (core : Nat)
  /-- `RESUME` (R377): A resume packet restarts a stopped thread or a faulted engine operation. -/
  | resumePacket (msg : Nat)
  /-- `ABORT` (R377): A resume packet aborts a faulted engine operation. -/
  | abortPacket (msg : Nat)
  /-- `DISCARD` (R377): A resume packet ends a stopped thread by trap. -/
  | discardPacket (msg : Nat)
  /-- `FAULT_RING_RETRY` (R375): A poster held by a full fault ring retries every microsecond. -/
  | faultRingRetry (die : BitVec 2) (k : Nat)
  /-- `MESSAGE_ARRIVAL` (R263): A channel message is deposited, spilled or dropped by its endpoint record. -/
  | messageArrival (msg : Nat)
  /-- `CHANNEL_PICK_BIRTH` (R213): A message at a bound endpoint is born as a pick. -/
  | channelPickBirth (core : Nat) (port : BitVec 4)
  /-- `SEND_RETRY` (R211): A message refused by a full endpoint or spill ring is retried every microsecond. -/
  | sendRetry (msg : Nat)
  /-- `BLOCK_QUEUE_HANDOUT` (R189): The block queue hands a reduction block to an enrolled selvedge core. -/
  | blockQueueHandout (die : BitVec 2) (flow : BitVec 16)
  /-- `WAKE_TABLE_TIMEOUT` (R257): An address waiter not held by the full wake table becomes runnable after 1 µs. -/
  | wakeTableTimeout (tid : Nat)
  /-- `WFM_TIMEOUT` (R236): A wfm ends after 65,536 cycles. -/
  | wfmTimeout (tid : Nat)
  /-- `KICK` (R326): A write of a QCB address starts fetching or marks the queue pending. -/
  | kick (qcb : BitVec 64)
  /-- `NOP` (R327): Packet skipped. -/
  | nopPacket (slot : BitVec 6)
  /-- `LAUNCH_GANG` (R328): Packet launching a gang on a die. -/
  | launchGangPacket (slot : BitVec 6)
  /-- `LAUNCH_BOBBIN` (R328): Packet making a new pick or full-thread bobbin runnable. -/
  | launchBobbinPacket (slot : BitVec 6)
  /-- `CALL_IB` (R331): Packet pushing an indirect-buffer level. -/
  | callIbPacket (slot : BitVec 6)
  /-- `RETURN` (R331): Packet popping the current indirect-buffer level. -/
  | returnPacket (slot : BitVec 6)
  /-- `WAIT_SEQ` (R328): Packet holding the queue until a word meets a condition. -/
  | waitSeqPacket (slot : BitVec 6)
  /-- `WAIT_SEQ_RECHECK` (R328): The waited word is reread on a wake or every microsecond. -/
  | waitSeqRecheck (slot : BitVec 6)
  /-- `SIGNAL` (R328): Packet waiting for earlier launches, releasing and updating a word. -/
  | signalPacket (slot : BitVec 6)
  /-- `WRITE` (R328): Packet storing data words. -/
  | writePacket (slot : BitVec 6)
  /-- `FENCE` (R328): Packet waiting for launches and performing release or acquire. -/
  | fencePacket (slot : BitVec 6)
  /-- `MAP_KEY` (R328): Packet opening an owner key slot for a domain. -/
  | mapKeyPacket (slot : BitVec 6)
  /-- `BIND_REGION` (R358): Packet rebinding a region-table entry through the treadle pair. -/
  | bindRegionPacket (slot : BitVec 6)
  /-- `PREEMPT` (R328): Packet pre-empting every shuttle running a full thread of a domain subtree. -/
  | preemptPacket (slot : BitVec 6)
  /-- `FETCH_FAULT` (R332): A failed ring or buffer fetch stops the queue at the last whole packet. -/
  | fetchFault (slot : BitVec 6)
  /-- `PARSE_WATCHDOG` (R324): A parse core not committing within 20 µs is reset and reparses the packet. -/
  | parseWatchdog (slot : BitVec 6)
  /-- `SLOT_ARBITRATION` (R338): A parse core takes its ready slot of highest current priority. -/
  | slotArbitration (parse : BitVec 2)
  /-- `CPRIO_AGEING` (R338): A ready slot's priority rises by one each AGE period. -/
  | cprioAgeing (slot : BitVec 6)
  /-- `BIND` (R336): Bind record OP 1 binds a queue to a slot. -/
  | bindSlot (r : BindRecord)
  /-- `UNBIND` (R336): Bind record OP 2 saves and unbinds a queue. -/
  | unbindSlot (r : BindRecord)
  /-- `CLEAR_FAULT` (R336): Bind record OP 3 clears a faulted slot and resumes parsing. -/
  | clearSlotFault (r : BindRecord)
  /-- `WAITING_QUEUE_AGEING` (R339): Firmware re-evaluates waiting queues at each AGE boundary. -/
  | waitingQueueAgeing (qcb : BitVec 56)
  /-- `QUEUE_SLICE_EXPIRY` (R339): Firmware re-evaluates when a bound queue's SLICE expires. -/
  | queueSliceExpiry (slot : BitVec 6)
  /-- `QUEUE_IDLE_TIMEOUT` (R339): A bound queue idle for 10 µs is unbound. -/
  | queueIdleTimeout (slot : BitVec 6)
  /-- `TIME_SLICE_EXPIRY` (R343): A full thread exceeding its domain's SLICE is pre-empted for a waiting bobbin. -/
  | timeSliceExpiry (core : Nat)
  /-- `TINV` (R351): Register write invalidating cached translations over a range. -/
  | tinv (die : BitVec 2) (val : BitVec 64)
  /-- `TINV_COMPLETE` (R351): An invalidation completes and TINVSTAT.DONE advances. -/
  | tinvComplete (die : BitVec 2)
  /-- `MIGCMD` (R356): Submits a migration command, applying the thrash detector. -/
  | migcmd (val : BitVec 64)
  /-- `MIGRATION_DONE` (R355): A page move finishes and its completion code is written. -/
  | migrationDone (job : Nat)
  /-- `THRASH_SCAN` (R356): Each millisecond expired pins are cleared. -/
  | thrashScan
  /-- `REGISTER_WRITE` (R344): Writes a management register that has no behaviour of its own. -/
  | registerWrite (who : RegWriter) (off : BitVec 24) (val : BitVec 64)
  /-- `DRAFT_LOAD` (R360): Verifies a draft image and copies it into every heddle. -/
  | draftLoad (id : BitVec 4) (image : List (BitVec 8))
  /-- `KEY_EXPORT` (R381): A key sent to a peer is installed there as an imported slot. -/
  | keyExport (index : BitVec 12) (peer : BitVec 15)
  /-- `PEER_KEY_RETIREMENT` (R381): A peer retires an imported key and acknowledges. -/
  | peerKeyRetirement (peer : BitVec 15) (index : BitVec 12) (gen : BitVec 8)
  /-- `PEER_RETIREMENT_TIMEOUT` (R381): A peer not acknowledging within 1 ms is removed from the roster. -/
  | peerRetirementTimeout (peer : BitVec 15) (index : BitVec 12)
  /-- `SWEEP_DONE` (R380): After leaves are cleared, a swept slot becomes FREE. -/
  | sweepDone (index : BitVec 12)
  /-- `SCRUB_READ` (R403): The patrol scrubber reads and checks the next block. -/
  | scrubRead (stack : BitVec 4) (found : EccOutcome)
  /-- `LOCKSTEP_MISMATCH` (R323): Treadle cores disagree; both stop and the security core restarts them. -/
  | lockstepMismatch
  /-- `HEARTBEAT_MISS` (R400): A missed 5 µs security-core heartbeat is detected. -/
  | heartbeatMiss
  /-- `PORT_DOWN` (R400): A fabric port with no flit or keepalive for 100 µs goes down. -/
  | portDown (port : BitVec 5)
  /-- `PORT_TRAINING_RETRY` (R392): A port that failed to train retries every 100 ms. -/
  | portTrainingRetry (port : BitVec 5)
  /-- `THROTTLE` (R410): Over-temperature or over-power halves array and vector issue. -/
  | throttle (die : BitVec 2) (temp : Nat) (mw : Nat)
  /-- `THROTTLE_CLEAR` (R410): Throttling ends when temperature and power fall below limits. -/
  | throttleClear (die : BitVec 2) (temp : Nat) (mw : Nat)
  /-- `THERMAL_STOP` (R410): At 115 °C the device logs SEV 4 and stops. -/
  | thermalStop (die : BitVec 2) (temp : Nat)
  /-- `DEVICE_RESET` (R387): Reset starts boot through the signed stages. -/
  | deviceReset (boot : BootInputs)
  /-- `HOST_BAR2_WRITE` (R390): A host write through BAR2 reaches local HBM, sealed under the set key. -/
  | hostBar2Write (off : BitVec 36) (data : List (BitVec 8))
  /-- `HOST_ATOMICOP` (R390): A host AtomicOp request is served by the completer. -/
  | hostAtomicop (op : HostAtomic)
  /-- `GET_VERSION` (R388): SPDM request answered by the security core. -/
  | spdmGetVersion (req : SpdmRequest)
  /-- `GET_CAPABILITIES` (R388): SPDM request answered by the security core. -/
  | spdmGetCapabilities (req : SpdmRequest)
  /-- `NEGOTIATE_ALGORITHMS` (R388): SPDM request answered by the security core. -/
  | spdmNegotiateAlgorithms (req : SpdmRequest)
  /-- `GET_DIGESTS` (R388): SPDM request answered by the security core. -/
  | spdmGetDigests (req : SpdmRequest)
  /-- `GET_CERTIFICATE` (R388): SPDM request answered by the security core. -/
  | spdmGetCertificate (req : SpdmRequest)
  /-- `CHALLENGE` (R388): SPDM request answered by the security core. -/
  | spdmChallenge (req : SpdmRequest)
  /-- `GET_MEASUREMENTS` (R388): SPDM request returning signed measurement blocks. -/
  | spdmGetMeasurements (req : SpdmRequest)
  /-- `KEY_EXCHANGE` (R388): SPDM request opening a secured session. -/
  | spdmKeyExchange (req : SpdmRequest)
  /-- `FINISH` (R388): SPDM request completing a key exchange. -/
  | spdmFinish (req : SpdmRequest)
  /-- `HEARTBEAT` (R388): SPDM session heartbeat. -/
  | spdmHeartbeat (req : SpdmRequest)
  /-- `KEY_UPDATE` (R388): SPDM request updating session keys. -/
  | spdmKeyUpdate (req : SpdmRequest)
  /-- `END_SESSION` (R388): SPDM request ending a session. -/
  | spdmEndSession (req : SpdmRequest)
  /-- `UNSUPPORTED_SPDM_REQUEST` (R388): Any other SPDM request is answered with ERROR UnsupportedRequest. -/
  | spdmUnsupported (req : SpdmRequest)
  /-- `ILLEGAL_INSTRUCTION` (R60): Issuing a word with an unassigned major or code, or the halfword 0x0000, raises trap 0x01. -/
  | illegalInstruction (why : IllegalWhy)
  /-- `UNASSIGNED_PACKET_TYPE` (R333): A packet of TYPE 0x0C to 0xFF faults its queue with FCODE 0x01. -/
  | unassignedPacketType (slot : BitVec 6)
  /-- `ACTIVE_MESSAGE_ARRIVAL` (R193): A loom-memory, creel or home-performed access arrives as an active message and is checked and performed at the owner's remote-service slot or controller. -/
  | activeMessageArrival (core : Nat)
  /-- `FETCH_AHEAD` (R63): The fetch unit by itself requests the next lines on the predicted path, installing them or dropping them on error. -/
  | fetchAhead (core : Nat) (line : BitVec 56)
  /-- `SPURIOUS_WAKE` (R229): A waiting bobbin becomes runnable without its wait being satisfied. -/
  | spuriousWake (tid : Nat)
  /-- `PREEMPT_CLAIM_WINDOW` (R389): A pre-empted shuttle reserved for a waiting bobbin opens to every domain when that bobbin has not claimed it within 1 µs. -/
  | preemptClaimWindow (core : Nat)
  /-- `PORT_TRAINED_UP` (R392): A fabric port finishes training, reports up, authenticates its plane, and updates READY, the topology block and EPOCH. -/
  | portTrainedUp (port : BitVec 5) (plane : PlaneReport)
  /-- `HOST_LINK_DOWN` (R400): The host port link goes down and the fault is reported as job-interrupting. -/
  | hostLinkDown
  /-- `BRIDGE_LOST` (R400): A die bridge is lost beyond sparing, which is device fatal. -/
  | bridgeLost (bridge : BitVec 3)
  /-- `RAIL_OR_PLL_FAULT` (R400): A power rail or PLL goes out of limits and the device stops as fatal. -/
  | railOrPllFault (clock : Bool) (rail : BitVec 8)
  /-- `HBM_HEALTH_POLL` (R400): Every 500 µs the stack health of each HBM stack is polled, and a lost stack is reported. -/
  | hbmHealthPoll (stack : BitVec 4) (lost : Bool)
  /-- `LINK_FLIT_ERROR` (R400): A flit that fails CRC on the mesh, a bridge or a fabric port is retried and counted. -/
  | linkFlitError (link : LinkName)
  /-- `LANE_FAILURE` (R400): A failed lane is replaced by a spare on a bridge, or a fabric port downshifts from 4 lanes to 2. -/
  | laneFailure (link : LinkLane)
  /-- `PEER_SESSION_LOSS` (R381): A device that loses its session with a peer retires every key it imported from that peer. -/
  | peerSessionLoss (peer : BitVec 15)
  /-- `ROSTER_CHANGE` (R385): The driver sets the roster through the security core, and a removal takes effect at every port within 10 µs. -/
  | rosterChange (roster : List (BitVec 15))
  /-- `GRANT_TABLE_CHANGE` (R384): The security core changes a grant-table entry and completes when every interface cache has dropped it. -/
  | grantTableChange (dom : BitVec 20) (index : BitVec 12) (handle : BitVec 64) (send : Bool)
  /-- `SELVEDGE_ENROLMENT` (R189): Firmware enrols or releases selvedge cores for a domain and a reduction flow, setting endpoint ownership. -/
  | selvedgeEnrolment (core : Nat) (dom : Option (BitVec 20)) (flow : Option (BitVec 16))
  deriving DecidableEq, Repr

end Sys2Proof
end

