-- ==== Sys2Proof/Machine/State.lean ====
section
/-! DEFINITION. The state of the device as plain data: threads, cores, dies, heddles, memory, domains, keys, queues and
the management complex (01_state to 21_fleet). State.reset is the device right after reset. -/

namespace Sys2Proof.Machine

/-- A finite map with Nat keys: pairs with strictly rising keys. -/
abbrev AList (α : Type) := List (Nat × α)

/-- All of memory: pairs of a location number and a byte, numbers strictly rising, no byte equal to what an unlisted
location reads as (zero). Ops.lean says which numbers are HBM, host memory, local store, creel and lane slices. -/
abbrev Memory := List Host.Cell

/-- One of the two streams of a full thread, or a pick or heddle thread (R277): `acc` names the access stream. -/
structure Agent where
  tid : Nat
  acc : Bool
  deriving DecidableEq, Repr

/-- An SRAM whose single-bit errors are corrected and counted (R400, Tables 21.7, 21.8): a core's data cache, its local store and lane
slices, its register files and queues, a slice of a die's shared cache, its creel, a heddle's directory-entry cache. -/
inductive Sram where
  | dataCache (core : Nat)
  | localStore (core : Nat)
  | registers (core : Nat)
  | sharedCache (die slice : Nat)
  | creel (die : Nat)
  | directory (heddle : Nat)
  deriving DecidableEq, Repr

/-- What an error of the machine's own circuits does to a step, which no row of the opcode table names: a line of an instruction
cache reads with an error that is corrected or not (R66), another SRAM's error is corrected, or
is found as an agent's next instruction reads it (R400), a demand read of HBM meets an ECC outcome (R382, R404), a heddle thread fails
its parity (R400), an arithmetic unit's residue
disagrees once or for good at an instruction, an array command or a copy (R401), a parse core decodes a packet wrong (R402), an entry
that a cache gives up (R274, R293, R367), an array command or a copy that reads an SRAM's uncorrected error (R400), a management core
whose restart fails, a mesh that is lost, a replay of the host port (R400, R409), a fabric port that fails to train (R392), a reading
of the coolant's inlet (R409). -/
inductive Upset where
  | icache (core : Nat) (pa : Nat) (corrected : Bool)
  | corrected (r : Sram)
  | lost (r : Sram) (a : Agent)
  | hbm (pa : Nat) (found : EccOutcome)
  | parity (tid : Nat)
  | residue (a : Agent) (unit : BitVec 8) (persists : Bool)
  | residueCommand (core op : Nat) (persists : Bool)
  | decode (slot : BitVec 6)
  | evictPartial (core block : Nat)
  | evictShared (die block : Nat)
  | lostCommand (r : Sram) (core op : Nat)
  | restartFails (treadle : Bool)
  | meshLost (die : BitVec 2)
  | hostReplay
  | trainFails (port : BitVec 5)
  | inlet (tenths : BitVec 32)
  deriving DecidableEq, Repr

/-- A step of the device: an agent issues its next instruction, an event of the opcode table takes place, the host writes its own
memory (R277, R291) or reads a word of BAR0 (R344) or through the BAR2 window (R390), a key arrives from a peer (R381), firmware takes an old frame into use again (R355) or sends a repair packet for an entry
without a handle (R377), an error of the circuits shows, or a full thread suspends at its wait for a batch, a token or a launch (`park`,
R254, R256). `later` says that the accesses of the instruction to memory of its own die
and to homes on other dies leave the core now and are performed by MEMORY_RESPONSE (R279, R283; log entry 22). -/
inductive Action where
  | issue (a : Agent)
  | later (a : Agent)
  | event (i : Instr)
  | hostWrite (addr : Nat) (bytes : List (BitVec 8))
  | hostRead (off : Nat)
  | hostLoad (off n : Nat)
  | reuseFrame (pa : Nat)
  | peerKey (peer : BitVec 15) (index : BitVec 12) (gen : BitVec 8)
  | repairFor (die : BitVec 2) (k : Nat) (data : BitVec 512)
  | upset (u : Upset)
  | park (tid : Nat)
  deriving DecidableEq, Repr

/-- An input: `dt` cycles pass, then the action takes place (log entry 1). -/
structure Turn where
  dt : Nat
  act : Action
  deriving DecidableEq, Repr

/-- A die's four 48-bit event counts (Table 11.4). -/
abbrev Clock := Vector (BitVec 48) 4

/-- An entry of a queue register (R18, R129): a value, or a reservation that a load of number `id` will fill. -/
inductive QEntry where
  | filled (w : Word)
  | reserved (id : Nat)
  deriving DecidableEq, Repr

/-- An entry of an inbound mesh port (R20, R24). -/
inductive PortEntry where
  | scalar (w : Word)
  | vector (v : VWord)
  | reserved (id : Nat)
  deriving DecidableEq, Repr

/-- Where a value that arrives later is written (R30, R129, R20): a scalar register of a stream, a reserved queue
entry, a reserved entry of a core's inbound port, or nowhere. -/
inductive Dest where
  | none
  | reg (acc : Bool) (r : Nat)
  | queue (id : Nat)
  | port (core : Nat) (dir : BitVec 2) (id : Nat)
  deriving DecidableEq, Repr

/-- What a stream that did not issue waits for (R101, R130). -/
inductive Wait where
  | none | queueRead (k n : Nat) | queueReserved (k : Nat) | queueWrite (k : Nat) | boqRead | boqWrite | port
  | token (r : Nat) | memory | release | batch | barrier | array | engine | send | group | launch | security
  | wfm (since : Nat) | pick | throttle | fill
  deriving DecidableEq, Repr

/-- How far the access has come that holds a stream back until it is performed elsewhere (R193, R196). -/
inductive Phase where
  | idle | sent
  | failed (cause : Cause) (addr extra : Word)
  deriving DecidableEq, Repr

/-- One stream's registers (Table 1.1, R15). -/
structure Ctx where
  pc : VAddr
  /-- the instruction at pc is the target of a control transfer and is checked against the start map (R48) -/
  atTarget : Bool
  s : Vector Word 24
  p : Vector Word 8
  fstat : BitVec 10
  /-- registers waiting for a token or loaded value (R30) -/
  pend : BitVec 24
  running : Bool
  wait : Wait
  /-- the instruction at pc waits for an access performed elsewhere (R196) -/
  phase : Phase
  /-- answers the instruction at pc has received so far -/
  got : List Word
  /-- the lanes of the vector instruction at pc that have been performed, with their values (R161, R162) -/
  lanes : AList Word
  /-- the queues from which the instruction at pc, which has issued, has popped: its entries stay at their heads until it completes
  (R101, R128) -/
  held : List Nat
  /-- the bytes of the instruction at pc once it has issued: it is not fetched again while it waits (R65) -/
  word : List (BitVec 8)
  /-- the blocks of a loaded draft whose lines the vector instruction at pc has had, so that its lanes have met every check (R161) -/
  seen : List Nat
  /-- the lowest of its lanes that was refused elsewhere, with its cause and address (R161) -/
  refused : Option (Nat × Cause × Word)
  /-- the lines that the fetch unit has requested ahead on the stream's path and that the stream has not reached (R63) -/
  ahead : List VAddr
  deriving DecidableEq, Repr

/-- The kinds of thread (R15, R251). -/
inductive TKind where
  | full | pick | rowPick | heddle
  deriving DecidableEq, Repr

/-- What a suspended thread waits for (Table 8.11, Table 10.5). -/
inductive WaitKey where
  | mailbox (dir : BitVec 2) (value : BitVec 32)
  | endpoint (port : BitVec 4)
  | address (a : VAddr)
  | barrier (b : BitVec 11)
  /-- a batch, a token or a launch (R223, R227): WKIND 1, SUB 5 -/
  | engine
  deriving DecidableEq, Repr

/-- The state of a thread's bobbin (Table 10.4, Table 10.6); a thread that does not exist is free. `stopped` is a thread
stopped by a trap (R372); `taken` holds the bobbin of a launch or birth not yet placed. -/
inductive Status where
  | taken | runnable | running | waiting (k : WaitKey) | stopped
  deriving DecidableEq, Repr

/-- The image a thread runs (R47, R250, R413). -/
structure Image where
  kdesc : VAddr
  text : VAddr
  tsize : BitVec 32
  smap : VAddr
  floor : Bool
  deriving DecidableEq, Repr

/-- What created a pick and is told of its end (R221, Table 10.12). -/
inductive Origin where
  | none | spawn | weft (core op : Nat) | drain (core op : Nat) | channel
  deriving DecidableEq, Repr

/-- A refused peer store that a later release raises (R196). -/
structure StoreFault where
  cause : Cause
  addr : Word
  req : Nat
  deriving DecidableEq, Repr

/-- An aborted engine operation that the thread has yet to meet (R215). -/
structure EngineFault where
  cause : Cause
  addr : Word
  eng : BitVec 2
  dest : Dest
  batch : Nat
  /-- its abort found the thread saved: it is raised when the thread resumes (R215, R308) -/
  onResume : Bool
  deriving DecidableEq, Repr

/-- A write of this thread to a home on another die (R285, R287): in flight, or acknowledged as event (die, count). Its stream may
read the data of a store before the home has applied it (R283); an atomic has no data here. -/
structure RemoteWrite where
  id : Nat
  home : BitVec 2
  acked : Option (BitVec 48)
  acc : Bool
  pa : Nat
  key : KeyId
  size : Nat
  data : Option Word
  deriving DecidableEq, Repr

/-- The status registers and buffer of a heddle thread (Table 8.13, R239). -/
structure HeddleCtx where
  heddle : Nat
  hmsg : BitVec 8
  haddr : BitVec 52
  hsrc : BitVec 31
  htag : BitVec 8
  hkey : KeyId
  hslot : BitVec 7
  hsteps : Nat
  hdraft : BitVec 28
  hcomm : BitVec 8
  horig : BitVec 31
  /-- SLOT of the dispatching message, which a reply carries (R395) -/
  inSlot : BitVec 7
  buffer : Option Block
  /-- the buffer's block is poisoned, or sealed under another key than the line's -/
  bufBad : Bool
  fwdSent : Bool
  since : Nat
  /-- the dispatching message answered a recorded forward (R395) -/
  answers : Bool
  deriving DecidableEq, Repr

/-- The group registers of a gang member (R34). -/
structure GroupRegs where
  rank : BitVec 16
  gsize : BitVec 16
  ggeom : BitVec 29
  row0 : BitVec 32
  col0 : BitVec 32
  emask : BitVec 24
  deriving DecidableEq, Repr

/-- The latched weight tile (Table 6.1): its significands, its block scales Sw, the marks of its non-finite weights, WFMT and SPARSE;
`codes` are the metadata codes read when the tile was latched (R173). Significand j of column n is entry 128n + j. -/
structure Tile where
  sig : Vector (BitVec 9) 16384
  sw : Vector (BitVec 16) 1024
  nonfin : BitVec 1024
  wfmt : BitVec 4
  sparse : Bool
  codes : Vector (BitVec 4) 8192
  deriving DecidableEq, Repr

/-- A command of the array command queue (R168). `op` is the engine operation it completes, if any; `follow` says that a
copy entered it (R186). -/
inductive ArrCmd where
  | mfmt (afmt : BitVec 4) (p : BitVec 5)
  | mlatch (image : List Byte) (wfmt : BitVec 4) (sparse : Bool)
  | mspar (a : BitVec 19)
  | mscale (sh : BitVec 8)
  | mzero
  | mrowst (row : BitVec 5) (half : Bool) (vl : Nat) (data : VWord)
  | mstream (zero : Bool) (a : BitVec 19) (mv kv : Nat) (op : Option Nat)
  | mdrain (entry : VAddr) (mv nv : Nat) (clr : Bool) (flow : BitVec 16) (op : Nat)
  deriving DecidableEq, Repr

/-- A queued command with its number, the thread that issued it, and the copy whose follow-on it is (R168, R186). -/
structure QueuedCmd where
  id : Nat
  cmd : ArrCmd
  tid : Nat
  follow : Option Nat
  /-- the cycle in which it entered, and its place among the commands of one cycle (R168) -/
  at_ : Nat := 0
  rank : Nat := 0
  deriving DecidableEq, Repr

/-- A drained row waiting to be born (R180). -/
structure DrainRow where
  row : Nat
  data : Vector W32 128
  entry : VAddr
  flow : BitVec 16
  count : Nat
  op : Nat
  deriving DecidableEq, Repr

/-- The weave array of a core (Table 6.1). Element (row, column) of the accumulator is entry 128 row + column; code g of
column n in the metadata store is entry 64 n + g. -/
structure ArrayState where
  acc : Vector W32 4096
  tile : Tile
  codes : Vector (BitVec 4) 8192
  afmt : BitVec 4
  p : BitVec 5
  mshift : BitVec 8
  tspx : Bool
  tinf : Bool
  spx : Bool
  ainf : Bool
  queue : List QueuedCmd
  drain : List DrainRow
  deriving DecidableEq, Repr

/-- A message on its way to, or held at, a channel endpoint (R209 to R212). -/
structure ChanMsg where
  id : Nat
  handle : Word
  sender : BitVec 31
  stid : Nat
  sdom : DomId
  dest : Dest
  rel : Bool
  scope : BitVec 3
  /-- the clock of the sender's die at the send's release; zero where the send had none (R212, R285) -/
  stamp : Clock
  data : BitVec 512
  /-- its endpoint has refused it: the sender's interface holds later messages to that endpoint (R211) -/
  refused : Bool := false
  deriving DecidableEq, Repr

/-- The state of an endpoint (Table 10.9). -/
inductive EpState where
  | open | spill | closed
  deriving DecidableEq, Repr

/-- A channel endpoint and its router record (R209, R213, R263, R376). -/
structure Endpoint where
  owner : Option DomId
  check : BitVec 32
  state : EpState
  msgs : List ChanMsg
  handler : VAddr
  image : Image
  event : Bool
  /-- the other cores whose handles name it: its owner has resumed elsewhere since they were granted (R263) -/
  homes : List Nat
  deriving DecidableEq, Repr

/-- The engine operations that complete later (R214, R170). -/
inductive OpKind where
  | copy | copyl | halo | weft | mstream | mdrain
  deriving DecidableEq, Repr

/-- A unit of an engine operation (R307): part of a row, or burst j of item i. -/
structure EngUnit where
  row : Nat
  off : Nat
  len : Nat
  deriving DecidableEq, Repr

/-- A translation as an access uses it. -/
structure Leaf where
  pa : Nat
  loc : Nat
  r : Bool
  w : Bool
  xn : Bool
  cc : Bool
  pin : Bool
  decl : Bool
  key : KeyId
  owndom : DomId
  peerOk : Bool
  bits : Nat
  migidx : BitVec 16
  deriving DecidableEq, Repr

/-- What the check of a unit found, before it was issued, at an address that it reads or writes (R307). -/
structure UnitLeaf where
  row : Nat
  off : Nat
  ea : Word
  write : Bool
  leaf : Leaf
  deriving DecidableEq, Repr

/-- Whether an operation runs or waits for its supervisor (R215, R307). -/
inductive OpState where
  | active
  | faulted (cause : Cause) (addr : Word)
  deriving DecidableEq, Repr

/-- How far an operation's follow-on command has come (R186). -/
inductive FollowState where
  | none | pending | entered | done
  deriving DecidableEq, Repr

/-- An engine operation accepted and not complete (R214 to R221, R298, R307). -/
structure EngineOp where
  kind : OpKind
  tid : Nat
  dom : DomId
  image : Image
  dest : Dest
  batch : Nat
  ord : Ord
  num : Nat
  record : Vector Word 8
  /-- indices of an indexed weft, read at issue (R220) -/
  idx : List Word
  /-- MV of a follow-on command, resolved when the copy issued (R185) -/
  follow : FollowState
  followMv : Nat
  chain : Bool
  /-- the next unit not yet issued -/
  row : Nat
  off : Nat
  inflight : List EngUnit
  /-- units that failed and are performed again on resume -/
  held : List EngUnit
  state : OpState
  count : Nat
  /-- picks born and not ended -/
  live : Nat
  htrap : Bool
  spx : Bool
  inf : Bool
  /-- rows of an array operation; 1 for a chain entry that could not be read or whose fields are
  illegal, 2 for a NEXT that could not be read -/
  rows : Nat
  /-- halo strips whose bytes have landed and are not counted yet -/
  strips : List (BitVec 2)
  /-- what its accesses come after: accesses and writes of its thread that had not settled when it issued, by number, and the events
  the thread had seen (R288) -/
  prior : List Nat
  since : Clock
  /-- its writes at homes on other dies (R287) -/
  far : List RemoteWrite
  /-- stores to peer devices of its picks that have ended (R180, R221) -/
  peers : List Nat
  /-- what the checks of its units in flight found (R307) -/
  leaves : List UnitLeaf := []
  /-- when its last byte landed (R187) -/
  landedAt : Option Nat := none
  /-- the full thread of its shuttle, whose array its follow-on command enters (R187) -/
  owner : Option Nat := none
  /-- its thread has ended: the TKIND, bobbin and `%seqkey` that its entries carry (R352) -/
  gone : Option (BitVec 2 × Nat × BitVec 32) := none
  deriving DecidableEq, Repr

/-- A burst returned to the weft unit (R220). -/
structure Burst where
  op : Nat
  item : Nat
  burst : Nat
  data : BitVec 512
  deriving DecidableEq, Repr

/-- An entry of a chain that has started and whose sequence number is not written: its operation, its address and its CWORD. -/
structure ChainRun where
  op : Nat
  addr : VAddr
  cword : Word
  deriving DecidableEq, Repr

/-- A chain of an engine (R226, R301): cursor and tail, entries completed, and the entries running, oldest first. -/
structure Chain where
  cursor : Option VAddr
  tail : VAddr
  parked : Bool
  done : Nat
  running : List ChainRun
  /-- the entry at the cursor has been started -/
  started : Bool
  faulted : Bool
  dom : DomId
  tid : Nat
  /-- the threads that appended to it and the tails they named, oldest first, to the completion of each tail (R229) -/
  appends : List (Nat × VAddr)
  /-- what its entries come after (R288) -/
  prior : List Nat
  since : Clock
  deriving DecidableEq, Repr

/-- A line of an instruction cache with its start-map word (R61). -/
structure ICLine where
  pa : Nat
  key : KeyId
  text : Block
  map : BitVec 64
  deriving DecidableEq, Repr

/-- A line of a data cache (R274). -/
structure DCLine where
  key : KeyId
  data : Block
  writable : Bool
  /-- taken to be written whole: it has no data yet (R275) -/
  void : Bool := false
  /-- under a standard draft, where memory holds the latest write (R278): what HBM's own sealed copy holds, and under which key, while
  the line has been written and not written back (R274, R296) -/
  old : Option (Option KeyId × Block) := none
  deriving DecidableEq, Repr

/-- A cached translation (R350): the leaf that maps `va`, its page size in bits, and its root entry's word 1. -/
structure TlbEntry where
  va : VAddr
  bits : Nat
  w0 : Word
  w1 : Word
  top : Word
  deriving DecidableEq, Repr

/-- The per-core counters of Table 21.7. -/
structure CoreCounters where
  iccorr : BitVec 32
  icunc : BitVec 32
  fadrop : BitVec 32
  dccorr : BitVec 32
  lscorr : BitVec 32
  rfcorr : BitVec 32
  dpretry : BitVec 32
  dpfail : BitVec 32
  deriving DecidableEq, Repr

/-- Who may claim a shuttle (R389). -/
inductive Gate where
  | open | closed | reserved (dom : DomId) (tid : Nat) (since : Nat)
  deriving DecidableEq, Repr

/-- An access of a core performed elsewhere as an active message (R193, R290). -/
structure ActiveMsg where
  tid : Nat
  acc : Bool
  dom : DomId
  loc : Nat
  size : Nat
  kind : AccKind
  signed : Bool
  data : Word
  compare : Word
  ea : Word
  /-- the key of a home-performed access -/
  key : KeyId
  /-- the outstanding access it answers, and the clock of the sender's die (R285) -/
  id : Nat
  /-- the die it left -/
  src : Nat
  stamp : Clock
  /-- a lane of a vector instruction, whose every check was made before any lane was performed (R161) -/
  checked : Bool
  deriving DecidableEq, Repr

/-- What a full thread leaves on its core when it is saved (R29, Table 10.7): ports, mailboxes, group registers,
windows, entry registers, array state, handlers and chains. -/
structure SavedCore where
  ports : Vector (List PortEntry) 4
  mb : Vector (BitVec 32) 4
  grp : GroupRegs
  pwb : Vector Word 8
  pwl : Vector Word 8
  tvec : Word
  sscratch : Word
  array : ArrayState
  handlers : Vector VAddr 16
  chains : Vector Chain 3
  /-- its core's endpoint records, once another thread has taken the core (R263) -/
  eps : Option (Vector Endpoint 16)
  deriving DecidableEq, Repr

/-- A thread: a full thread with both streams, a pick, or a heddle thread (R15), keyed by its bobbin identifier (R252). -/
structure Thread where
  kind : TKind
  status : Status
  core : Nat
  slot : Nat
  exe : Ctx
  acc : Ctx
  vl : Nat
  v : Vector VWord 28
  q : Vector (List QEntry) 4
  /-- branch-outcome queue: (pushed by the access stream, outcome), oldest first (R127) -/
  boq : List (Bool × Bool)
  mode : BitVec 2
  seqkey : BitVec 32
  dom : DomId
  image : Image
  bcoord : BitVec 48
  bflow : BitVec 16
  bcount : BitVec 32
  origin : Origin
  /-- the launch record this thread belongs to -/
  gang : Option Nat
  member : Bool
  lastSealed : Nat
  storeFaults : List StoreFault
  engFaults : List EngineFault
  writes : List RemoteWrite
  /-- h0-h3, or a predicate by a vector instruction, written since birth (R267) -/
  vdirty : Bool
  /-- the pick has migrated for the access it is about to issue (R268) -/
  moved : Bool
  /-- the core that holds it while it is not placed (R257) -/
  heldTo : Option Nat
  /-- saved by pre-emption and not resumed since (R187, R262) -/
  leaving : Bool
  saved : Option SavedCore
  heddle : Option HeddleCtx
  /-- the clock of the die it has left: it starts again where every event it has seen is delivered (R268, R282) -/
  clock : Clock
  deriving DecidableEq, Repr

/-- A shuttle or selvedge core. -/
structure Core where
  full : Option Nat
  slots : Vector (Option Nat) 8
  ports : Vector (List PortEntry) 4
  mb : Vector (BitVec 32) 4
  /-- the arrivals that the mailbox counters have counted in the latest cycle that counted one: the cycle, and the directions (R35) -/
  counted : Nat × List Nat
  /-- the cycles in which hardware last set SPX and AINF (R35) -/
  flagged : Option Nat × Option Nat
  grp : GroupRegs
  pwb : Vector Word 8
  pwl : Vector Word 8
  tvec : Word
  epc : Word
  ecause : Word
  eaddr : Word
  einfo : Word
  estat : Word
  sscratch : Word
  array : ArrayState
  icache : List ICLine
  dcache : AList DCLine
  wbuf : AList DCLine
  partials : AList (KeyId × Block)
  /-- the clock that a partial's contributions carry (R285, R293) -/
  partStamps : AList Clock
  dtlb : List TlbEntry
  itlb : List TlbEntry
  eps : Vector Endpoint 16
  chains : Vector Chain 3
  ops : AList EngineOp
  opnums : Vector Nat 3
  returned : List Burst
  /-- barriers with PEND set (R206): 2048 times the gang plus the barrier's number -/
  pendBars : List Nat
  gate : Gate
  /-- pre-emption: the tick of its interrupt, until the report (R262) -/
  preempt : Option Nat
  /-- a mesh interrupt that a thread in supervisor mode holds until its `rfe` (R378) -/
  intr : Bool
  /-- pre-empted and not bound since: no pick is born (R262) -/
  unbound : Bool
  /-- the saved full thread whose state the core's own registers and engines still hold (R29) -/
  last : Option Nat
  /-- the tick at which the full thread was placed (R343) -/
  placedAt : Nat
  cnt : CoreCounters
  remote : List ActiveMsg
  /-- the domain for which a selvedge core is enrolled in a flow, if any (R189) -/
  selvedge : Option DomId
  deriving DecidableEq, Repr

/-- A poster's entry of the fault ring (Table 19.4). `holds` is the heddle thread that stays occupied until the entry is written (R375). -/
structure FaultEntry where
  rec0 : Word
  rec1 : Word
  rec2 : Word
  rec3 : Word
  w4 : Word
  resumeh : Word
  w6 : Word
  stamp : Word
  holds : Option Nat := none
  deriving DecidableEq, Repr

/-- What a repair handle names (R377). -/
structure Repair where
  handle : Word
  src : BitVec 4
  tid : Nat
  /-- the record names the access stream -/
  acc : Bool
  core : Nat
  eng : BitVec 2
  op : Nat
  dom : DomId
  deriving DecidableEq, Repr

/-- What a miss tells the home of the page it meets: MIGIDX, the page's size in bits and PIN (R354). -/
structure MissTag where
  idx : BitVec 16
  bits : Nat
  pin : Bool
  deriving DecidableEq, Repr

/-- A message between dies (R285, R286): stamps are four counts. -/
inductive BridgeMsg where
  | update (stamp : Clock) (block : Nat) (data : Option (KeyId × Block))
  | beat (count : BitVec 48)
  /-- a store within one block on its way to its home; `tid` and `id` name the thread's record of it, 0 for a store of a unit that
  is no thread (R227); `miss` is the data-cache miss that it counts as -/
  | write (stamp : Clock) (tid id : Nat) (key : KeyId) (pa : Nat) (bytes : List (BitVec 8)) (miss : Option MissTag)
  | reply (stamp : Clock) (id : Nat) (data : Word) (copy : Option (Nat × KeyId × Block))
  /-- the acknowledgement of a write, which names its event -/
  | ack (tid id : Nat) (count : BitVec 48)
  /-- a coherence message, or the active message of an access, that is kept under its number: its place in the bridge's order -/
  | tag (id : Nat)
  deriving DecidableEq, Repr

/-- A reduction flow of a die's block queue (R189). -/
structure Flow where
  cores : List Nat
  next : Nat
  deriving DecidableEq, Repr

/-- A migrating pick's record in a home die's buffer (R268); the pick itself keeps its registers. -/
structure MigRec where
  tid : Nat
  heddle : Nat
  deriving DecidableEq, Repr

/-- Counters of an HBM stack and its scrubber (Table 21.8, R403). -/
structure StackState where
  corr : BitVec 32
  unc : BitVec 32
  tagmm : BitVec 32
  scrubpass : BitVec 32
  retired : BitVec 32
  pos : Nat
  /-- the corrected errors of the last 24 hours of a 4 KiB frame: their ticks, newest first (R403) -/
  frames : AList (List Nat)
  retiredFrames : List Nat
  lost : Bool
  deriving DecidableEq, Repr

/-- The state of a die (Tables 11.4, 18.1, 19.3, 21.8). -/
structure Die where
  ptroot : Word
  ptkey : Word
  /-- the cache of L3 to L1 table entries, newest first, with their addresses (R350) -/
  walks : List (Nat × TlbEntry)
  tinvDone : BitVec 32
  /-- invalidations whose completion is outstanding: first address, size in bits, dies named (R351) -/
  tinvs : List (Nat × Nat × BitVec 4)
  frbase : Word
  frtail : Nat
  frhead : Nat
  frovf : Bool
  frovcount : BitVec 32
  heldPosts : List FaultEntry
  repairs : List Repair
  /-- entries posted with RESUMEH 0 because the repair grant store was full: the packets for them come from firmware (R377) -/
  handless : List Repair
  vc : Clock
  /-- the count last announced on every bridge (R285) -/
  announced : BitVec 48
  /-- the causal buffer of each incoming bridge: messages that cannot be delivered yet, oldest first (Table 11.4) -/
  causal : Vector (List BridgeMsg) 4
  /-- the shared cache's die copies, and its home lines with their keys (R274) -/
  copies : AList (KeyId × Block)
  homeLines : AList KeyId
  /-- waiters the full wake table could not take, with their time (R257) -/
  timed : AList Nat
  migbuf : List MigRec
  flows : AList Flow
  hbmStacks : Vector StackState 3
  scCorr : BitVec 32
  scUnc : BitVec 32
  creelCorr : BitVec 32
  creelUnc : BitVec 32
  brCrc : Vector (BitVec 32) 4
  brSpared : Vector (BitVec 32) 4
  abortsWatch : BitVec 32
  abortsOther : BitVec 32
  walksReason5 : BitVec 32
  throt : Bool
  temp : Nat
  deriving DecidableEq, Repr

/-- A coherence message (Table 18.10). -/
structure CohMsg where
  dst : BitVec 31
  type : BitVec 4
  reply : Bool
  src : BitVec 31
  orig : BitVec 31
  slot : BitVec 7
  key : KeyId
  pa : Nat
  data : Option Block
  /-- its block is poisoned, or sealed under another key than KEYID -/
  bad : Bool
  grant : BitVec 2
  kind : BitVec 2
  prio : Bool
  moved : Bool
  opnd : Word
  /-- the clock of the sender's die (R285) -/
  stamp : Clock
  /-- when it reached the heddle that holds it: messages of a block go in this order (R237) -/
  arrived : Nat := 0
  deriving DecidableEq, Repr

/-- A request that the home of a standard draft serves while it asks other shuttles (Table 18.8), and the shuttles it has asked. -/
structure StdReq where
  msg : CohMsg
  asked : List Nat
  deriving DecidableEq, Repr

/-- A recorded forward (R395). -/
structure FwdRecord where
  node : BitVec 31
  orig : BitVec 31
  slot : BitVec 7
  /-- the reserved slot on which the answer returns -/
  hslot : BitVec 7
  /-- a write-back has already answered it: the node's own answer is discarded -/
  answered : Bool
  /-- what was sent, its NACKs, and, while it waits to be sent again, its number and time (R362, R364) -/
  msg : CohMsg
  nacks : Nat
  again : Option (Nat × Nat)
  deriving DecidableEq, Repr

/-- A heddle (R237, R362, R363, R367, R395). -/
structure Heddle where
  threads : Vector (Option Nat) 8
  slots : List Nat
  waiting : List CohMsg
  prio : List CohMsg
  fwds : AList FwdRecord
  /-- answers still to come that are discarded (R395): node, and 128 times the block plus the slot -/
  discards : List (BitVec 31 × Nat)
  /-- contributors of commutative blocks in registration order (R367) -/
  contributors : AList (List Nat)
  /-- the blocks whose directory entries its directory-entry cache holds, newest first (R1) -/
  dirs : List Nat
  /-- the request that a block of a standard draft serves (Table 18.8) -/
  std : AList StdReq
  /-- the shuttles whose read misses have registered their looms under the producer-push draft (Table 18.8) -/
  pushes : AList (List Nat)
  deriving DecidableEq, Repr

/-- Metadata of a 128-byte HBM block: the key its copy is sealed under (none: reset pattern), poison, colour, access
state, directory entry (R238, R275, R369), and whether a write-once block has been written back (Table 18.8). -/
structure BlockMeta where
  sealedUnder : Option KeyId
  poison : Bool
  colour : BitVec 4
  access : BitVec 2
  dir : Word
  written : Bool
  deriving DecidableEq, Repr

/-- An entry of a grant table (R384). -/
structure Grant where
  handle : Word
  send : Bool
  deriving DecidableEq, Repr

/-- A spill queue entry (Table 10.10). -/
structure SpillEntry where
  msg : ChanMsg
  core : Nat
  port : BitVec 4
  done : Bool
  deriving DecidableEq, Repr

/-- A run-queue entry (R340). -/
structure RunEntry where
  tid : Nat
  die : BitVec 2
  prio : Nat
  since : Nat
  deriving DecidableEq, Repr

/-- A domain control block (Table 10.1) with the queues and pools it names. -/
structure Domain where
  /-- where the block stands; 0 while firmware has given it no place (log entry 17) -/
  addr : VAddr
  /-- PARENT: the address of the parent's block, 0 at the root -/
  parent : VAddr
  ovr : BitVec 16
  prio : BitVec 3
  state : BitVec 2
  depth : BitVec 3
  maxshut : BitVec 13
  diemask : BitVec 4
  maxh : BitVec 5
  maxw : BitVec 6
  memq : BitVec 40
  keyq : BitVec 16
  slice : BitVec 32
  supv : BitVec 16
  fdom : DomId
  ownkey : KeyId
  /-- GRANT: where the endpoint grant table stands -/
  grant : VAddr
  grants : AList Grant
  spillq : VAddr
  spsize : BitVec 5
  sptail : BitVec 24
  sphead : BitVec 24
  spdrop : Word
  evtep : Word
  /-- RUNQ0 to RUNQ3: where the run-queue headers stand (R340) -/
  runqAt : Vector VAddr 4
  bobpool : VAddr
  bobcnt : BitVec 32
  ctxpool : VAddr
  ctxcnt : BitVec 32
  creel : Vector (BitVec 11 × BitVec 10) 4
  bobimg : VAddr
  spill : List SpillEntry
  runq : List RunEntry
  /-- bobbins made runnable whose list was full (R340) -/
  unqueued : List RunEntry
  rot : Vector Nat 4
  deriving DecidableEq, Repr

/-- States of a key slot (Table 19.5 of R379). -/
inductive KeyState where
  | free | live | closing | sweep
  deriving DecidableEq, Repr

/-- A key slot (R379). `used` says that the slot has held a key, so that its next generation is GEN + 1 (R233). -/
structure KeySlot where
  state : KeyState
  gen : BitVec 8
  used : Bool
  kind : BitVec 2
  owner : DomId
  origin : Option (BitVec 15 × BitVec 12 × BitVec 8)
  exports : List (BitVec 15)
  /-- the `seq.close` that waits for acknowledgements: its agent and its time (R381) -/
  closer : Option (Nat × Nat)
  deriving DecidableEq, Repr

/-- A barrier of a gang (Table 7.8). -/
structure Barrier where
  expect : BitVec 16
  count : BitVec 16
  phase : BitVec 8
  deriving DecidableEq, Repr

/-- A launch from its acceptance to its completion (R227, R258, R328): a gang, or one bobbin of LAUNCH_BOBBIN. -/
structure Gang where
  dom : DomId
  ldom : DomId
  die : BitVec 2
  orgCol : Nat
  orgRow : Nat
  width : Nat
  height : Nat
  image : Image
  entry : VAddr
  lsbytes : Nat
  remote : Bool
  tvec : VAddr
  args : Vector Word 6
  members : List Nat
  released : Bool
  ended : Nat
  trapped : Nat
  cword : Word
  /-- launching thread and its token, or the QCB that committed it -/
  token : Option (Nat × Dest)
  qcb : Option Nat
  single : Bool
  barriers : AList Barrier
  /-- the events that its start, and later its completion word, come after (R227, R259, R285) -/
  stamp : Clock
  /-- its members' sends with a `.sys` release that are not acknowledged yet (R227) -/
  sends : List Nat := []
  deriving DecidableEq, Repr

/-- A word forwarded in a vector group (R231): its address and bytes, the leader's next address and whether it jumped there. -/
structure FwdWord where
  pc : VAddr
  bytes : List (BitVec 8)
  next : VAddr
  jumped : Bool
  deriving DecidableEq, Repr

/-- A vector group (R230 to R232). -/
structure VGroup where
  gang : Nat
  /-- members by row-major index: thread, attached, permanently left -/
  members : List (Nat × Bool × Bool)
  /-- forwarded words not yet executed, for each follower -/
  words : AList (List FwdWord)
  /-- followers whose next turn executes a forwarded word -/
  armed : List Nat
  /-- members that wait at a grp.join, and at which address -/
  joining : List (Nat × VAddr)
  /-- its leader has stopped or left: followers run the words they hold and go on alone (R231) -/
  dissolved : Bool := false
  deriving DecidableEq, Repr

/-- A grp.form in progress: its argument and the members that have issued (R230). -/
structure Forming where
  gang : Nat
  arg : Word
  issued : List Nat
  formed : Option Nat
  failed : Bool
  /-- where the index of a member that waits goes, which it has reserved (R129) -/
  dests : AList Dest := []
  deriving DecidableEq, Repr

/-- Where an outstanding access is served (R196, R202, R285, R361). -/
inductive OutKind where
  | host | peer | dieRead | coherence
  /-- an access to HBM that has left the core and is not performed yet -/
  | home
  /-- an access of an active message -/
  | active
  deriving DecidableEq, Repr

/-- An access issued and not yet performed or answered. -/
structure OutReq where
  kind : OutKind
  tid : Nat
  acc : Bool
  dom : DomId
  core : Nat
  acckind : AccKind
  signed : Bool
  loc : Nat
  ea : Word
  size : Nat
  data : Word
  compare : Word
  dest : Dest
  key : KeyId
  pc : VAddr
  /-- the engine unit it serves: core, operation, row and offset -/
  unit : Option (Nat × Nat × Nat × Nat)
  /-- the reply slot reserved for a coherence request (R362), 0 for none -/
  slot : Nat
  /-- the answer an engine unit will take -/
  answer : Option MemAnswer
  /-- the instruction at the stream's PC waits for the answer -/
  waits : Bool
  nacks : Nat
  retryAt : Option Nat
  /-- its thread has ended: the TKIND and `%seqkey` its late fault is reported with (R196) -/
  gone : Option (BitVec 2 × BitVec 32)
  /-- the lane of a vector instruction it serves -/
  lane : Option Nat
  /-- a request for a block that will be written whole, whose old data does not matter (R275); a prefetch that stops at the shared
  cache (R205) -/
  whole : Bool := false
  deriving DecidableEq, Repr

/-- Why a birth waits (R228, R413): a spawned pick without a bobbin. -/
structure PendingBirth where
  tid : Nat
  core : Nat
  dom : DomId
  image : Image
  entry : VAddr
  regs : Vector Word 6
  dest : Dest
  deriving DecidableEq, Repr

/-- A region-table entry (Table 18.7). -/
structure Region where
  base : Nat
  log2 : Nat
  cop : BitVec 2
  cfmt : BitVec 2
  fixhm : BitVec 3
  hpol : BitVec 2
  draft : BitVec 4
  deriving DecidableEq, Repr

/-- A loaded draft (R359, R360). `std` marks the standard drafts, whose effect is Table 18.8. -/
structure Draft where
  std : Bool
  tagInit : BitVec 2
  comm : Bool
  table : List (BitVec 32)
  smap : List Byte
  text : List Byte
  /-- SHA-384 of its image, and the image's LMS signature (R387) -/
  digest : BitVec 384
  lms : BitVec 384
  deriving DecidableEq, Repr

/-- The states of a slot-table entry (R335, Table 17.6). -/
inductive SlotState where
  | empty | binding | bound | waiting | faulted | saving
  deriving DecidableEq, Repr

/-- A packet at a slot's parse point (R327): its header, payload, place and whether it runs past its buffer's end. -/
structure Pkt where
  hdr : BitVec 32
  words : List (BitVec 32)
  /-- ring offset, or address in a buffer -/
  at_ : Nat
  past : Bool
  deriving DecidableEq, Repr

/-- A slot of the slot table (Table 17.6) with the buffer stack of its shadow, its prefetch window and what holds it. -/
structure Slot where
  qcb : Nat
  bprio : BitVec 3
  cprio : BitVec 3
  state : SlotState
  dom : DomId
  priv : Bool
  ring : VAddr
  rsize : Nat
  rptr : BitVec 32
  wptr : BitVec 32
  ibd : Nat
  stack : List (VAddr × VAddr)
  klatch : Bool
  boundAt : BitVec 32
  readyAt : BitVec 32
  slice : BitVec 32
  /-- the parse core has taken it: tick of the start of its packet (R324) -/
  parsing : Option Nat
  /-- the parse core's decoding differs from the dispatch hardware's (R402) -/
  flawed : Bool
  /-- the packet that holds the queue (R329) -/
  packet : Option Pkt
  /-- what the packet that holds the queue comes after, once its release has begun (R328) -/
  rel : Option Clock
  /-- the 4 KiB prefetch window: words the fetcher has read ahead of the parse point, by address (Table 17.1, R332) -/
  window : AList (BitVec 32)
  /-- RPTR reached WPTR at this tick (R339) -/
  idleAt : Nat
  /-- shuttles whose report a PREEMPT waits for (R328) -/
  preempting : Option (List Nat)
  deriving DecidableEq, Repr

/-- An entry of the RAS log (Table 21.4): time, head word, address, detail, trap record. -/
structure RasEntry where
  time : Nat
  sev : BitVec 3
  cls : BitVec 4
  unit : BitVec 20
  cause : Cause
  count : Nat
  addr : Word
  detail : Word
  record : Option (Word × Word × Word × Word)
  deriving DecidableEq, Repr

/-- A page move in progress (R355). -/
structure MigJob where
  va : VAddr
  old : Nat
  new : Nat
  idx : BitVec 16
  bits : Nat
  result : Nat
  deriving DecidableEq, Repr

/-- A fabric port (R386, R392, Table 21.8). -/
structure FabricPort where
  state : BitVec 2
  peerDev : BitVec 15
  peerPort : BitVec 5
  peerId : BitVec 128
  crcretry : BitVec 32
  lanes : BitVec 3
  refused : BitVec 32
  downs : BitVec 32
  /-- when it last failed to train (R392) -/
  failedAt : Nat := 0
  deriving DecidableEq, Repr

/-- A message the device has sent out: an MSI-X vector, an SPDM answer, an answer to a peer, a key or a retirement sent
to a peer, an AtomicOp completion. -/
inductive OutMsg where
  | msix (vec : Nat)
  | spdm (peer : Option (BitVec 15)) (code : BitVec 8) (body : List (BitVec 8)) (sig : Option (BitVec 768))
  | peerReply (device : BitVec 15) (tag : Nat) (cause : Cause) (data : Word)
  | keySent (device : BitVec 15) (index : BitVec 12) (gen : BitVec 8)
  | retire (device : BitVec 15) (index : BitVec 12) (gen : BitVec 8)
  | retireAck (device : BitVec 15) (index : BitVec 12) (gen : BitVec 8)
  | completion (ok : Bool) (data : Word)
  deriving DecidableEq, Repr

/-- A halo strip whose bytes have landed at a core from one side (R219). -/
structure Strip where
  op : Nat
  src : Nat
  deriving DecidableEq, Repr

/-- An SPDM connection (R388): how far negotiation has come, and its secured sessions, each with whether FINISH has completed it. -/
structure SpdmConn where
  version : Bool
  caps : Bool
  algs : Bool
  sessions : AList Bool
  updates : Nat
  deriving DecidableEq, Repr

/-- The management complex and the device-wide registers (Tables 17.1, 18.1, 19.10, 19.11, 21.3, 21.8). -/
structure Mgmt where
  ready : Word
  age : BitVec 16
  migtab : Word
  migring : Word
  mighead : Nat
  migtail : Nat
  migthr : BitVec 16
  thrn : BitVec 8
  thrw : BitVec 32
  thrt : BitVec 32
  regstat : Word
  migcmd : List Word
  migjobs : AList MigJob
  migdone : AList Nat
  /-- pages that have moved away and whose frames firmware has not taken into use again: base and size in bits (R355) -/
  vacated : List (Nat × Nat)
  /-- ranges that a BIND_REGION is rebinding: base and size in bits (R358) -/
  binding : List (Nat × Nat)
  pinned : List (Nat × VAddr)
  pendbase : Word
  pendring : List Nat
  /-- entries ever appended to the pending ring, and the treadle pair's interrupt of them (R326) -/
  pendtail : Nat
  treadleIrq : Bool
  pendovf : Bool
  slotErr : Bool
  /-- queues that wait for a slot, as the shipped firmware keeps them (R339) -/
  waitq : List Nat
  /-- queues firmware has bound or seen kicked (R326) -/
  known : List Nat
  /-- the domain whose control block firmware writes next (log entry 17) -/
  dcbSel : DomId
  raslog : Word
  rastail : BitVec 24
  rashead : BitVec 24
  rasdrop0 : BitVec 32
  rasheld : List RasEntry
  /-- entries still open for merging, with their index in the log (R407) -/
  rasopen : List (Nat × RasEntry)
  ports : Vector FabricPort 24
  replay : BitVec 32
  linkdown : BitVec 32
  atomicUr : BitVec 32
  badkick : BitVec 32
  power : BitVec 32
  /-- since when power has exceeded 2,800 W (R410) -/
  powerHigh : Option Nat
  inlet : BitVec 32
  hostUp : Bool
  atomicReq : Bool
  bar2base : Word
  bar2key : KeyId
  msixCmd : BitVec 16
  msixRegion : BitVec 16
  device : BitVec 15
  epoch : BitVec 32
  roster : List (BitVec 15)
  admitted : List (BitVec 15)
  measured : Vector (BitVec 384) 11
  /-- the LMS signatures of the images measured at boot, for block 7 (R388) -/
  lms : List (BitVec 384)
  spdm : AList SpdmConn
  treadleUp : Bool
  securityUp : Bool
  treadleDownAt : Option Nat
  out : List OutMsg
  /-- the events that the host's side has seen: the command front end, an agent at `.sys`, and host memory (R277, R282, R329) -/
  fclk : Clock
  deriving DecidableEq, Repr

/-- Why the device has stopped as fatal (R400, R410). -/
inductive Dead where
  | thermal | power | clock | bridge | mesh
  deriving DecidableEq, Repr

/-- The state of the machine. -/
structure State where
  /-- `%tick`, cycles since device reset (R36) -/
  tick : Nat
  /-- the agent that issues next (log entry 1) -/
  cur : Agent
  /-- the inputs still to come (log entry 1) -/
  agenda : List Turn
  mem : Memory
  blocks : AList BlockMeta
  threads : AList Thread
  cores : AList Core
  dies : Vector Die 4
  heddles : AList Heddle
  bridges : AList (List BridgeMsg)
  doms : AList Domain
  keys : AList KeySlot
  gangs : AList Gang
  groups : AList VGroup
  forming : AList Forming
  outs : AList OutReq
  msgs : AList CohMsg
  chans : AList ChanMsg
  births : AList PendingBirth
  strips : AList (List Strip)
  regions : AList Region
  drafts : AList Draft
  slots : Vector Slot 64
  mgmt : Mgmt
  /-- the next fresh identifier, and the counter of free values (log entry 2) -/
  nextId : Nat
  freeCtr : Nat
  dead : Option Dead
  /-- it stops as fatal once its last entry has been written to the log (R407) -/
  stopping : Option Dead
  /-- the accesses of the instruction that issues leave the core and are performed later (log entry 22) -/
  slow : Bool
  deriving DecidableEq, Repr

/-- The reasons a step can stop the machine. -/
inductive Fault where
  /-- Raised by a step once the device has stopped as fatal (R400, R410): the spec gives no step after it. A safe stop. -/
  | deviceStopped (why : Dead)
  /-- Raised by an instruction's meaning when the agent that is to issue it does not exist: no step of the device. A safe
  stop, which `step` never reaches (it lets a turn of a missing agent pass). -/
  | noIssuer
  /-- Raised by `step` on an input that names an encoded instruction as an event: no input of the device. A safe stop. -/
  | malformedTurn
  deriving DecidableEq, Repr

/-- The reasons a step has no meaning. -/
inductive Refusal where
  /-- Raised by Dispatch.exec for an instruction without a meaning yet, by its mnemonic. A safe stop. -/
  | notModelled (mnemonic : String)
  deriving DecidableEq, Repr

/-- A clock of no events. -/
def Clock.zero : Clock := Vector.replicate 4 0

/-- A stream at thread start (R26). -/
def Ctx.init : Ctx :=
  { pc := 0, atTarget := false, s := Vector.replicate 24 0, p := Vector.replicate 8 0, fstat := 0, pend := 0,
    running := false, wait := .none, phase := .idle, got := [], lanes := [], held := [], word := [], seen := [], refused := none,
    ahead := [] }

/-- An image of no text. -/
def Image.empty : Image := { kdesc := 0, text := 0, tsize := 0, smap := 0, floor := false }

/-- Group registers where there is no gang member (R34). -/
def GroupRegs.zero : GroupRegs := { rank := 0, gsize := 0, ggeom := 0, row0 := 0, col0 := 0, emask := 0 }

/-- The latched tile at launch (Table 6.1). -/
def Tile.launch : Tile :=
  { sig := Vector.replicate 16384 0, sw := Vector.replicate 1024 0, nonfin := 0, wfmt := 1, sparse := false,
    codes := Vector.replicate 8192 4 }

/-- The array state at launch (Table 6.1). -/
def ArrayState.launch : ArrayState :=
  { acc := Vector.replicate 4096 0, tile := Tile.launch, codes := Vector.replicate 8192 4, afmt := 1, p := 8, mshift := 0,
    tspx := false, tinf := false, spx := false, ainf := false, queue := [], drain := [] }

/-- An endpoint with no owner (R263). -/
def Endpoint.closed : Endpoint :=
  { owner := none, check := 0, state := .closed, msgs := [], handler := 0, image := Image.empty, event := false,
    homes := [] }

/-- A chain with no entry (R226). -/
def Chain.empty : Chain :=
  { cursor := none, tail := 0, parked := true, done := 0, running := [], started := false, faulted := false, dom := 0,
    tid := 0, appends := [], prior := [], since := Clock.zero }

/-- Counters at reset (R408). -/
def CoreCounters.zero : CoreCounters :=
  { iccorr := 0, icunc := 0, fadrop := 0, dccorr := 0, lscorr := 0, rfcorr := 0, dpretry := 0, dpfail := 0 }

/-- A core right after reset. -/
def Core.init : Core :=
  { full := none, slots := Vector.replicate 8 none, ports := Vector.replicate 4 [], mb := Vector.replicate 4 0, counted := (0, []),
    flagged := (none, none), grp := GroupRegs.zero, pwb := Vector.replicate 8 0, pwl := Vector.replicate 8 0, tvec := 0, epc := 0, ecause := 0,
    eaddr := 0, einfo := 0, estat := 0, sscratch := 0, array := ArrayState.launch, icache := [], dcache := [], wbuf := [],
    partials := [], partStamps := [], dtlb := [], itlb := [], eps := Vector.replicate 16 Endpoint.closed,
    chains := Vector.replicate 3 Chain.empty, ops := [], opnums := Vector.replicate 3 0, returned := [], pendBars := [],
    gate := .open, preempt := none, intr := false, unbound := false, last := none, placedAt := 0,
    cnt := CoreCounters.zero, remote := [], selvedge := none }

/-- A thread at its start (R26): its kind, core, slot, domain, image and entry come from its creator. -/
def Thread.init (kind : TKind) (core slot : Nat) (dom : DomId) (image : Image) (entry : VAddr) : Thread :=
  { kind := kind, status := .running, core := core, slot := slot,
    exe := { Ctx.init with pc := entry, atTarget := true, running := true }, acc := Ctx.init, vl := 64,
    v := Vector.replicate 28 0, q := Vector.replicate 4 [], boq := [], mode := 0, seqkey := 0, dom := dom, image := image,
    bcoord := 0, bflow := 0, bcount := 0, origin := .none, gang := none, member := false, lastSealed := 0,
    storeFaults := [], engFaults := [], writes := [], vdirty := false, moved := false, heldTo := none, leaving := false,
    saved := none, heddle := none, clock := Clock.zero }

/-- An HBM stack right after reset. -/
def StackState.init : StackState :=
  { corr := 0, unc := 0, tagmm := 0, scrubpass := 0, retired := 0, pos := 0, frames := [], retiredFrames := [], lost := false }

/-- A die right after reset (Tables 11.4, 18.1, 19.3, 21.8). -/
def Die.init : Die :=
  { ptroot := 0, ptkey := 0, walks := [], tinvDone := 0, tinvs := [], frbase := 0, frtail := 0, frhead := 0, frovf := false,
    frovcount := 0, heldPosts := [], repairs := [], handless := [], vc := Clock.zero, announced := 0,
    causal := Vector.replicate 4 [], copies := [], homeLines := [], timed := [],
    migbuf := [], flows := [], hbmStacks := Vector.replicate 3 StackState.init, scCorr := 0, scUnc := 0, creelCorr := 0,
    creelUnc := 0, brCrc := Vector.replicate 4 0, brSpared := Vector.replicate 4 0, abortsWatch := 0, abortsOther := 0,
    walksReason5 := 0, throt := false, temp := 0 }

/-- A heddle right after reset. -/
def Heddle.init : Heddle :=
  { threads := Vector.replicate 8 none, slots := [], waiting := [], prio := [], fwds := [], discards := [],
    contributors := [], dirs := [], std := [], pushes := [] }

/-- Block metadata right after reset: HBM initialisation seals every block under no key (R275, R391). -/
def BlockMeta.init : BlockMeta :=
  { sealedUnder := none, poison := false, colour := 0, access := 0, dir := 0, written := false }

/-- A domain whose every field is zero but its state, live. -/
def Domain.bare : Domain :=
  { addr := 0, parent := 0, ovr := 0, prio := 0, state := 1, depth := 0, maxshut := 0, diemask := 0, maxh := 0, maxw := 0, memq := 0,
    keyq := 0, slice := 0, supv := 0, fdom := 0, ownkey := 0, grant := 0, grants := [], spillq := 0, spsize := 4, sptail := 0, sphead := 0,
    spdrop := 0, evtep := 0, runqAt := Vector.replicate 4 0, bobpool := 0, bobcnt := 0, ctxpool := 0, ctxcnt := 0,
    creel := Vector.replicate 4 (0, 0), bobimg := 0, spill := [], runq := [], unqueued := [],
    rot := Vector.replicate 4 0 }

/-- A key slot never used (R379). -/
def KeySlot.init : KeySlot :=
  { state := .free, gen := 0, used := false, kind := 0, owner := 0, origin := none, exports := [], closer := none }

/-- An EMPTY slot-table entry (R335). -/
def Slot.empty : Slot :=
  { qcb := 0, bprio := 0, cprio := 0, state := .empty, dom := 0, priv := false, ring := 0, rsize := 0, rptr := 0, wptr := 0,
    ibd := 0, stack := [], klatch := false, boundAt := 0, readyAt := 0, slice := 0, parsing := none, flawed := false,
    packet := none, rel := none, window := [], idleAt := 0, preempting := none }

/-- A fabric port that is down (R392). -/
def FabricPort.init : FabricPort :=
  { state := 0, peerDev := 0, peerPort := 0, peerId := 0, crcretry := 0, lanes := 0, refused := 0, downs := 0 }

/-- The management complex right after reset (Tables 18.1, 21.3; R338, R391). -/
def Mgmt.init : Mgmt :=
  { ready := 0, age := 50, migtab := 0, migring := 0, mighead := 0, migtail := 0, migthr := 256, thrn := 4, thrw := 200,
    thrt := 5000, regstat := 0, migcmd := [], migjobs := [], migdone := [], vacated := [], binding := [], pinned := [], pendbase := 0, pendring := [],
    pendtail := 0, treadleIrq := false, pendovf := false, slotErr := false, waitq := [], known := [], dcbSel := 0, raslog := 0, rastail := 0, rashead := 0, rasdrop0 := 0, rasheld := [],
    rasopen := [], ports := Vector.replicate 24 FabricPort.init, replay := 0, linkdown := 0, atomicUr := 0, badkick := 0,
    power := 0, powerHigh := none, inlet := 0, hostUp := false, atomicReq := false, bar2base := 0, bar2key := 0, msixCmd := 0, msixRegion := 0,
    device := 0, epoch := 0, roster := [], admitted := [], measured := Vector.replicate 11 0, lms := [], spdm := [],
    treadleUp := false, securityUp := false, treadleDownAt := none, out := [], fclk := Clock.zero }

/-- The device right after reset: no thread, no core in use, memory with nothing listed, only the root domain (R246). -/
def State.reset : State :=
  { tick := 0, cur := { tid := 0, acc := false }, agenda := [], mem := [], blocks := [], threads := [], cores := [],
    dies := Vector.replicate 4 Die.init, heddles := [], bridges := [], doms := [(0, Domain.bare)], keys := [], gangs := [],
    groups := [], forming := [], outs := [], msgs := [], chans := [], births := [], strips := [], regions := [], drafts := [],
    slots := Vector.replicate 64 Slot.empty, mgmt := Mgmt.init, nextId := 1, freeCtr := 0, dead := none, stopping := none, slow := false }

end Sys2Proof.Machine
end

