-- ==== Sys2Proof/Machine/Bits.lean ====
section
/-! DEFINITION. Bit-field, byte-order, lane and finite-map helpers. -/

namespace Sys2Proof.Machine

/-- The value at key `k`. -/
def alGet {α : Type} : AList α → Nat → Option α
  | [], _ => none
  | (j, x) :: l, k => if k = j then some x else if k < j then none else alGet l k

/-- Put `x` at key `k`, keeping the keys rising. -/
def alSet {α : Type} : AList α → Nat → α → AList α
  | [], k, x => [(k, x)]
  | (j, y) :: l, k, x => if k < j then (k, x) :: (j, y) :: l else if k = j then (k, x) :: l else (j, y) :: alSet l k x

/-- Remove key `k`. -/
def alErase {α : Type} : AList α → Nat → AList α
  | [], _ => []
  | (j, y) :: l, k => if k = j then l else (j, y) :: alErase l k

/-- The value at key `k`, or `d`. -/
def alGetD {α : Type} (l : AList α) (k : Nat) (d : α) : α := (alGet l k).getD d

/-- Bits hi..lo of a word, as a number. -/
def field {n : Nat} (w : BitVec n) (hi lo : Nat) : Nat := (w.extractLsb' lo (hi + 1 - lo)).toNat

/-- Bit n of a word. -/
def bit {n : Nat} (w : BitVec n) (k : Nat) : Bool := w.getLsbD k

/-- A boolean as the word 1 or 0 (R102). -/
def boolWord (b : Bool) : Word := if b then 1 else 0

/-- A predicate bit in every lane position (R25). -/
def allLanes (b : Bool) : Word := if b then BitVec.allOnes 64 else 0

/-- n bytes of a number, least significant first (R9). -/
def leBytes : Nat → Nat → List Byte
  | 0, _ => []
  | n + 1, w => BitVec.ofNat 8 w :: leBytes n (w / 256)

/-- The number whose bytes are given, least significant first (R9). -/
def ofLE : List Byte → Nat
  | [] => 0
  | b :: bs => b.toNat + 256 * ofLE bs

/-- The word in bytes 8k to 8k+7 of a record. -/
def wordAt (bs : List Byte) (k : Nat) : Word := BitVec.ofNat 64 (ofLE ((bs.drop (8 * k)).take 8))

/-- Lane i of a vector register (R23). -/
def lane (v : VWord) (i : Nat) : W32 := v.extractLsb' (32 * i) 32

/-- A vector register from its lanes. -/
def ofLanes (f : Nat → W32) : Nat → VWord
  | 0 => 0
  | n + 1 => ofLanes f n ||| ((f n).setWidth 2048 <<< (32 * n))

/-- A vector register of 64 lanes. -/
def vecOf (f : Nat → W32) : VWord := ofLanes f 64

/-- A 64-bit value in lanes 1 and 0, zero above (R24). -/
def vecOfScalar (w : Word) : VWord := w.setWidth 2048

/-- A block's 128 bytes as one number, least significant first. -/
def blockOf (bs : List Byte) : Block := BitVec.ofNat 1024 (ofLE bs)

/-- Byte k of a block. -/
def blockByte (b : Block) (k : Nat) : Byte := b.extractLsb' (8 * k) 8

/-- Number of one bits among the low n bits. -/
def popcount {w : Nat} (x : BitVec w) : Nat → Nat
  | 0 => 0
  | n + 1 => popcount x n + (if x.getLsbD n then 1 else 0)

/-- Number of zero bits from bit n-1 downward (R104, `clz`). -/
def leadingZeros (x : Word) : Nat → Nat
  | 0 => 0
  | n + 1 => if x.getLsbD n then 0 else 1 + leadingZeros x n

/-- Number of zero bits from bit `k` upward, among n bits (R104, `ctz`). -/
def trailingZeros (x : Word) (k : Nat) : Nat → Nat
  | 0 => 0
  | n + 1 => if x.getLsbD k then 0 else 1 + trailingZeros x (k + 1) n

/-- Signed value of a bit vector. -/
def sval {n : Nat} (x : BitVec n) : Int := x.toInt

/-- The pointer whose low 56 bits are `a` + `d` modulo 2^56, with the upper byte of `a` (R111). -/
def leaAdd (a d : Word) : Word := (a.extractLsb' 56 8) ++ ((a.extractLsb' 0 56) + (d.extractLsb' 0 56))

/-- The target of a PC-relative transfer: halfwords from the instruction (R50). -/
def relTarget {n : Nat} (pc : VAddr) (o : BitVec n) : VAddr := pc + (o.signExtend 56 <<< 1)

/-- A counter that saturates at 2^32 - 1 (R408). -/
def satInc (c : BitVec 32) : BitVec 32 := if c = BitVec.allOnes 32 then c else c + 1

/-- Count k of a clock. -/
def Clock.at (v : Clock) (k : Nat) : Nat := (v[k]?.getD 0).toNat

/-- Every count of clock a but those of some dies is at most clock b's (R286). -/
def Clock.leBut (a b : Clock) (but : List Nat) : Bool :=
  (List.range 4).all (fun k => but.contains k || decide (a.at k ≤ b.at k))

/-- The later of two counts, for each die. -/
def Clock.join (a b : Clock) : Clock :=
  (Vector.range 4).map (fun k => BitVec.ofNat 48 (max (a.at k) (b.at k)))

/-- Two ranges of bytes share a byte. -/
def overlaps (a n b m : Nat) : Bool := decide (a < b + m) && decide (b < a + n)

/-- Find the first element that satisfies `p`, with its position. -/
def findIdxE {α : Type} (p : α → Bool) : List α → Nat → Option (Nat × α)
  | [], _ => none
  | x :: l, k => if p x then some (k, x) else findIdxE p l (k + 1)

end Sys2Proof.Machine
end

