-- ==== Sys2Proof/Machine/Flags.lean ====
section
/-! DEFINITION. The sticky flags of `%fstat` (Table 1.6, R84) and the rounding mode (R83). -/

namespace Sys2Proof.Machine

/-- Floating-point exception flags. -/
structure FF where
  nx : Bool
  uf : Bool
  of : Bool
  dz : Bool
  nv : Bool
  deriving DecidableEq, Repr

/-- No flag. -/
def FF.none : FF := { nx := false, uf := false, of := false, dz := false, nv := false }

/-- Invalid operation. -/
def FF.invalid : FF := { FF.none with nv := true }

/-- Flags of either of two results. -/
def FF.or (a b : FF) : FF :=
  { nx := a.nx || b.nx, uf := a.uf || b.uf, of := a.of || b.of, dz := a.dz || b.dz, nv := a.nv || b.nv }

/-- NX<4>, UF<3>, OF<2>, DZ<1>, NV<0> (Table 1.6). -/
def FF.bits (f : FF) : BitVec 10 :=
  0#5 ++ BitVec.ofBool f.nx ++ BitVec.ofBool f.uf ++ BitVec.ofBool f.of ++ BitVec.ofBool f.dz ++ BitVec.ofBool f.nv

/-- Rounding modes (Table 3.3). -/
inductive RM where
  | rne | rtz | rdn | rup
  deriving DecidableEq, Repr

/-- The mode of `%fstat.RM`. -/
def rmOf (fstat : BitVec 10) : RM :=
  match field fstat 9 8 with
  | 0 => .rne
  | 1 => .rtz
  | 2 => .rdn
  | _ => .rup

/-- The mode an instruction rounds by: RND where it is nonzero, else `%fstat.RM` (R83). -/
def roundMode (fstat : BitVec 10) (rnd : BitVec 3) : RM :=
  match rnd.toNat with
  | 1 => .rne
  | 2 => .rtz
  | 3 => .rdn
  | 4 => .rup
  | _ => rmOf fstat

end Sys2Proof.Machine
end

