-- ==== Sys2Proof/Machine/Float.lean ====
section
/-! DEFINITION. Floating-point values, exact results and their delivery (R75 to R77, R83 to R88, R58, R85). -/

namespace Sys2Proof.Machine

/-- A floating-point format (Table 3.1): widths, bias, and whether it has infinities (R77). -/
structure Fmt where
  ebits : Nat
  mbits : Nat
  bias : Nat
  hasInf : Bool
  deriving DecidableEq, Repr

def Fmt.f32 : Fmt := { ebits := 8, mbits := 23, bias := 127, hasInf := true }
def Fmt.f16 : Fmt := { ebits := 5, mbits := 10, bias := 15, hasInf := true }
def Fmt.bf16 : Fmt := { ebits := 8, mbits := 7, bias := 127, hasInf := true }
def Fmt.e5m2 : Fmt := { ebits := 5, mbits := 2, bias := 15, hasInf := true }
def Fmt.e4m3 : Fmt := { ebits := 4, mbits := 3, bias := 7, hasInf := false }

/-- The value of a bit pattern: `fin n m e` is m times 2^e, negative when n. -/
inductive FVal where
  | nan (signalling : Bool)
  | inf (neg : Bool)
  | fin (neg : Bool) (m : Nat) (e : Int)
  deriving DecidableEq, Repr

/-- An exact result before rounding; `more` says that the magnitude lies strictly between m and m + 1 times 2^e. -/
inductive Exact where
  | nan
  | inf (neg : Bool)
  | num (neg : Bool) (m : Nat) (e : Int) (more : Bool)
  deriving DecidableEq, Repr

/-- The value of a bit pattern (R75, R77). -/
def Fmt.value (f : Fmt) (x : Nat) : FVal :=
  let neg := x / 2 ^ (f.ebits + f.mbits) % 2 == 1
  let e := x / 2 ^ f.mbits % 2 ^ f.ebits
  let m := x % 2 ^ f.mbits
  if e = 2 ^ f.ebits - 1 ∧ f.hasInf then
    if m = 0 then .inf neg else .nan (m / 2 ^ (f.mbits - 1) % 2 == 0)
  else if e = 2 ^ f.ebits - 1 ∧ m = 2 ^ f.mbits - 1 then .nan false
  else if e = 0 then .fin neg m (1 - f.bias - f.mbits)
  else .fin neg (m + 2 ^ f.mbits) ((e : Int) - f.bias - f.mbits)

/-- The canonical NaN (Table 3.1). -/
def Fmt.nan (f : Fmt) : Nat :=
  if f.hasInf then (2 ^ f.ebits - 1) * 2 ^ f.mbits + 2 ^ (f.mbits - 1) else 2 ^ (f.ebits + f.mbits) - 1

/-- The sign bit's weight. -/
def Fmt.sign (f : Fmt) (neg : Bool) : Nat := if neg then 2 ^ (f.ebits + f.mbits) else 0

/-- The magnitude pattern of infinity. -/
def Fmt.infBits (f : Fmt) : Nat := (2 ^ f.ebits - 1) * 2 ^ f.mbits

/-- The magnitude pattern of the largest finite value. -/
def Fmt.maxBits (f : Fmt) : Nat :=
  if f.hasInf then f.infBits - 1 else 2 ^ (f.ebits + f.mbits) - 2

/-- The magnitude pattern of 1. -/
def Fmt.oneBits (f : Fmt) : Nat := f.bias * 2 ^ f.mbits

/-- Number of bits of a positive number. -/
def bitLen (n : Nat) : Nat := if n = 0 then 0 else Nat.log2 n + 1

/-- Round the magnitude m times 2^e to a multiple of 2^q: the multiple and whether it is inexact (Table 3.3). -/
def roundMul (rm : RM) (neg : Bool) (m : Nat) (e : Int) (more : Bool) (q : Int) : Nat × Bool :=
  if q ≤ e then (m * 2 ^ (e - q).toNat, more)
  else
    let d := (q - e).toNat
    let k := m / 2 ^ d
    let r := m % 2 ^ d
    let half := 2 ^ (d - 1)
    let inexact := r != 0 || more
    let up := match rm with
      | .rne => decide (half < r) || (r == half && (more || k % 2 == 1))
      | .rtz => false
      | .rdn => neg && inexact
      | .rup => !neg && inexact
    (if up then k + 1 else k, inexact)

/-- Whether an overflow of a sign gives an infinity (Table 3.3). -/
def overflowInf (rm : RM) (neg : Bool) : Bool :=
  match rm with
  | .rne => true
  | .rtz => false
  | .rdn => neg
  | .rup => !neg

/-- The magnitude pattern of n times 2^q, where q is at least the subnormal quantum and n has at most mbits + 1 bits or is
a power of two above them. -/
def Fmt.pack (f : Fmt) (n : Nat) (q : Int) : Nat :=
  if n = 0 then 0
  else
    let l := bitLen n
    let top : Int := (l : Int) - 1 + q
    let emin : Int := 1 - f.bias
    if top < emin then n * 2 ^ (q - (emin - f.mbits)).toNat
    else
      let frac := if f.mbits + 1 ≤ l then n / 2 ^ (l - 1 - f.mbits) else n * 2 ^ (f.mbits + 1 - l)
      (top + f.bias).toNat * 2 ^ f.mbits + (frac - 2 ^ f.mbits)

/-- The modifier fields that act on a result (R58 steps 3 to 6). -/
structure Tail where
  pow : Int
  clamp : Nat
  sat : Bool
  deriving DecidableEq, Repr

/-- No modifier. -/
def Tail.none : Tail := { pow := 0, clamp := 0, sat := false }

/-- What stands after rounding and before clamping: an infinity, or a magnitude pattern. -/
inductive Rounded where
  | inf
  | mag (n : Nat)
  deriving DecidableEq, Repr

/-- Round a finite exact value by R83: the rounded magnitude, its flags NX and OF, and whether it is tiny (R84). -/
def Fmt.roundFin (f : Fmt) (rm : RM) (neg : Bool) (m : Nat) (e : Int) (more : Bool) : Rounded × FF × Bool :=
  let emin : Int := 1 - f.bias
  let top : Int := (bitLen m : Int) - 1 + e
  let u := roundMul rm neg m e more (top - f.mbits)
  let tiny := m != 0 && decide ((bitLen u.1 : Int) - 1 + (top - f.mbits) < emin)
  let q := max (top - f.mbits) (emin - f.mbits)
  let r := roundMul rm neg m e more q
  let p := f.pack r.1 q
  if f.maxBits < p then
    (if overflowInf rm neg then .inf else .mag f.maxBits, { FF.none with nx := true, of := true }, false)
  else (.mag p, { FF.none with nx := r.2 }, tiny)

/-- An infinite source has no value in the format: only SAT and CLAMP 11 give one (R86). -/
def Fmt.noInf (f : Fmt) (t : Tail) (x : Exact) : Bool :=
  match x with
  | .inf _ => !f.hasInf && t.clamp != 3 && !t.sat
  | _ => false

/-- Deliver an exact result to a format: scale by POW, round, clamp, saturate (R58, R83 to R86). CLAMP 01 and 10 take a finite
overflow to the bound also where `e4m3` has NaN for it: that NaN stands for an infinity (R85; log entry 31). An infinite source goes to the bound too where SAT stands beside them (log
entry 31). -/
def Fmt.deliver (f : Fmt) (rm : RM) (t : Tail) (x : Exact) : Nat × FF :=
  match x with
  | .nan => (f.nan, FF.none)
  | _ => if f.noInf t x then (f.nan, FF.invalid) else
    let (neg, r, fl, tiny) : Bool × Rounded × FF × Bool := match x with
      | .num n m e more =>
        let y := f.roundFin rm n m (e + t.pow) more
        (n, y.1, y.2.1, y.2.2)
      | .inf n => (n, .inf, FF.none, false)
      | .nan => (false, .inf, FF.none, false)
    let nx := { fl with nx := true }
    let (neg, r, fl) : Bool × Rounded × FF :=
      if t.clamp = 1 ∨ t.clamp = 2 then
        match r with
        | .inf => if t.clamp = 1 ∧ neg then (false, .mag 0, nx) else (neg, .mag f.oneBits, nx)
        | .mag n =>
          if n = 0 then (false, .mag 0, fl)
          else if t.clamp = 1 ∧ neg then (false, .mag 0, nx)
          else if f.oneBits < n then (neg, .mag f.oneBits, nx) else (neg, .mag n, fl)
      else (neg, r, fl)
    let (r, fl) : Rounded × FF := match r with
      | .inf => if t.clamp = 3 ∨ t.sat then (.mag f.maxBits, { fl with nx := true }) else (.inf, fl)
      | .mag n => (.mag n, fl)
    match r with
    | .mag n => (f.sign neg + n, { fl with uf := tiny && fl.nx })
    | .inf => if f.hasInf then (f.sign neg + f.infBits, fl) else (f.nan, fl)

/-- A source after ABS, then NEG (R58 step 1). -/
def FVal.mod (v : FVal) (neg abs : Bool) : FVal :=
  match v with
  | .nan q => .nan q
  | .inf n => .inf ((n && !abs) != neg)
  | .fin n m e => .fin ((n && !abs) != neg) m e

/-- The negated value. -/
def FVal.neg (v : FVal) : FVal := v.mod true false

/-- A signalling NaN sets NV wherever it is read (R76). -/
def FVal.nv (v : FVal) : Bool :=
  match v with
  | .nan true => true
  | _ => false

/-- A NaN of either kind. -/
def FVal.isNan (v : FVal) : Bool :=
  match v with
  | .nan _ => true
  | _ => false

/-- A finite value or infinity as an exact result. -/
def FVal.exact (v : FVal) : Exact :=
  match v with
  | .nan _ => .nan
  | .inf n => .inf n
  | .fin n m e => .num n m e false

/-- NV when any source is signalling. -/
def nvOf (l : List FVal) : FF := { FF.none with nv := l.any FVal.nv }

/-- The signed numerator of a magnitude. -/
def signed (neg : Bool) (m : Nat) : Int := if neg then -(m : Int) else m

/-- Exact sum of two values that are not NaN (Table 3.4). -/
def exactSum (rm : RM) (x y : Exact) : Exact × FF :=
  match x, y with
  | .nan, _ => (.nan, FF.none)
  | _, .nan => (.nan, FF.none)
  | .inf a, .inf b => if a = b then (.inf a, FF.none) else (.nan, FF.invalid)
  | .inf a, _ => (.inf a, FF.none)
  | _, .inf b => (.inf b, FF.none)
  | .num a m e _, .num b n g _ =>
    let lo := min e g
    let i := signed a (m * 2 ^ (e - lo).toNat) + signed b (n * 2 ^ (g - lo).toNat)
    if i = 0 then
      (if m = 0 ∧ n = 0 ∧ a = b then .num a 0 0 false else .num (rm == .rdn) 0 0 false, FF.none)
    else (.num (decide (i < 0)) i.natAbs lo false, FF.none)

/-- Exact product (Table 3.4). -/
def exactMul (x y : FVal) : Exact × FF :=
  match x, y with
  | .nan _, _ => (.nan, FF.none)
  | _, .nan _ => (.nan, FF.none)
  | .inf a, .inf b => (.inf (a != b), FF.none)
  | .inf a, .fin b n _ => if n = 0 then (.nan, FF.invalid) else (.inf (a != b), FF.none)
  | .fin a m _, .inf b => if m = 0 then (.nan, FF.invalid) else (.inf (a != b), FF.none)
  | .fin a m e, .fin b n g => (.num (a != b) (m * n) (e + g) false, FF.none)

/-- Quotient to 96 significant bits and a sticky remainder (Table 3.4). -/
def exactDiv (x y : FVal) : Exact × FF :=
  match x, y with
  | .nan _, _ => (.nan, FF.none)
  | _, .nan _ => (.nan, FF.none)
  | .inf _, .inf _ => (.nan, FF.invalid)
  | .inf a, .fin b _ _ => (.inf (a != b), FF.none)
  | .fin a _ _, .inf b => (.num (a != b) 0 0 false, FF.none)
  | .fin a m e, .fin b n g =>
    if n = 0 then (if m = 0 then (.nan, FF.invalid) else (.inf (a != b), { FF.none with dz := true }))
    else
      let k := m * 2 ^ 96
      (.num (a != b) (k / n) (e - g - 96) (k % n != 0), FF.none)

/-- The largest number whose square is at most n, by binary digits from bit k - 1 down, starting at r. -/
def isqrtFrom (n : Nat) : Nat → Nat → Nat
  | 0, r => r
  | k + 1, r => isqrtFrom n k (if (r + 2 ^ k) * (r + 2 ^ k) ≤ n then r + 2 ^ k else r)

/-- Integer square root. -/
def isqrt (n : Nat) : Nat := isqrtFrom n (bitLen n / 2 + 1) 0

/-- Square root with a sticky remainder (Table 3.4). -/
def exactSqrt (x : FVal) : Exact × FF :=
  match x with
  | .nan _ => (.nan, FF.none)
  | .inf n => if n then (.nan, FF.invalid) else (.inf false, FF.none)
  | .fin n m e =>
    if m = 0 then (.num n 0 0 false, FF.none)
    else if n then (.nan, FF.invalid)
    else
      let (m, e) : Nat × Int := if e % 2 = 0 then (m, e) else (2 * m, e - 1)
      let k := m * 2 ^ 80
      let r := isqrt k
      (.num false r (e / 2 - 40) (r * r != k), FF.none)

/-- Compare two values that are not NaN: negative, zero or positive. `zs` puts −0 below +0 (Table 3.4). -/
def fcompare (zs : Bool) (x y : FVal) : Int :=
  match x, y with
  | .fin a m e, .fin b n g =>
    let lo := min e g
    let i := signed a (m * 2 ^ (e - lo).toNat) - signed b (n * 2 ^ (g - lo).toNat)
    if i = 0 ∧ m = 0 ∧ zs then (if a = b then 0 else if a then -1 else 1) else i
  | .inf a, .inf b => if a = b then 0 else if a then -1 else 1
  | .inf a, _ => if a then -1 else 1
  | _, .inf b => if b then 1 else -1
  | _, _ => 0

/-- Minimum or maximum (Table 3.4). -/
def fminmax (max : Bool) (x y : FVal) : FVal :=
  if x.isNan then (if y.isNan then .nan false else y)
  else if y.isNan then x
  else if max then (if 0 ≤ fcompare true x y then x else y) else (if fcompare true x y ≤ 0 then x else y)

/-- The comparisons of scalar and vector FP32. -/
inductive FCmp where
  | eq | lt | le | un
  deriving DecidableEq, Repr

/-- A comparison and its flag (Table 3.4). -/
def fcmp (c : FCmp) (x y : FVal) : Bool × FF :=
  if x.isNan ∨ y.isNan then
    (c == .un, { FF.none with nv := x.nv || y.nv || c == .lt || c == .le })
  else
    let i := fcompare false x y
    (match c with
      | .eq => decide (i = 0)
      | .lt => decide (i < 0)
      | .le => decide (i ≤ 0)
      | .un => false, FF.none)

/-- Round to an integral value (Table 3.4, `vrint`). -/
def frint (rm : RM) (x : FVal) : FVal :=
  match x with
  | .fin n m e => if 0 ≤ e then x else .fin n (roundMul rm n m e false 0).1 0
  | _ => x

/-- A fused product and addend (R99, R148): the product negated when `np`, the addend when `na`. -/
def exactFma (rm : RM) (np na : Bool) (x y z : FVal) : Exact × FF :=
  let p := exactMul x y
  let q : Exact := match p.1 with
    | .nan => .nan
    | .inf n => .inf (n != np)
    | .num n m e s => .num (n != np) m e s
  let r := exactSum rm q (z.mod na false).exact
  (r.1, p.2.or r.2)

/-- The operations of scalar and vector FP32 that round once. -/
inductive FOp where
  | add | sub | mul | div | sqrt | min | max | fma | fms | fnma | fnms | abs | neg | rint
  deriving DecidableEq, Repr

/-- The exact result of an operation on sources already modified; unary ones read the second. -/
def FOp.exact (o : FOp) (rm : RM) (x y z : FVal) : Exact × FF :=
  match o with
  | .add => exactSum rm x.exact y.exact
  | .sub => exactSum rm x.exact y.neg.exact
  | .mul => exactMul x y
  | .div => exactDiv x y
  | .sqrt => exactSqrt y
  | .min => ((fminmax false x y).exact, FF.none)
  | .max => ((fminmax true x y).exact, FF.none)
  | .fma => exactFma rm false false x y z
  | .fms => exactFma rm false true x y z
  | .fnma => exactFma rm true true x y z
  | .fnms => exactFma rm true false x y z
  | .abs => ((y.mod false true).exact, FF.none)
  | .neg => (y.neg.exact, FF.none)
  | .rint => ((frint rm y).exact, FF.none)

/-- The sources an operation reads, for the signalling-NaN flag (R76). -/
def FOp.sources (o : FOp) (x y z : FVal) : List FVal :=
  match o with
  | .sqrt | .abs | .neg | .rint => [y]
  | .fma | .fms | .fnma | .fnms => [x, y, z]
  | _ => [x, y]

/-- The result fields of a modifier (R58). -/
def tailOf (m : Option Mod) : Tail :=
  match m with
  | none => Tail.none
  | some m => { pow := m.pow.toInt, clamp := m.clamp.toNat, sat := m.sat }

/-- The RND field of a modifier. -/
def rndOf (m : Option Mod) : BitVec 3 :=
  match m with
  | none => 0
  | some m => m.rnd

/-- The NEG and ABS fields of a modifier for sources A and B. -/
def negA (m : Option Mod) : Bool := match m with
  | none => false
  | some m => m.nega
def absA (m : Option Mod) : Bool := match m with
  | none => false
  | some m => m.absa
def negB (m : Option Mod) : Bool := match m with
  | none => false
  | some m => m.negb
def absB (m : Option Mod) : Bool := match m with
  | none => false
  | some m => m.absb

/-- The value of an f32 pattern. -/
def f32Val (x : W32) : FVal := Fmt.f32.value x.toNat

/-- One f32 operation on three patterns: result and flags (R58, R83 to R85, R132, R146, R148). -/
def fop (o : FOp) (m : Option Mod) (rm : RM) (a b c : W32) : W32 × FF :=
  let x := (f32Val a).mod (negA m) (absA m)
  let y := (f32Val b).mod (negB m) (absB m)
  let z := f32Val c
  let e := o.exact rm x y z
  let r := Fmt.f32.deliver rm (tailOf m) e.1
  let fl := ((nvOf (o.sources x y z)).or e.2).or r.2
  (BitVec.ofNat 32 r.1, if o = .rint then { fl with nx := false } else fl)

/-- A conversion between floating-point formats (R86): the source takes ABS and NEG. -/
def fconv (src dst : Fmt) (m : Option Mod) (rm : RM) (neg abs : Bool) (x : Nat) : Nat × FF :=
  let v := (src.value x).mod neg abs
  let r := dst.deliver rm (tailOf m) v.exact
  (r.1, (nvOf [v]).or r.2)

/-- The result of a float-to-integer conversion within bounds lo and hi (R87, R133). -/
def floatToInt (lo hi : Int) (m : Option Mod) (rm : RM) (neg abs : Bool) (x : W32) : Int × FF :=
  let t := tailOf m
  let clampI (i : Int) (fl : FF) : Int × FF :=
    let j := if t.clamp = 1 then max 0 (min i 1) else if t.clamp = 2 then max (-1) (min i 1) else i
    (j, if j = i then fl else { fl with nx := true })
  match (f32Val x).mod neg abs with
  | .nan _ => clampI 0 FF.invalid
  | .inf n => clampI (if n then lo else hi) FF.invalid
  | .fin n k e =>
    let r := roundMul rm n k (e + t.pow) false 0
    let i := signed n r.1
    if i < lo then clampI lo FF.invalid
    else if hi < i then clampI hi FF.invalid
    else clampI i { FF.none with nx := r.2 }

/-- The result of an integer-to-float conversion (R88, R133). -/
def intToFloat (m : Option Mod) (rm : RM) (neg abs : Bool) (i : Int) : W32 × FF :=
  let j := if abs then (i.natAbs : Int) else i
  let j := if neg then -j else j
  let r := Fmt.f32.deliver rm (tailOf m) (.num (decide (j < 0)) j.natAbs 0 false)
  (BitVec.ofNat 32 r.1, r.2)

/-- Round an exact sum of f32 values to nearest-even (R95, R100). -/
def addRne (f : Fmt) (a b : Nat) : Nat × FF :=
  let x := f.value a
  let y := f.value b
  let e := exactSum .rne x.exact y.exact
  let r := f.deliver .rne Tail.none e.1
  (r.1, ((nvOf [x, y]).or e.2).or r.2)

end Sys2Proof.Machine
end

