-- ==== Sys2Proof/Machine/Mem.lean ====
section
/-! DEFINITION. Memory by location number, block metadata, and the readers and writers of the state's parts. Location
numbers: HBM at its physical address, host memory at 2^52 and above, local stores at 2^53, creels at 2^54, lane slices
at 2^55. -/

namespace Sys2Proof.Machine

/-- What an unlisted location reads as (log entry 4). -/
def Memory.blank : Byte := 0

/-- The byte at location `a`. -/
def Memory.get : Memory → Nat → Byte
  | [], _ => Memory.blank
  | (b, x) :: m, a => if a = b then x else if a < b then Memory.blank else Memory.get m a

/-- Put byte `x` at location `a`, keeping the canonical form. -/
def Memory.put : Memory → Nat → Byte → Memory
  | [], a, x => if x = Memory.blank then [] else [(a, x)]
  | (b, y) :: m, a, x =>
    if a < b then (if x = Memory.blank then (b, y) :: m else (a, x) :: (b, y) :: m)
    else if a = b then (if x = Memory.blank then m else (a, x) :: m)
    else (b, y) :: Memory.put m a x

/-- Every listed location is at least `lo`, locations rise strictly, and no listed byte is the blank one. -/
def Memory.wfFrom : Nat → Memory → Bool
  | _, [] => true
  | lo, (b, x) :: m => decide (lo ≤ b) && x != Memory.blank && Memory.wfFrom (b + 1) m

/-- The canonical form of memory. -/
def Memory.wf (m : Memory) : Bool := Memory.wfFrom 0 m

/-- n bytes from location `a`, lowest first. -/
def Memory.bytes (m : Memory) (a : Nat) : Nat → List Byte
  | 0 => []
  | n + 1 => m.get a :: Memory.bytes m (a + 1) n

/-- The number in n bytes from location `a`, little-endian (R9). -/
def Memory.num (m : Memory) (a n : Nat) : Nat := ofLE (m.bytes a n)

/-- Write bytes from location `a` upward. -/
def Memory.putBytes (m : Memory) (a : Nat) : List Byte → Memory
  | [] => m
  | b :: bs => Memory.putBytes (m.put a b) (a + 1) bs

/-- Write the low n bytes of `w` from location `a`, little-endian (R9). -/
def Memory.putNum (m : Memory) (a n w : Nat) : Memory := m.putBytes a (leBytes n w)

/-- The location of host address `a`. -/
def hostLoc (a : Nat) : Nat := 2 ^ 52 + a

/-- The location of a byte of a core's local store. -/
def lsLoc (core off : Nat) : Nat := 2 ^ 53 + core * 2 ^ 19 + off

/-- The location of a byte of a die's creel. -/
def creelLoc (die off : Nat) : Nat := 2 ^ 54 + die * 2 ^ 26 + off

/-- The location of a byte of a lane slice (R142). -/
def sliceLoc (core lane off : Nat) : Nat := 2 ^ 55 + core * 2 ^ 15 + lane * 2 ^ 9 + off

/-- Local-store bytes of a core: 384 KiB (R1). -/
def lsBytes : Nat := 393216

/-- Element i of a vector, or `d` outside its range. -/
def vget {α : Type} {n : Nat} (v : Vector α n) (i : Nat) (d : α) : α := (v[i]?).getD d

/-- A vector with element i replaced. -/
def vset {α : Type} {n : Nat} (v : Vector α n) (i : Nat) (x : α) : Vector α n := v.setIfInBounds i x

/-- The die of a core (R3, R6, Table 0.1). -/
def coreDie (c : Nat) : Nat := if c < 4608 then c / 1152 else (c - 4608) / 12

/-- The mesh row of a shuttle (R3). -/
def coreRow (c : Nat) : Nat := c % 1152 / 48

/-- The mesh column of a shuttle (R3). -/
def coreCol (c : Nat) : Nat := c % 48

/-- A core is a selvedge core. -/
def isSelvedge (c : Nat) : Bool := decide (4608 ≤ c)

/-- The core number of a shuttle. -/
def shuttleAt (die col row : Nat) : Nat := die * 1152 + row * 48 + col

/-- `%coreid` (Table 1.6). -/
def coreId (c : Nat) : BitVec 16 :=
  if isSelvedge c then BitVec.ofNat 16 (2 ^ 15 + coreDie c * 2 ^ 12 + (c - 4608) % 12)
  else BitVec.ofNat 16 (coreDie c * 2 ^ 12 + coreRow c * 2 ^ 6 + coreCol c)

/-- The core a `%coreid` pattern names, if it names one (R239). -/
def coreOfId (x : BitVec 16) : Option Nat :=
  if bit x 14 then none
  else if bit x 15 then
    if field x 5 0 < 12 ∧ field x 11 6 = 0 then some (4608 + field x 13 12 * 12 + field x 5 0) else none
  else if field x 5 0 < 48 ∧ field x 10 6 < 24 ∧ field x 11 11 = 0 then
    some (shuttleAt (field x 13 12) (field x 5 0) (field x 10 6))
  else none

/-- The loom of a shuttle within its die, 15 for a selvedge core (R4, Table 1.6). -/
def loomOf (c : Nat) : Nat := if isSelvedge c then 15 else coreRow c / 8 * 4 + coreCol c / 12

/-- The core in loom position `i` of a core's loom (Table 7.1), none where there is none. -/
def loomCore (c i : Nat) : Option Nat :=
  if isSelvedge c then (if i = 0 then some c else none)
  else if i < 96 then
    some (shuttleAt (coreDie c) (coreCol c / 12 * 12 + i % 12) (coreRow c / 8 * 8 + i / 12))
  else none

/-- The neighbour of a core in a direction: 0 north, 1 east, 2 south, 3 west (R3); selvedge cores have none. -/
def neighbour (c : Nat) (dir : Nat) : Option Nat :=
  if isSelvedge c then none
  else match dir with
    | 0 => if coreRow c = 0 then none else some (c - 48)
    | 1 => if coreCol c = 47 then none else some (c + 1)
    | 2 => if coreRow c = 23 then none else some (c + 48)
    | _ => if coreCol c = 0 then none else some (c - 1)

/-- The opposite of a mesh direction (R20). -/
def opposite (dir : Nat) : Nat := (dir + 2) % 4

/-- A core's record. -/
def State.core (s : State) (c : Nat) : Core := alGetD s.cores c Core.init

/-- Replace a core's record. -/
def State.setCore (s : State) (c : Nat) (k : Core) : State := { s with cores := alSet s.cores c k }

/-- Update a core's record. -/
def State.updCore (s : State) (c : Nat) (f : Core → Core) : State := s.setCore c (f (s.core c))

/-- A thread's record. -/
def State.thread? (s : State) (t : Nat) : Option Thread := alGet s.threads t

/-- Replace a thread's record. -/
def State.setThread (s : State) (t : Nat) (r : Thread) : State := { s with threads := alSet s.threads t r }

/-- Update a thread's record, where there is one. -/
def State.updThread (s : State) (t : Nat) (f : Thread → Thread) : State :=
  match s.thread? t with
  | some r => s.setThread t (f r)
  | none => s

/-- A die's record. -/
def State.die (s : State) (d : Nat) : Die := vget s.dies d Die.init

/-- Replace a die's record. -/
def State.setDie (s : State) (d : Nat) (x : Die) : State := { s with dies := vset s.dies d x }

/-- Update a die's record. -/
def State.updDie (s : State) (d : Nat) (f : Die → Die) : State := s.setDie d (f (s.die d))

/-- A heddle's record: memory heddle m of die d is 8 d + m. -/
def State.heddle (s : State) (h : Nat) : Heddle := alGetD s.heddles h Heddle.init

/-- Update a heddle's record. -/
def State.updHeddle (s : State) (h : Nat) (f : Heddle → Heddle) : State :=
  { s with heddles := alSet s.heddles h (f (s.heddle h)) }

/-- A domain's record; a domain that is not live reads as free. -/
def State.dom (s : State) (d : DomId) : Domain := alGetD s.doms d.toNat { Domain.bare with state := 0 }

/-- Update a domain's record. -/
def State.updDom (s : State) (d : DomId) (f : Domain → Domain) : State :=
  { s with doms := alSet s.doms d.toNat (f (s.dom d)) }

/-- A key slot's record (R379). -/
def State.key (s : State) (i : Nat) : KeySlot := alGetD s.keys i KeySlot.init

/-- Update a key slot's record. -/
def State.updKey (s : State) (i : Nat) (f : KeySlot → KeySlot) : State :=
  { s with keys := alSet s.keys i (f (s.key i)) }

/-- A retired slot's next state (R379, R380): generation 0xFF is swept first. -/
def KeySlot.retired (k : KeySlot) : KeySlot :=
  { k with state := if k.gen = 0xFF then .sweep else .free, exports := [], closer := none, origin := none }

/-- An engine operation of a core. -/
def State.op? (s : State) (c o : Nat) : Option EngineOp := alGet (s.core c).ops o

/-- Update an engine operation of a core, where there is one. -/
def State.updOp (s : State) (c o : Nat) (f : EngineOp → EngineOp) : State :=
  match s.op? c o with
  | some x => s.updCore c (fun k => { k with ops := alSet k.ops o (f x) })
  | none => s

/-- The block that holds a location. -/
def blockNo (a : Nat) : Nat := a / 128

/-- The valid region that holds a physical address, with its index (R357). -/
def State.regionAt (s : State) (pa : Nat) : Option (Nat × Region) :=
  s.regions.find? (fun x => decide (x.2.base ≤ pa) && decide (pa < x.2.base + 2 ^ x.2.log2))

/-- The draft that governs a physical address; draft 0 outside every region (R357). -/
def State.draftAt (s : State) (pa : Nat) : Nat :=
  match s.regionAt pa with
  | some (_, r) => r.draft.toNat
  | none => 0

/-- The access state that a region's draft gives a block no message has reached (R357, R358, R360). -/
def State.tagInitAt (s : State) (pa : Nat) : BitVec 2 :=
  match alGet s.drafts (s.draftAt pa) with
  | some d => d.tagInit
  | none => 0

/-- A block's metadata (R275). -/
def State.block (s : State) (b : Nat) : BlockMeta :=
  match alGet s.blocks b with
  | some m => m
  | none => { BlockMeta.init with access := s.tagInitAt (128 * b) }

/-- Update a block's metadata. -/
def State.updBlock (s : State) (b : Nat) (f : BlockMeta → BlockMeta) : State :=
  { s with blocks := alSet s.blocks b (f (s.block b)) }

/-- A fresh identifier and the state after drawing it. -/
def State.fresh (s : State) : Nat × State := (s.nextId, { s with nextId := s.nextId + 1 })

/-- The data of a block of HBM. -/
def State.blockData (s : State) (b : Nat) : Block := blockOf (s.mem.bytes (128 * b) 128)

/-- Write a block of HBM. -/
def State.putBlock (s : State) (b : Nat) (x : Block) : State :=
  { s with mem := s.mem.putBytes (128 * b) (leBytes 128 x.toNat) }

/-- A key identifier's slot is LIVE at its generation (Table 7.2 row 7). -/
def State.keyLive (s : State) (k : KeyId) : Bool :=
  let slot := s.key (field k 11 0)
  decide (slot.state = .live) && (field k 19 12 == slot.gen.toNat)

/-- The key identifier of a slot at its present generation. -/
def State.keyOf (s : State) (i : Nat) : KeyId := (s.key i).gen ++ BitVec.ofNat 12 i

/-- A pending register mask with register r's bit set or cleared (R30). -/
def setPend (m : BitVec 24) (r : Nat) (b : Bool) : BitVec 24 :=
  if b then m ||| (1#24 <<< r) else m &&& ~~~(1#24 <<< r)

/-- The stream registers of an agent's thread. -/
def Thread.ctx (t : Thread) (acc : Bool) : Ctx := if acc then t.acc else t.exe

/-- Update a stream's registers. -/
def Thread.updCtx (t : Thread) (acc : Bool) (f : Ctx → Ctx) : Thread :=
  if acc then { t with acc := f t.acc } else { t with exe := f t.exe }

/-- Scalar register r as stored. -/
def Ctx.reg (c : Ctx) (r : Nat) : Word := vget c.s r 0

/-- Store scalar register r. -/
def Ctx.setReg (c : Ctx) (r : Nat) (w : Word) : Ctx := { c with s := vset c.s r w }

/-- Put a value that arrives later at its destination (R30, R129, R20): a discarded queue entry, a register no longer pending or an
ended thread drops it (R128). -/
def State.deliver (s : State) (tid : Nat) (d : Dest) (w : Word) : State :=
  match d with
  | .none => s
  | .reg acc r =>
    s.updThread tid (fun t => t.updCtx acc (fun c =>
      if !c.pend.getLsbD r then c
      else
        let c := { c with pend := setPend c.pend r false }
        if r = 0 ∧ t.kind ≠ .pick ∧ t.kind ≠ .rowPick then c else c.setReg r w))
  | .queue id =>
    s.updThread tid (fun t =>
      { t with q := t.q.map (fun l => l.map (fun e => if e = .reserved id then .filled w else e)) })
  | .port core dir id =>
    s.updCore core (fun k =>
      let l := (vget k.ports dir.toNat []).map (fun e => if e = .reserved id then .scalar w else e)
      { k with ports := vset k.ports dir.toNat l })

/-- Give up an entry that was reserved for a value which will not arrive (R129). -/
def State.cancel (s : State) (tid : Nat) (d : Dest) : State :=
  match d with
  | .queue id => s.updThread tid (fun t => { t with q := t.q.map (fun l => l.filter (fun e => e != .reserved id)) })
  | .port core dir id =>
    s.updCore core (fun k =>
      let l := (vget k.ports dir.toNat []).filter (fun e => e != .reserved id)
      { k with ports := vset k.ports dir.toNat l })
  | _ => s

end Sys2Proof.Machine
end

