-- ==== Sys2Proof/Machine/Translate.lean ====
section
/-! DEFINITION. Effective domain fields (R248), page-table walks (R345 to R348), translation caches (R350) and the checks
of Table 7.2 rows 2 to 8. -/

namespace Sys2Proof.Machine

/-- The domain whose control block stands at the address that a block's PARENT gives (Table 10.1); the root where none does. -/
def State.parentOf (s : State) (r : Domain) : DomId :=
  match s.doms.find? (fun x => x.2.addr == r.parent) with
  | some x => BitVec.ofNat 20 x.1
  | none => 0

/-- A domain and its ancestors, itself first (R246: at most 8 levels). -/
def State.domChain (s : State) : Nat → DomId → List (DomId × Domain)
  | 0, _ => []
  | n + 1, d =>
    if d = 0 then [(d, s.dom d)] else (d, s.dom d) :: s.domChain n (s.parentOf (s.dom d))

/-- A domain and its ancestors. -/
def State.lineage (s : State) (d : DomId) : List (DomId × Domain) := s.domChain 8 d

/-- The nearest field from a list of domains whose OVR bit is set, the last one's where none is (R248). -/
def effNear {α : Type} (b : Nat) (f : Domain → α) (dflt : α) : List (DomId × Domain) → α
  | [] => dflt
  | [(_, r)] => f r
  | (_, r) :: l => if bit r.ovr b then f r else effNear b f dflt l

/-- The same for a budget field, whose own value is capped by the parent's (R248). -/
def effCap {α : Type} (b : Nat) (f : Domain → α) (cap : α → α → α) (dflt : α) : List (DomId × Domain) → α
  | [] => dflt
  | [(_, r)] => f r
  | (_, r) :: l => if bit r.ovr b then cap (f r) (effCap b f cap dflt l) else effCap b f cap dflt l

/-- The smaller of two bit vectors. -/
def bvMin {n : Nat} (a b : BitVec n) : BitVec n := if a.toNat ≤ b.toNat then a else b

/-- `a` is `d` or one of its ancestors. -/
def State.within (s : State) (d a : DomId) : Bool := (s.lineage d).any (fun x => x.1 == a)

def State.effPrio (s : State) (d : DomId) : BitVec 3 := effNear 0 Domain.prio 0 (s.lineage d)
def State.effMaxshut (s : State) (d : DomId) : BitVec 13 := effCap 1 Domain.maxshut bvMin 0 (s.lineage d)
def State.effDiemask (s : State) (d : DomId) : BitVec 4 := effCap 1 Domain.diemask (· &&& ·) 0 (s.lineage d)
def State.effMaxh (s : State) (d : DomId) : BitVec 5 := effCap 1 Domain.maxh bvMin 0 (s.lineage d)
def State.effMaxw (s : State) (d : DomId) : BitVec 6 := effCap 1 Domain.maxw bvMin 0 (s.lineage d)
def State.effMemq (s : State) (d : DomId) : BitVec 40 := effCap 2 Domain.memq bvMin 0 (s.lineage d)
def State.effKeyq (s : State) (d : DomId) : BitVec 16 := effCap 4 Domain.keyq bvMin 0 (s.lineage d)
def State.effSlice (s : State) (d : DomId) : BitVec 32 := effCap 3 Domain.slice bvMin 0 (s.lineage d)
def State.effSupv (s : State) (d : DomId) : BitVec 16 := effNear 6 Domain.supv 0 (s.lineage d)
/-- The fault domain of a domain (R249). -/
def State.effFdom (s : State) (d : DomId) : DomId := effNear 5 Domain.fdom 0 (s.lineage d)
def State.effEvtep (s : State) (d : DomId) : Word := effNear 6 Domain.evtep 0 (s.lineage d)
def State.effOwnkey (s : State) (d : DomId) : KeyId := effNear 7 Domain.ownkey 0 (s.lineage d)

/-- The id of the nearest domain of a list whose OVR bit is set, the root where none is. -/
def nearId (b : Nat) : List (DomId × Domain) → DomId
  | [] => 0
  | [(d, _)] => d
  | (d, r) :: l => if bit r.ovr b then d else nearId b l

/-- The domain whose grant table, spill queue, run queues or bobbin pool a domain uses. -/
def State.grantDom (s : State) (d : DomId) : DomId := nearId 8 (s.lineage d)
def State.spillDom (s : State) (d : DomId) : DomId := nearId 9 (s.lineage d)
def State.runqDom (s : State) (d : DomId) : DomId := nearId 10 (s.lineage d)
def State.poolDom (s : State) (d : DomId) : DomId := nearId 11 (s.lineage d)
def State.ctxDom (s : State) (d : DomId) : DomId := nearId 12 (s.lineage d)

/-- The owner of a protected domain (R383). -/
def State.owner (s : State) (d : DomId) : DomId := nearId 7 (s.lineage d)

/-- The overlap of two creel windows in units of 64 KiB: size and base (R248). -/
def creelCap (a b : BitVec 11 × BitVec 10) : BitVec 11 × BitVec 10 :=
  let lo := max a.2.toNat b.2.toNat
  let hi := min (a.2.toNat + a.1.toNat) (b.2.toNat + b.1.toNat)
  (BitVec.ofNat 11 (hi - lo), BitVec.ofNat 10 lo)

/-- The effective creel window of a domain on a die (R193, R248). -/
def State.effCreel (s : State) (d : DomId) (die : Nat) : BitVec 11 × BitVec 10 :=
  effCap 13 (fun r => vget r.creel die (0, 0)) creelCap (0, 0) (s.lineage d)

/-- A creel access of `n` bytes at `off` lies within the domain's window (R193). -/
def State.creelOk (s : State) (d : DomId) (die off n : Nat) : Bool :=
  let w := s.effCreel d die
  let hi := min ((w.2.toNat + w.1.toNat) * 65536) (2 ^ 26)
  w.1 != 0 && decide (w.2.toNat * 65536 ≤ off) && decide (off + n ≤ hi)

/-- A key belongs to an owner: its owner key, or a live sequence key of its subtree (R383). -/
def State.ownersKey (s : State) (o : DomId) (k : KeyId) : Bool :=
  let slot := s.key (field k 11 0)
  (k == (s.dom o).ownkey) ||
    (s.keyLive k && slot.kind == 2 && s.within slot.owner o)

/-- Table 7.2 row 6: the store of a domain may reach a page of this key, declassification and OWNDOM (R383). -/
def State.ownerAdmits (s : State) (d : DomId) (k : KeyId) (decl : Bool) (owndom : DomId) : Bool :=
  s.effOwnkey d == 0 || s.ownersKey (s.owner d) k || (decl && s.owner owndom == s.owner d)

/-- Why a walk fails: a REASON of Table 18.4 at a level, or a table block that cannot be read, with its address. -/
inductive WalkStop where
  | reason (r lvl : Nat)
  | integrity (pa : Nat)
  deriving DecidableEq, Repr

/-- A physical address that HBM backs (R348). -/
def hbmBacked (pa : Nat) : Bool :=
  decide (pa < 2 ^ 40) && decide (pa % 2 ^ 38 < 192 * 2 ^ 30) && decide (pa % 2 ^ 36 < 60 * 2 ^ 30)

/-- The die of an HBM address (R348). -/
def paDie (pa : Nat) : Nat := pa / 2 ^ 38 % 4

/-- The stack of a physical address within its die (R348). -/
def paStack (pa : Nat) : Nat := pa / 2 ^ 36 % 4

/-- The HBM stack of a block is lost (R400). -/
def State.stackLost (s : State) (b : Nat) : Bool :=
  (vget (s.die (paDie (128 * b))).hbmStacks (paStack (128 * b)) StackState.init).lost

/-- A block can be read under a key: its copy is sealed under it and not poisoned (R275, R369), and its stack is not lost: nothing of one
that is lost is consumed (R399). -/
def State.readable (s : State) (b : Nat) (k : KeyId) : Bool :=
  let m := s.block b
  m.sealedUnder == some k && !m.poison && !s.stackLost b

/-- The page size in bits of a leaf at a level (Table 18.2). -/
def leafBits (lvl : Nat) (c64 : Bool) : Nat := if lvl = 0 ∧ c64 then 16 else 12 + 9 * lvl

/-- The conditions of Table 18.4 on an entry, in ascending order of REASON; reason 6 is not among them. -/
def entryReason (lvl : Nat) (w0 w1 : Word) : Option Nat :=
  let leaf := bit w0 1
  let loc := field w0 9 8
  let pa := field w0 51 12 * 4096
  if !bit w0 0 then some 0
  else if field w0 63 52 != 0 || (if leaf then field w1 63 37 != 0 || (loc == 2 && field w0 51 27 != 0)
      else field w0 12 2 != 0 || (if lvl = 4 then field w1 63 21 != 0 else w1 != 0)) then some 1
  else if (leaf && decide (3 ≤ lvl)) || (!leaf && lvl == 0) || (leaf && bit w0 7 && lvl != 0) then some 2
  else if leaf && !bit w0 7 && pa % 2 ^ leafBits lvl false != 0 then some 3
  else if leaf && loc == 3 then some 4
  else if leaf && loc == 0 && !hbmBacked pa then some 5
  else none

/-- The L0 entry through which an access is translated: its own, or in a 64 KiB group whose sixteen entries differ any of them (R346). -/
def State.groupEntry (s : State) (a : Nat) : Nat :=
  let g := a / 256 * 256
  let word (k : Nat) : Nat × Nat := (s.mem.num (g + 16 * k) 8 / 2 ^ 16 * 2 ^ 16 + s.mem.num (g + 16 * k) 8 % 2 ^ 12, s.mem.num (g + 16 * k + 8) 8)
  if s.mem.num a 8 / 128 % 2 = 0 ∨ (List.range 16).all (fun k => word k == word 0) then a
  else g + 16 * (Config.groupPick s.tick % 16)

/-- Walk from level `lvl` at table base `base`, with the table entries that the die's cache holds (R350); `top` is word 1 of the L4
entry and `allow` its check (R345, R347). -/
def State.walkFrom (s : State) (cached : List (Nat × TlbEntry)) (ptkey : KeyId) (allow : Word → Bool) (va : VAddr) : Nat → Nat → Word →
    Except WalkStop TlbEntry
  | lvl, base, top =>
    let idx := va.toNat / 2 ^ (12 + 9 * lvl) % 512
    let a := if lvl = 0 then s.groupEntry (base + 16 * idx) else base + 16 * idx
    let hit := alGet cached a
    if hit.isNone && !s.readable (blockNo a) ptkey then .error (.integrity a)
    else
      let w0 := (hit.map TlbEntry.w0).getD (BitVec.ofNat 64 (s.mem.num a 8))
      let w1 := (hit.map TlbEntry.w1).getD (BitVec.ofNat 64 (s.mem.num (a + 8) 8))
      match entryReason lvl w0 w1 with
      | some r => .error (.reason r lvl)
      | none =>
        let top := if lvl = 4 then w1 else top
        if lvl == 4 && !allow top then .error (.reason 6 4)
        else if bit w0 1 then
          let b := leafBits lvl (bit w0 7)
          .ok { va := va >>> b <<< b, bits := b, w0 := w0, w1 := w1, top := top }
        else match lvl with
          | 0 => .error (.reason 2 0)
          | n + 1 => s.walkFrom cached ptkey allow va n (field w0 51 13 * 8192) top

/-- A walk of a die's page table (R345). It maps no address of the on-chip windows (R192). -/
def State.walk (s : State) (die : Nat) (allow : Word → Bool) (va : VAddr) : Except WalkStop TlbEntry :=
  let d := s.die die
  if !bit d.ptroot 0 || va.extractLsb' 32 24 == 0xFFFFFF then .error (.reason 0 4)
  else s.walkFrom d.walks (d.ptkey.setWidth 20) allow va 4 (field d.ptroot 51 12 * 4096) 0

/-- The table entries of levels 3 to 1 that a walk from a level passes, with their addresses. -/
def State.tablesFrom (s : State) (cached : List (Nat × TlbEntry)) (va : VAddr) : Nat → Nat → List (Nat × TlbEntry)
  | lvl, base =>
    let b := 12 + 9 * lvl
    let a := base + 16 * (va.toNat / 2 ^ b % 512)
    let hit := alGet cached a
    let w0 := (hit.map TlbEntry.w0).getD (BitVec.ofNat 64 (s.mem.num a 8))
    let w1 := (hit.map TlbEntry.w1).getD (BitVec.ofNat 64 (s.mem.num (a + 8) 8))
    if bit w0 1 then []
    else match lvl with
      | 0 => []
      | n + 1 =>
        let rest := s.tablesFrom cached va n (field w0 51 13 * 8192)
        if lvl = 4 then rest else (a, { va := va >>> b <<< b, bits := b, w0 := w0, w1 := w1, top := 0 }) :: rest

/-- A walk has succeeded: the die's cache of 2,048 table entries takes those it has passed (R350). -/
def State.keepWalk (s : State) (die : Nat) (va : VAddr) : State :=
  let d := s.die die
  let l := s.tablesFrom d.walks va 4 (field d.ptroot 51 12 * 4096)
  s.updDie die (fun d => { d with walks := (l ++ d.walks.filter (fun x => !l.any (fun y => y.1 == x.1))).take 2048 })

/-- The OWNDOM check of a thread's access (R347, REASON 6). -/
def State.admits (s : State) (d : DomId) (top : Word) : Bool :=
  s.within d (BitVec.ofNat 20 (field top 19 0))

/-- The translation of `va` by a leaf (R346). -/
def TlbEntry.leaf (e : TlbEntry) (va : VAddr) : Leaf :=
  { pa := field e.w0 51 12 * 4096 / 2 ^ e.bits * 2 ^ e.bits + va.toNat % 2 ^ e.bits, loc := field e.w0 9 8, r := bit e.w0 2,
    w := bit e.w0 3, xn := bit e.w0 4, cc := bit e.w0 5, pin := bit e.w0 6, decl := bit e.w1 36,
    key := e.w1.extractLsb' 0 20, owndom := e.top.extractLsb' 0 20, peerOk := bit e.top 20, bits := e.bits,
    migidx := e.w1.extractLsb' 20 16 }

/-- The device a LOC 2 leaf names (R346). -/
def TlbEntry.device (e : TlbEntry) : BitVec 15 := e.w0.extractLsb' 12 15

/-- A cached translation covers an address. -/
def TlbEntry.covers (e : TlbEntry) (va : VAddr) : Bool := va >>> e.bits <<< e.bits == e.va

/-- Translate at a core for a domain, through its data or instruction translation cache (R345, R350). -/
def State.translate (s : State) (core : Nat) (d : DomId) (instr : Bool) (va : VAddr) :
    Except WalkStop TlbEntry × State :=
  let k := s.core core
  match (if instr then k.itlb else k.dtlb).find? (fun e => e.covers va) with
  | some e => (if s.admits d e.top then .ok e else .error (.reason 6 4), s)
  | none =>
    match s.walk (coreDie core) (s.admits d) va with
    | .ok e =>
      (.ok e, (s.keepWalk (coreDie core) va).setCore core
        (if instr then { k with itlb := (e :: k.itlb).take 32 } else { k with dtlb := (e :: k.dtlb).take 64 }))
    | .error x => (.error x, s)

/-- A cause with its extra word. -/
structure Bad where
  cause : Cause
  extra : Word
  deriving DecidableEq, Repr

/-- The cause of a failed walk (R347, Table 7.2 row 4; Table 2.7 for a fetch). -/
def WalkStop.bad (x : WalkStop) (instr : Bool) : Bad :=
  match x with
  | .reason r lvl => { cause := if instr then 0x18 else 0x10, extra := BitVec.ofNat 64 (r + 16 * lvl) }
  | .integrity _ => { cause := 0x15, extra := 0 }

/-- The on-chip windows' addresses (Table 7.1). -/
def inWindow (ea : Word) : Bool := field ea 55 32 == 0xFFFFFF

/-- Rows 5 to 8 of Table 7.2 on a translation that exists. -/
def State.leafChecks (s : State) (d : DomId) (ea : Word) (write : Bool) (l : Leaf) : Option Cause :=
  if !(if write then l.w else l.r) then some 0x11
  else if l.loc = 2 then none
  else if write && !s.ownerAdmits d l.key l.decl l.owndom then some 0x11
  else if !s.keyLive l.key then some 0x14
  else if l.cc && l.loc == 0 && (s.block (blockNo l.pa)).colour.toNat != field ea 63 60 then some 0x12
  else none

/-- Rows 2 to 8 of Table 7.2 for an access of `n` bytes at a global address; `align` is false for a copy (R216). -/
def State.checkGlobal (s : State) (core : Nat) (d : DomId) (ea : Word) (n : Nat) (align write : Bool) :
    Except Bad (TlbEntry × Leaf) × State :=
  if field ea 59 56 != 0 then (.error { cause := 0x04, extra := ea }, s)
  else if align && ea.toNat % n != 0 then (.error { cause := 0x03, extra := 0 }, s)
  else
    let va := ea.extractLsb' 0 56
    match s.translate core d false va with
    | (.error x, s) => (.error (x.bad false), s)
    | (.ok e, s) =>
      let l := e.leaf va
      match s.leafChecks d ea write l with
      | some c => (.error { cause := c, extra := 0 }, s)
      | none => (.ok (e, l), s)

/-- Where an access goes (Table 7.1). -/
inductive Route where
  | own (off : Nat)
  | loom (core off : Nat)
  | creel (die off : Nat)
  | global
  deriving DecidableEq, Repr

/-- Route an effective address from a core (R192); a bad one raises 0x04. -/
def route (core : Nat) (ea : Word) : Except Bad Route :=
  let bad : Except Bad Route := .error { cause := 0x04, extra := ea }
  if field ea 59 56 != 0 then bad
  else if !inWindow ea then .ok .global
  else match field ea 31 28 with
    | 0 => if field ea 27 19 = 0 then .ok (.own (field ea 18 0)) else bad
    | 1 =>
      if field ea 27 26 != 0 then bad
      else match loomCore core (field ea 25 19) with
        | some c => .ok (if c = core then .own (field ea 18 0) else .loom c (field ea 18 0))
        | none => bad
    | 2 => .ok (.creel (field ea 27 26) (field ea 25 0))
    | _ => bad

/-- A local-store access of `n` bytes at `off` is within a window of the core that permits it, and within the bytes
the local store has (R40, R272). An atomic needs WRITE alone (log entry 38). -/
def windowOk (k : Core) (off n : Nat) (write remote : Bool) : Bool :=
  decide (off + n ≤ lsBytes) && (List.range 8).any (fun i =>
    let b := vget k.pwb i 0
    let l := vget k.pwl i 0
    decide (field b 18 0 ≤ off) && decide (off + n ≤ field l 18 0) && (if write then bit l 33 else bit l 32)
      && (!remote || bit l 34))

end Sys2Proof.Machine
end

