-- ==== Sys2Proof/Machine/Home.lean ====
section
/-! DEFINITION. Writes at a home and what they send to the other dies (R285, R286), address wakes (R257) and the runnable
list of a domain (R340). -/

namespace Sys2Proof.Machine

/-- One microsecond in cycles of 1.75 GHz (R11). -/
def usCycles : Nat := 1750

/-- The device's count of microseconds. -/
def State.us (s : State) : Nat := s.tick / usCycles

/-- The key of the bridge queue from one die to another. -/
def bridgeKey (src dst : Nat) : Nat := 4 * src + dst

/-- Messages on a bridge, oldest first. -/
def State.bridge (s : State) (src dst : Nat) : List BridgeMsg := alGetD s.bridges (bridgeKey src dst) []

/-- The treadle pair runs; after a mismatch it runs again once the security core has restarted it, 2 ms later (R323, log entry 21). -/
def State.firmware (s : State) : Bool :=
  s.mgmt.treadleUp && (match s.mgmt.treadleDownAt with
    | some t => s.mgmt.securityUp && decide (t + 2000 * usCycles ≤ s.tick)
    | none => true)

/-- Replace the messages on a bridge. -/
def State.setBridge (s : State) (src dst : Nat) (l : List BridgeMsg) : State :=
  { s with bridges := if l.isEmpty then alErase s.bridges (bridgeKey src dst) else alSet s.bridges (bridgeKey src dst) l }

/-- Send a message over a bridge (R285: each bridge keeps its order). -/
def State.sendBridge (s : State) (src dst : Nat) (m : BridgeMsg) : State :=
  s.setBridge src dst (s.bridge src dst ++ [m])

/-- A message is a beat. -/
def BridgeMsg.isBeat : BridgeMsg → Bool
  | .beat _ => true
  | _ => false

/-- The oldest message of a list that is no beat. -/
def frontMsg (l : List BridgeMsg) : Option BridgeMsg := l.find? (fun m => !m.isBeat)

/-- Remove the oldest message of a list that is no beat. -/
def dropFront : List BridgeMsg → List BridgeMsg
  | [] => []
  | m :: l => if m.isBeat then m :: dropFront l else l

/-- Replace the messages in the causal buffer of an incoming bridge. -/
def State.setBuffer (s : State) (src dst : Nat) (l : List BridgeMsg) : State :=
  s.updDie dst (fun d => { d with causal := vset d.causal src l })

/-- The messages a bridge brings go to its causal buffer while that has one of its 128 entries left; after that the bridge is stopped
(Table 11.4, R286). -/
def State.land (s : State) (src dst : Nat) : State :=
  let buf := vget (s.die dst).causal src []
  let l := s.bridge src dst
  let n := 128 - buf.length
  if l.isEmpty ∨ n = 0 then s else (s.setBridge src dst (l.drop n)).setBuffer src dst (buf ++ l.take n)

/-- The messages that have reached a die over a bridge and are not delivered. -/
def State.buffer (s : State) (src dst : Nat) : List BridgeMsg := vget (s.die dst).causal src []

/-- Only beats are on their way from one die to another: what crosses now overtakes nothing (R285). -/
def State.bridgeClear (s : State) (d e : Nat) : Bool := (s.bridge d e).all BridgeMsg.isBeat && (s.buffer d e).all BridgeMsg.isBeat

/-- A draft whose effect is that of Table 18.8: a standard image, or one not loaded (log entry 10). -/
def State.stdDraft (s : State) (d : Nat) : Bool :=
  match alGet s.drafts d with
  | some x => x.std
  | none => true

/-- Lines of a die's shared cache in a slice (R274). -/
def Die.slice (d : Die) (sl : Nat) : List Nat :=
  (d.homeLines.map Prod.fst ++ d.copies.map Prod.fst).filter (fun b => Config.sliceHash b % 32 == sl)

/-- Drop a block's lines from a die's shared cache. -/
def Die.dropShared (d : Die) (b : Nat) : Die := { d with homeLines := alErase d.homeLines b, copies := alErase d.copies b }

/-- Make room for a block's line in its slice of 32,768 lines: a full slice gives one up (R274; log entry 8). A home line's bytes
stand in memory already, and a die copy is dropped. -/
def Die.makeRoom (d : Die) (b ctr : Nat) : Die :=
  if d.homeLines.length + d.copies.length < 32768 || (alGet d.homeLines b).isSome || (alGet d.copies b).isSome then d
  else
    let l := d.slice (Config.sliceHash b % 32)
    if l.length < 32768 then d else d.dropShared (l.getD (Config.victim ctr % l.length) b)

/-- Install a die copy in a die's shared cache. -/
def State.installCopy (s : State) (d b : Nat) (x : KeyId × Block) : State :=
  ({ s with freeCtr := s.freeCtr + 1 }).updDie d (fun r =>
    let r := r.makeRoom b s.freeCtr
    { r with copies := alSet r.copies b x })

/-- A data cache of a die holds a line of a block. -/
def State.lineOn (s : State) (d b : Nat) : Bool := s.cores.any (fun c => coreDie c.1 == d && (alGet c.2.dcache b).isSome)

/-- Drop the lines that data caches of a die hold of a block. -/
def State.dropOn (s : State) (d b : Nat) : State :=
  if s.lineOn d b then
    { s with cores := s.cores.map (fun c => (c.1, if coreDie c.1 = d then { c.2 with dcache := alErase c.2.dcache b } else c.2)) }
  else s

/-- A die's copy of a block is gone, and with it the lines of its data caches (R283). -/
def State.dropCopy (s : State) (d b : Nat) : State := (s.updDie d (fun r => { r with copies := alErase r.copies b })).dropOn d b

/-- Install a home line in the shared cache of its home's die. -/
def State.installHome (s : State) (b : Nat) (key : KeyId) : State :=
  ({ s with freeCtr := s.freeCtr + 1 }).updDie (paDie (128 * b)) (fun r =>
    let r := r.makeRoom b s.freeCtr
    { r with homeLines := alSet r.homeLines b key })

/-- What a write at its home means for the lines that data caches of the die hold of a block of a standard draft (Table 18.8, R283):
under the update draft each line under the key takes the new data, under the others it is gone. -/
def State.spreadLines (s : State) (b : Nat) (key : KeyId) : State :=
  let dr := s.draftAt (128 * b)
  let d := paDie (128 * b)
  if !s.stdDraft dr || !s.lineOn d b then s
  else if dr = 1 then
    let x := s.blockData b
    let upd (l : AList DCLine) : AList DCLine :=
      (l.filter (fun y => y.1 != b || y.2.key == key)).map (fun y => if y.1 = b then (b, { y.2 with data := x }) else y)
    { s with cores := s.cores.map (fun c => (c.1, if coreDie c.1 = d then { c.2 with dcache := upd c.2.dcache } else c.2)) }
  else s.dropOn d b

/-- Messages on their way from one die to another, oldest first: those in the causal buffer, then those on the bridge. -/
def State.incoming (s : State) (src dst : Nat) : List BridgeMsg := vget (s.die dst).causal src [] ++ s.bridge src dst

/-- A die holds, or is about to receive, a copy of a block (R274, R285). -/
def State.holdsCopy (s : State) (home f b : Nat) : Bool :=
  (alGet (s.die f).copies b).isSome ||
    (s.incoming home f).any (fun m => match m with
      | .reply _ _ _ (some (b', _, _)) => b' == b
      | _ => false)

/-- Count an event of a home on die `e` and send an update, with the new data or an invalidation, to each die that holds a copy of the
block, after a beat for the events before it (R285). -/
def State.homeEventWith (s : State) (e b : Nat) (data : Option (KeyId × Block)) : State :=
  let s := s.updDie e (fun d => { d with vc := vset d.vc e (vget d.vc e 0 + 1) })
  let stamp := (s.die e).vc
  [0, 1, 2, 3].foldl (fun s f =>
    if f ≠ e ∧ s.holdsCopy e f b then
      (s.sendBridge e f (.beat (vget stamp e 0 - 1))).sendBridge e f (.update stamp b data)
    else s) s

/-- An event of a home: the block's data under a key is new (R285). -/
def State.homeEvent (s : State) (e b : Nat) (key : KeyId) : State := s.homeEventWith e b (some (key, s.blockData b))

/-- Invalidate the copies that other dies hold of a block that a data cache is to hold writable (R283, R292). -/
def State.dropCopies (s : State) (b : Nat) : State :=
  let e := paDie (128 * b)
  if [0, 1, 2, 3].any (fun f => f != e && s.holdsCopy e f b) then s.homeEventWith e b none else s

/-- Write bytes of one block at its home under a key (R275): a write of the whole block seals it and heals poison
(R369). -/
def State.homeWrite (s : State) (key : KeyId) (pa : Nat) (bs : List Byte) : State :=
  let b := blockNo pa
  let whole := decide (bs.length = 128)
  let s := { s with mem := s.mem.putBytes pa bs }
  let s := s.updBlock b (fun m => { m with sealedUnder := some key, poison := m.poison && !whole })
  ((s.spreadLines b key).installHome b key).homeEvent (paDie pa) b key

/-- A write of `n` bytes at `pa` may be made under a key without reading a copy that fails its check (R275). -/
def State.writable (s : State) (key : KeyId) (pa n : Nat) : Bool :=
  (pa % 128 == 0 && n == 128) || s.readable (blockNo pa) key

/-- A write-once block refuses this access (Table 18.8 draft 4, R364). -/
def State.onceRefused (s : State) (dr pa : Nat) (write : Bool) : Bool :=
  dr == 4 && write && (s.block (blockNo pa)).written

/-- A block of a structure of the device becomes one under a key: what cannot be read of it gives way to zeros, as the device writes it
whole (R275; log entry 25). -/
def State.ownBlock (s : State) (key : KeyId) (b : Nat) : State :=
  if s.readable b key then s
  else ({ s with mem := s.mem.putBytes (128 * b) (List.replicate 128 0) }).updBlock b (fun m =>
    { m with sealedUnder := some key, poison := false })

/-- Write bytes to device-owned structures in HBM under a key, block by block, as firmware units do. -/
def State.deviceWrite (s : State) (key : KeyId) (pa : Nat) (bs : List Byte) : State :=
  let s := (List.range (blockNo (pa + bs.length - 1) + 1 - blockNo pa)).foldl (fun s i => s.ownBlock key (blockNo pa + i)) s
  { s with mem := s.mem.putBytes pa bs }

/-- The place of a block's entry in its stack's directory store (R348). -/
def dirAddr (b : Nat) : Nat := 128 * b / 2 ^ 36 * 2 ^ 36 + 60 * 2 ^ 30 + 8 * (b % 2 ^ 29)

/-- The block whose entry stands at an address of a directory store (R348). -/
def dirOwner (a : Nat) : Option Nat :=
  if a % 2 ^ 36 < 60 * 2 ^ 30 then none else some (a / 2 ^ 36 * 2 ^ 29 + (a % 2 ^ 36 - 60 * 2 ^ 30) / 8)

/-- The key that a die's directory stores are sealed under (R363). -/
def State.ptKey (s : State) (die : Nat) : KeyId := (s.die die).ptkey.setWidth 20

/-- A block's entry as its directory store holds it: 0 before the store's block is first written (R238), none where that block is poisoned
or sealed under another key (R348, R363). -/
def State.storedDir (s : State) (h b : Nat) : Option Word :=
  let a := dirAddr b
  let m := s.block (blockNo a)
  if m.sealedUnder.isNone && !m.poison then some 0
  else if s.readable (blockNo a) (s.ptKey (h / 8)) then some (BitVec.ofNat 64 (s.mem.num a 8)) else none

/-- Write a block's entry back to its directory store: the store's block is written whole, so that it is sealed under `PTKEY`'s key. -/
def State.storeDir (s : State) (h b : Nat) : State :=
  let a := dirAddr b
  let base := a / 128 * 128
  let key := s.ptKey (h / 8)
  let old := if s.readable (blockNo a) key then s.mem.bytes base 128 else List.replicate 128 0
  let new := old.take (a - base) ++ leBytes 8 (s.block b).dir.toNat ++ old.drop (a - base + 8)
  (s.deviceWrite key base new).updBlock (blockNo a) (fun m => { m with poison := false })

/-- A heddle's directory-entry cache takes a block's entry from the directory store: 8 ways of 2,048 sets; a full set writes the entry that
it gives up back under `PTKEY`'s key (R363). An entry that cannot be read is not taken. -/
def State.cacheDir (s : State) (h b : Nat) : State :=
  let l := (s.heddle h).dirs
  if l.contains b then s
  else match s.storedDir h b with
    | none => s
    | some w =>
      let s := s.updBlock b (fun m => { m with dir := w })
      let set := l.filter (fun x => x % 2048 == b % 2048)
      if set.length < 8 then s.updHeddle h (fun x => { x with dirs := b :: x.dirs })
      else
        let out := set.getD (Config.victim s.freeCtr % set.length) b
        let s := ({ s with freeCtr := s.freeCtr + 1 }).storeDir h out
        s.updHeddle h (fun x => { x with dirs := b :: x.dirs.erase out })

/-- A block's entry is in its heddle's directory-entry cache. -/
def State.dirCached (s : State) (h b : Nat) : Bool := (s.heddle h).dirs.contains b

/-- The location a virtual address names for a domain on a die, when it can be translated to HBM or host memory. -/
def State.locate (s : State) (die : Nat) (d : DomId) (va : VAddr) : Option Nat :=
  match s.walk die (s.admits d) va with
  | .ok e =>
    let l := e.leaf va
    if l.loc = 0 then some l.pa else if l.loc = 1 then some (hostLoc l.pa) else none
  | .error _ => none

/-- The leaf of a record that the device keeps at a virtual address of a domain, found through a die's table. Address 0 names no
record (log entry 25). -/
def State.recordLeaf (s : State) (die : Nat) (d : DomId) (va : VAddr) : Option Leaf :=
  if va = 0 then none
  else match s.walk die (s.admits d) va with
    | .ok e => let l := e.leaf va; if l.loc = 0 ∨ l.loc = 1 then some l else none
    | .error _ => none

/-- Write a piece of a record that lies within one block, at its home; part of a block whose copy fails its check is not written (R275). -/
def State.putPiece (s : State) (die : Nat) (d : DomId) (va : VAddr) (bs : List Byte) : State :=
  match s.recordLeaf die d va with
  | none => s
  | some l =>
    if l.loc = 1 then { s with mem := s.mem.putBytes (hostLoc l.pa) bs }
    else if s.writable l.key l.pa bs.length then s.homeWrite l.key l.pa bs else s

/-- Write a record of the device, block by block (R9: little-endian); one whose place has no mapping is not written (log entry 25). -/
def State.putRecord (s : State) (die : Nat) (d : DomId) (va : VAddr) (bs : List Byte) : State :=
  if (s.recordLeaf die d va).isNone then s
  else (List.range ((bs.length + 127) / 128)).foldl (fun s i =>
    s.putPiece die d (va + BitVec.ofNat 56 (128 * i)) ((bs.drop (128 * i)).take 128)) s

/-- Read a piece of a record that lies within one block: none where its place has no mapping or fails its check. -/
def State.getPiece (s : State) (die : Nat) (d : DomId) (va : VAddr) (n : Nat) : Option (List Byte) :=
  match s.recordLeaf die d va with
  | none => none
  | some l =>
    if l.loc = 1 then some (s.mem.bytes (hostLoc l.pa) n)
    else if s.readable (blockNo l.pa) l.key then some (s.mem.bytes l.pa n) else none

/-- Read k blocks of a record of the device. -/
def State.getRecord (s : State) (die : Nat) (d : DomId) (va : VAddr) : Nat → Option (List Byte)
  | 0 => some []
  | k + 1 =>
    match s.getPiece die d va 128, s.getRecord die d (va + 128) k with
    | some x, some y => some (x ++ y)
    | _, _ => none

/-- A word of a record of the device. -/
def State.getWord (s : State) (die : Nat) (d : DomId) (va : VAddr) : Option Word :=
  (s.getPiece die d va 8).map (fun bs => BitVec.ofNat 64 (ofLE bs))

/-- A word of a domain control block (Table 10.1). -/
def Domain.word (r : Domain) (off : Nat) : Word :=
  match off with
  | 0 => r.parent.setWidth 64
  | 8 => BitVec.ofNat 64 (r.ovr.toNat * 2 ^ 32 + r.prio.toNat * 2 ^ 28 + r.state.toNat * 2 ^ 24 + r.depth.toNat * 2 ^ 20)
  | 16 => BitVec.ofNat 64 (r.maxshut.toNat * 2 ^ 32 + r.diemask.toNat * 2 ^ 16 + r.maxh.toNat * 2 ^ 8 + r.maxw.toNat)
  | 24 => r.memq.setWidth 64
  | 32 => BitVec.ofNat 64 (r.keyq.toNat * 2 ^ 32 + r.slice.toNat)
  | 40 => BitVec.ofNat 64 (r.supv.toNat * 2 ^ 32 + r.fdom.toNat)
  | 48 => r.ownkey.setWidth 64
  | 56 => r.grant.setWidth 64
  | 64 => r.spillq.setWidth 64
  | 72 => BitVec.ofNat 64 (r.spsize.toNat * 2 ^ 56 + r.sptail.toNat * 2 ^ 24 + r.sphead.toNat)
  | 80 => r.spdrop
  | 88 => r.evtep
  | 128 => r.bobpool.setWidth 64
  | 136 => r.bobcnt.setWidth 64
  | 144 => r.ctxpool.setWidth 64
  | 152 => r.ctxcnt.setWidth 64
  | 192 => r.bobimg.setWidth 64
  | _ =>
    if 96 ≤ off ∧ off < 128 then (vget r.runqAt ((off - 96) / 8) 0).setWidth 64
    else if 160 ≤ off ∧ off < 192 then
      let c := vget r.creel ((off - 160) / 8) (0, 0)
      BitVec.ofNat 64 (c.1.toNat * 2 ^ 32 + c.2.toNat)
    else 0

/-- Write a word of a domain's control block where the block stands, in the root's address space (Table 10.1, R246). -/
def State.putDcb (s : State) (d : DomId) (off : Nat) : State :=
  let w := (s.dom d).word off
  let w := if off = 8 then w ||| d.setWidth 64 else w
  let a := (s.dom d).addr
  if a = 0 then s else s.putRecord 0 0 (a + BitVec.ofNat 56 off) (leBytes 8 w.toNat)

/-- WKIND and WPAY of a wait (Table 10.5). -/
def WaitKey.payload : WaitKey → Nat × Nat
  | .mailbox dir v => (1, dir.toNat * 2 ^ 32 + v.toNat)
  | .endpoint p => (1, 4 * 2 ^ 32 + p.toNat)
  | .address a => (2, a.toNat / 256)
  | .barrier b => (3, b.toNat)
  | .engine => (1, 5 * 2 ^ 32)

/-- The index of a bobbin in its domain's pool, when it is one of the pool's (R342). -/
def State.bobbinIndex (s : State) (d : DomId) (tid : Nat) : Option Nat :=
  let r := s.dom (s.poolDom d)
  let base := r.bobpool.toNat / 64
  if base ≤ tid ∧ tid - base < r.bobcnt.toNat then some (tid - base) else none

/-- The context block of a full thread's bobbin (R342). -/
def State.contextAt (s : State) (d : DomId) (tid : Nat) : Option VAddr :=
  let c := s.dom (s.ctxDom d)
  (s.bobbinIndex d tid).bind (fun n => if n < c.ctxcnt.toNat then some (c.ctxpool + BitVec.ofNat 56 (70144 * n)) else none)

/-- STATE, WKIND and WPAY of a thread's bobbin (Tables 10.4 to 10.6): a stopped thread stays in its shuttle, or is saved waiting for
nothing (R372). -/
def State.bobbinState (s : State) (tid : Nat) (t : Thread) : Nat × Nat × Nat :=
  match t.status with
  | .taken => if t.kind = .full then (1, 0, 0) else (3, 0, 0)
  | .runnable => (1, 0, 0)
  | .running => (3, 0, 0)
  | .waiting k => (2, k.payload)
  | .stopped => if (s.core t.core).full = some tid then (3, 0, 0) else (2, 0, 0)

/-- A bobbin's header (Table 10.4). -/
def State.bobbinHeader (s : State) (tid : Nat) (t : Thread) : Nat :=
  let (st, wk, wp) := s.bobbinState tid t
  t.dom.toNat * 2 ^ 108 + wp * 2 ^ 60 + wk * 2 ^ 58 + st * 2 ^ 56 + t.exe.pc.toNat / 2 * 2 + (if t.kind = .full then 1 else 0)

/-- A bobbin (Table 10.4). -/
def State.bobbinBytes (s : State) (tid : Nat) (t : Thread) : List Byte :=
  leBytes 16 (s.bobbinHeader tid t) ++
    (if t.kind = .full then leBytes 48 ((s.contextAt t.dom tid).getD 0).toNat
     else (List.range 6).flatMap (fun i => leBytes 8 (vget t.exe.s (8 + i) 0).toNat))

/-- Write a thread's bobbin: a running one's header, else the whole (R252, R254). -/
def State.putBobbin (s : State) (tid : Nat) : State :=
  match s.thread? tid with
  | none => s
  | some t =>
    if t.kind = .heddle ∨ (s.bobbinIndex t.dom tid).isNone then s
    else
      let bs := s.bobbinBytes tid t
      s.putRecord (coreDie t.core) t.dom (BitVec.ofNat 56 (64 * tid)) (if t.status = .running then bs.take 16 else bs)

/-- Free a bobbin: its header is zero (Table 10.6). -/
def State.freeBobbin (s : State) (tid : Nat) (t : Thread) : State :=
  if t.kind = .heddle ∨ (s.bobbinIndex t.dom tid).isNone then s
  else s.putRecord (coreDie t.core) t.dom (BitVec.ofNat 56 (64 * tid)) (leBytes 16 0)

/-- A list of a run-queue header: RING, SIZE, TAIL and HEAD (Table 17.7). -/
structure RunList where
  ring : VAddr
  size : Nat
  tail : BitVec 24
  head : BitVec 24
  deriving DecidableEq, Repr

/-- Where a list of a run-queue header stands (R340). -/
def State.runListAt (s : State) (d : DomId) (die prio : Nat) : VAddr :=
  vget (s.dom d).runqAt die 0 + BitVec.ofNat 56 (16 * prio)

/-- A list of the run-queue header of the domain that holds a run queue, read from memory: none where the header has no place. -/
def State.runList (s : State) (d : DomId) (die prio : Nat) : Option RunList :=
  if vget (s.dom d).runqAt die 0 = 0 then none
  else
    let a := s.runListAt d die prio
    match s.getWord die d a, s.getWord die d (a + 8) with
    | some x, some y =>
      some { ring := x.extractLsb' 0 56, size := max 4 (field y 51 48), tail := y.extractLsb' 24 24, head := y.extractLsb' 0 24 }
    | _, _ => none

/-- Write SIZE, TAIL and HEAD of a list. -/
def State.putRunList (s : State) (d : DomId) (die prio : Nat) (l : RunList) : State :=
  s.putRecord die d (s.runListAt d die prio + 8) (leBytes 8 (l.size * 2 ^ 48 + l.tail.toNat * 2 ^ 24 + l.head.toNat))

/-- Write entry n of a list (R340): the bobbin's address, then the µs count. -/
def State.putRun (s : State) (d : DomId) (l : RunList) (n : Nat) (e : RunEntry) : State :=
  s.putRecord e.die.toNat d (l.ring + BitVec.ofNat 56 (16 * (n % 2 ^ l.size))) (leBytes 8 (64 * e.tid) ++ leBytes 8 e.since)

/-- Write an entry at a list's tail and move the tail (R340). -/
def State.pushRun (s : State) (d : DomId) (e : RunEntry) : State :=
  match s.runList d e.die.toNat e.prio with
  | none => s
  | some l => (s.putRun d l l.tail.toNat e).putRunList d e.die.toNat e.prio { l with tail := l.tail + 1 }

/-- Move a list's head past its entry, which a claim has taken (R340). -/
def State.popRun (s : State) (d : DomId) (e : RunEntry) : State :=
  match s.runList d e.die.toNat e.prio with
  | none => s
  | some l => s.putRunList d e.die.toNat e.prio { l with head := l.head + 1 }

/-- A list of a domain on a die is full (Table 17.7: 2^SIZE entries). -/
def State.runqFull (s : State) (d : DomId) (die prio : Nat) : Bool :=
  let q := s.runqDom d
  let size := ((s.runList q die prio).map RunList.size).getD 4
  decide (2 ^ size ≤ ((s.dom q).runq.filter (fun e => e.die.toNat == die && e.prio == prio)).length)

/-- Append a runnable bobbin to its domain's list on a die, or keep it for a retry when the list is full (R340). -/
def State.enqueue (s : State) (tid : Nat) (d : DomId) (die : Nat) : State :=
  let s := s.putBobbin tid
  let p := (s.effPrio d).toNat
  let e : RunEntry := { tid := tid, die := BitVec.ofNat 2 die, prio := p, since := s.us }
  let q := s.runqDom d
  if s.runqFull d die p then s.updDom q (fun r => { r with unqueued := r.unqueued ++ [{ e with since := s.tick }] })
  else (s.pushRun q e).updDom q (fun r => { r with runq := r.runq ++ [e] })

/-- A waiting bobbin becomes runnable (Table 10.6): on its shuttle when it is held there, else in the run queue. -/
def State.makeRunnable (s : State) (tid : Nat) : State :=
  match s.thread? tid with
  | some t =>
    let s := s.setThread tid { t with status := .runnable }
    let s := s.updDie (coreDie t.core) (fun d => { d with timed := alErase d.timed tid })
    if t.heldTo.isSome then s.putBobbin tid else s.enqueue tid t.dom (coreDie t.core)
  | none => s

/-- A thread that waits for a batch, a token or a launch becomes runnable (R253): its wait may be over. -/
def State.wakeEngine (s : State) (tid : Nat) : State :=
  match (s.thread? tid).map Thread.status with
  | some (.waiting .engine) => s.makeRunnable tid
  | _ => s

/-- The place in a context block of the register or queue entry that a value arrives at (Table 10.7). -/
def Thread.spot (t : Thread) (d : Dest) : Option Nat :=
  match d with
  | .reg acc r => some ((if acc then 704 else 512) + 8 * r)
  | .queue id => (t.q.toList.zipIdx.findSome? (fun (l, k) => (l.idxOf? (.reserved id)).map (fun i => 8192 + 128 * k + 8 * i)))
  | _ => none

/-- A value that arrives for a saved full thread's register or queue entry goes to its context block too (R30, R135, Table 10.7). -/
def State.keepToken (s : State) (tid : Nat) (d : Dest) (w : Word) : State :=
  match s.thread? tid with
  | some t =>
    match (if t.saved.isSome then s.contextAt t.dom tid else none), t.spot d with
    | some a, some off => s.putRecord (coreDie t.core) t.dom (a + BitVec.ofNat 56 off) (leBytes 8 w.toNat)
    | _, _ => s
  | none => s

/-- Deliver a value to where an instruction awaits it, and to a saved thread's context block. -/
def State.arriveAt (s : State) (tid : Nat) (d : Dest) (w : Word) : State := (s.keepToken tid d w).deliver tid d w

/-- Write a token that a thread may wait for. -/
def State.giveToken (s : State) (tid : Nat) (d : Dest) (w : Word) : State := (s.arriveAt tid d w).wakeEngine tid

/-- Make runnable every waiting thread that satisfies a condition. -/
def State.wakeIf (s : State) (p : Thread → WaitKey → Bool) : State :=
  s.threads.foldl (fun s (tid, t) =>
    match t.status with
    | .waiting k => if p t k then s.makeRunnable tid else s
    | _ => s) s

/-- A performed write to a location wakes the bobbins that wait on its 256-byte region (R253, R257). -/
def State.wakeAddr (s : State) (loc : Nat) : State :=
  s.wakeIf (fun t k => match k with
    | .address a => match s.locate (coreDie t.core) t.dom a with
      | some l => l / 256 == loc / 256
      | none => false
    | _ => false)

/-- A counter has reached a mailbox wait's value (Table 8.11). -/
def mailboxMet (c v : BitVec 32) : Bool := decide (0 ≤ (c - v).toInt)

/-- Wake the mailbox waiters of a core (Table 8.11). -/
def State.wakeMailbox (s : State) (core : Nat) : State :=
  s.wakeIf (fun t k => match k with
    | .mailbox dir v => t.core == core && mailboxMet (vget (s.core core).mb dir.toNat 0) v
    | _ => false)

/-- Wake the barrier waiters of a gang's cores once a phase of the barrier is complete (Table 8.11). -/
def State.wakeBarrier (s : State) (bar : BitVec 11) (cores : List Nat) : State :=
  s.wakeIf (fun t k => match k with
    | .barrier b => b == bar && cores.contains t.core
    | _ => false)

/-- Wake the waiters on an endpoint of a core (Table 10.5). -/
def State.wakeEndpoint (s : State) (core : Nat) (port : Nat) : State :=
  s.wakeIf (fun t k => match k with
    | .endpoint p => t.core == core && p.toNat == port
    | _ => false)

/-- Write bytes at a location that is not HBM: host memory, local store, creel or lane slice. -/
def State.plainWrite (s : State) (loc : Nat) (bs : List Byte) : State :=
  ({ s with mem := s.mem.putBytes loc bs }).wakeAddr loc

/-- Write bytes of one block at its home and wake the waiters on its region. -/
def State.homeStore (s : State) (key : KeyId) (pa : Nat) (bs : List Byte) : State :=
  (s.homeWrite key pa bs).wakeAddr pa

end Sys2Proof.Machine
end

