-- ==== Sys2Proof/Machine/Ras.lean ====
section
/-! DEFINITION. The RAS log (R405 to R407) and what is logged and counted in several places (R369, R382, R408). -/

namespace Sys2Proof.Machine

/-- UNIT of a log entry (Table 21.5). -/
def rasUnit (kind die index : Nat) : BitVec 20 := BitVec.ofNat 20 (kind * 2 ^ 16 + die * 2 ^ 12 + index)

/-- Entries the log holds. -/
def rasSize (m : Mgmt) : Nat := 2 ^ (field m.raslog 3 0 + 8)

/-- The log can take an entry: the driver has named it, the host port is up, and it is not full (R405, R407). -/
def rasRoom (m : Mgmt) : Bool := m.raslog != 0 && m.hostUp && decide ((m.rastail - m.rashead).toNat < rasSize m)

/-- The words of an entry (Table 21.4). -/
def RasEntry.words (e : RasEntry) : List Word :=
  let head : Word := BitVec.ofNat 64
    (e.sev.toNat * 2 ^ 61 + e.cls.toNat * 2 ^ 56 + e.unit.toNat * 2 ^ 32 + e.cause.toNat * 2 ^ 24 + e.count)
  let rec_ : List Word := match e.record with
    | some (a, b, c, d) => [a, b, c, d]
    | none => [0, 0, 0, 0]
  [BitVec.ofNat 64 e.time, head, e.addr, e.detail] ++ rec_

/-- Write an entry at an index of the log in host memory. -/
def State.rasPut (s : State) (i : Nat) (e : RasEntry) : State :=
  let base := s.mgmt.raslog.toNat / 4096 * 4096
  s.plainWrite (hostLoc (base + 64 * (i % rasSize s.mgmt))) (e.words.flatMap (fun w => leBytes 8 w.toNat))

/-- Write an entry at the tail and advance it (R406). -/
def State.rasAppend (s : State) (e : RasEntry) : State :=
  let s := s.rasPut s.mgmt.rastail.toNat e
  { s with mgmt := { s.mgmt with rastail := s.mgmt.rastail + 1, rasopen := s.mgmt.rasopen ++ [(s.mgmt.rastail.toNat, e)] } }

/-- Write the held entries while there is room (R407). -/
def State.rasFlushN (s : State) : Nat → State
  | 0 => s
  | n + 1 =>
    match s.mgmt.rasheld with
    | [] => s
    | e :: rest =>
      if rasRoom s.mgmt then (({ s with mgmt := { s.mgmt with rasheld := rest } }).rasAppend e).rasFlushN n else s

/-- A fatal event's entry is held and can still be written: the device stops only after it (R407). -/
def Mgmt.lastWords (m : Mgmt) : Bool := m.hostUp && m.raslog != 0 && m.rasheld.any (fun e => e.sev == 4)

/-- The device stops once no fatal entry is left to be written (R407). -/
def State.settleStop (s : State) : State :=
  if s.stopping.isSome ∧ !s.mgmt.lastWords then { s with dead := s.stopping, stopping := none } else s

/-- Write the held entries while there is room; a device that has only waited for that stops. -/
def State.rasFlush (s : State) : State := (s.rasFlushN s.mgmt.rasheld.length).settleStop

/-- An event adds to an entry (R407). -/
def RasEntry.takes (e x : RasEntry) : Bool :=
  e.unit == x.unit && e.cls == x.cls && e.addr == x.addr && decide (x.time ≤ e.time + 1000)

/-- An entry with one more event. -/
def RasEntry.more (e : RasEntry) : RasEntry := { e with count := min 65535 (e.count + 1) }

/-- Log an event (R406, R407): merged into an entry of the last millisecond, written, or held, with the
trap record of a thread it has stopped; one of severity 0 is dropped when the log is full. -/
def State.logRasWith (s : State) (sev : BitVec 3) (cls : BitVec 4) (unit : BitVec 20) (cause : Cause) (addr detail : Word)
    (record : Option (Word × Word × Word × Word)) : State :=
  let s := s.rasFlush
  let e : RasEntry := { time := s.us, sev := sev, cls := cls, unit := unit, cause := cause, count := 1, addr := addr, detail := detail,
                        record := record }
  let isOpen (x : RasEntry) : Bool := decide (s.us ≤ x.time + 1000)
  let s := { s with mgmt := { s.mgmt with rasopen := s.mgmt.rasopen.filter (fun x => isOpen x.2) } }
  match s.mgmt.rasopen.find? (fun x => x.2.takes e) with
  | some (i, x) =>
    let s := s.rasPut i x.more
    { s with mgmt := { s.mgmt with rasopen := s.mgmt.rasopen.map (fun y => if y.1 = i then (i, x.more) else y) } }
  | none =>
    if s.mgmt.rasheld.any (fun x => x.takes e) then
      { s with mgmt := { s.mgmt with rasheld := s.mgmt.rasheld.map (fun x => if x.takes e then x.more else x) } }
    else if rasRoom s.mgmt then s.rasAppend e
    else if sev = 0 then { s with mgmt := { s.mgmt with rasdrop0 := s.mgmt.rasdrop0 + 1 } }
    else { s with mgmt := { s.mgmt with rasheld := s.mgmt.rasheld ++ [e] } }

/-- Log an event that has stopped no thread. -/
def State.logRas (s : State) (sev : BitVec 3) (cls : BitVec 4) (unit : BitVec 20) (cause : Cause) (addr detail : Word) : State :=
  s.logRasWith sev cls unit cause addr detail none

/-- A fabric port. -/
def State.port (s : State) (k : Nat) : FabricPort := vget s.mgmt.ports k FabricPort.init

/-- The fabric port that traffic to and from a device takes (log entry 48). -/
def portOf (device : BitVec 15) : Nat := Config.portOf device % 24

/-- Traffic of a peer that is not admitted is dropped at the port heddle of a port and counted (R385). -/
def State.refuseTraffic (s : State) (k : Nat) : State :=
  { s with mgmt := { s.mgmt with ports := vset s.mgmt.ports k (let x := s.port k; { x with refused := satInc x.refused }) } }

/-- The memory heddle index of a physical address (R348). -/
def paHeddle (pa : Nat) : Nat := 2 * paStack pa + pa / 128 % 2

/-- Update a stack's counters. -/
def State.updStack (s : State) (die st : Nat) (f : StackState → StackState) : State :=
  s.updDie die (fun d => { d with hbmStacks := vset d.hbmStacks st (f (vget d.hbmStacks st StackState.init)) })

end Sys2Proof.Machine
end

