-- ==== Sys2Proof/Machine/Faults.lean ====
section
/-! DEFINITION. Channel endpoints and spill queues (R209 to R211, R263 to R266), the fault ring and repair handles (R371 to
R377). -/

namespace Sys2Proof.Machine

/-- An endpoint of a core. -/
def State.ep (s : State) (core port : Nat) : Endpoint := vget (s.core core).eps port Endpoint.closed

/-- Update an endpoint of a core. -/
def State.updEp (s : State) (core port : Nat) (f : Endpoint → Endpoint) : State :=
  s.updCore core (fun k => { k with eps := vset k.eps port (f (vget k.eps port Endpoint.closed)) })

/-- The core at a place of an endpoint handle or trap record (Tables 7.10, 19.2). -/
def coreAt (die col row : Nat) : Option Nat :=
  if col < 48 then (if row < 24 then some (shuttleAt die col row) else none)
  else if col < 60 ∧ row = 0 then some (4608 + die * 12 + (col - 48)) else none

/-- The COL field of a core's place (Tables 7.10, 19.2). -/
def placeCol (c : Nat) : Nat := if isSelvedge c then 48 + (c - 4608) % 12 else coreCol c

/-- The ROW field of a core's place. -/
def placeRow (c : Nat) : Nat := if isSelvedge c then 0 else coreRow c

/-- The core an endpoint handle names (Table 7.10). -/
def handleCore (h : Word) : Option Nat := coreAt (field h 48 47) (field h 46 41) (field h 40 36)

/-- An endpoint handle (Table 7.10). -/
def mkHandle (device : BitVec 15) (core : Nat) (port : BitVec 4) (check : BitVec 32) : Word :=
  device ++ BitVec.ofNat 2 (coreDie core) ++ BitVec.ofNat 6 (placeCol core) ++ BitVec.ofNat 5 (placeRow core) ++ port ++ check

/-- What became of a message (Table 10.9, R264). -/
inductive Delivery where
  | deposited | spilled | dropped | refused
  deriving DecidableEq, Repr

/-- The endpoint record a handle reaches, with the core where it is: the named core's present one, or, by its CHECK, the record that
an owner has taken to another core, or that of a saved thread which another has displaced there and which is in SPILL (R263). -/
def State.record (s : State) (core port : Nat) (check : BitVec 32) : Option (Nat × Endpoint) :=
  let named (e : Endpoint) : Bool := e.owner.isSome && e.check == check
  if (s.ep core port).check = check then some (core, s.ep core port)
  else match s.cores.findSome? (fun c =>
      let e := vget c.2.eps port Endpoint.closed
      if named e && e.homes.contains core then some (c.1, e) else none) with
    | some x => some x
    | none => s.threads.findSome? (fun t =>
      ((t.2.saved.bind SavedCore.eps).map (fun l => vget l port Endpoint.closed)).bind (fun e =>
        if named e && (t.2.core == core || e.homes.contains core) then some (t.2.core, e) else none))

/-- A spill queue entry (Table 10.10). -/
def SpillEntry.bytes (x : SpillEntry) : List Byte :=
  leBytes 64 x.msg.data.toNat ++ leBytes 8 x.msg.handle.toNat ++ leBytes 8 x.msg.sender.toNat ++
    leBytes 8 ((if x.done then 256 else 0) + (if x.msg.rel then 8 else 0) + x.msg.scope.toNat) ++ leBytes 40 0

/-- Where entry n of a domain's spill queue stands (R264). -/
def Domain.spillAt (r : Domain) (n : Nat) : VAddr := r.spillq + BitVec.ofNat 56 (128 * (n % 2 ^ r.spsize.toNat))

/-- Append an entry at the tail of a spill queue (R264). -/
def State.spillAppend (s : State) (d : DomId) (x : SpillEntry) : State :=
  let r := s.dom d
  let s := if r.spillq = 0 then s else s.putRecord (coreDie x.core) d (r.spillAt r.sptail.toNat) x.bytes
  (s.updDom d (fun r => { r with spill := r.spill ++ [x], sptail := r.sptail + 1 })).putDcb d 72

/-- Handle a message by the record of its endpoint (Table 10.9): deposit, spill or refuse it; a dropped one changes
nothing here. -/
def State.routeMsg (s : State) (m : ChanMsg) : Delivery × State :=
  match handleCore m.handle with
  | none => (.dropped, s)
  | some core =>
    let port := field m.handle 35 32
    match s.record core port (m.handle.extractLsb' 0 32) with
    | none => (.dropped, s)
    | some (core, e) => match e.state, e.owner with
      | .open, some _ =>
        if 4 ≤ e.msgs.length then (.refused, s)
        else
          let s := s.updEp core port (fun e => { e with msgs := e.msgs ++ [m] })
          (.deposited, (s.giveToken m.stid m.dest 0).wakeEndpoint core port)
      | .spill, some d =>
        let sd := s.spillDom d
        let r := s.dom sd
        if 2 ^ r.spsize.toNat ≤ r.spill.length then (.refused, s)
        else
          let x : SpillEntry := { msg := m, core := core, port := BitVec.ofNat 4 port, done := false }
          let s := s.spillAppend sd x
          (.spilled, (s.giveToken m.stid m.dest 1).wakeEndpoint core port)
      | _, _ => (.dropped, s)

/-- The entries of a spill queue after the done ones at its head are passed over (R265). -/
def spillTrim : List SpillEntry → Nat → List SpillEntry × Nat
  | [], n => ([], n)
  | x :: l, n => if x.done then spillTrim l (n + 1) else (x :: l, n)

/-- A spill entry is an undone one of an endpoint at a core: its CHECK is the record's. -/
def SpillEntry.isFor (x : SpillEntry) (core port : Nat) (e : Endpoint) : Bool :=
  (x.core == core || e.homes.contains x.core) && x.port.toNat == port && !x.done && x.msg.handle.extractLsb' 0 32 == e.check

/-- Mark the first undone spilled message of an endpoint as taken (R265). -/
def spillTake (core port : Nat) (e : Endpoint) : List SpillEntry → Option ChanMsg × List SpillEntry
  | [] => (none, [])
  | x :: l =>
    if x.isFor core port e then (some x.msg, { x with done := true } :: l)
    else
      let r := spillTake core port e l
      (r.1, x :: r.2)

/-- An endpoint still has spilled messages to take. -/
def State.spilledFor (s : State) (core : Nat) (port : Nat) : Bool :=
  let e := s.ep core port
  match e.owner with
  | some d => (s.dom (s.spillDom d)).spill.any (fun x => x.isFor core port e)
  | none => false

/-- The oldest message waiting at an endpoint: the spilled ones first (R265). -/
def State.epHead (s : State) (core port : Nat) : Option ChanMsg :=
  let e := s.ep core port
  match e.owner with
  | none => none
  | some d =>
    match (spillTake core port e (s.dom (s.spillDom d)).spill).1 with
    | some m => some m
    | none => e.msgs.head?

/-- The older of two messages. -/
def older (a : Option ChanMsg) (b : ChanMsg) : Option ChanMsg :=
  match a with
  | some x => if x.id ≤ b.id then some x else some b
  | none => some b

/-- The oldest message at an unbound event endpoint of a domain on a core (R376). -/
def State.eventWaiting (s : State) (core : Nat) (d : DomId) : Option ChanMsg :=
  ((List.range 16).filterMap (fun p =>
    let e := s.ep core p
    if e.event && e.owner == some d && e.handler == 0 then s.epHead core p else none)).foldl older none

/-- An endpoint in SPILL of a running owner opens once nothing is spilled for it (R265). -/
def State.epReopen (s : State) (core port : Nat) : State :=
  let e := s.ep core port
  let placed : Bool := match (s.core core).full with
    | some t => (match s.thread? t with
      | some th => decide (th.status = .running)
      | none => false)
    | none => isSelvedge core
  if e.state = .spill ∧ placed ∧ !s.spilledFor core port then s.updEp core port (fun e => { e with state := .open })
  else s

/-- Take the oldest message of an endpoint (R212, R265). -/
def State.epTake (s : State) (core port : Nat) : State :=
  match (s.ep core port).owner with
  | none => s
  | some d =>
    if s.spilledFor core port then
      let q := s.spillDom d
      let r := s.dom q
      let l := (spillTake core port (s.ep core port) r.spill).2
      let s := if r.spillq = 0 then s
        else l.zipIdx.foldl (fun s (x, i) =>
          if x.done then s.putRecord (coreDie core) q (r.spillAt (r.sphead.toNat + i)) x.bytes else s) s
      let x := spillTrim l 0
      let s := (s.updDom q (fun r => { r with spill := x.1, sphead := r.sphead + BitVec.ofNat 24 x.2 })).putDcb q 72
      s.epReopen core port
    else s.updEp core port (fun e => { e with msgs := e.msgs.drop 1 })

/-- The words of a fault-ring entry (Table 19.4). -/
def FaultEntry.words (e : FaultEntry) : List Word :=
  [e.rec0, e.rec1, e.rec2, e.rec3, e.w4, e.resumeh, e.w6, e.stamp]

/-- The bytes of words, little-endian. -/
def wordBytes (l : List Word) : List Byte := l.flatMap (fun w => leBytes 8 w.toNat)

/-- What a trap record says of where it comes from (Table 19.2). -/
structure Poster where
  die : Nat
  col : Nat
  row : Nat
  tkind : BitVec 2
  dom : DomId
  bobbin : Nat
  seqkey : BitVec 32

/-- A fault-ring entry (Tables 19.2, 19.4). -/
def mkEntry (p : Poster) (src : BitVec 4) (cause : Cause) (pc : VAddr) (addr extra : Word) (w6 : Word) (tick : Nat) :
    FaultEntry :=
  { rec0 := cause ++ (pc &&& ~~~1#56),
    rec1 := addr.extractLsb' 60 4 ++ BitVec.ofNat 2 p.die ++ p.tkind ++ addr.extractLsb' 0 56,
    rec2 := p.dom ++ BitVec.ofNat 6 p.col ++ BitVec.ofNat 5 p.row ++ BitVec.ofNat 33 p.bobbin,
    rec3 := extra, w4 := src ++ 0#28 ++ p.seqkey, resumeh := 0, w6 := w6, stamp := BitVec.ofNat 64 tick }

/-- The SRC field of an entry. -/
def FaultEntry.src (e : FaultEntry) : Nat := field e.w4 63 60

/-- The fault ring of a die can take an entry (R373, R375). -/
def Die.frRoom (d : Die) : Bool := bit d.frbase 0 && decide ((d.frtail + 8192 - d.frhead) % 8192 < 4096)

/-- The poster of an entry: its place, and for an engine's fault its engine (R374). -/
def FaultEntry.poster (e : FaultEntry) : Nat × Option Nat :=
  (field e.rec2 43 33, if e.src = 1 then some (field e.w6 49 48) else none)

/-- A poster waits with an entry for room in a die's ring (R375). -/
def Die.waits (d : Die) (e : FaultEntry) : Bool := d.heldPosts.any (fun x => x.poster == e.poster)

/-- The posters that wait (Table 19.3). -/
def Die.postersHeld (d : Die) : Nat := (d.heldPosts.map FaultEntry.poster).eraseDups.length

/-- Make a repair handle for an entry that accepts a resume packet (R377). With the store full there is none, and firmware sends the packet. -/
def State.mkRepair (s : State) (die : Nat) (e : FaultEntry) : Word × State :=
  let tkind := field e.rec1 57 56
  let place := coreAt (field e.rec1 59 58) (field e.rec2 43 38) (field e.rec2 37 33)
  match place with
  | none => (0, s)
  | some core =>
    if (e.src = 0 ∧ tkind ≤ 1) ∨ e.src = 1 then
      let chk : BitVec 32 := 1#1 ++ (Config.fresh s.freeCtr).extractLsb' 0 31
      let h := mkHandle s.mgmt.device core 0 chk
      let r : Repair := { handle := h, src := BitVec.ofNat 4 e.src, tid := field e.rec2 32 0, acc := tkind == 1, core := core,
                          eng := BitVec.ofNat 2 (field e.w6 49 48), op := field e.w6 31 0,
                          dom := e.rec2.extractLsb' 44 20 }
      if (s.die die).repairs.length < 256 then
        (h, ({ s with freeCtr := s.freeCtr + 1 }).updDie die (fun d => { d with repairs := d.repairs ++ [r] }))
      else (0, s.updDie die (fun d => { d with handless := d.handless ++ [{ r with handle := 0 }] }))
    else (0, s)

/-- Send an entry to its domain's supervisor endpoint: the NDLV bit, and the state after (R374). -/
def State.tellSupervisor (s : State) (e : FaultEntry) : Bool × State :=
  if e.src ∈ [0, 1, 2, 5, 7] then
    let d := e.rec2.extractLsb' 44 20
    let m : ChanMsg := { id := s.nextId, handle := s.effEvtep d, sender := 0, stid := 0, sdom := d, dest := .none, rel := false,
                         scope := 0, stamp := Clock.zero, data := BitVec.ofNat 512 (ofLE (wordBytes e.words)) }
    match ({ s with nextId := s.nextId + 1 }).routeMsg m with
    | (.deposited, s) => (false, s)
    | (.spilled, s) => (false, s)
    | (_, s) => (true, s)
  else (false, s)

/-- Interrupt the treadle pair (R374, R375). -/
def State.alertTreadle (s : State) : State := { s with mgmt := { s.mgmt with treadleIrq := true } }

/-- Write an entry into a die's ring and raise its events (R374). -/
def State.postNow (s : State) (die : Nat) (e : FaultEntry) : State :=
  let (h, s) := s.mkRepair die e
  let e := { e with resumeh := h }
  let (ndlv, s) := s.tellSupervisor e
  let e := { e with w4 := e.w4 ||| ((if ndlv then 1#64 else 0#64) <<< 59) }
  let d := s.die die
  let a := field d.frbase 51 12 * 4096 + 64 * (d.frtail % 4096)
  ((s.deviceWrite (s.keyOf 0) a (wordBytes e.words)).updDie die (fun d => { d with frtail := (d.frtail + 1) % 8192 })).alertTreadle

/-- Post an entry, or keep it for a retry while the ring is full or an earlier one of its poster waits (R374, R375): a poster that finds
the ring full is counted once. -/
def State.post (s : State) (die : Nat) (e : FaultEntry) : State :=
  let d := s.die die
  if d.waits e then s.updDie die (fun d => { d with heldPosts := d.heldPosts ++ [e] })
  else if d.frRoom then s.postNow die e
  else (s.updDie die (fun d =>
    { d with frovf := true, frovcount := d.frovcount + 1, heldPosts := d.heldPosts ++ [e] })).alertTreadle

/-- The trap record of an entry, as a log entry shows it (Table 21.4). -/
def FaultEntry.record (e : FaultEntry) : Word × Word × Word × Word := (e.rec0, e.rec1, e.rec2, e.rec3)

/-- A sealed line has failed its integrity tag (R382): it is poisoned, the stack counts it, an SRC 6 entry is posted and the event is
logged, with the trap record of a thread that it has stopped (R406). A poisoned line is not checked again (log entry 33). -/
def State.postIntegrityOf (s : State) (pa : Nat) (stopped : Option FaultEntry) : State :=
  let die := paDie pa
  let m := paHeddle pa
  let s := s.updBlock (blockNo pa) (fun x => { x with poison := true })
  let s := s.updStack die (paStack pa) (fun x => { x with tagmm := satInc x.tagmm })
  let p : Poster := { die := die, col := 60, row := m, tkind := 3, dom := 0, bobbin := 0, seqkey := 0 }
  let s := s.post die (mkEntry p 6 0x15 0 (BitVec.ofNat 64 pa) 0 0 s.tick)
  s.logRasWith 2 2 (rasUnit 2 die m) 0x15 (BitVec.ofNat 64 pa) 0 (stopped.map FaultEntry.record)

/-- The same where no thread has stopped. -/
def State.postIntegrity (s : State) (pa : Nat) : State := s.postIntegrityOf pa none

/-- A read under a key meets a block: a copy that fails its check is reported (R382). -/
def State.meetBlock (s : State) (pa : Nat) (key : KeyId) (stopped : Option FaultEntry) : State :=
  let m := s.block (blockNo pa)
  if m.sealedUnder ≠ some key ∧ !m.poison then s.postIntegrityOf pa stopped else s

/-- A walk refused by REASON 5, of whatever access, is counted (R409). -/
def State.countWalk (s : State) (die : Nat) (b : Bad) : State :=
  if (b.cause = 0x10 ∨ b.cause = 0x18) ∧ b.extra.toNat % 16 = 5 ∧ b.extra.toNat < 128 then
    s.updDie die (fun d => { d with walksReason5 := satInc d.walksReason5 })
  else s

/-- An access at an address has failed with a cause, and `stopped` is the record of the thread it has stopped: when it is the integrity tag
of a line of HBM that failed, its own or one of a page table, the line's controller posts its entry (R382, R404). -/
def State.noteIntegrity (s : State) (die : Nat) (cause : Cause) (addr : Word) (stopped : Option FaultEntry) : State :=
  if cause ≠ 0x15 ∨ inWindow addr then s
  else match s.walk die (fun _ => true) (addr.extractLsb' 0 56) with
    | .ok e =>
      let l := e.leaf (addr.extractLsb' 0 56)
      if l.loc = 0 then s.meetBlock l.pa l.key stopped else s
    | .error (.integrity a) => s.meetBlock a (s.ptKey die) stopped
    | .error _ => s

/-- The poster of a thread's records: TKIND 0 execute stream, 1 access stream, 2 pick, 3 heddle thread (Table 19.2). -/
def Thread.poster (t : Thread) (tid : Nat) (acc : Bool) : Poster :=
  match t.heddle with
  | some h => { die := h.heddle / 8, col := 60, row := h.heddle % 8, tkind := 3, dom := 0, bobbin := 0, seqkey := 0 }
  | none =>
    { die := coreDie t.core, col := placeCol t.core, row := placeRow t.core,
      tkind := if t.kind = .full then (if acc then 1 else 0) else 2, dom := t.dom, bobbin := tid, seqkey := t.seqkey }

/-- A dropped message's effects: T, the spill-drop counter and the supervisor's event (R266). -/
def State.dropMsg (s : State) (m : ChanMsg) : State :=
  let s := s.giveToken m.stid m.dest 2
  let s := (s.updDom m.sdom (fun r => { r with spdrop := r.spdrop + 1 })).putDcb m.sdom 80
  let c := (coreOfId (m.sender.extractLsb' 0 16)).getD 0
  let p : Poster := { die := coreDie c, col := placeCol c, row := placeRow c, tkind := 3, dom := m.sdom, bobbin := m.stid,
                      seqkey := ((s.thread? m.stid).map Thread.seqkey).getD 0 }
  s.post (coreDie c) (mkEntry p 5 0x00 0 0 m.handle 0 s.tick)

end Sys2Proof.Machine
end

