-- ==== Sys2Proof/Machine/Partials.lean ====
section
/-! DEFINITION. The home heddle of a block (R276) and the partials of commutative regions (R100, R293, R294). -/

namespace Sys2Proof.Machine

/-- The memory heddle that is a block's home (R276, R348, R357). -/
def State.homeHeddle (s : State) (pa : Nat) : Nat :=
  let nat := 8 * paDie pa + 2 * (pa / 2 ^ 36 % 4) + pa / 128 % 2
  match s.regionAt pa with
  | some (_, r) => if r.hpol = 1 then 8 * paDie pa + r.fixhm.toNat else nat
  | none => nat

/-- Element width of a commutative format (R203). -/
def commWidth (fmt : Nat) : Nat := if fmt = 1 then 2 else 4

/-- The identity of a commutative operation (R293). -/
def commIdentity (op fmt : Nat) : Nat :=
  match op, fmt with
  | 0, _ => 0
  | 1, 0 => 0xFF800000
  | 1, 1 => 0xFF80
  | 1, _ => 0x80000000
  | _, 0 => 0x7F800000
  | _, 1 => 0x7F80
  | _, _ => 0x7FFFFFFF

/-- One step of a commutative combination (R100). -/
def commStep (op fmt x y : Nat) : Nat :=
  let f : Fmt := if fmt = 1 then .bf16 else .f32
  if op = 0 then
    if fmt = 2 then (x + y) % 2 ^ 32 else (addRne f x y).1
  else if fmt = 2 then
    let a := (BitVec.ofNat 32 x).toInt
    let b := (BitVec.ofNat 32 y).toInt
    if (op == 1) == decide (a ≤ b) then y else x
  else (f.deliver .rne Tail.none (fminmax (op == 1) (f.value x) (f.value y)).exact).1

/-- Combine two blocks element by element (R100, R293), elements i and below. -/
def commBlock (op fmt : Nat) (x y : Block) : Nat → Nat
  | 0 => 0
  | n + 1 =>
    let w := 8 * commWidth fmt
    commBlock op fmt x y n + commStep op fmt (x.toNat / 2 ^ (w * n) % 2 ^ w) (y.toNat / 2 ^ (w * n) % 2 ^ w) * 2 ^ (w * n)

/-- A block of identities. -/
def commStart (op fmt : Nat) : Block :=
  let w := commWidth fmt
  blockOf ((List.range (128 / w)).flatMap (fun _ => leBytes w (commIdentity op fmt)))

/-- The operation and format of the region of a block. -/
def State.commOf (s : State) (pa : Nat) : Nat × Nat :=
  match s.regionAt pa with
  | some (_, r) => (r.cop.toNat, r.cfmt.toNat)
  | none => (0, 0)

/-- The draft of an address has commutative partials. -/
def State.isComm (s : State) (dr : Nat) : Bool :=
  if s.stdDraft dr then dr == 6
  else match alGet s.drafts dr with
    | some d => d.comm
    | none => false

/-- A core's partial of a block can be folded at once: the home has seen every event that its contributions come after, and nothing that
left the core's die before is still on the bridge (R285, R295). -/
def State.partialReady (s : State) (b core : Nat) : Bool :=
  let e := paDie (128 * b)
  (alGetD (s.core core).partStamps b Clock.zero).leBut (s.die e).vc [] && (coreDie core == e || s.bridgeClear (coreDie core) e)

/-- Fold a partial of a block into memory at the home (R293): an event. One whose block is not sealed under its key is dropped. -/
def State.foldIn (s : State) (key : KeyId) (b : Nat) (x : Block) : State :=
  if s.readable b key then
    let (op, fmt) := s.commOf (128 * b)
    let y := commBlock op fmt (s.blockData b) x (128 / commWidth fmt)
    s.homeStore key (128 * b) (leBytes 128 y)
  else s

/-- A core gives up its partial of a block. -/
def State.dropPartial (s : State) (core b : Nat) : State :=
  s.updCore core (fun k => { k with partials := alErase k.partials b, partStamps := alErase k.partStamps b })

/-- Fold one core's partial of a block into memory at the home. -/
def State.foldPartial (s : State) (core b : Nat) : State :=
  match alGet (s.core core).partials b with
  | none => s
  | some (key, x) => (s.dropPartial core b).foldIn key b x

/-- A core's registration with a block's home is cleared (R293). -/
def State.unregister (s : State) (h b core : Nat) : State :=
  s.updHeddle h (fun x =>
    let l := x.contributors.map (fun e => if e.1 = b then (b, e.2.erase core) else e)
    { x with contributors := l.filter (fun e => !e.2.isEmpty) })

/-- Insert a core into a list by ascending `%coreid` (R100). -/
def insertById (c : Nat) : List Nat → List Nat
  | [] => [c]
  | x :: l => if (coreId c).toNat < (coreId x).toNat then c :: x :: l else x :: insertById c l

/-- Fold every registered partial of a block, in ascending contributor index, and clear the registrations (R294). -/
def State.foldAll (s : State) (h b : Nat) : State :=
  let cs := alGetD (s.heddle h).contributors b []
  let s := (cs.foldl (fun l c => insertById c l) []).foldl (fun s c => s.foldPartial c b) s
  s.updHeddle h (fun x => { x with contributors := x.contributors.filter (fun e => e.1 != b) })

/-- Register a core's partial of a block at its home (R293, R367): the 65th contributor recalls the oldest, a 2,049th block
the block registered longest. Blocks stand in registration order. -/
def State.registerPartial (s : State) (h b core : Nat) : State :=
  let cs := (s.heddle h).contributors
  match cs.find? (fun e => e.1 == b) with
  | some (_, l) =>
    if l.contains core then s
    else
      let s := match l with
        | old :: _ => if 64 ≤ l.length then s.foldPartial old b else s
        | [] => s
      let l' := (if 64 ≤ l.length then l.drop 1 else l) ++ [core]
      s.updHeddle h (fun x => { x with contributors := x.contributors.map (fun e => if e.1 = b then (b, l') else e) })
  | none =>
    let s := match cs with
      | old :: _ => if 2048 ≤ cs.length then s.foldAll h old.1 else s
      | [] => s
    s.updHeddle h (fun x => { x with contributors := x.contributors ++ [(b, [core])] })

/-- A partial of a block is on its way home in a message (R367). -/
def State.partialSent (s : State) (b : Nat) : Bool := s.msgs.any (fun m => blockNo m.2.pa == b && m.2.data.isSome)

/-- A load of a block can fold at once: the partials have all seen their events at the home (R294, R295), and none is on its way. -/
def State.foldReady (s : State) (h b : Nat) : Bool :=
  (alGetD (s.heddle h).contributors b []).all (fun c => s.partialReady b c) && !s.partialSent b &&
    (alGet (s.heddle h).std b).isNone

end Sys2Proof.Machine
end

