-- ==== Sys2Proof/Machine/Records.lean ====
section
/-! DEFINITION. The context block of a full thread (Table 10.7) and the save area of its array (Table 6.8): what is written when the
thread is saved, and what a restore reads. -/

namespace Sys2Proof.Machine

/-- A 64-bit word of a record. -/
def w64 (w : Word) : List Byte := leBytes 8 w.toNat

/-- Numbers packed as little-endian items of n bytes. -/
def packBytes (n : Nat) (l : List Nat) : List Byte := l.flatMap (leBytes n)

/-- The k items of n bytes at an offset of a record. -/
def itemsAt (bs : List Byte) (off n k : Nat) : List Nat :=
  let r := bs.drop off
  (List.range k).map (fun i => ofLE ((r.drop (n * i)).take n))

/-- A 64-bit word at an offset of a record. -/
def w64At (bs : List Byte) (off : Nat) : Word := BitVec.ofNat 64 (ofLE ((bs.drop off).take 8))

/-- A vector of words read from an offset of a record. -/
def wordsAt (bs : List Byte) (off n : Nat) : Vector Word n := Vector.ofFn (fun i : Fin n => w64At bs (off + 8 * i.val))

/-- Four bits each of two in a byte: the low half first. -/
def nibbles : List (BitVec 4) → List Byte
  | a :: b :: l => (b ++ a) :: nibbles l
  | [a] => [0#4 ++ a]
  | [] => []

/-- The word of formats and flags of an array save area (Table 6.8). -/
def ArrayState.flagWord (a : ArrayState) : Word :=
  let b (x : Bool) (k : Nat) : Nat := if x then 2 ^ k else 0
  BitVec.ofNat 64 (a.afmt.toNat + a.p.toNat * 2 ^ 8 + a.tile.wfmt.toNat * 2 ^ 16 + b a.tile.sparse 20 + a.mshift.toNat * 2 ^ 24 +
    b a.tspx 32 + b a.tinf 33 + b a.spx 34 + b a.ainf 35)

/-- The array save area (Table 6.8). -/
def ArrayState.saveBytes (a : ArrayState) : List Byte :=
  packBytes 4 (a.acc.toList.map BitVec.toNat) ++
  packBytes 2 (a.tile.sig.toList.map (fun x => (x.signExtend 16).toNat)) ++
  packBytes 2 (a.tile.sw.toList.map BitVec.toNat) ++
  leBytes 128 a.tile.nonfin.toNat ++ nibbles a.codes.toList ++
  w64 a.flagWord ++ leBytes 56 0 ++ leBytes 1856 0

/-- Restore an array from its save area: the queue and the drain buffer are empty, and the codes that a sparse tile was latched with
are not in the area (R173). -/
def ArrayState.restore (a : ArrayState) (bs : List Byte) : ArrayState :=
  let f := w64At bs 55424
  { a with
    acc := Vector.ofFn (fun i : Fin 4096 => BitVec.ofNat 32 (ofLE ((bs.drop (4 * i.val)).take 4))),
    tile := { a.tile with
      sig := Vector.ofFn (fun i : Fin 16384 => BitVec.ofNat 9 (ofLE ((bs.drop (16384 + 2 * i.val)).take 2))),
      sw := Vector.ofFn (fun i : Fin 1024 => BitVec.ofNat 16 (ofLE ((bs.drop (49152 + 2 * i.val)).take 2))),
      nonfin := BitVec.ofNat 1024 (ofLE ((bs.drop 51200).take 128)), wfmt := f.extractLsb' 16 4, sparse := bit f 20 },
    codes := Vector.ofFn (fun i : Fin 8192 => (bs.getD (51328 + i.val / 2) 0).extractLsb' (4 * (i.val % 2)) 4),
    afmt := f.extractLsb' 0 4, p := f.extractLsb' 8 5, mshift := f.extractLsb' 24 8,
    tspx := bit f 32, tinf := bit f 33, spx := bit f 34, ainf := bit f 35 }

/-- A full thread with what it leaves on its core, and the numbers that its context block holds of its core's engines. -/
structure FullImage where
  t : Thread
  core : SavedCore
  tid : Nat
  /-- where the context block stands -/
  ctx : VAddr
  /-- the last finished batch -/
  finished : Nat
  deriving DecidableEq, Repr

/-- The value of a filled queue entry; one that is still reserved for a token has none yet. -/
def QEntry.word : QEntry → Word
  | .filled w => w
  | .reserved _ => 0

/-- A mesh-port entry's 256 bytes: a scalar entry in bytes 0 to 7. -/
def PortEntry.value : PortEntry → VWord
  | .scalar w => w.setWidth 2048
  | .vector v => v
  | .reserved _ => 0

/-- The entry is a vector. -/
def PortEntry.wide : PortEntry → Bool
  | .vector _ => true
  | _ => false

/-- A list of n items, padded with a filler. -/
def padTo {α : Type} (n : Nat) (x : α) (l : List α) : List α := l.take n ++ List.replicate (n - l.length) x

/-- One bit for each flag of a list, the first lowest. -/
def flagBits (l : List Bool) : Nat := (BitVec.ofBoolListLE l).toNat

/-- The word that gives the lengths of the mesh ports and which of their entries are vectors (Table 10.7). -/
def SavedCore.portWord (c : SavedCore) : Nat :=
  (c.ports.toList.zipIdx.map (fun (l, k) => (flagBits (l.map PortEntry.wide) * 16 + l.length) * 2 ^ (8 * k))).sum

/-- A context block (Table 10.7). Queue k's oldest entry is its entry 0 (log entry 25). -/
def FullImage.bytes (x : FullImage) : List Byte :=
  let t := x.t
  let c := x.core
  let mb (k : Nat) : Nat := (vget c.mb k 0).toNat
  let word (n : Nat) : List Byte := leBytes 8 n
  let ctx (u : Ctx) : List Byte := packBytes 8 (u.s.toList.map BitVec.toNat)
  let preds (u : Ctx) : List Byte := packBytes 8 (u.p.toList.map BitVec.toNat)
  let chain (k : Chain) : List Nat := [(k.cursor.getD 0).toNat, k.tail.toNat]
  word t.exe.pc.toNat ++
  word ((if t.acc.running then 2 ^ 63 else 0) + t.acc.pc.toNat) ++
  word (t.acc.fstat.toNat * 2 ^ 32 + t.exe.fstat.toNat * 2 ^ 16 + t.vl) ++
  word t.seqkey.toNat ++
  word (c.grp.emask.toNat * 2 ^ 32 + c.grp.gsize.toNat * 2 ^ 16 + c.grp.rank.toNat) ++
  word c.grp.ggeom.toNat ++
  word (c.grp.col0.toNat * 2 ^ 32 + c.grp.row0.toNat) ++
  word (mb 1 * 2 ^ 32 + mb 0) ++ word (mb 3 * 2 ^ 32 + mb 2) ++
  word (x.finished % 2 ^ 32 * 2 ^ 32 + t.lastSealed % 2 ^ 32) ++
  word (t.acc.pend.toNat * 2 ^ 32 + t.exe.pend.toNat) ++
  word ((List.range 4).map (fun k => (vget t.q k []).length * 2 ^ (16 * k))).sum ++
  word (flagBits (t.boq.map Prod.fst) * 2 ^ 32 + flagBits (t.boq.map Prod.snd)) ++
  word t.boq.length ++
  word c.portWord ++
  word (x.ctx + 12800).toNat ++
  packBytes 8 (c.chains.toList.flatMap chain) ++
  word t.image.kdesc.toNat ++ word (64 * x.tid) ++
  packBytes 8 (c.handlers.toList.map BitVec.toNat) ++
  packBytes 8 (c.pwb.toList.map BitVec.toNat) ++ packBytes 8 (c.pwl.toList.map BitVec.toNat) ++
  w64 c.tvec ++ w64 c.sscratch ++ leBytes 48 0 ++
  ctx t.exe ++ ctx t.acc ++ preds t.exe ++ preds t.acc ++
  packBytes 256 (t.v.toList.map BitVec.toNat) ++
  packBytes 8 (t.q.toList.flatMap (fun l => padTo 16 0 (l.map (fun e => e.word.toNat)))) ++
  packBytes 256 (c.ports.toList.flatMap (fun l => padTo 4 0 (l.map (fun e => e.value.toNat))))

/-- The fields of `%fstat` that exist: RM and the five flags (Table 1.6, R10). -/
def fstatMask : BitVec 10 := 0x31F

/-- The fields of `%ggeom` that exist (Table 1.6, R10). -/
def geomMask : BitVec 29 := 0x1F3F1F3F

/-- The fields of `%emask` that exist (Table 1.6, R10). -/
def emaskMask : BitVec 24 := 0xFFFF3F

/-- The fields of a protection window's base and limit registers that exist (Table 1.8, R10). -/
def pwbMask : Word := 0x7FFFF
def pwlMask : Word := 0x7_0007_FFFF

/-- A stream's registers from a context block; what its reserved fields hold is ignored (R10). -/
def Ctx.restore (c : Ctx) (bs : List Byte) (pcOff sOff pOff fLo : Nat) : Ctx :=
  { c with pc := (w64At bs pcOff).extractLsb' 0 56, s := wordsAt bs sOff 24, p := wordsAt bs pOff 8,
           fstat := (w64At bs 16).extractLsb' fLo 10 &&& fstatMask }

/-- The entries of queue k of a context block: COUNT of them, from HEAD around the ring. One that was still reserved for a token of the
thread in `old` is so still (R135). -/
def queueAt (bs : List Byte) (k : Nat) (old : List QEntry) : List QEntry :=
  let w := w64At bs 88
  (List.range (field w (16 * k + 4) (16 * k))).map (fun i => match (old[i]? : Option QEntry) with
    | some (.reserved id) => .reserved id
    | _ => .filled (w64At bs (8192 + 128 * k + 8 * ((field w (16 * k + 11) (16 * k + 8) + i) % 16))))

/-- The entries of mesh port k of a context block. One of `old` that a neighbour's load has reserved since is reserved still (R20). -/
def portAt (bs : List Byte) (k : Nat) (old : List PortEntry) : List PortEntry :=
  let w := w64At bs 112
  (List.range (field w (8 * k + 2) (8 * k))).map (fun i => match (old[i]? : Option PortEntry) with
    | some (.reserved id) => .reserved id
    | _ =>
      let off := 8704 + 1024 * k + 256 * i
      if bit w (8 * k + 4 + i) then .vector (BitVec.ofNat 2048 (ofLE ((bs.drop off).take 256))) else .scalar (w64At bs off))

/-- Restore a full thread from its context block. -/
def Thread.restore (t : Thread) (bs : List Byte) : Thread :=
  let acc := t.acc.restore bs 8 704 960 32
  { t with
    exe := t.exe.restore bs 0 512 896 16,
    acc := { acc with running := bit (w64At bs 8) 63 },
    vl := field (w64At bs 16) 15 0, seqkey := (w64At bs 24).setWidth 32, lastSealed := field (w64At bs 72) 31 0,
    v := Vector.ofFn (fun i : Fin 28 => BitVec.ofNat 2048 (ofLE ((bs.drop (1024 + 256 * i.val)).take 256))),
    q := Vector.ofFn (fun k : Fin 4 => queueAt bs k.val (vget t.q k.val [])),
    boq := (List.range (field (w64At bs 104) 5 0)).map (fun i => (bit (w64At bs 96) (32 + i), bit (w64At bs 96) i)) }

/-- Restore what a full thread left on its core from its context block (R255). -/
def SavedCore.restore (c : SavedCore) (bs : List Byte) : SavedCore :=
  let chain (k : Nat) (x : Chain) : Chain :=
    let cur := (w64At bs (128 + 16 * k)).extractLsb' 0 56
    { x with cursor := x.cursor.map (fun _ => cur), tail := (w64At bs (136 + 16 * k)).extractLsb' 0 56 }
  { c with
    ports := Vector.ofFn (fun k : Fin 4 => portAt bs k.val (vget c.ports k.val [])),
    mb := Vector.ofFn (fun k : Fin 4 => (w64At bs (56 + 8 * (k.val / 2))).extractLsb' (32 * (k.val % 2)) 32),
    grp := { rank := (w64At bs 32).extractLsb' 0 16, gsize := (w64At bs 32).extractLsb' 16 16,
             ggeom := (w64At bs 40).extractLsb' 0 29 &&& geomMask, row0 := (w64At bs 48).extractLsb' 0 32,
             col0 := (w64At bs 48).extractLsb' 32 32, emask := (w64At bs 32).extractLsb' 32 24 &&& emaskMask },
    pwb := (wordsAt bs 320 8).map (· &&& pwbMask), pwl := (wordsAt bs 384 8).map (· &&& pwlMask), tvec := w64At bs 448, sscratch := w64At bs 456,
    handlers := Vector.ofFn (fun p : Fin 16 => (w64At bs (192 + 8 * p.val)).extractLsb' 0 56),
    chains := Vector.ofFn (fun k : Fin 3 => chain k.val (vget c.chains k.val Chain.empty)) }

/-- The last finished batch of a thread on its core (R222). -/
def State.lastFinished (s : State) (t : Thread) (tid : Nat) : Nat :=
  (s.core t.core).ops.foldl (fun m o => if o.2.tid == tid && !o.2.chain then min m (o.2.batch - 1) else m) t.lastSealed

/-- What a full thread leaves on its core (R29). -/
def State.leftOn (s : State) (core : Nat) : SavedCore :=
  let k := s.core core
  { ports := k.ports, mb := k.mb, grp := k.grp, pwb := k.pwb, pwl := k.pwl, tvec := k.tvec, sscratch := k.sscratch,
    array := k.array, handlers := k.eps.map (fun e => e.handler), chains := k.chains, eps := none }

/-- Write a suspended full thread's context block and array save area, where its bobbin has them (R255, R262 step 4, R187 step 3): a
saved one's, or those of a thread that stays on its core. -/
def State.putContext (s : State) (tid : Nat) : State :=
  match s.thread? tid with
  | none => s
  | some t =>
    match s.contextAt t.dom tid with
    | some a =>
      if (s.recordLeaf (coreDie t.core) t.dom a).isNone then s
      else
        let c := t.saved.getD (s.leftOn t.core)
        let x : FullImage := { t := t, core := c, tid := tid, ctx := a, finished := s.lastFinished t tid }
        (s.putRecord (coreDie t.core) t.dom a x.bytes).putRecord (coreDie t.core) t.dom (a + 12800) c.array.saveBytes
    | none => s

/-- Read a saved full thread's context block and array save area back through a die's table (R255, R187 step 4); what has no place in
memory stays as its shuttle kept it (log entry 25). -/
def State.recallContext (s : State) (die tid : Nat) : State :=
  match s.thread? tid with
  | none => s
  | some t =>
    match t.saved, s.contextAt t.dom tid with
    | some c, some a =>
      match s.getRecord die t.dom a 100, s.getRecord die t.dom (a + 12800) 448 with
      | some x, some y =>
        s.setThread tid { t.restore x with saved := some { c.restore x with array := c.array.restore y } }
      | _, _ => s
    | _, _ => s

end Sys2Proof.Machine
end

