-- ==== Sys2Proof/Machine/Threads.lean ====
section
/-! DEFINITION. Bobbins and their pools (R342, R413), births and ends of threads, saving and placing full threads (R255, R257),
vector-group membership (R231), completion words (R227) and stores made by the device itself. -/

namespace Sys2Proof.Machine

/-- The newest data of a block of a loaded draft: a data cache that holds it writable has it, else its home (R283). -/
def State.latest (s : State) (b : Nat) : Block :=
  match s.cores.findSome? (fun c => match alGet c.2.dcache b with
      | some x => if x.writable && !x.void then some x.data else none
      | none => (alGet c.2.wbuf b).map DCLine.data) with
  | some x => x
  | none => s.blockData b

/-- Take a block of a loaded draft back from the data caches before a unit that is no thread writes it: what they hold goes home. -/
def State.recallLines (s : State) (b : Nat) : State :=
  if !s.stdDraft (s.draftAt (128 * b)) && s.cores.any (fun c => (alGet c.2.dcache b).isSome || (alGet c.2.wbuf b).isSome) then
    let s := s.putBlock b (s.latest b)
    { s with cores := s.cores.map (fun c =>
        (c.1, { c.2 with dcache := alErase c.2.dcache b, wbuf := alErase c.2.wbuf b })) }
  else s

/-- A store of a unit that is no thread at its home: in a commutative region it contributes to memory itself (R203). -/
def State.deviceStore (s : State) (key : KeyId) (pa : Nat) (bs : List Byte) : State :=
  if s.isComm (s.draftAt pa) then
    let (op, fmt) := s.commOf pa
    let n := commStep op fmt (s.mem.num pa bs.length) (ofLE bs)
    s.homeStore key pa (leBytes bs.length n)
  else
    let s := (s.recallLines (blockNo pa)).homeStore key pa bs
    if s.draftAt pa = 4 then s.updBlock (blockNo pa) (fun m => { m with written := true }) else s

/-- Send a store from a die to its home, or make it at once where the home is on the die and has seen what it comes after
(R282, R285, R286). -/
def State.sendStore (s : State) (die : Nat) (stamp : Clock) (tid id : Nat) (key : KeyId) (pa : Nat) (bs : List Byte) : State :=
  let e := paDie pa
  let stamp := stamp.join (s.die die).vc
  if e = die ∧ stamp.leBut (s.die e).vc [] ∧ (s.incoming e e).isEmpty then s.deviceStore key pa bs
  else s.sendBridge die e (.write stamp tid id key pa bs none)

/-- A store of a unit that is no thread, to a block that a condition picks, is on its way to its home (R281). -/
def State.deviceWrites (s : State) (p : Nat → Bool) : Bool :=
  [0, 1, 2, 3].any (fun d => [0, 1, 2, 3].any (fun e => (s.incoming d e).any (fun m => match m with
    | .write _ tid _ _ pa _ _ => tid == 0 && p (blockNo pa)
    | _ => false)))

/-- Added to the tid of accesses whose thread has ended: no thread has the sum. -/
def goneTid : Nat := 2 ^ 62

/-- A store posted to a peer device by a unit that is no thread (R196). -/
def peerPost (die : Nat) (d : DomId) (pa : Nat) (ea : Word) (key : KeyId) (bs : List Byte) : OutReq :=
  { kind := .peer, tid := goneTid, acc := false, dom := d, core := shuttleAt die 0 0, acckind := .store, signed := false, loc := pa,
    ea := ea, size := bs.length, data := BitVec.ofNat 64 (ofLE bs), compare := 0, dest := .none, key := key, pc := 0, unit := none,
    slot := 0, answer := none, waits := false, nacks := 0, retryAt := none, gone := some (3, 0), lane := none }

/-- The checks of Table 7.2 on an access of n bytes by a unit that is no thread, for a domain through a die's table: its leaf. A page
of a peer device has met rows 2 to 5 (R194). -/
def State.sysLeaf (s : State) (die : Nat) (d : DomId) (ea : Word) (n : Nat) (write : Bool) : Except Bad Leaf :=
  if field ea 59 56 != 0 then .error { cause := 0x04, extra := ea }
  else if ea.toNat % n != 0 then .error { cause := 0x03, extra := 0 }
  else if inWindow ea then .error { cause := 0x04, extra := ea }
  else
    let va := ea.extractLsb' 0 56
    match s.walk die (s.admits d) va with
    | .error x => .error (x.bad false)
    | .ok e =>
      let l := e.leaf va
      match s.leafChecks d ea write l with
      | some c => .error { cause := c, extra := 0 }
      | none =>
        if l.loc ≠ 0 then .ok l
        else if s.onceRefused (s.draftAt l.pa) l.pa write then .error { cause := 0x11, extra := 0 }
        else if write && s.isComm (s.draftAt l.pa) && n != commWidth (s.commOf l.pa).2 then .error { cause := 0x11, extra := 0 }
        else if if write then s.writable l.key l.pa n else s.readable (blockNo l.pa) l.key then .ok l
        else .error { cause := 0x15, extra := 0 }

/-- Check and make a store of the device for a domain at a global address, from a die, after the events of a clock (Table 7.2;
R227, R226, R328). A store to a peer page is posted. -/
def State.sysStore (s : State) (die : Nat) (stamp : Clock) (d : DomId) (ea : Word) (bs : List Byte) : Except Bad State :=
  match s.sysLeaf die d ea bs.length true with
  | .error b => .error b
  | .ok l =>
    if l.loc = 0 then .ok (s.sendStore die stamp 0 0 l.key l.pa bs)
    else if l.loc = 1 then .ok (s.plainWrite (hostLoc l.pa) bs)
    else .ok { s with outs := alSet s.outs s.nextId (peerPost die d l.pa ea l.key bs), nextId := s.nextId + 1 }

/-- The n bytes that a load of the device finds at a leaf. -/
def State.sysBytes (s : State) (l : Leaf) (n : Nat) : List Byte :=
  if l.loc = 1 then s.mem.bytes (hostLoc l.pa) n
  else
    let s := if s.isComm (s.draftAt l.pa) then s.foldAll (s.homeHeddle l.pa) (blockNo l.pa) else s
    ((leBytes 128 (s.latest (blockNo l.pa)).toNat).drop (l.pa % 128)).take n

/-- Check and make a load of the device for a domain at a global address, on a die (log entry 13 on a peer page). -/
def State.sysLoad (s : State) (die : Nat) (d : DomId) (ea : Word) (n : Nat) : Except Bad (List Byte) :=
  match s.sysLeaf die d ea n false with
  | .error b => .error b
  | .ok l => if l.loc = 2 then .error { cause := 0x11, extra := 0 } else .ok (s.sysBytes l n)

/-- The front end has read at a global address: the partials there are folded (R294), and what it does next comes after the events
its home had seen (R282, R285). -/
def State.hostSaw (s : State) (die : Nat) (d : DomId) (ea : Word) : State :=
  match s.locate die d (ea.extractLsb' 0 56) with
  | some loc =>
    if loc < 2 ^ 52 then
      let s := if s.isComm (s.draftAt loc) then s.foldAll (s.homeHeddle loc) (blockNo loc) else s
      { s with mgmt := { s.mgmt with fclk := s.mgmt.fclk.join (s.die (paDie loc)).vc } }
    else s
  | none => s

/-- Load n bytes of a longer record, 8 bytes at a time. -/
def State.sysLoadWords (s : State) (die : Nat) (d : DomId) (ea : Word) : Nat → Except Bad (List Word)
  | 0 => .ok []
  | n + 1 =>
    match s.sysLoad die d ea 8 with
    | .error b => .error b
    | .ok bs =>
      match s.sysLoadWords die d (leaAdd ea 8) n with
      | .error b => .error b
      | .ok ws => .ok (BitVec.ofNat 64 (ofLE bs) :: ws)

/-- Scan a pool from an index for a bobbin without a thread (R342). -/
def State.scanPool (s : State) (base limit : Nat) : Nat → Nat → Option Nat
  | 0, _ => none
  | n + 1, i =>
    let i := i % limit
    if (s.thread? (base + i)).isNone then some i
    else s.scanPool base limit n (i + 1)

/-- Take a free bobbin of a domain's pool on a die for a thread of an image (R342, R371, R413): its identifier, and the state with the
pool's image word written. -/
def State.takeBobbin (s : State) (d : DomId) (die : Nat) (full : Bool) (image : Image) : Option (Nat × State) :=
  let pd := s.poolDom d
  let r := s.dom pd
  let base := r.bobpool.toNat / 64
  let cap := min r.bobcnt.toNat ((2 ^ 39 - r.bobpool.toNat) / 64)
  let limit := if full then min cap (s.dom (s.ctxDom d)).ctxcnt.toNat else cap
  let rot := vget (s.dom d).rot die 0
  if limit = 0 then none
  else match s.scanPool base limit (min limit (s.threads.length + 1)) (if rot < limit then rot else 0) with
    | none => none
    | some i =>
      let s := if r.bobimg = 0 then s
        else s.putRecord die d (r.bobimg + BitVec.ofNat 56 (8 * i)) (leBytes 8 image.kdesc.toNat)
      some (base + i, s.updDom d (fun r => { r with rot := vset r.rot die ((i + 1) % r.bobcnt.toNat) }))

/-- The lowest free slot among 0 to 6 of a core that admits births (R182): none from a pre-emption to the shuttle's next binding
(R262). -/
def freeSlot (k : Core) : Option Nat :=
  if k.preempt.isSome ∨ k.unbound then none
  else (List.range 7).find? (fun i => (vget k.slots i none).isNone)

/-- Place a pick in a slot. -/
def State.placePick (s : State) (tid core slot : Nat) (t : Thread) : State :=
  let s := s.setThread tid { t with core := core, slot := slot, status := .running }
  (s.updCore core (fun k => { k with slots := vset k.slots slot (some tid) })).putBobbin tid

/-- A pick at birth, before its registers (R27). -/
def pickInit (core slot : Nat) (d : DomId) (image : Image) (entry : VAddr) (o : Origin) : Thread :=
  { Thread.init .pick core slot d image entry with origin := o }

/-- Put words into registers r upward. -/
def Ctx.setRegs (c : Ctx) (r : Nat) : List Word → Ctx
  | [] => c
  | w :: ws => (c.setReg r w).setRegs (r + 1) ws

/-- The eight words of 64 bytes. -/
def words8 (x : BitVec 512) : List Word := (List.range 8).map (fun i => x.extractLsb' (64 * i) 64)

/-- Take a thread off its core's slot or shuttle. -/
def State.unplace (s : State) (tid : Nat) (t : Thread) : State :=
  s.updCore t.core (fun k =>
    if t.kind = .full then (if k.full = some tid then { k with full := none } else k)
    else if vget k.slots t.slot none = some tid then { k with slots := vset k.slots t.slot none } else k)

/-- The group a thread is an attached or detached member of. -/
def State.groupOf (s : State) (tid : Nat) : Option (Nat × VGroup) :=
  s.groups.find? (fun g => g.2.members.any (fun m => m.1 == tid && !m.2.2))

/-- A group's leader. -/
def VGroup.leader (g : VGroup) : Nat :=
  match g.members with
  | m :: _ => m.1
  | [] => 0

/-- A thread is an attached follower of a group (R231). -/
def State.attached (s : State) (tid : Nat) : Bool :=
  match s.groupOf tid with
  | some (_, g) => g.leader != tid && g.members.any (fun m => m.1 == tid && m.2.1)
  | none => false

/-- An attached follower that holds words still to be executed. -/
def VGroup.owes (g : VGroup) (m : Nat × Bool × Bool) : Bool := m.2.1 && !m.2.2 && !(alGetD g.words m.1 []).isEmpty

/-- The leader of a group stops or leaves (R231, R232): a follower executes the words it holds, and goes on alone from the instruction at
which the leader stopped. -/
def State.dissolve (s : State) (gid : Nat) (g : VGroup) : State :=
  let follower (m : Nat × Bool × Bool) : Bool := m.1 != g.leader && m.2.1 && !m.2.2
  let at_ (s : State) (m : Nat × Bool × Bool) : State := match s.thread? g.leader with
    | some t =>
      if follower m && !g.owes m && !s.forming.any (fun f => f.2.issued.contains m.1) then
        s.updThread m.1 (fun u => { u with exe := { u.exe with pc := t.exe.pc, atTarget := t.exe.atTarget } })
      else s
    | none => s
  let s := g.members.foldl at_ s
  let members := g.members.map (fun m => if follower m && g.owes m then m else (m.1, false, true))
  if members.any g.owes then { s with groups := alSet s.groups gid { g with members := members, dissolved := true, joining := [] } }
  else { s with groups := alErase s.groups gid }

/-- Detach a follower, or dissolve its group at the leader (R231, R232); `left` marks a follower gone for good. -/
def State.detach (s : State) (tid : Nat) (left : Bool) : State :=
  match s.groupOf tid with
  | none => s
  | some (gid, g) =>
    if g.leader = tid then s.dissolve gid g
    else
      let g := { g with members := g.members.map (fun m => if m.1 = tid then (m.1, false, m.2.2 || left) else m),
                        words := alErase g.words tid, armed := g.armed.erase tid,
                        joining := g.joining.filter (fun j => j.1 != tid) }
      if g.dissolved && !g.members.any g.owes then { s with groups := alErase s.groups gid } else { s with groups := alSet s.groups gid g }

/-- Close every endpoint of a core and draw fresh CHECK values: ownership has ended (R263). -/
def State.closeEps (s : State) (core : Nat) : State :=
  let n := s.freeCtr
  let eps := (Vector.range 16).map (fun i =>
    { Endpoint.closed with check := 0#1 ++ (Config.fresh (n + i)).extractLsb' 0 31 })
  ({ s with freeCtr := n + 16 }).updCore core (fun k => { k with eps := eps })

/-- A new full thread owns its core's endpoints, each with a fresh CHECK (R263); `event` marks the supervisor's (R376). -/
def State.openEps (s : State) (core : Nat) (d : DomId) : State :=
  let n := s.freeCtr
  let supv (p : Nat) : Bool := s.doms.any (fun x =>
    let h := s.effEvtep (BitVec.ofNat 20 x.1)
    s.effSupv (BitVec.ofNat 20 x.1) == coreId core && handleCore h == some core && field h 35 32 == p)
  let eps := (Vector.range 16).map (fun i =>
    { Endpoint.closed with owner := some d, check := 0#1 ++ (Config.fresh (n + i)).extractLsb' 0 31, state := .open,
                           event := supv i })
  ({ s with freeCtr := n + 16 }).updCore core (fun k => { k with eps := eps })

/-- Switch a core's owned endpoints to SPILL and move their messages to the spill queue, oldest first (R262 step 2). -/
def State.spillEps (s : State) (core : Nat) : State :=
  (List.range 16).foldl (fun s p =>
    let e := s.ep core p
    match e.owner with
    | none => s
    | some d =>
      let xs : List SpillEntry := e.msgs.map (fun m => { msg := m, core := core, port := BitVec.ofNat 4 p, done := false })
      let s := xs.foldl (fun s x => s.spillAppend (s.spillDom d) x) s
      s.updEp core p (fun e => { e with state := .spill, msgs := [] })) s

/-- A shuttle that is pre-empted stops issuing its full thread's instructions, closes to claims and switches its endpoints to SPILL (R262
steps 1 and 2, R389 step 1). -/
def State.stopShuttle (s : State) (core : Nat) : State :=
  let s := s.spillEps core
  s.updCore core (fun k => { k with preempt := some s.tick, intr := false, unbound := true, gate := match k.gate with
    | .reserved d t x => .reserved d t x
    | _ => .closed })

/-- Open the endpoints of a running owner for which nothing is spilled (R265). -/
def State.reopenEps (s : State) (core : Nat) : State := (List.range 16).foldl (fun s p => s.epReopen core p) s

/-- A thread's engine operations of a kind, array commands and chain entries that have not completed (R257); a chain that waits for its
supervisor has not. -/
def State.engineBusyWith (s : State) (tid : Nat) (counts : EngineOp → Bool) : Bool :=
  match s.thread? tid with
  | none => false
  | some t =>
    let k := s.core t.core
    k.ops.any (fun o => o.2.tid == tid && counts o.2) || k.array.queue.any (fun q => q.tid == tid) ||
      k.chains.toList.any (fun c => c.cursor.isSome && (!c.parked || c.faulted) && c.appends.any (fun a => a.1 == tid))

/-- A thread's engine work has not completed (R223, R257). -/
def State.engineBusy (s : State) (tid : Nat) : Bool := s.engineBusyWith tid (fun _ => true)

/-- A full thread held to its shuttle only by its engine operations is held no longer once they are done (R257). -/
def State.unhold (s : State) (tid : Nat) : State :=
  match s.thread? tid with
  | none => s
  | some t =>
    let shuttle : Bool := match t.status with
      | .waiting (.mailbox _ _) | .waiting (.endpoint _) | .waiting (.barrier _) | .running => true
      | _ => false
    if t.kind ≠ .full ∨ t.heldTo.isNone ∨ t.member ∨ shuttle ∨ s.engineBusy tid then s
    else
      let s := s.setThread tid { t with heldTo := none }
      if t.status = .runnable then s.enqueue tid t.dom (coreDie t.core) else s

/-- Save what a full thread leaves on its core and take it off (R29, R262 step 4). The core's own registers keep it until another
thread takes the core. -/
def State.saveFull (s : State) (tid : Nat) : State :=
  match s.thread? tid with
  | none => s
  | some t =>
    let s := (s.setThread tid { t with saved := some (s.leftOn t.core) }).putContext tid
    (s.updCore t.core (fun k => { k with full := none, last := some tid, grp := GroupRegs.zero })).putBobbin tid

/-- Clear a core for another full thread: the state of a saved one that it still holds goes to its save areas, its endpoint
records with it (R263). -/
def State.stash (s : State) (core : Nat) : State :=
  let k := s.core core
  match k.last with
  | none => s
  | some x =>
    let s := s.updThread x (fun t => { t with saved := t.saved.map (fun sv =>
      { sv with ports := k.ports, mb := k.mb, array := k.array, handlers := k.eps.map (fun e => e.handler), chains := k.chains,
                eps := some k.eps }) })
    let s := s.putContext x
    (s.updCore core (fun k => { k with last := none, ports := Vector.replicate 4 [], mb := Vector.replicate 4 0,
                                       array := ArrayState.launch, chains := Vector.replicate 3 Chain.empty })).closeEps core

/-- An inbound port of a core has an entry still to be filled (R20). -/
def Core.portsDue (k : Core) : Bool :=
  k.ports.toList.any (fun l => l.any (fun e => match e with
    | .reserved _ => true
    | _ => false))

/-- A core can take a full thread: it has none, and no array command, row or port entry of a saved one is still to come. -/
def Core.vacant (k : Core) : Bool :=
  k.full.isNone && k.preempt.isNone && k.array.queue.isEmpty && k.array.drain.isEmpty && !k.portsDue

/-- Restore a saved full thread on a core and run it (R255, R265): its endpoint records come with it, with their CHECK values
(R263). -/
def State.placeFull (s : State) (tid core : Nat) : State :=
  let s := match s.thread? tid with
    | none => s
    | some t => if (s.core t.core).last = some tid then s.stash t.core else s
  let s := (s.stash core).recallContext (coreDie core) tid
  match s.thread? tid with
  | none => s
  | some t =>
    let now := s.tick
    let s := s.setThread tid { t with core := core, status := .running, saved := none, heldTo := none, leaving := false }
    let s := (s.updCore core (fun k => { k with full := some tid, gate := .open, preempt := none, unbound := false,
                                                placedAt := now })).putBobbin tid
    match t.saved with
    | none => s.openEps core t.dom
    | some sv =>
      let s := s.updCore core (fun k =>
        { k with ports := sv.ports, mb := sv.mb, grp := sv.grp, pwb := sv.pwb, pwl := sv.pwl, tvec := sv.tvec,
                 sscratch := sv.sscratch, epc := 0, ecause := 0, eaddr := 0, einfo := 0, estat := 0, array := sv.array,
                 chains := sv.chains })
      let home (e : Endpoint) : Endpoint := if core = t.core then e else { e with homes := t.core :: e.homes }
      let s := match sv.eps with
        | some l => s.updCore core (fun k => { k with eps := l.map home })
        | none => s.openEps core t.dom
      let s := s.updCore core (fun k =>
        { k with eps := k.eps.zipWith (fun e h => { e with handler := h, image := t.image }) sv.handlers })
      s.reopenEps core

/-- Post the entry of a completion word that could not be written (R227). -/
def State.postSrc7 (s : State) (die : Nat) (d : DomId) (cword : Word) (b : Bad) : State :=
  let p : Poster := { die := die, col := 62, row := 0, tkind := 3, dom := d, bobbin := 0, seqkey := 0 }
  ((s.countWalk die b).post die (mkEntry p 7 b.cause 0 cword b.extra 0 s.tick)).noteIntegrity die b.cause cword none

/-- A launch has completed: write its completion word (R227), through die 0's page table for a packet's launch (R328). -/
def State.gangDone (s : State) (gid : Nat) (g : Gang) : State :=
  let s := { s with gangs := alErase s.gangs gid }
  if g.cword = 0 then s
  else
    let w := BitVec.ofNat 32 g.trapped ++ BitVec.ofNat 32 g.members.length
    let die := if g.qcb.isSome then 0 else g.die.toNat
    match s.sysStore die g.stamp g.ldom g.cword (leBytes 8 (w : Word).toNat) with
    | .ok s => s
    | .error b => s.postSrc7 die g.ldom g.cword b

/-- A launch whose members have all ended, and whose `.sys` sends are acknowledged, is complete (R227). -/
def State.gangCheck (s : State) (gid : Nat) (g : Gang) : State :=
  if g.ended = g.members.length ∧ g.sends = [] then s.gangDone gid g else { s with gangs := alSet s.gangs gid g }

/-- A member of a launch has ended (R227, R260). -/
def State.memberEnd (s : State) (gid tid : Nat) (trapped : Bool) : State :=
  match alGet s.gangs gid with
  | none => s
  | some g =>
    let sends := (s.chans.filter (fun m => m.2.stid == tid && m.2.rel && m.2.scope == 5)).map Prod.fst
    let g := { g with sends := g.sends ++ sends, ended := g.ended + 1, trapped := g.trapped + (if trapped then 1 else 0),
                      stamp := g.stamp.join (s.die g.die.toNat).vc }
    s.gangCheck gid g

/-- Tell the engine operation that created a pick of its end (R181, R221): a release of the operation at `.sys` waits for the stores
that the pick has posted to peer devices. -/
def State.originEnd (s : State) (tid : Nat) (o : Origin) (trapped : Bool) : State :=
  let posted := (s.outs.filter (fun r => r.2.tid == goneTid + tid && r.2.kind == .peer && r.2.acckind == .store)).map Prod.fst
  match o with
  | .weft c op | .drain c op =>
    s.updOp c op (fun x => { x with live := x.live - 1, htrap := x.htrap || trapped, peers := x.peers ++ posted })
  | _ => s

/-- Post the deferred store faults of an ended thread (R196). -/
def State.postStoreFaults (s : State) (tid : Nat) (t : Thread) : State :=
  t.storeFaults.foldl (fun s f =>
    s.post (coreDie t.core) (mkEntry (t.poster tid false) 2 f.cause 0 f.addr (1#64 <<< 63) 0 s.tick)) s

/-- Drop the tokens that a thread's spawns and launches would still write to it (R28, R228). -/
def State.forgetTokens (s : State) (tid : Nat) : State :=
  { s with births := s.births.map (fun e => (e.1, if e.2.tid = tid then { e.2 with dest := .none } else e.2)),
           gangs := s.gangs.map (fun e => (e.1, match e.2.token with
             | some (t, _) => if t = tid then { e.2 with token := none } else e.2
             | none => e.2)) }

/-- Drop what an ended thread's accesses, engine operations, births, launches and messages would still write to it (R128, R228,
R372). Its stores that are still on their way are performed. -/
def State.orphan (s : State) (tid : Nat) (t : Thread) : State :=
  let s := s.forgetTokens tid
  let kind : BitVec 2 := if t.kind = .full then 0 else 2
  let out (o : OutReq) : OutReq :=
    if o.tid = tid then { o with tid := goneTid + tid, dest := .none, waits := false, gone := some (kind, t.seqkey) } else o
  let act (m : ActiveMsg) : ActiveMsg := if m.tid = tid then { m with tid := goneTid } else m
  let op (x : EngineOp) : EngineOp :=
    if x.tid = tid then { x with tid := goneTid, dest := .none, gone := some (kind, tid, t.seqkey) } else x
  let msg (m : ChanMsg) : ChanMsg := if m.stid = tid then { m with dest := .none } else m
  let form (f : Forming) : Forming := { f with issued := f.issued.erase tid }
  let key (k : KeySlot) : KeySlot :=
    if k.state ≠ .closing ∨ k.closer.map Prod.fst ≠ some tid then k
    else if k.exports = [] then k.retired else { k with closer := none }
  { s with outs := s.outs.map (fun e => (e.1, out e.2)), chans := s.chans.map (fun e => (e.1, msg e.2)),
           keys := s.keys.map (fun e => (e.1, key e.2)),
           forming := (s.forming.map (fun e => (e.1, form e.2))).filter (fun e => !e.2.issued.isEmpty),
           cores := s.cores.map (fun e =>
             (e.1, { e.2 with remote := e.2.remote.map act, ops := e.2.ops.map (fun x => (x.1, op x.2)) })) }

/-- Drop what the loads, messages, spawns and launches of a pick that is saved would still write to its registers: they are not
saved (R28). -/
def State.forgetDests (s : State) (tid : Nat) : State :=
  let s := s.forgetTokens tid
  { s with outs := s.outs.map (fun e => (e.1, if e.2.tid = tid then { e.2 with dest := .none } else e.2)),
           chans := s.chans.map (fun e => (e.1, if e.2.stid = tid then { e.2 with dest := .none } else e.2)) }

/-- End a thread: free its slot or shuttle and its bobbin, and tell what created it (R229, R372). -/
def State.endThread (s : State) (tid : Nat) (trapped : Bool) : State :=
  match s.thread? tid with
  | none => s
  | some t =>
    let s := s.detach tid true
    let k := s.core t.core
    let mine := decide (t.kind = .full ∧ (k.full = some tid ∨ k.last = some tid))
    let s := if mine then (s.closeEps t.core).updCore t.core (fun k => { k with last := none }) else s
    let s := s.unplace tid t
    let s := (({ s with threads := alErase s.threads tid } : State).freeBobbin tid t).orphan tid t
    let s := s.postStoreFaults tid t
    let s := s.originEnd tid t.origin trapped
    match t.gang with
    | some g => s.memberEnd g tid trapped
    | none => s

/-- The state of a pick after a suspension point: only what its bobbin holds (R28). -/
def Thread.afterSuspend (t : Thread) : Thread :=
  let keep := (List.range 6).map (fun i => t.exe.reg (8 + i))
  let c := { Ctx.init with pc := t.exe.pc, atTarget := true, running := true }
  { t with exe := c.setRegs 8 keep, vl := 64, v := Vector.replicate 28 0, seqkey := 0, bcoord := 0, bflow := 0, bcount := 0,
           lastSealed := 0, vdirty := false, moved := false }

/-- A thread leaves its slot or shuttle to wait or to run later (R229, R253, R256, R257). -/
def State.suspendThread (s : State) (tid : Nat) (k : Option WaitKey) : State :=
  match s.thread? tid with
  | none => s
  | some t =>
    let s := s.detach tid false
    let heldKey : Bool := match k with
      | some (.mailbox _ _) | some (.endpoint _) | some (.barrier _) => true
      | _ => false
    let held := t.member || heldKey || (t.kind == .full && s.engineBusy tid)
    let t := { t with clock := (s.die (coreDie t.core)).vc, heldTo := if held then some t.core else none,
                      status := match k with
                        | some k => .waiting k
                        | none => .runnable }
    let s := if t.kind = .full then
        let s := s.setThread tid { t with exe := { t.exe with atTarget := true, ahead := [] }, acc := { t.acc with atTarget := true, ahead := [] } }
        let s := s.spillEps t.core
        if t.member then s.putContext tid else s.saveFull tid
      else ((s.setThread tid t.afterSuspend).forgetDests tid).unplace tid t
    let s := s.putBobbin tid
    match k with
    | none => if held then s else s.enqueue tid t.dom (coreDie t.core)
    | some (.address _) =>
      let waiters := s.threads.filter (fun x => match x.2.status with
        | .waiting (.address _) => coreDie x.2.core == coreDie t.core
        | _ => false)
      if 4096 < waiters.length then
        s.updDie (coreDie t.core) (fun d => { d with timed := alSet d.timed tid (s.tick + usCycles) })
      else s
    | some _ => s

end Sys2Proof.Machine
end

