-- ==== Sys2Proof/Machine/Coherence.lean ====
section
/-! DEFINITION. Regions and drafts, coherence messages, dispatch, busy refusal and handler aborts at a heddle (R237 to R241,
R357 to R366, R394, R395). -/

namespace Sys2Proof.Machine

/-- Message types (Table 8.13). -/
def tRdmiss : Nat := 0
def tWrmiss : Nat := 1
def tUpgrade : Nat := 2
def tRecall : Nat := 3
def tRecallack : Nat := 4
def tWb : Nat := 5
def tFwd : Nat := 6
def tPush : Nat := 7
def tRed : Nat := 8
def tNack : Nat := 9

/-- Reply kinds (Table 18.10). -/
def kAck : BitVec 2 := 0
def kData : BitVec 2 := 1
def kNack : BitVec 2 := 2
def kPoison : BitVec 2 := 3

/-- A core's node (Table 8.13). -/
def State.coreNode (s : State) (c : Nat) : BitVec 31 := s.mgmt.device ++ coreId c

/-- A memory heddle's node. -/
def State.heddleNode (s : State) (h : Nat) : BitVec 31 :=
  s.mgmt.device ++ BitVec.ofNat 16 (0x4000 + h / 8 * 2 ^ 12 + h % 8)

/-- What a node of this device is: a core, or a heddle (R239). -/
inductive NodeKind where
  | core (c : Nat)
  | heddle (h : Nat)
  | peer
  deriving DecidableEq, Repr

/-- What a node names, if it exists (R239); a port heddle reads as one beyond the memory heddles. -/
def State.node (s : State) (n : BitVec 31) : Option NodeKind :=
  let dev := n.extractLsb' 16 15
  let x := n.extractLsb' 0 16
  if dev ≠ s.mgmt.device then (if s.mgmt.admitted.contains dev then some .peer else none)
  else if bit x 14 then
    if bit x 15 = false ∧ field x 11 4 = 0 ∧ field x 2 0 < 6 then
      some (.heddle (8 * field x 13 12 + field x 2 0 + (if bit x 3 then 64 else 0)))
    else none
  else (coreOfId x).map .core

/-- The metadata byte of a block: colour in bits 5 to 2, access state in bits 1 and 0 (R238; log entry 14). -/
def BlockMeta.byte (m : BlockMeta) : BitVec 8 := 0#2 ++ m.colour ++ m.access

/-- The die of a node of this device. -/
def nodeDie (n : BitVec 31) : Nat := field n 13 12

/-- A message goes from one die of this device to another. -/
def State.crosses (s : State) (m : CohMsg) : Bool := nodeDie m.src != nodeDie m.dst && m.dst.extractLsb' 16 15 == s.mgmt.device

/-- Put a coherence message in flight, with the clock of its sender's die; between dies it takes its place on the bridge (R285). -/
def State.sendMsg (s : State) (m : CohMsg) : State :=
  let id := s.nextId
  let s := { s with msgs := alSet s.msgs id { m with stamp := (s.die (nodeDie m.src)).vc }, nextId := id + 1 }
  if s.crosses m then s.sendBridge (nodeDie m.src) (nodeDie m.dst) (.tag id) else s

/-- Coherence message k can be delivered: its die has seen every event that its sender's die had seen, and a message from another die is
the oldest that its bridge has brought (R282, R285, R286). -/
def State.msgReady (s : State) (k : Nat) (m : CohMsg) : Bool :=
  m.stamp.leBut (s.die (nodeDie m.dst)).vc [] &&
    (!s.crosses m || frontMsg ((s.land (nodeDie m.src) (nodeDie m.dst)).buffer (nodeDie m.src) (nodeDie m.dst)) == some (.tag k))

/-- Take the oldest message that a bridge has brought out of its causal buffer. -/
def State.takeFront (s : State) (d e : Nat) : State :=
  let s := s.land d e
  s.setBuffer d e (dropFront (s.buffer d e))

/-- A reply that grants a core a block is on its way to it: a request of a heddle that reaches the core about the block first waits for
it (R365; log entry 44). -/
def State.granted (s : State) (c b : Nat) (wr : Bool) : Bool :=
  s.msgs.any (fun m => m.2.dst == s.coreNode c && m.2.reply && blockNo m.2.pa == b && (m.2.grant == 2 || (!wr && m.2.grant == 1)))

/-- A message with no data of a heddle or core about a block. -/
def mkMsg (dst src orig : BitVec 31) (type : Nat) (reply : Bool) (slot : BitVec 7) (key : KeyId) (pa : Nat)
    (kind grant : BitVec 2) (data : Option Block) : CohMsg :=
  { dst := dst, type := BitVec.ofNat 4 type, reply := reply, src := src, orig := orig, slot := slot, key := key, pa := pa,
    data := data, bad := false, grant := grant, kind := kind, prio := false, moved := false, opnd := 0, stamp := Clock.zero }

/-- A heddle thread's identifier. -/
def heddleTid (h i : Nat) : Nat := 2 ^ 61 + 8 * h + i

/-- A free hardware thread of a heddle. -/
def freeHThread (x : Heddle) : Option Nat := (List.range 8).find? (fun i => (vget x.threads i none).isNone)

/-- A free reply slot of a heddle, 1 to 64. -/
def freeHSlot (x : Heddle) : Option Nat := ((List.range 64).map (· + 1)).find? (fun i => !x.slots.contains i)

/-- A handler is running for a block at a heddle (R237). -/
def State.handlerOn (s : State) (h pa : Nat) : Bool :=
  (s.heddle h).threads.toList.any (fun o => match o with
    | some t => (match s.thread? t with
      | some r => (match r.heddle with
        | some x => x.haddr.toNat == pa
        | none => false)
      | none => false)
    | none => false)

/-- Poison a block and tell the requester and the treadle pair of an aborted handler (R241 steps 2 to 4); `holds` is its thread, where it
has one. -/
def State.abortBlock (s : State) (h pa : Nat) (req : BitVec 31) (slot : BitVec 7) (type : Nat) (key : KeyId) (cause : Cause)
    (pc : VAddr) (watchdog : Bool) (holds : Option Nat := none) : State :=
  let s := s.updBlock (blockNo pa) (fun m => { m with poison := true })
  let s := s.sendMsg (mkMsg req (s.heddleNode h) req tRecallack true slot key pa kPoison 0 none)
  let s := s.updDie (h / 8) (fun d =>
    if watchdog then { d with abortsWatch := satInc d.abortsWatch } else { d with abortsOther := satInc d.abortsOther })
  let p : Poster := { die := h / 8, col := 60, row := h % 8, tkind := 3, dom := 0, bobbin := 0, seqkey := 0 }
  let extra : Word := BitVec.ofNat 64 (type * 2 ^ 32 + req.toNat)
  (s.post (h / 8) { mkEntry p 4 cause pc (BitVec.ofNat 64 pa) extra 0 s.tick with holds := holds }).logRas 2 12 (rasUnit 2 (h / 8) (h % 8)) cause
    (BitVec.ofNat 64 pa) 0

/-- A dispatch word's offset, when it is valid and names a marked start (R360). -/
def dispatchTarget (d : Draft) (type state : Nat) : Option VAddr :=
  let w := d.table.getD (4 * type + state) 0
  let off := field w 13 0
  if bit w 31 ∧ off % 2 = 0 ∧ off < d.text.length ∧ bit (d.smap.getD (off / 16) 0) (off / 2 % 8) then
    some (BitVec.ofNat 56 off)
  else none

/-- The OFFSET of a dispatch word, the PC of a handler that aborts there (R48, R360); 0 for a word that is not valid. -/
def Draft.dispatchOffset (d : Draft) (type state : Nat) : VAddr :=
  let w := d.table.getD (4 * type + state) 0
  if bit w 31 then BitVec.ofNat 56 (field w 13 0) else 0

/-- What `%horig` reads (Table 8.13): the original requester of a FWD, RECALL or RECALLACK, else the sender. -/
def origOf (type : Nat) (src orig : BitVec 31) : BitVec 31 :=
  if type = tFwd ∨ type = tRecall ∨ type = tRecallack then orig else src

/-- Dispatch a message to a handler (R237): none when no thread or slot is free. `src` and `orig` are what `%hsrc` and
`%horig` read, `ans` that it answers a recorded forward. -/
def State.dispatch (s : State) (h : Nat) (m : CohMsg) (type : Nat) (src orig : BitVec 31) (ans : Bool) : Option State :=
  let x := s.heddle h
  match freeHThread x, freeHSlot x with
  | some i, some slot =>
    let b := blockNo m.pa
    let bm := s.block b
    let dr := s.draftAt m.pa
    let req := if ans then orig else src
    let rslot := match alGet x.fwds b with
      | some r => if ans then r.slot else m.slot
      | none => m.slot
    let s := s.cacheDir h b
    match alGet s.drafts dr with
    | none => some (s.abortBlock h m.pa req rslot type m.key 0x01 0 false)
    | some d => if !s.dirCached h b then some (s.abortBlock h m.pa req rslot type m.key 0x15
        (d.dispatchOffset type bm.access.toNat) false) else
      match dispatchTarget d type bm.access.toNat with
      | none => some (s.abortBlock h m.pa req rslot type m.key 0x01 (d.dispatchOffset type bm.access.toNat) false)
      | some pc =>
        let (ridx, comm) : Nat × BitVec 8 := match s.regionAt m.pa with
          | some (i, r) => (i, 0#2 ++ r.cop ++ 0#2 ++ r.cfmt)
          | none => (0, 0)
        let hx : HeddleCtx :=
          { heddle := h, hmsg := BitVec.ofNat 8 (type + (if m.data.isSome then 16 else 0)), haddr := BitVec.ofNat 52 m.pa,
            hsrc := src, htag := bm.byte, hkey := m.key, hslot := BitVec.ofNat 7 slot, hsteps := 0,
            hdraft := BitVec.ofNat 28 (dr + ridx * 2 ^ 16), hcomm := comm, horig := orig, inSlot := m.slot,
            buffer := m.data, bufBad := m.bad, fwdSent := false, since := s.tick, answers := ans }
        let tid := heddleTid h i
        let t := Thread.init .heddle 0 i 0 Image.empty pc
        let regs := [BitVec.ofNat 64 m.pa, src.setWidth 64, bm.byte.setWidth 64, (s.block b).dir]
        let t := { t with mode := 2, heddle := some hx, exe := t.exe.setRegs 1 regs }
        let s := s.updHeddle h (fun x =>
          { x with threads := vset x.threads i (some tid), slots := slot :: x.slots })
        some (s.setThread tid t)
  | _, _ => none

/-- Refuse a message with NACK (R362, R394). -/
def State.nackMsg (s : State) (h : Nat) (m : CohMsg) (moved : Bool) : State :=
  s.sendMsg { mkMsg m.src (s.heddleNode h) m.src tNack true m.slot m.key m.pa kNack 0 none with moved := moved }

/-- An address lies in a range, given by its base and its size in bits. -/
def inRange (pa : Nat) (r : Nat × Nat) : Bool := decide (r.1 ≤ pa) && decide (pa < r.1 + 2 ^ r.2)

/-- A page move holds the block busy, or has taken its page away (R355): requests are refused with MOVED set. -/
def State.moving (s : State) (pa : Nat) : Bool :=
  s.mgmt.migjobs.any (fun j => inRange pa (j.2.old, j.2.bits)) || s.mgmt.vacated.any (inRange pa)

/-- The block lies in a range that is being rebound (R358). -/
def State.rebinding (s : State) (pa : Nat) : Bool := s.mgmt.binding.any (inRange pa)

/-- The block's home serves nobody: its page moves or its region is rebound (R355, R358). -/
def State.shut (s : State) (pa : Nat) : Bool := s.moving pa || s.rebinding pa

/-- The block is busy: by its access state, or in a range that is being rebound (R358, R394). -/
def State.busy (s : State) (pa : Nat) : Bool := (s.block (blockNo pa)).access == 3 || s.rebinding pa

/-- Row 9 of Table 7.2 for a unit that is no core: an access to a block that is busy, on the move, or in the hands of a running handler waits
(R355, R358, R394; log entry 50). -/
def State.homeWaits (s : State) (l : Leaf) : Bool :=
  l.loc == 0 && (s.shut l.pa ||
    (!s.stdDraft (s.draftAt l.pa) && (s.busy l.pa || s.handlerOn (s.homeHeddle l.pa) l.pa)))

/-- The request types that a heddle refuses for a busy block (R394). -/
def refusedBusy (type : Nat) : Bool := type != tRecall && type != tFwd && type != tRecallack && type != tNack

/-- A core holds a line of a block, or its write-back, or a grant of it is on its way; `wr` asks for what it may write. -/
def State.holds (s : State) (c b : Nat) (wr : Bool) : Bool :=
  (match alGet (s.core c).dcache b with
    | some x => x.writable || !wr
    | none => false) || (alGet (s.core c).wbuf b).isSome || s.granted c b wr

/-- The shuttles of a block's home die that hold it: under a standard draft no other die's shuttle holds a line that the home grants
(R283; log entry 45). -/
def State.holders (s : State) (b : Nat) (wr : Bool) : List Nat :=
  (s.cores.map Prod.fst).filter (fun c => s.holds c b wr && coreDie c == paDie (128 * b))

/-- Whom the home of a standard draft asks, and with which message, before it answers a shuttle's message (Table 18.8). -/
def State.stdAsk (s : State) (h b : Nat) (m : CohMsg) (c : Nat) : Nat × List Nat :=
  let dr := s.draftAt (128 * b)
  let type := m.type.toNat
  let l := alGetD (s.heddle h).contributors b []
  if dr = 6 then
    (tRed, if type = tRdmiss then l.foldl (fun l c => insertById c l) []
      else if type = tWrmiss ∧ !l.contains c ∧ 64 ≤ l.length then l.take 1 else [])
  else if type = tWb then (tPush, if dr = 3 then (alGetD (s.heddle h).pushes b []).erase c else [])
  else if type = tRdmiss ∧ dr ≠ 2 then (tFwd, (s.holders b true).erase c)
  else (tRecall, (s.holders b false).erase c)

/-- Register the loom of a reader of a block under the producer-push draft (Table 18.8). -/
def State.registerReader (s : State) (h b c : Nat) : State :=
  s.updHeddle h (fun x =>
    let l := alGetD x.pushes b []
    { x with pushes := if l.contains c then x.pushes else alSet x.pushes b (l ++ [c]) })

/-- The home of a standard draft answers a shuttle's message, once those it has asked have answered (Table 18.8, R364): its grant. A
writable grant invalidates the copies of other dies (R283, R292). -/
def State.stdFinish (s : State) (h b : Nat) (m : CohMsg) (c : Nat) : State :=
  let dr := s.draftAt (128 * b)
  let type := m.type.toNat
  let s := s.updHeddle h (fun x => { x with std := alErase x.std b })
  let s := if dr = 6 then s else s.updBlock b (fun x => { x with access := s.tagInitAt (128 * b) })
  let answer (s : State) (kind grant : BitVec 2) : State :=
    let data := if kind = kData then some (s.blockData b) else none
    let r := mkMsg m.src (s.heddleNode h) m.src tRecallack true m.slot m.key m.pa kind grant data
    s.sendMsg { r with bad := kind == kData && !s.readable b m.key }
  if type = tWb then answer (if dr = 4 then s.updBlock b (fun x => { x with written := true }) else s) kAck 0
  else if type = tRdmiss then
    answer (if dr = 3 then s.registerReader h b c else if dr = 2 then s.dropCopies b else s) kData (if dr = 2 then 2 else 1)
  else if dr = 6 then answer (s.registerPartial h b c) kAck 2
  else if dr = 1 ∨ (dr = 4 ∧ (s.block b).written) then answer s kAck 0
  else
    let kept := match alGet (s.core c).dcache b with
      | some x => type == tUpgrade && x.key == m.key
      | none => false
    answer (s.dropCopies b) (if kept then kAck else kData) 2

/-- The home of a standard draft takes a shuttle's message (R359, Table 18.8): it asks the shuttles that it must, one at a time on a
reserved reply slot, with the block busy (R394), and then answers. None while it has no slot. A partial that a shuttle has given up is
folded at once (R367). -/
def State.stdServe (s : State) (h : Nat) (m : CohMsg) : Option State :=
  let b := blockNo m.pa
  match s.node m.src with
  | some (.core c) =>
    if m.type.toNat = tRed then
      let s := match m.data with
        | some x => (s.unregister h b c).foldIn m.key b x
        | none => s
      some (s.sendMsg (mkMsg m.src (s.heddleNode h) m.src tRecallack true m.slot m.key m.pa kAck 0 none))
    else
      let asked := match alGet (s.heddle h).std b with
        | some q => q.asked
        | none => []
      let q := s.stdAsk h b m c
      match q.2.filter (fun x => !asked.contains x) with
      | [] =>
        if s.draftAt (128 * b) = 6 ∧ m.type.toNat = tRdmiss ∧ s.partialSent b then
          some ((s.updHeddle h (fun x => { x with std := alErase x.std b })).nackMsg h m false)
        else some (s.stdFinish h b m c)
      | x :: _ =>
        match freeHSlot (s.heddle h) with
        | none => none
        | some slot =>
          let data := if q.1 = tPush then some (s.blockData b) else none
          let f := mkMsg (s.coreNode x) (s.heddleNode h) m.src q.1 false (BitVec.ofNat 7 slot) m.key (128 * b) 0 0 data
          let r : FwdRecord :=
            { node := s.coreNode x, orig := m.src, slot := m.slot, hslot := BitVec.ofNat 7 slot, answered := false, msg := f,
              nacks := 0, again := none }
          let s := s.updHeddle h (fun k =>
            { k with std := alSet k.std b { msg := m, asked := x :: asked }, fwds := alSet k.fwds b r, slots := slot :: k.slots })
          some ((if q.1 = tRed then s else s.updBlock b (fun k => { k with access := 3 })).sendMsg f)
  | _ => some s

/-- The home of a standard draft takes the answer to what it has asked: what comes back is home again, an event (R285), or a partial to
fold (R367); then it goes on with the request it serves. -/
def State.stdAnswer (s : State) (h : Nat) (m : CohMsg) : Option State :=
  let b := blockNo m.pa
  match alGet (s.heddle h).std b with
  | none => some (s.updHeddle h (fun x => { x with fwds := alErase x.fwds b }))
  | some q =>
    let s := match m.data, s.node m.src with
      | some x, some (.core c) =>
        if s.draftAt (128 * b) = 6 then (s.unregister h b c).foldIn m.key b x else s.homeEvent (h / 8) b m.key
      | _, some (.core c) => if s.draftAt (128 * b) = 6 then s.unregister h b c else s
      | _, _ => s
    (s.updHeddle h (fun x => { x with fwds := alErase x.fwds b })).stdServe h q.msg

/-- Dispatch a message to its block's draft: a standard draft acts at once, a loaded one through a handler (R237, R359). -/
def State.toDraft (s : State) (h : Nat) (m : CohMsg) (type : Nat) (src orig : BitVec 31) (ans : Bool) : Option State :=
  if !s.stdDraft (s.draftAt m.pa) then s.dispatch h m type src orig ans
  else if ans then s.stdAnswer h m
  else if m.reply || !([tRdmiss, tWrmiss, tUpgrade, tWb, tRed].contains type) then some s
  else if (alGet (s.heddle h).std (blockNo m.pa)).isSome && type != tRed then some (s.nackMsg h m false)
  else s.stdServe h m

/-- Try to dispatch a request that has reached the front of its block (R237, R394); `st` is the state after, or none when
it must keep waiting. A request for a busy block is refused at once. -/
def State.tryRequest (s : State) (h : Nat) (m : CohMsg) : Option State :=
  if s.moving m.pa ∧ !m.reply then some (s.nackMsg h m true)
  else if s.busy m.pa ∧ !m.reply ∧ refusedBusy m.type.toNat then
    if m.prio ∧ (s.heddle h).prio.length < 16 then
      some (s.updHeddle h (fun x => { x with prio := x.prio ++ [m] }))
    else some (s.nackMsg h m false)
  else if s.handlerOn h m.pa then none
  else s.toDraft h m m.type.toNat m.src (if m.reply then m.src else origOf m.type.toNat m.src m.orig) false

/-- Try to dispatch a message as the answer to a recorded forward (R395). -/
def State.tryAnswer (s : State) (h : Nat) (m : CohMsg) (r : FwdRecord) : Option State :=
  if s.handlerOn h m.pa then none
  else match s.toDraft h m tRecallack m.src r.orig true with
    | some s =>
      some (if s.handlerOn h m.pa then s
        else s.updHeddle h (fun x => match alGet x.fwds (blockNo m.pa) with
          | some q => if q.answered then { x with fwds := alErase x.fwds (blockNo m.pa) } else x
          | none => x))
    | none => none

/-- Keep a message until its turn, or refuse it when 256 requests wait (R363); a reply always stays (R362). -/
def State.holdMsg (s : State) (h : Nat) (m : CohMsg) : State :=
  if m.reply ∨ ((s.heddle h).waiting.filter (fun x => !x.reply)).length < 256 then
    ({ s with nextId := s.nextId + 1 }).updHeddle h (fun x =>
      { x with waiting := x.waiting ++ [if m.arrived = 0 then { m with arrived := s.nextId } else m] })
  else s.nackMsg h m false

/-- A write-back from the node that a recorded forward names (R366, R395): the heddle acknowledges it itself, and takes it as the answer
where none has come, the node's own answer being discarded. None while the answer must wait: the answer it then is. -/
def State.wbAnswer (s : State) (h : Nat) (m : CohMsg) (r : FwdRecord) : State × Option CohMsg :=
  let b := blockNo m.pa
  let s := s.sendMsg (mkMsg m.src (s.heddleNode h) m.src tRecallack true m.slot m.key m.pa kAck 0 none)
  if r.answered then (s, none)
  else
    let s := s.updHeddle h (fun x =>
      { x with fwds := alSet x.fwds b { r with answered := true }, discards := (r.node, 128 * b + r.hslot.toNat) :: x.discards })
    let a := { m with reply := true, slot := r.hslot }
    match s.tryAnswer h a { r with answered := true } with
    | some s => (s, none)
    | none => (s, some a)

/-- A message is a write-back from the node that a recorded forward of its block names; once the answer runs, it waits behind it. -/
def State.crossing (s : State) (h : Nat) (m : CohMsg) : Option FwdRecord :=
  match alGet (s.heddle h).fwds (blockNo m.pa) with
  | some r => if m.type.toNat = tWb ∧ !m.reply ∧ m.src = r.node ∧ !(r.answered && s.handlerOn h m.pa) then some r else none
  | none => none

/-- One pass over a list of waiting messages: each that can go is taken, the others stay in order. A message waits behind an older one
for its block (R237), but the answer to a recorded forward (R362). -/
def State.pumpList (s : State) (h : Nat) : List Nat → List CohMsg → List CohMsg × State
  | _, [] => ([], s)
  | held, m :: l =>
    let isAns := match alGet (s.heddle h).fwds (blockNo m.pa) with
      | some r => if m.src = r.node ∧ m.reply ∧ m.slot = r.hslot then some r else none
      | none => none
    let t : Option (State × Option CohMsg) := match isAns, s.crossing h m with
      | some r, _ => (s.tryAnswer h m r).map (fun s => (s, none))
      | none, some r => some (s.wbAnswer h m r)
      | none, none => if held.contains (blockNo m.pa) then none else (s.tryRequest h m).map (fun s => (s, none))
    match t with
    | some (s, none) => s.pumpList h held l
    | some (s, some a) =>
      let (rest, s) := s.pumpList h (blockNo m.pa :: held) l
      (a :: rest, s)
    | none =>
      let (rest, s) := s.pumpList h (blockNo m.pa :: held) l
      (m :: rest, s)

/-- Insert a message in order of arrival. -/
def insertArrived (m : CohMsg) : List CohMsg → List CohMsg
  | [] => [m]
  | x :: l => if m.arrived < x.arrived then m :: x :: l else x :: insertArrived m l

/-- Dispatch what waits at a heddle: answers to recorded forwards first (R362), then messages in order of arrival, among them PRIO requests
for blocks no longer busy (R237, R362). -/
def State.pump (s : State) (h : Nat) : State :=
  let x := s.heddle h
  let free (m : CohMsg) : Bool := (s.block (blockNo m.pa)).access != 3
  let ans (m : CohMsg) : Bool := match alGet x.fwds (blockNo m.pa) with
    | some r => m.src == r.node && m.reply && m.slot == r.hslot
    | none => false
  let l := (x.prio.filter free).foldl (fun l m => insertArrived m l) x.waiting
  let s := s.updHeddle h (fun x => { x with waiting := [], prio := x.prio.filter (fun m => !free m) })
  let (left, s) := s.pumpList h [] (l.filter ans ++ l.filter (fun m => !ans m))
  s.updHeddle h (fun x => { x with waiting := left ++ x.waiting })

/-- An older message for a block waits at a heddle. -/
def State.queuedFor (s : State) (h pa : Nat) : Bool :=
  let x := s.heddle h
  x.waiting.any (fun m => m.pa == pa) || x.prio.any (fun m => m.pa == pa && !s.busy pa)

/-- A message that answers no forward arrives at a heddle: it waits behind older ones for its block, unless the block is busy, for which a
request is refused at once (R237, R394). -/
def State.arriveMsg (s : State) (h : Nat) (m : CohMsg) : State :=
  let m := { m with arrived := s.nextId }
  let s := { s with nextId := s.nextId + 1 }
  let busy := !m.reply && refusedBusy m.type.toNat && (s.busy m.pa || s.moving m.pa)
  if !busy && s.queuedFor h m.pa then s.holdMsg h m
  else match s.tryRequest h m with
    | some s => s
    | none => s.holdMsg h m

/-- A request of type WB, RDMISS and so on arrives at a heddle (R237, R394, R395). -/
def State.homeRequest (s : State) (h : Nat) (m : CohMsg) : State :=
  match s.crossing h m with
  | some r =>
    (match s.wbAnswer h m r with
    | (s, some a) => s.holdMsg h a
    | (s, none) => s.pump h)
  | none => s.arriveMsg h m

/-- A forward is refused (R364): it is sent again after a delay (R362). -/
def State.nackFwd (s : State) (h b : Nat) (r : FwdRecord) : State :=
  let n := r.nacks + 1
  ({ s with nextId := s.nextId + 1 }).updHeddle h (fun x =>
    { x with fwds := alSet x.fwds b { r with nacks := n, again := some (s.nextId, s.tick + 32 * 2 ^ min n 5) } })

/-- A refused forward whose time has come is sent again (R362, R364). -/
def State.retryFwd (s : State) (k : Nat) : State :=
  match s.heddles.findSome? (fun x => (x.2.fwds.find? (fun f => match f.2.again with
      | some (n, t) => n == k && decide (t ≤ s.tick)
      | none => false)).map (fun f => (x.1, f))) with
  | none => s
  | some (h, b, r) =>
    (s.updHeddle h (fun x => { x with fwds := alSet x.fwds b { r with again := none } })).sendMsg
      { r.msg with prio := decide (16 ≤ r.nacks) }

/-- A reply-lane message arrives at a heddle (R394, R395): the answer to a recorded forward, a refusal of it, a discarded answer, or a
stray message dispatched under the type it carries. -/
def State.homeReply (s : State) (h : Nat) (m : CohMsg) : State :=
  let b := blockNo m.pa
  let x := s.heddle h
  let stale := (m.src, 128 * b + m.slot.toNat)
  if x.discards.contains stale then
    (s.updHeddle h (fun x => { x with discards := x.discards.erase stale, slots := x.slots.erase m.slot.toNat })).pump h
  else match alGet x.fwds b with
    | some r =>
      if m.src = r.node ∧ m.slot = r.hslot ∧ !r.answered then
        if m.kind = kNack ∧ m.type.toNat = tNack then s.nackFwd h b r
        else
          let s := s.updHeddle h (fun x =>
            { x with fwds := alSet x.fwds b { r with answered := true }, slots := x.slots.erase m.slot.toNat })
          match s.tryAnswer h m { r with answered := true } with
          | some s => s.pump h
          | none => s.holdMsg h m
      else s.arriveMsg h m
    | none => s.arriveMsg h m

/-- End a heddle thread (R240, R395): free it and, unless a forward uses it, its reply slot; clear an answered record; then
dispatch what waits. -/
def State.heddleEnd (s : State) (tid : Nat) (x : HeddleCtx) : State :=
  let b := blockNo x.haddr.toNat
  let s := { s with threads := alErase s.threads tid }
  let s := s.updHeddle x.heddle (fun k =>
    { k with threads := k.threads.map (fun o => if o = some tid then none else o),
             slots := if x.fwdSent then k.slots else k.slots.erase x.hslot.toNat,
             fwds := match alGet k.fwds b with
               | some r => if x.answers ∧ r.answered then alErase k.fwds b else k.fwds
               | none => k.fwds })
  s.pump x.heddle

/-- A stopped heddle thread is freed (R375). -/
def State.freeHeddle (s : State) (tid : Nat) : State :=
  match (s.thread? tid).bind Thread.heddle with
  | some x => s.heddleEnd tid x
  | none => s

/-- Abort a heddle thread (R241); it stays occupied while its entry waits for room in the fault ring (R375). -/
def State.heddleAbort (s : State) (tid : Nat) (x : HeddleCtx) (cause : Cause) (pc : VAddr) (watchdog : Bool) : State :=
  let req := if x.answers then x.horig else x.hsrc
  let slot := match alGet (s.heddle x.heddle).fwds (blockNo x.haddr.toNat) with
    | some r => if x.answers then r.slot else x.inSlot
    | none => x.inSlot
  let s := s.abortBlock x.heddle x.haddr.toNat req slot (x.hmsg.toNat % 16) x.hkey cause pc watchdog (some tid)
  if (s.die (x.heddle / 8)).heldPosts.any (fun e => e.holds == some tid) then
    s.updThread tid (fun t => { t with status := .stopped })
  else s.heddleEnd tid x

end Sys2Proof.Machine
end

