-- ==== Sys2Proof/Machine/Ops.lean ====
section
/-! DEFINITION. How an instruction ends: issue checks (R67, Table 2.8), operand use, stalls (R101, R130), taking a trap (R371,
R372), returning from supervisor mode (R236), and the step of a program counter. -/

namespace Sys2Proof.Machine

/-- A trap that an instruction raises: cause, faulting address, extra word, and its PC where that is not the issuing
stream's own (R130). The record of a vector lane's trap carries the lane's index as its extra word (R161; log entry 26). -/
structure Trap where
  cause : Cause
  addr : Word
  extra : Word
  pc : Option VAddr
  lane : Option Nat := none
  deriving DecidableEq, Repr

/-- Why an instruction does not complete. The function says what of the state before it the stop keeps changed. -/
inductive Stop where
  | trap (t : Trap) (keep : State → State)
  | stall (w : Wait) (keep : State → State)
  | fault (f : Fault)

/-- A meaning that reads and changes the state and may stop. -/
abbrev Exec (α : Type) := StateT State (Except Stop) α

/-- Stop an instruction. -/
def stop {α : Type} (x : Stop) : Exec α := fun _ => .error x

/-- Raise a trap (R65: nothing of the instruction takes effect). -/
def raise {α : Type} (c : Cause) (addr extra : Word) : Exec α :=
  fun _ => .error (.trap { cause := c, addr := addr, extra := extra, pc := none } id)

/-- Stall before issue: nothing of the instruction takes effect (R101). -/
def stall {α : Type} (w : Wait) : Exec α := fun _ => .error (.stall w id)

/-- Stall, keeping a change of the state before the instruction. -/
def stallKeep {α : Type} (w : Wait) (f : State → State) : Exec α := fun _ => .error (.stall w f)

/-- Raise the trap of a failed check at an address. -/
def raiseBad {α : Type} (b : Bad) (addr : Word) : Exec α := raise b.cause addr b.extra

/-- Where an instruction leaves the program counter: after it, at a transfer's target, or where its meaning has put it. -/
inductive Next where
  | seq
  | jump (t : VAddr)
  | stay
  deriving DecidableEq, Repr

/-- The stream that issues. -/
def me : Exec Agent := fun s => .ok (s.cur, s)

/-- The thread that issues. -/
def self : Exec Thread := fun s =>
  match s.thread? s.cur.tid with
  | some t => .ok (t, s)
  | none => .error (.fault .noIssuer)

/-- Update the thread that issues. -/
def updSelf (f : Thread → Thread) : Exec Unit := fun s => .ok ((), s.updThread s.cur.tid f)

/-- Update the registers of the stream that issues. -/
def updCtx (f : Ctx → Ctx) : Exec Unit := fun s => .ok ((), s.updThread s.cur.tid (fun t => t.updCtx s.cur.acc f))

/-- The registers of the stream that issues. -/
def ctx : Exec Ctx := do
  let t ← self
  let a ← me
  pure (t.ctx a.acc)

/-- Who may issue an instruction (Tables 1.7, 2.4, 8.12; R237). `spr` is a privileged move of a status register. -/
inductive Cls where
  | any | noPick | noHeddle | noAccNoHeddle | exeOnly | heddleOnly | supervisor
  | spr (n : Nat) (write : Bool)
  deriving DecidableEq, Repr

/-- A thread is a pick or row pick. -/
def Thread.isPick (t : Thread) : Bool := t.kind == .pick || t.kind == .rowPick

/-- A privileged status register of Table 1.8. -/
def sprNum (n : Nat) : Bool := (decide (0x800 ≤ n) && decide (n ≤ 0x806)) || (decide (0x810 ≤ n) && decide (n ≤ 0x81F))

/-- A heddle status register of Table 8.13. -/
def heddleNum (n : Nat) : Bool := decide (0xC00 ≤ n) && decide (n ≤ 0xC09)

/-- The fate of `mfsp` and `mtsp` of a number at or above 0x800 by mode (Table 8.12). -/
def sprBad (n : Nat) (write : Bool) (mode : BitVec 2) (acc : Bool) : Option Cause :=
  if mode = 0 then some 0x02
  else if !sprNum n && !heddleNum n then some 0x01
  else if mode = 1 then (if heddleNum n then some 0x02 else if acc then some 0x01 else none)
  else if heddleNum n && !write then none else some 0x02

/-- Table 2.8 rows 4 and 5 for an instruction's class: the cause when the thread or stream may not issue it. -/
def Cls.bad (c : Cls) (t : Thread) (acc : Bool) : Option Cause :=
  let hed := t.kind == .heddle
  match c with
  | .any => none
  | .noPick => if t.kind = .full then none else some 0x01
  | .noHeddle => if hed then some 0x01 else none
  | .noAccNoHeddle => if hed || acc then some 0x01 else none
  | .exeOnly => if t.kind = .full ∧ !acc then none else some 0x01
  | .heddleOnly => if hed then none else some 0x01
  | .supervisor => if hed then some 0x01 else if t.mode ≠ 1 then some 0x02 else if acc then some 0x01 else none
  | .spr n write => sprBad n write t.mode acc

/-- How an instruction uses a register field (R16, R17, R22, R55). -/
inductive Use where
  | sR (c : BitVec 5)
  | sW (c : BitVec 5)
  | vR (c : BitVec 5)
  | vW (c : BitVec 5)
  | tok (c : BitVec 5)
  | link (write : Bool)
  deriving DecidableEq, Repr

/-- The scalar register that `lk` names (R17). -/
def Thread.lk (t : Thread) : Nat := if t.kind = .full then 23 else 15

/-- A register field's code is in the issuing stream's view (Tables 1.2, 1.3). -/
def Use.inView (u : Use) (t : Thread) (acc : Bool) : Bool :=
  let scalar (c : Nat) (write : Bool) : Bool :=
    if t.kind = .full then
      decide (c < 24) || (decide (c = 24 ∨ c = 25) && write == acc) || (decide (c = 26 ∨ c = 27) && write != acc)
        || (decide (28 ≤ c) && !acc)
    else decide (c < 16)
  let vector (c : Nat) : Bool :=
    if t.kind = .full then !acc else t.isPick && decide (c < 4)
  match u with
  | .sR c => scalar c.toNat false
  | .sW c => scalar c.toNat true
  | .tok c => scalar c.toNat true
  | .vR c => vector c.toNat
  | .vW c => vector c.toNat
  | .link _ => true

/-- The queue a field pops or pushes. -/
def Use.queue : Use → Option (Nat × Bool)
  | .sR c => if 24 ≤ c.toNat ∧ c.toNat < 28 then some (c.toNat - 24, false) else none
  | .sW c | .tok c => if 24 ≤ c.toNat ∧ c.toNat < 28 then some (c.toNat - 24, true) else none
  | _ => none

/-- The mesh direction a field pops from or pushes to (R20, R24). -/
def Use.port : Use → Option (Nat × Bool)
  | .sR c | .vR c => if 28 ≤ c.toNat then some (c.toNat - 28, false) else none
  | .sW c | .tok c | .vW c => if 28 ≤ c.toNat then some (c.toNat - 28, true) else none
  | _ => none

/-- The scalar register a field names (R30). -/
def Use.reg (t : Thread) : Use → Option Nat
  | .sR c | .sW c => if c.toNat < 24 then some c.toNat else none
  | .tok c => if c.toNat < 24 ∧ c ≠ 0 then some c.toNat else none
  | .link _ => some t.lk
  | _ => none

/-- Entries of queue k, filled and reserved, that no issued instruction has popped (R128). -/
def Thread.qLen (t : Thread) (k : Nat) : Nat := (vget t.q k []).length - t.exe.held.count k - t.acc.held.count k

/-- Those entries, oldest first. -/
def Thread.qRest (t : Thread) (k : Nat) : List QEntry := (vget t.q k []).drop (t.exe.held.count k + t.acc.held.count k)

/-- Pops of queue k among the fields. -/
def pops (us : List Use) (k : Nat) : Nat := (us.filter (fun u => u.queue == some (k, false))).length

/-- Pops of the inbound port of a direction among the fields. -/
def portPops (us : List Use) (k : Nat) : Nat := (us.filter (fun u => u.port == some (k, false))).length

/-- Table 2.8 row 6: a queue that no stream can serve (R19), or a mesh edge (R20). A queue named in two source fields must hold two
entries (log entry 36). -/
def row6 (us : List Use) (t : Thread) (acc : Bool) : Option Cause :=
  let dead (u : Use) : Bool := match u.queue with
    | some (k, false) => !acc && !t.acc.running && decide ((vget t.q k []).length < pops us k)
    | some (k, true) => !acc && !t.acc.running && decide (16 ≤ t.qLen k)
    | none => false
  let edge (u : Use) : Bool := match u.port with
    | some (d, _) => (neighbour t.core d).isNone
    | none => false
  if us.any dead then some 0x20 else if us.any edge then some 0x21 else none

/-- The wait is for the other stream to fill or to empty a queue (R130). -/
def Wait.onPeer : Wait → Bool
  | .queueRead _ _ | .queueWrite _ => true
  | _ => false

/-- The wait of one operand field among the fields of an instruction, if any (R20, R30, R101, R129). -/
def useWait (us : List Use) (s : State) (t : Thread) (acc : Bool) (u : Use) : Option Wait :=
  match u.reg t with
  | some r => if (t.ctx acc).pend.getLsbD r then some (.token r) else none
  | none =>
    match u.queue with
    | some (k, false) =>
      let l := (vget t.q k []).take (pops us k)
      if l.length < pops us k then some (.queueRead k (pops us k))
      else if l.any (fun e => match e with
        | .filled _ => false
        | .reserved _ => true) then some (.queueReserved k) else none
    | some (k, true) => if 16 ≤ t.qLen k then some (.queueWrite k) else none
    | none =>
      match u.port with
      | some (d, false) =>
        let l := (vget (s.core t.core).ports d []).take (portPops us d)
        if l.length < portPops us d || l.any (fun e => match e with
          | .reserved _ => true
          | _ => false) then some .port else none
      | some (d, true) =>
        (match neighbour t.core d with
        | some n => if 4 ≤ (vget (s.core n).ports (opposite d) []).length then some .port else none
        | none => none)
      | none => none

/-- The wait that keeps an instruction from issuing, if any. Of several, one that the other stream has to end counts first: R130 looks
for it whatever else the instruction waits for. -/
def operandWait (us : List Use) (s : State) (t : Thread) (acc : Bool) : Option Wait :=
  let waits := us.filterMap (useWait us s t acc)
  (waits.find? Wait.onPeer).or waits.head?

/-- A deferred engine fault that an instruction meets at a token register it names (R215): a scalar register, the queue that holds the
token's entry, or the mesh port it was to be pushed to. -/
def tokenFault (us : List Use) (t : Thread) (acc : Bool) : Option EngineFault :=
  t.engFaults.find? (fun f => match f.dest with
    | .reg a r => a == acc && us.any (fun u => u.reg t == some r)
    | .queue id => us.any (fun u => match u.queue with
      | some (k, _) => (vget t.q k []).contains (.reserved id)
      | none => false)
    | .port core dir _ => us.any (fun u => match u.port with
      | some (d, true) => neighbour t.core d == some core && opposite d == dir.toNat
      | _ => false)
    | .none => false)

/-- The trap of a deferred engine fault (R215). -/
def EngineFault.trap (f : EngineFault) : Trap :=
  { cause := f.cause, addr := f.addr, extra := (1#64 <<< 62) ||| f.eng.setWidth 64, pc := none }

/-- A deferred engine fault has been raised: it is not met again, and the entry that its token reserved is given up (R215). -/
def State.metFault (s : State) (tid : Nat) (f : EngineFault) : State :=
  (s.updThread tid (fun t => { t with engFaults := t.engFaults.erase f })).cancel tid f.dest

/-- Raise a deferred engine fault once (R215). -/
def raiseEngine {α : Type} (f : EngineFault) : Exec α := do
  let a ← me
  stop (.trap f.trap (fun s => s.metFault a.tid f))

/-- A store to a peer device that is not yet acknowledged (R196). -/
def State.peerStorePending (s : State) (tid : Nat) : Bool :=
  s.outs.any (fun o => o.2.tid == tid && o.2.kind == .peer && o.2.acckind == .store && o.2.unit.isNone)

/-- A `.sys` release waits for the answers to posted peer stores, then raises the oldest deferred store fault (R196, R287). -/
def sysRelease : Exec Unit := do
  let a ← me
  let t ← self
  if (← get).peerStorePending a.tid then stall .release
  else match t.storeFaults with
    | [] => pure ()
    | f :: rest =>
      stop (.trap { cause := f.cause, addr := f.addr, extra := 1#64 <<< 63, pc := none }
        (fun s => s.updThread a.tid (fun t => { t with storeFaults := rest })))

/-- A stream has accesses that are issued and not yet performed (R30, R279), posted stores to peer devices apart; `reads` leaves out
the stores among them. -/
def State.unperformed (s : State) (tid : Nat) (acc reads : Bool) : Bool :=
  s.outs.any (fun o => o.2.tid == tid && o.2.acc == acc && o.2.unit.isNone && o.2.size != 0 &&
    !(o.2.kind == .peer && o.2.acckind == .store) && !(reads && o.2.acckind == .store))

/-- An event of a die has been delivered at another. -/
def Die.saw (d : Die) (home : Nat) (n : BitVec 48) : Bool := decide (n.toNat ≤ d.vc.at home)

/-- A write to a home on another die has gone as far as a release at a scope waits for: applied at its home, and at the die's own
copy where there is one; at `.dev` and wider its event has been delivered to the die (R283, R287). -/
def State.settled (s : State) (d scope : Nat) (w : RemoteWrite) : Bool :=
  match w.acked with
  | none => false
  | some n => (s.die d).saw w.home.toNat n || (decide (scope < 4) && !s.holdsCopy w.home.toNat d (blockNo w.pa))

/-- What a release of a stream waits for at a scope has come about (R281, R287). -/
def State.released (s : State) (tid : Nat) (t : Thread) (acc : Bool) (scope : Nat) : Bool :=
  !s.unperformed tid acc false && t.writes.all (fun w => w.acc != acc || s.settled (coreDie t.core) scope w) &&
    !(scope == 5 && s.peerStorePending tid)

/-- Forget a thread's writes whose events its die has seen. -/
def Thread.prune (t : Thread) (d : Die) : Thread :=
  { t with writes := t.writes.filter (fun w => match w.acked with
    | none => true
    | some n => !d.saw w.home.toNat n) }

/-- A release of the issuing stream at a scope (R281, R287). -/
def release (scope : Nat) : Exec Unit := do
  let a ← me
  let t ← self
  let s ← get
  if !s.released a.tid t a.acc scope then stall .release
  else if t.writes.isEmpty then pure ()
  else updSelf (fun t => t.prune (s.die (coreDie t.core)))

/-- A release by which a whole thread leaves or ends: for both of its streams (R229, R256). -/
def releaseAll (scope : Nat) : Exec Unit := do
  let a ← me
  let t ← self
  let s ← get
  if !(s.released a.tid t false scope && s.released a.tid t true scope) then stall .release
  else if t.writes.isEmpty then pure ()
  else updSelf (fun t => t.prune (s.die (coreDie t.core)))

/-- An acquire: every earlier read of the issuing stream has been performed (R281). -/
def acquire : Exec Unit := do
  let a ← me
  if (← get).unperformed a.tid a.acc true then stall .memory

/-- What an instruction needs before its body runs. -/
structure Need where
  legal : Bool
  cls : Cls
  uses : List Use
  len : Nat
  /-- a scalar instruction's predication (R25) -/
  gov : Option Gov := none
  /-- a release at `.sys` that raises deferred store faults (R196) -/
  sysRel : Bool := false
  /-- the predicate of a vector instruction's lanes (R67: with no active lane it raises no deferred fault) -/
  lanes : Option Gov := none
  /-- a prefetch: what would raise a cause of rows 6 and 7 drops it (R205) -/
  quiet : Bool := false

/-- The value a stream reads in predicate register k (R25). -/
def Ctx.pred (c : Ctx) (k : Nat) : Word := if k = 0 then BitVec.allOnes 64 else vget c.p k 0

/-- A scalar instruction executes under its governing predicate (R25). -/
def govOn (c : Ctx) : Option Gov → Bool
  | none => true
  | some g => bit (c.pred g.p.toNat) 0 != g.n

/-- A vector instruction has an active lane (R23). -/
def anyLane (t : Thread) (acc : Bool) : Option Gov → Bool
  | none => true
  | some g => (List.range 64).any (fun i => decide (i < t.vl) && (bit ((t.ctx acc).pred g.p.toNat) i != g.n))

/-- The instruction at pc has not issued. -/
def Ctx.unissue (c : Ctx) : Ctx := { c with phase := .idle, got := [], lanes := [], held := [], word := [], seen := [], refused := none }

/-- The lanes of a stream's vector instruction are being performed: each has met its checks (R161). -/
def Ctx.inLanes (c : Ctx) : Bool := !c.lanes.isEmpty || !c.seen.isEmpty

/-- A stream's instruction has issued and waits to complete: an access, a command or an arrival of it is under way. -/
def Ctx.midway (c : Ctx) : Bool := c.phase != .idle || !c.got.isEmpty || c.inLanes

/-- A stream's instruction has arrived at a barrier or a `grp.form` and waits for others. -/
def Ctx.arrived (c : Ctx) : Bool := !c.got.isEmpty && (c.wait == .barrier || c.wait == .group)

/-- A stream is at an instruction boundary: its instruction has not issued, or only waits for a batch, for array commands, or with
its arrival at a barrier or a `grp.form` counted (R134, R262). -/
def Ctx.atBoundary (c : Ctx) : Bool :=
  c.phase == .idle && !c.inLanes && (c.got.isEmpty || c.arrived || c.wait == .batch || c.wait == .array)

/-- An event entry comes before the next instruction of a full thread's execute stream (R376): it is in user mode, at a boundary, `%tvec`
is set and an event waits. -/
def State.eventDue (s : State) (core : Nat) (t : Thread) : Bool :=
  let k := s.core core
  k.tvec != 0 && t.mode == 0 && t.status == .running && k.preempt.isNone && t.exe.atBoundary &&
    !t.exe.arrived && (s.eventWaiting core t.dom).isSome

/-- Note the queues that an instruction which has issued and waits has popped (R101). -/
def State.noteHeld (s : State) (us : List Use) : State :=
  s.updThread s.cur.tid (fun t => t.updCtx s.cur.acc (fun c =>
    if c.midway then { c with held := us.filterMap (fun u => match u.queue with
      | some (k, false) => some k
      | _ => none) } else c))

/-- Run the body of an instruction; one that issues and waits keeps what it has popped. -/
def holding (us : List Use) (body : Exec Next) : Exec Next := fun s =>
  match body s with
  | .error (.stall w keep) => .error (.stall w (fun p => (keep p).noteHeld us))
  | r => r

/-- The checks of Table 2.8 rows 3 to 7 and the operand waits, then the body. An instruction that has issued has met them. -/
def issueBody (n : Need) (body : Exec Next) : Exec Next := do
  let a ← me
  let t ← self
  let s ← get
  if (t.ctx a.acc).midway then body
  else if !n.legal then raise 0x01 0 0
  else match n.cls.bad t a.acc with
    | some c => raise c 0 0
    | none =>
      if !n.uses.all (fun u => u.inView t a.acc) then raise 0x01 0 0
      else if !govOn (t.ctx a.acc) n.gov then pure .seq
      else match row6 n.uses t a.acc with
        | some c => if n.quiet then pure .seq else raise c 0 0
        | none => do
          if n.sysRel then sysRelease
          match (if anyLane t a.acc n.lanes then tokenFault n.uses t a.acc else none) with
          | some f => if n.quiet then pure .seq else raiseEngine f
          | none =>
            match operandWait n.uses s t a.acc with
            | some w => stall w
            | none => holding n.uses body

/-- Stop an agent's thread with a trap (R372): a full thread stops with both streams, a pick ends, a heddle thread aborts. -/
def State.takeTrap (s : State) (a : Agent) (x : Trap) : State :=
  match s.thread? a.tid with
  | none => s
  | some t =>
    let pc := x.pc.getD (t.ctx a.acc).pc
    match t.heddle with
    | some h => s.heddleAbort a.tid h x.cause pc false
    | none =>
      let s := s.detach a.tid false
      let word := match x.lane with
        | some i => BitVec.ofNat 64 i
        | none => x.extra
      let note := if x.lane.isSome || x.extra == 0 then x.cause else 0
      let s := s.countWalk (coreDie t.core) { cause := x.cause, extra := x.extra }
      let e := mkEntry (t.poster a.tid (a.acc && x.pc.isNone)) 0 x.cause pc x.addr word 0 s.tick
      if t.kind = .full then
        let clear (c : Ctx) : Ctx := { c with wait := .none }
        let s := (s.setThread a.tid { t with status := .stopped, exe := clear t.exe, acc := clear t.acc }).spillEps t.core
        (s.post (coreDie t.core) e).noteIntegrity (coreDie t.core) note x.addr (some e)
      else ((s.post (coreDie t.core) e).noteIntegrity (coreDie t.core) note x.addr (some e)).endThread a.tid true

/-- The wait of a stream still holds (R130). -/
def stillWaits (t : Thread) (acc : Bool) : Bool :=
  match (t.ctx acc).wait with
  | .queueRead k n => decide ((vget t.q k []).length < n)
  | .queueWrite k => decide (16 ≤ t.qLen k)
  | .boqRead => !t.boq.any (fun e => e.1 != acc)
  | .boqWrite => decide (32 ≤ t.boq.length)
  | _ => false

/-- Raise the queue deadlock when both streams wait on each other (R19, R130). -/
def State.deadlock (s : State) (a : Agent) : State :=
  match s.thread? a.tid with
  | none => s
  | some t =>
    if t.kind = .full ∧ t.exe.running ∧ stillWaits t a.acc ∧ (!t.acc.running ∨ stillWaits t (!a.acc)) then
      s.takeTrap { a with acc := false }
        { cause := 0x20, addr := 0, extra := if t.acc.running then t.acc.pc.setWidth 64 else 0, pc := some t.exe.pc }
    else s

/-- Record a stream's wait. -/
def State.setWait (s : State) (a : Agent) (w : Wait) : State :=
  s.updThread a.tid (fun t => t.updCtx a.acc (fun c => { c with wait := w }))

/-- Step a stream's program counter past an instruction that has issued. -/
def Ctx.advance (c : Ctx) (len : Nat) (f : Next) : Ctx :=
  let c := { c.unissue with wait := .none }
  match f with
  | .seq => { c with pc := c.pc + BitVec.ofNat 56 len, atTarget := false }
  | .jump t => { c with pc := t, atTarget := true }
  | .stay => c

/-- Step the issuing stream past its instruction, counting a handler's instructions (R116, R241); an instruction that ends or moves its
thread has put it where it is to be. -/
def State.advance (s : State) (len : Nat) (f : Next) : State :=
  s.updThread s.cur.tid (fun t =>
    let t := t.updCtx s.cur.acc (fun c => c.advance len f)
    { t with heddle := if f = .stay then t.heddle else t.heddle.map (fun h => { h with hsteps := h.hsteps + 1 }) })

/-- A stream waits for an access of its instruction (R196), or for the close of a key (R235). -/
def Ctx.accessing (c : Ctx) : Bool :=
  c.midway && (c.wait == .memory || c.wait == .security) && (match c.phase with
    | .failed _ _ _ => false
    | _ => true)

/-- A trap waits while the other stream's instruction, which has issued, is to complete (R134). -/
def State.trapWaits (s : State) (a : Agent) : Bool :=
  match s.thread? a.tid with
  | some t => t.kind == .full && (t.ctx (!a.acc)).running && (t.ctx (!a.acc)).accessing
  | none => false

/-- A stream of a full thread waits for a token: its register is pending, and no load of the thread will fill it (R256). -/
def State.tokenWait (s : State) (a : Agent) (t : Thread) (r : Nat) : Bool :=
  t.kind == .full && (t.ctx a.acc).pend.getLsbD r && !s.outs.any (fun o => o.2.tid == a.tid && o.2.dest == .reg a.acc r)

/-- A wait at which a full thread may suspend takes it out of its vector group, or dissolves the group at its leader (R256, R261). -/
def State.reachWait (s : State) (a : Agent) (w : Wait) : State :=
  match s.thread? a.tid, w with
  | some t, .token r => if s.tokenWait a t r then s.detach a.tid false else s
  | some t, .batch => if t.kind = .full ∧ (t.ctx a.acc).got ≠ [] then s.detach a.tid false else s
  | _, _ => s

/-- The outcome of an instruction: the state after it, after its trap, or unchanged but for a recorded wait. -/
def finish (len : Nat) (m : Exec Next) (s : State) : Host.Outcome State Fault Refusal :=
  match m s with
  | .ok (f, s') => .next (s'.advance len f)
  | .error (.trap t keep) => .next (if s.trapWaits s.cur then s else (keep s).takeTrap s.cur t)
  | .error (.stall w keep) => .next ((((keep s).setWait s.cur w).reachWait s.cur w).deadlock s.cur)
  | .error (.fault f) => .fault f

/-- Issue an instruction: its checks, its body, its outcome. -/
def issue (n : Need) (body : Exec Next) (s : State) : Host.Outcome State Fault Refusal :=
  finish n.len (issueBody n body) s

/-- Raise an illegal-instruction trap at the issuing stream. -/
def illegal (s : State) : Host.Outcome State Fault Refusal := finish 4 (raise 0x01 0 0) s

/-- Return from supervisor mode (R236): the target, after the checks of R121; the mode comes from `%estat.PMODE`. A mesh interrupt that
has been held is taken (R378). -/
def returnFromException : Exec Next := do
  let t ← self
  let k := (← get).core t.core
  let pm := field k.estat 1 0
  if 2 ≤ pm then raise 0x01 0 (BitVec.ofNat 64 pm)
  else if field k.epc 59 56 ≠ 0 then raise 0x04 k.epc k.epc
  else if bit k.epc 0 then raise 0x03 k.epc 0
  else do
    updSelf (fun t => { t with mode := BitVec.ofNat 2 pm })
    if k.intr && pm = 0 then modify (fun s => s.stopShuttle t.core)
    pure (.jump (k.epc.extractLsb' 0 56))

/-- Send an access elsewhere and wait for it (R193, R196). `hold` reserves the queue or port entry that its value goes to (R129);
`start` sends the access from the state before the instruction. -/
def sendAndWait {α : Type} (hold : Exec Dest) (start : Dest → State → State) : Exec α := do
  let a ← me
  stallKeep .memory (fun s =>
    let (d, s) := match hold s with
      | .ok r => r
      | .error _ => (.none, s)
    (start d s).updThread a.tid (fun t => t.updCtx a.acc (fun c => { c with phase := .sent })))

/-- What an instruction that failed elsewhere raises (R196). -/
def raiseFailed {α : Type} (c : Cause) (addr extra : Word) (lane : Option Nat) : Exec α := do
  let a ← me
  stop (.trap { cause := c, addr := addr, extra := extra, pc := none, lane := lane } (fun s => s.updThread a.tid (fun t =>
    t.updCtx a.acc Ctx.unissue)))

/-- The answer that the instruction at pc has waited for, if it is there (R196). -/
def answered : Exec (Option Word) := do
  let c ← ctx
  match c.phase with
  | .sent => stall .memory
  | .failed c addr x => raiseFailed c addr x none
  | .idle => pure c.got.head?

/-- Give a stream's waiting instruction the answer to its access, or to that of one of its lanes. -/
def State.answer (s : State) (tid : Nat) (acc : Bool) (lane : Option Nat) (w : Word) : State :=
  s.updThread tid (fun t => t.updCtx acc (fun c =>
    if c.phase = .sent then
      match lane with
      | none => { c with phase := .idle, got := c.got ++ [w] }
      | some i => { c with lanes := alSet c.lanes i w }
    else c))

/-- Tell a stream's waiting instruction that its access failed. -/
def State.answerFail (s : State) (tid : Nat) (acc : Bool) (c : Cause) (addr extra : Word) : State :=
  s.updThread tid (fun t => t.updCtx acc (fun x =>
    if x.phase = .sent then { x with phase := .failed c addr extra } else x))

/-- Tell a stream's vector instruction that one of its lanes failed: the lowest such lane counts (R161). A lane of a store that had met every
check comes before what has happened to its block since (R278). -/
def State.laneFail (s : State) (tid : Nat) (acc : Bool) (lane block : Nat) (store : Bool) (c : Cause) (addr : Word) : State :=
  s.updThread tid (fun t => t.updCtx acc (fun x =>
    if x.phase ≠ .sent then x
    else if store ∧ x.seen.contains block then { x with lanes := alSet x.lanes lane 0 }
    else match x.refused with
      | some (i, _, _) => if lane < i then { x with refused := some (lane, c, addr) } else x
      | none => { x with refused := some (lane, c, addr) }))

/-- An access of one of the lanes of a stream's instruction is under way. -/
def State.laneOut (s : State) (tid : Nat) (acc : Bool) : Bool :=
  s.outs.any (fun o => o.2.tid == tid && o.2.acc == acc && o.2.lane.isSome)

end Sys2Proof.Machine
end

