-- ==== Sys2Proof/Machine/Operands.lean ====
section
/-! DEFINITION. Reading and writing every operand form: scalar registers, queues and mesh ports (Table 1.2, R17 to R20), vector
registers and ports (Table 1.3, R22 to R24), predicates (R25), token and load destinations (R17, R30, R129). -/

namespace Sys2Proof.Machine

/-- Register 0 of a full or heddle thread reads as zero and discards writes (R17). -/
def Thread.zeroReg (t : Thread) (r : Nat) : Bool := r == 0 && !t.isPick

/-- A scalar register's value in a thread's view (R17). -/
def Thread.getReg (t : Thread) (acc : Bool) (r : Nat) : Word := if t.zeroReg r then 0 else (t.ctx acc).reg r

/-- Write a scalar register in a thread's view (R17). -/
def Thread.putReg (t : Thread) (acc : Bool) (r : Nat) (w : Word) : Thread :=
  if t.zeroReg r then t else t.updCtx acc (fun c => c.setReg r w)

/-- Write a scalar register of the issuing stream. -/
def State.putScalar (s : State) (r : Nat) (w : Word) : State :=
  s.updThread s.cur.tid (fun t => t.putReg s.cur.acc r w)

/-- The scalar value of a port entry (R24). -/
def PortEntry.scalarValue : PortEntry → Word
  | .scalar w => w
  | .vector v => v.extractLsb' 0 64
  | .reserved _ => 0

/-- The vector value of a port entry (R24). -/
def PortEntry.vectorValue : PortEntry → VWord
  | .scalar w => vecOfScalar w
  | .vector v => v
  | .reserved _ => 0

/-- The value of a filled queue entry. -/
def QEntry.value : QEntry → Word
  | .filled w => w
  | .reserved _ => 0

/-- Pop the oldest entry of queue k of the issuing thread (R18). -/
def popQueue (k : Nat) : Exec Word := do
  let t ← self
  match vget t.q k [] with
  | e :: rest =>
    updSelf (fun t => { t with q := vset t.q k rest })
    pure e.value
  | [] => stall (.queueRead k 1)

/-- Pop the oldest entry of the inbound port of a direction (R20). -/
def popPort (d : Nat) : Exec PortEntry := do
  let t ← self
  let s ← get
  match vget (s.core t.core).ports d [] with
  | e :: rest =>
    set (s.updCore t.core (fun k => { k with ports := vset k.ports d rest }))
    pure e
  | [] => stall .port

/-- Push an entry into the neighbour's inbound port for the opposite direction (R20). -/
def pushPort (d : Nat) (e : PortEntry) : Exec Unit := do
  let t ← self
  match neighbour t.core d with
  | none => raise 0x21 0 0
  | some n => modify (fun s => s.updCore n (fun k =>
      { k with ports := vset k.ports (opposite d) (vget k.ports (opposite d) [] ++ [e]) }))

/-- Read a scalar source field (Table 1.2). -/
def getS (c : BitVec 5) : Exec Word := do
  if c.toNat < 24 then
    let t ← self
    let a ← me
    pure (t.getReg a.acc c.toNat)
  else if c.toNat < 28 then popQueue (c.toNat - 24)
  else do
    let e ← popPort (c.toNat - 28)
    pure e.scalarValue

/-- Write a scalar destination field (Table 1.2). -/
def setS (c : BitVec 5) (w : Word) : Exec Unit := do
  if c.toNat < 24 then modify (fun s => s.putScalar c.toNat w)
  else if c.toNat < 28 then
    updSelf (fun t => { t with q := vset t.q (c.toNat - 24) (vget t.q (c.toNat - 24) [] ++ [.filled w]) })
  else pushPort (c.toNat - 28) (.scalar w)

/-- Write a T field: code 0 names nothing in every view (R17). -/
def setT (c : BitVec 5) (w : Word) : Exec Unit := if c = 0 then pure () else setS c w

/-- Read the link register (R17). -/
def getLink : Exec Word := do
  let t ← self
  let a ← me
  pure (t.getReg a.acc t.lk)

/-- Write the link register (R17). -/
def setLink (w : Word) : Exec Unit := do
  let t ← self
  modify (fun s => s.putScalar t.lk w)

/-- A scalar field whose value arrives later: the register becomes pending, or an entry is reserved (R30, R129, R20). -/
def laterS (c : BitVec 5) : Exec Dest := do
  let t ← self
  let a ← me
  if c.toNat < 24 then
    if t.zeroReg c.toNat then pure .none
    else do
      updCtx (fun x => { x with pend := setPend x.pend c.toNat true })
      pure (.reg a.acc c.toNat)
  else do
    let (id, s) := (← get).fresh
    set s
    if c.toNat < 28 then
      updSelf (fun t => { t with q := vset t.q (c.toNat - 24) (vget t.q (c.toNat - 24) [] ++ [.reserved id]) })
      pure (.queue id)
    else do
      pushPort (c.toNat - 28) (.reserved id)
      match neighbour t.core (c.toNat - 28) with
      | some n => pure (.port n (BitVec.ofNat 2 (opposite (c.toNat - 28))) id)
      | none => pure .none

/-- A T field whose token arrives later (R17, R30). -/
def laterT (c : BitVec 5) : Exec Dest := if c = 0 then pure .none else laterS c

/-- Read a vector source field (Table 1.3). -/
def getV (c : BitVec 5) : Exec VWord := do
  if c.toNat < 28 then
    let t ← self
    pure (vget t.v c.toNat 0)
  else do
    let e ← popPort (c.toNat - 28)
    pure e.vectorValue

/-- The old value of a vector destination, which is zero for a port (R24). -/
def oldV (c : BitVec 5) : Exec VWord := do
  if c.toNat < 28 then
    let t ← self
    pure (vget t.v c.toNat 0)
  else pure 0

/-- Write a whole vector destination field; a pick's h registers count as written (R267). -/
def setV (c : BitVec 5) (x : VWord) : Exec Unit := do
  if c.toNat < 28 then updSelf (fun t => { t with v := vset t.v c.toNat x, vdirty := true })
  else pushPort (c.toNat - 28) (.vector x)

/-- Whether lane i is active: below VL and selected by the governing predicate (R23, R53). -/
def laneOn (t : Thread) (acc : Bool) (g : Gov) (i : Nat) : Bool :=
  decide (i < t.vl) && (bit ((t.ctx acc).pred g.p.toNat) i != g.n)

/-- The active lanes of the issuing thread under a predicate, one bit per lane. -/
def activeLanes (g : Gov) : Exec (BitVec 64) := do
  let t ← self
  let a ← me
  pure (BitVec.ofBoolListLE ((List.range 64).map (laneOn t a.acc g)) |>.setWidth 64)

/-- A vector result: active lanes take their value, the others the old one (R23). -/
def mergeV (on : BitVec 64) (old : VWord) (f : Nat → W32) : VWord :=
  vecOf (fun i => if on.getLsbD i then f i else lane old i)

/-- Write the active lanes of a vector destination field; a port's entry is zero elsewhere (R23, R24). -/
def putLanes (d : BitVec 5) (on : BitVec 64) (f : Nat → W32) : Exec Unit := do
  let old ← oldV d
  setV d (mergeV on old f)

/-- Read predicate k of the issuing stream (R25). -/
def getP (k : Nat) : Exec Word := do
  let c ← ctx
  pure (c.pred k)

/-- Write predicate k; writes of p0 are discarded (R25). -/
def setP (k : Nat) (w : Word) : Exec Unit :=
  if k = 0 then pure () else updCtx (fun c => { c with p := vset c.p k w })

/-- Write the active lanes of a predicate by a vector instruction (R157, R158, R267). -/
def setPLanes (k : Nat) (on w : Word) : Exec Unit := do
  let old ← getP k
  setP k ((old &&& ~~~on) ||| (w &&& on))
  updSelf (fun t => { t with vdirty := t.vdirty || k != 0 })

/-- Sign extension of a 12-bit immediate (R106). -/
def imm12 (i : BitVec 12) : Word := i.signExtend 64

/-- Merge flags into the issuing stream's `%fstat` (R84). -/
def mergeFlags (f : FF) : Exec Unit := updCtx (fun c => { c with fstat := c.fstat ||| f.bits })

end Sys2Proof.Machine
end

