-- ==== Sys2Proof/Machine/Access.lean ====
section
/-! DEFINITION. Scalar accesses to every kind of storage (R192 to R203, R274 to R295, R359, R367, R368): local store, loom memory,
creel, HBM under each draft, host memory and peer devices. -/

namespace Sys2Proof.Machine

/-- A scalar access: its kind, sign extension, size in bytes, operand and expected value. -/
structure MemOp where
  kind : AccKind
  signed : Bool
  size : Nat
  data : Word
  compare : Word
  deriving DecidableEq, Repr

/-- The access writes. -/
def MemOp.writes (o : MemOp) : Bool := o.kind != .load

/-- Extend n bytes to a register (R197, R198). -/
def extend (signed : Bool) (n w : Nat) : Word :=
  if signed then BitVec.ofInt 64 ((BitVec.ofNat (8 * n) w).toInt) else BitVec.ofNat 64 w

/-- The new value of an atomic of n bytes on old value m (Table 7.6). -/
def amoNew (op : AmoOp) (n m b cmp : Nat) : Nat :=
  let x := BitVec.ofNat (8 * n) m
  let y := BitVec.ofNat (8 * n) b
  (match op with
    | .swap => y
    | .add => x + y
    | .and => x &&& y
    | .or => x ||| y
    | .xor => x ^^^ y
    | .maxS => if x.sle y then y else x
    | .minS => if x.sle y then x else y
    | .maxN => if x.ule y then y else x
    | .minN => if x.ule y then x else y
    | .cas => if x = BitVec.ofNat (8 * n) cmp then y else x
    | .faddF32 => BitVec.ofNat (8 * n) (addRne .f32 m b).1).toNat

/-- What T receives of the old value (R200). -/
def amoOld (op : AmoOp) (n m : Nat) : Word :=
  match op with
  | .maxS | .minS => extend (n == 4) n m
  | _ => BitVec.ofNat 64 m

/-- What an access gives and writes at a location that holds the number m in its bytes. -/
def MemOp.apply (o : MemOp) (m : Nat) : Word × Option Nat :=
  let b := o.data.toNat % 2 ^ (8 * o.size)
  match o.kind with
  | .load => (extend o.signed o.size m, none)
  | .store => (0, some b)
  | .atomic op => (amoOld op o.size m, some (amoNew op o.size m b (o.compare.toNat % 2 ^ (8 * o.size))))

/-- Perform an access on plain storage: local store, creel or host memory. -/
def State.plainOp (s : State) (loc : Nat) (o : MemOp) : Word × State :=
  let r := o.apply (s.mem.num loc o.size)
  match r.2 with
  | none => (r.1, s)
  | some w => (r.1, s.plainWrite loc (leBytes o.size w))

/-- Perform an access at a home under a key (R275): none where it consumes poison. -/
def State.homeOp (s : State) (key : KeyId) (pa : Nat) (o : MemOp) : Option (Word × State) :=
  if !s.readable (blockNo pa) key then none
  else
    let r := o.apply (s.mem.num pa o.size)
    match r.2 with
    | none => some (r.1, s)
    | some w => some (r.1, s.homeStore key pa (leBytes o.size w))

/-- Perform an access on the data of a block held in a data cache. -/
def blockOp (x : Block) (off : Nat) (o : MemOp) : Word × Option Block :=
  let m := x.toNat / 2 ^ (8 * off) % 2 ^ (8 * o.size)
  let r := o.apply m
  match r.2 with
  | none => (r.1, none)
  | some w => (r.1, some (BitVec.ofNat 1024 (x.toNat - m * 2 ^ (8 * off) + w * 2 ^ (8 * off))))

/-- Bytes of a block replaced from an offset. -/
def blockPut (x : Block) (off : Nat) (bs : List Byte) : Block :=
  let n := bs.length
  let m := x.toNat / 2 ^ (8 * off) % 2 ^ (8 * n)
  BitVec.ofNat 1024 (x.toNat - m * 2 ^ (8 * off) + ofLE bs * 2 ^ (8 * off))

/-- What became of an access: its value, the answer that its instruction has waited for, one lane of several is sent, a value that
arrives later, or the issuing pick has migrated (R268). -/
inductive AccRes where
  | value (w : Word)
  | answered (w : Word)
  | sent
  | later
  | moved
  deriving DecidableEq, Repr

/-- What takes the value of an access that is performed later: `later` reserves its place, after which younger instructions go on
(R30, R196), where the instruction has one; `hold` reserves the queue or port entry of a value that the stream waits for; `lane` is
the lane of a vector instruction. -/
structure Taker where
  later : Option (Exec Dest)
  hold : Exec Dest
  lane : Option Nat

/-- The taker of an access whose stream waits and whose value goes nowhere. -/
def Taker.none : Taker := { later := Option.none, hold := pure .none, lane := Option.none }

/-- The taker of a scalar destination field (R129). -/
def takeS (d : BitVec 5) : Taker :=
  { later := some (laterS d), hold := if d.toNat < 24 then pure .none else laterS d, lane := Option.none }

/-- The taker of a T field, whose code 0 names nothing (R17). -/
def takeT (d : BitVec 5) : Taker := if d = 0 then { Taker.none with later := some (pure .none) } else takeS d

/-- The die of the place where an active message is performed (R193, Table 18.8 draft 5). -/
def ActiveMsg.place (m : ActiveMsg) : Nat :=
  if 2 ^ 54 ≤ m.loc then (m.loc - 2 ^ 54) / 2 ^ 26
  else if 2 ^ 53 ≤ m.loc then coreDie ((m.loc - 2 ^ 53) / 2 ^ 19)
  else paDie m.loc

/-- Queue an active message (R193, R290) at a core's list; one to another die takes its place on the bridge (R285). -/
def State.postActive (s : State) (at_ : Nat) (m : ActiveMsg) : State :=
  let s := s.updCore at_ (fun k => { k with remote := k.remote ++ [m] })
  if m.place = m.src then s else s.sendBridge m.src m.place (.tag m.id)

/-- The active message of an outstanding access, sent from a core. -/
def State.activeOf (s : State) (o : OutReq) (id : Nat) : ActiveMsg :=
  { tid := o.tid, acc := o.acc, dom := o.dom, loc := o.loc, size := o.size, kind := o.acckind, signed := o.signed, data := o.data,
    compare := o.compare, ea := o.ea, key := o.key, id := id, src := coreDie o.core, stamp := (s.die (coreDie o.core)).vc, checked := o.lane.isSome }

/-- An outstanding access of a kind. -/
def outOf (k : OutKind) (a : Agent) (t : Thread) (o : MemOp) (loc : Nat) (ea : Word) (key : KeyId) (d : Dest) : OutReq :=
  { kind := k, tid := a.tid, acc := a.acc, dom := t.dom, core := t.core, acckind := o.kind, signed := o.signed, loc := loc,
    ea := ea, size := o.size, data := o.data, compare := o.compare, dest := d, key := key, pc := (t.ctx a.acc).pc,
    unit := none, slot := 0, answer := none, waits := false, nacks := 0, retryAt := none, gone := none, lane := none }

/-- Add an outstanding access. -/
def State.addOut (s : State) (o : OutReq) : State :=
  { s with outs := alSet s.outs s.nextId o, nextId := s.nextId + 1 }

/-- Add an outstanding access made by an active message, and send the message. -/
def State.addActive (s : State) (at_ : Nat) (o : OutReq) : State :=
  (s.addOut o).postActive at_ (s.activeOf o s.nextId)

/-- Send an access that the stream waits for; a lane's is one of several (R196, R161). -/
def send (k : Taker) (start : OutReq → State → State) (o : OutReq) : Exec AccRes :=
  match k.lane with
  | some i => do
    modify (start { o with waits := true, lane := some i })
    pure .sent
  | none => sendAndWait k.hold (fun d s => start { o with waits := true, dest := d } s)

/-- Send an access whose value a register, a queue or a port takes later, while the stream goes on; one without such a place is
waited for (R196). -/
def sendLater (k : Taker) (start : OutReq → State → State) (o : OutReq) : Exec AccRes :=
  match k.later with
  | some x => do
    let d ← x
    modify (start { o with dest := d })
    pure .later
  | none => send k start o

/-- Every count of die d that a message from it to die e needs is delivered at e, and back, and nothing is on its way between them (R285,
R286): what crosses now is delivered at once and overtakes nothing. -/
def State.causalOk (s : State) (d e : Nat) : Bool :=
  s.bridgeClear d e && s.bridgeClear e d && (List.range 4).all (fun k =>
    (k == e || decide (vget (s.die d).vc k 0 ≤ vget (s.die e).vc k 0)) &&
    (k == d || decide (vget (s.die e).vc k 0 ≤ vget (s.die d).vc k 0)))

/-- What a stream's own accesses on their way mean for its next access to the same bytes (R278): nothing, a wait, or the data of
its own last store there, which it may read before the store is performed (R283). -/
inductive Own where
  | free | wait
  | data (w : Word)
  deriving DecidableEq, Repr

/-- A stream's own accesses to the bytes of an access: its far stores follow one another on their bridge, so that one may go out
behind another. -/
def State.ownAt (s : State) (a : Agent) (t : Thread) (pa : Nat) (key : KeyId) (o : MemOp) : Own :=
  let d := s.die (coreDie t.core)
  let outs := s.outs.filter (fun x => x.2.tid == a.tid && x.2.acc == a.acc && x.2.unit.isNone && x.2.lane.isNone &&
    x.2.kind != .host && x.2.kind != .peer && x.2.size != 0 && overlaps x.2.loc x.2.size pa o.size)
  let far := t.writes.filter (fun w => w.acc == a.acc && overlaps w.pa w.size pa o.size && !(match w.acked with
    | none => false
    | some n => d.saw w.home.toNat n))
  match outs.getLast?, far.getLast? with
  | none, none => .free
  | some (_, x), _ =>
    if o.kind = .load ∧ (x.kind = .home ∨ (x.kind = .coherence ∧ !x.waits)) ∧ x.acckind = .store ∧ x.loc = pa ∧ x.size = o.size ∧ x.key = key then
      .data (o.apply (x.data.toNat % 2 ^ (8 * o.size))).1
    else .wait
  | none, some w =>
    match o.kind, w.data with
    | .store, _ => .free
    | .load, some x =>
      if w.pa = pa ∧ w.size = o.size ∧ w.key = key then .data (o.apply (x.toNat % 2 ^ (8 * o.size))).1 else .wait
    | _, _ => .wait

/-- The host's side has seen the events of a clock (R282). -/
def State.hostStamp (s : State) (c : Clock) : State := { s with mgmt := { s.mgmt with fclk := s.mgmt.fclk.join c } }

/-- The byte address of a page's counter entry (Table 18.5). -/
def State.migEntry (s : State) (idx : BitVec 16) : Nat := field s.mgmt.migtab 51 12 * 4096 + 32 * idx.toNat

/-- Number of entries in the candidate ring. -/
def State.migRingSize (s : State) : Nat := 2 ^ (field s.mgmt.migring 3 0 + 8)

/-- Append a candidate (R354): false where the ring is full. -/
def State.postCandidate (s : State) (pa : Nat) (e bits : Nat) (idx : BitVec 16) : Bool × State :=
  if s.migRingSize ≤ s.mgmt.migtail - s.mgmt.mighead then (false, s)
  else
    let a := field s.mgmt.migring 51 12 * 4096 + 16 * (s.mgmt.migtail % s.migRingSize)
    let page := pa / 2 ^ bits * 2 ^ bits
    let w1 : Nat := e + idx.toNat * 2 ^ 16 + bits * 2 ^ 32
    let s := s.deviceWrite (s.keyOf 0) a (leBytes 8 page ++ leBytes 8 w1)
    (true, { s with mgmt := { s.mgmt with migtail := s.mgmt.migtail + 1 } })

/-- What a page's translation tells its home of a miss. -/
def Leaf.tag (l : Leaf) : MissTag := { idx := l.migidx, bits := l.bits, pin := l.pin }

/-- Count a miss of die `e` at the home of a page on another die (R354); nothing is counted where no table is set. A count that has reached
the threshold posts a candidate while none is posted (log entry 40). -/
def State.countTag (s : State) (e pa : Nat) (l : MissTag) : State :=
  if l.idx = 0 ∨ s.mgmt.migtab = 0 then s
  else
    let a := s.migEntry l.idx
    let n := min 65535 (s.mem.num (a + 2 * e) 2 + 1)
    let s := s.deviceWrite (s.keyOf 0) (a + 2 * e) (leBytes 2 n)
    let flags := s.mem.get (a + 17)
    if s.mgmt.migthr.toNat ≤ n ∧ !bit flags 1 ∧ !l.pin then
      let r := s.postCandidate pa e l.bits l.idx
      if r.1 then r.2.deviceWrite (s.keyOf 0) (a + 17) [flags ||| 2] else s
    else s

/-- Count a miss of die `e` through a translation. -/
def State.countMiss (s : State) (e : Nat) (l : Leaf) : State := s.countTag e l.pa l.tag

/-- A pick leaves for the home die of the page it is about to reach (R267). -/
def State.mustMigrate (s : State) (t : Thread) (l : Leaf) : Bool :=
  let e := paDie l.pa
  t.kind == .pick && l.loc == 0 && e != coreDie t.core && !l.pin && !t.vdirty && !t.moved && t.heldTo.isNone &&
    bit (s.effDiemask t.dom) e && decide ((s.die e).migbuf.length < 256)

/-- Migrate the issuing pick (R268): its engine operations complete, release(.dev), and its record waits at the home die. -/
def migrate (l : Leaf) : Exec AccRes := do
  let a ← me
  let t ← self
  if (← get).engineBusy a.tid then stall .batch
  if t.exe.pend ≠ 0 then stall .memory
  releaseAll 4
  let t ← self
  modify (fun s =>
    let s := s.unplace a.tid t
    let t := { t with clock := (s.die (coreDie t.core)).vc }
    let keep (w : Word) : Word := allLanes (bit w 0)
    let s := s.setThread a.tid
      { t with status := .taken, moved := true, lastSealed := 0, exe := { t.exe with p := t.exe.p.map keep, wait := .none } }
    s.updDie (paDie l.pa) (fun d => { d with migbuf := d.migbuf ++ [{ tid := a.tid, heddle := s.homeHeddle l.pa }] }))
  pure .moved

/-- The access is a contribution to a region of this operation and format (R203). -/
def MemOp.contributes (o : MemOp) (op fmt : Nat) : Bool :=
  match o.kind with
  | .store => o.size == commWidth fmt
  | .atomic .faddF32 => op == 0 && fmt == 0 && o.size == 4
  | .atomic .add => op == 0 && fmt == 2 && o.size == 4
  | .atomic .maxS => op == 1 && fmt == 2 && o.size == 4
  | .atomic .minS => op == 2 && fmt == 2 && o.size == 4
  | _ => false

/-- Register a core with the home of a block, with a partial of the block under a key (R293). -/
def State.startPartial (s : State) (core : Nat) (key : KeyId) (pa : Nat) : State :=
  let b := blockNo pa
  let (op, fmt) := s.commOf pa
  let s := match alGet (s.core core).partials b with
    | some (k, _) => if k = key then s else s.foldPartial core b
    | none => s
  let s := s.registerPartial (s.homeHeddle pa) b core
  if (alGet (s.core core).partials b).isSome then s
  else s.updCore core (fun k => { k with partials := alSet k.partials b (key, commStart op fmt) })

/-- Add a contribution to a core's partial (R293). -/
def State.contribute (s : State) (core : Nat) (key : KeyId) (pa : Nat) (o : MemOp) : State :=
  let b := blockNo pa
  let (op, fmt) := s.commOf pa
  let s := s.startPartial core key pa
  let x := match alGet (s.core core).partials b with
    | some (_, x) => x
    | none => commStart op fmt
  let off := pa % 128
  let w := commWidth fmt
  let old := x.toNat / 2 ^ (8 * off) % 2 ^ (8 * w)
  let new := commStep op fmt old (o.data.toNat % 2 ^ (8 * w))
  s.updCore core (fun k =>
    { k with partials := alSet k.partials b (key, blockPut x off (leBytes w new)),
             partStamps := alSet k.partStamps b ((alGetD k.partStamps b Clock.zero).join (s.die (coreDie core)).vc) })

/-- The partials that a core's contribution to a block would fold first have seen their events at their homes (R285, R293). -/
def State.contribReady (s : State) (core : Nat) (key : KeyId) (pa : Nat) : Bool :=
  let b := blockNo pa
  let h := s.homeHeddle pa
  let cs := (s.heddle h).contributors
  (match alGet (s.core core).partials b with
    | some (k, _) => k == key || s.partialReady b core
    | none => true) &&
  (match cs.find? (fun e => e.1 == b) with
    | some (_, l) => l.contains core || decide (l.length < 64) || (match l with
      | old :: _ => s.partialReady b old
      | [] => true)
    | none => decide (cs.length < 2048) || (match cs with
      | old :: _ => s.foldReady h old.1
      | [] => true))

/-- Mark a write-once block as written when its write-back reaches the home: the first store sends it (Table 18.8). -/
def State.firstWrite (s : State) (core : Nat) (key : KeyId) (pa : Nat) : State :=
  let b := blockNo pa
  let h := s.homeHeddle pa
  if s.msgs.any (fun m => m.2.type.toNat == tWb && blockNo m.2.pa == b && m.2.slot == 0) then s
  else s.sendMsg (mkMsg (s.heddleNode h) (s.coreNode core) (s.coreNode core) tWb false 0 key (128 * b) 0 0 none)

/-- A block written at its home is pushed at once to the shuttles whose looms have registered (Table 18.8): a read-only line takes it, and
an absent one where a way of its set is free (R393). -/
def State.pushNow (s : State) (key : KeyId) (b : Nat) : State :=
  let l := alGetD (s.heddle (s.homeHeddle (128 * b))).pushes b []
  l.foldl (fun s c => s.updCore c (fun k =>
    if (k.dcache.filter (fun x => x.1 % 64 == b % 64 && x.1 != b)).length < 8 then
      { k with dcache := alSet k.dcache b { key := key, data := s.blockData b, writable := false } } else k)) s

/-- After a write made at a home under a draft. -/
def State.afterWrite (s : State) (dr core : Nat) (key : KeyId) (pa : Nat) : State :=
  if dr = 4 then s.firstWrite core key pa else if dr = 3 then s.pushNow key (blockNo pa) else s

/-- A free coherence reply slot of a core: 1 to 64 (R362). -/
def State.coreSlot (s : State) (core : Nat) : Option Nat :=
  ((List.range 64).map (· + 1)).find? (fun i =>
    !s.outs.any (fun o => (o.2.kind == .coherence || o.2.kind == .active) && o.2.core == core && o.2.slot == i))

/-- OPND of a request: the operand of an atomic, whose operation the request's record names (Table 18.10; log entry 46). -/
def OutReq.opnd (r : OutReq) : Word := match r.acckind with
  | .atomic _ => r.data
  | _ => 0

/-- Send a core's coherence request for a block and record it (R362). -/
def State.sendRequest (s : State) (r : OutReq) (slot type : Nat) (prio : Bool) : State :=
  let b := blockNo r.loc
  let h := s.homeHeddle r.loc
  let m := { mkMsg (s.heddleNode h) (s.coreNode r.core) (s.coreNode r.core) type false (BitVec.ofNat 7 slot) r.key (128 * b) 0 0
              none with prio := prio, opnd := r.opnd }
  (s.addOut { r with slot := slot }).sendMsg m

/-- The request type that a core's access to a block of a loaded draft needs: none when the core already holds enough. -/
def State.needType (s : State) (core b : Nat) (key : KeyId) (write comm contrib : Bool) : Option Nat :=
  let k := s.core core
  if comm then
    if contrib then (match alGet k.partials b with
      | some (key', _) => if key' = key then none else some tWrmiss
      | none => some tWrmiss)
    else some tRdmiss
  else match alGet k.dcache b with
    | some x =>
      if x.key ≠ key ∨ x.void then some (if write then tWrmiss else tRdmiss)
      else if write && !x.writable then some tUpgrade
      else none
    | none => some (if write then tWrmiss else tRdmiss)

/-- Ask the home for a block under a loaded draft and wait; the reply is answered by its event. -/
def askHome (k : Taker) (o : MemOp) (ea : Word) (l : Leaf) (type : Nat) : Exec AccRes := do
  let a ← me
  let t ← self
  let s ← get
  match s.coreSlot t.core with
  | none => stall .memory
  | some slot =>
    send k (fun r s => s.sendRequest r slot type false) (outOf .coherence a t o l.pa ea l.key .none)

/-- An access under a loaded draft: in the core's data cache, or by asking the home (R362, R364). -/
def draftAccess (k : Taker) (o : MemOp) (ea : Word) (l : Leaf) (dr : Nat) : Exec AccRes := do
  let t ← self
  let s ← get
  let b := blockNo l.pa
  let comm := s.isComm dr
  let (op, fmt) := s.commOf l.pa
  let contrib := o.contributes op fmt
  if comm ∧ o.writes ∧ !contrib then raise 0x11 ea 0
  else if (alGet (s.core t.core).wbuf b).isSome then stall .memory
  else match s.needType t.core b l.key o.writes comm contrib with
    | some ty => askHome k o ea l ty
    | none =>
      if comm then
        if !s.contribReady t.core l.key l.pa then stall .memory
        set (s.contribute t.core l.key l.pa o)
        pure (.value 0)
      else match alGet (s.core t.core).dcache b with
        | none => stall .memory
        | some x =>
          let r := blockOp x.data (l.pa % 128) o
          match r.2 with
          | none => pure (.value r.1)
          | some y =>
            set ((s.updCore t.core (fun k => { k with dcache := alSet k.dcache b { x with data := y } })).wakeAddr l.pa)
            pure (.value r.1)

/-- The lines of the data-cache set of a block, other than its own (R274: 64 sets of 8 ways). -/
def Core.dcSet (k : Core) (b : Nat) : AList DCLine := k.dcache.filter (fun l => l.1 % 64 == b % 64 && l.1 != b)

/-- A core on another die than a block's home keeps a read-only line of the copy its die holds (R274, R283), in the place of another such
line where its set is full (log entry 8). -/
def State.keepLine (s : State) (core b : Nat) : State :=
  match alGet (s.die (coreDie core)).copies b with
  | none => s
  | some (key, data) =>
    let set := (s.core core).dcSet b
    let clean := set.filter (fun l => !l.2.writable)
    let x : DCLine := { key := key, data := data, writable := false }
    if set.length < 8 then s.updCore core (fun k => { k with dcache := alSet k.dcache b x })
    else match clean[Config.victim s.freeCtr % (max 1 clean.length)]? with
      | none => s
      | some v => ({ s with freeCtr := s.freeCtr + 1 }).updCore core (fun k =>
          { k with dcache := alSet (alErase k.dcache v.1) b x })

/-- A core of the home die holds a block under a key, with the grant that an access needs: the access is a hit (R274). -/
def State.hit (s : State) (core b : Nat) (key : KeyId) (write : Bool) : Bool :=
  match alGet (s.core core).dcache b with
  | some x => x.key == key && !x.void && (x.writable || !write)
  | none => false

/-- Write bytes on a line that a core holds writable under a standard draft: HBM's sealed copy stays as it was (R274). -/
def State.lineStore (s : State) (core : Nat) (key : KeyId) (pa : Nat) (bs : List Byte) : State :=
  let b := blockNo pa
  let was := ((s.block b).sealedUnder, s.blockData b)
  let s := { s with mem := s.mem.putBytes pa bs }
  let s := s.updBlock b (fun m => { m with sealedUnder := some key })
  let x := s.blockData b
  (s.updCore core (fun k => match alGet k.dcache b with
    | some l => { k with dcache := alSet k.dcache b { l with data := x, old := some (l.old.getD was) } }
    | none => k)).wakeAddr pa

/-- A writable line that a data cache of the die holds of a block. -/
def State.heldWritable (s : State) (b : Nat) : Bool :=
  s.cores.any (fun c => match alGet c.2.dcache b with
    | some x => x.writable
    | none => false)

/-- A read at the home of a standard draft takes a block back from a core that holds it writable (Table 18.8): the line becomes read-only,
or under the migratory draft is gone, and what it held is home, an event (R285). -/
def State.demote (s : State) (b : Nat) (key : KeyId) : State :=
  if !s.stdDraft (s.draftAt (128 * b)) || !s.heldWritable b then s
  else if s.draftAt (128 * b) = 2 then (s.dropOn (paDie (128 * b)) b).homeEvent (paDie (128 * b)) b key
  else
    let clean (l : AList DCLine) : AList DCLine := l.map (fun y => if y.1 = b then (b, { y.2 with writable := false, old := none }) else y)
    let s : State := { s with cores := s.cores.map (fun c => (c.1, { c.2 with dcache := clean c.2.dcache })) }
    s.homeEvent (paDie (128 * b)) b key

/-- Record a write of a stream at a home on another die (R285, R287). -/
def Thread.note (t : Thread) (w : RemoteWrite) : Thread := { t with writes := t.writes ++ [w] }

/-- Send a store within one block to a home on another die (R285), with the miss that it is. -/
def State.sendWrite (s : State) (a : Agent) (d e : Nat) (key : KeyId) (pa : Nat) (bs : List Byte) (data : Option Word)
    (miss : Option MissTag) : State :=
  let id := s.nextId
  let s := { s with nextId := id + 1 }
  let s := s.updThread a.tid (fun t => t.note
    { id := id, home := BitVec.ofNat 2 e, acked := none, acc := a.acc, pa := pa, key := key, size := bs.length, data := data })
  s.sendBridge d e (.write (s.die d).vc a.tid id key pa bs miss)

/-- A data-cache miss of a core on another die through a translation: it holds no line of the block (R354). -/
def State.missOf (s : State) (core : Nat) (l : Leaf) : Option MissTag :=
  if (alGet (s.core core).dcache (blockNo l.pa)).isSome then none else some l.tag

/-- Count a miss, if it is one. -/
def State.countIf (s : State) (e pa : Nat) (m : Option MissTag) : State := match m with
  | some t => s.countTag e pa t
  | none => s

/-- Reply to a read of a home by another die, with the home's clock (R285); drafts 0, 1, 3 and 4 let the die keep a copy (Table
18.8). -/
def State.sendReply (s : State) (d e id : Nat) (key : KeyId) (pa : Nat) (w : Word) : State :=
  let b := blockNo pa
  let s := s.demote b key
  let copy := if s.draftAt pa = 2 ∨ !s.readable b key then none else some (b, key, s.blockData b)
  s.sendBridge e d (.reply (s.die e).vc id w copy)

/-- A read of a home by another die: now, or, in a turn whose accesses are performed later, once MEMORY_RESPONSE brings it there. -/
def State.sendRead (s : State) (r : OutReq) (w : Word) : State :=
  let id := s.nextId
  if s.slow then s.addOut { r with data := w }
  else (s.addOut { r with answer := some (.ok w) }).sendReply (coreDie r.core) (paDie r.loc) id r.key r.loc w

/-- Ask the home of a standard draft for a line, with a request of a type, in a turn whose accesses are performed later (R279, R393): the
stream goes on behind a load that has a place for its value `w` and behind a store, but a store that the home may refuse (R364). -/
def askLine (k : Taker) (o : MemOp) (ea : Word) (l : Leaf) (dr type : Nat) (w : Word) : Exec AccRes := do
  let a ← me
  let t ← self
  let s ← get
  let r := outOf .coherence a t o l.pa ea l.key .none
  match (alGet (s.core t.core).wbuf (blockNo l.pa)).isSome, s.coreSlot t.core with
  | false, some slot =>
    let start (r : OutReq) (s : State) : State := s.sendRequest r slot type false
    (match o.kind with
    | .load => sendLater k start { r with data := w }
    | .store => if dr = 4 then send k start r else do
        modify (start r)
        pure (.value 0)
    | .atomic _ => send k start r)
  | _, _ => stall .memory

/-- An access in a region under the standard commutative draft (R203, R294). -/
def commAccess (k : Taker) (o : MemOp) (ea : Word) (l : Leaf) : Exec AccRes := do
  let t ← self
  let s ← get
  let (op, fmt) := s.commOf l.pa
  let b := blockNo l.pa
  let h := s.homeHeddle l.pa
  let d := coreDie t.core
  let e := paDie l.pa
  if o.kind = .load then
    if s.slow then
      match s.homeOp l.key l.pa o with
      | none => raise 0x15 ea 0
      | some (w, _) => askLine k o ea l 6 tRdmiss w
    else do
      if (d ≠ e ∧ !s.causalOk d e) ∨ !s.foldReady h b then stall .memory
      let s := s.foldAll h b
      match s.homeOp l.key l.pa o with
      | none => raise 0x15 ea 0
      | some (w, s) =>
        set (if d = e then s else s.countMiss d l)
        pure (.value w)
  else if o.contributes op fmt then
    let registered := (alGetD (s.heddle h).contributors b []).contains t.core
    if s.slow && !registered && (alGet (s.core t.core).partials b).isNone then askLine k o ea l 6 tWrmiss 0
    else do
      if !s.contribReady t.core l.key l.pa then stall .memory
      let s := s.contribute t.core l.key l.pa o
      set (if d = e ∨ registered then s else s.countMiss d l)
      pure (.value 0)
  else raise 0x11 ea 0

/-- An access to HBM on another die under a standard draft without home service (R283 to R287): a shuttle there may hold a read-only line of
its die's copy. -/
def farAccess (k : Taker) (o : MemOp) (ea : Word) (l : Leaf) (dr : Nat) : Exec AccRes := do
  let a ← me
  let t ← self
  let s ← get
  let d := coreDie t.core
  let e := paDie l.pa
  let b := blockNo l.pa
  match o.kind with
  | .atomic _ =>
    if !s.causalOk d e then stall .memory
    else match s.homeOp l.key l.pa o with
      | none => raise 0x15 ea 0
      | some (w, s') =>
        let n := vget (s'.die e).vc e 0
        let u := s'.updThread a.tid (fun t => t.note
          { id := 0, home := BitVec.ofNat 2 e, acked := some n, acc := a.acc, pa := l.pa, key := l.key, size := o.size, data := none })
        set ((u.afterWrite dr t.core l.key l.pa).countIf d l.pa (s.missOf t.core l))
        pure (.value w)
  | .store =>
    if !s.writable l.key l.pa o.size then raise 0x15 ea 0
    else if s.slow then
      set (s.addOut (outOf .home a t o l.pa ea l.key .none))
      pure (.value 0)
    else do
      let s' := s.sendWrite a d e l.key l.pa (leBytes o.size o.data.toNat) (some o.data) (s.missOf t.core l)
      set (if dr = 4 then s'.firstWrite t.core l.key l.pa else s')
      pure (.value 0)
  | .load =>
    match alGet (s.die d).copies b with
    | some (key, x) =>
      if (s.block b).poison then raise 0x15 ea 0
      else if key = l.key then pure (.value (blockOp x (l.pa % 128) o).1)
      else stallKeep .memory (fun s => s.dropCopy d b)
    | none =>
      match s.homeOp l.key l.pa o with
      | none => raise 0x15 ea 0
      | some (w, _) =>
        sendLater k (fun r s => (s.sendRead r w).countMiss d l) (outOf .dieRead a t o l.pa ea l.key .none)

/-- An access to HBM of the issuing core's die under a standard draft without home service. A hit is performed in the data cache. A miss is
performed at its home at once, as if the line it brings were given up again; in a turn whose accesses are performed later it asks the home
for the line, and a store under the update draft goes to the home (R279, R283, Table 18.8; log entry 22). -/
def nearAccess (k : Taker) (o : MemOp) (ea : Word) (l : Leaf) (dr : Nat) : Exec AccRes := do
  let a ← me
  let t ← self
  let s ← get
  let b := blockNo l.pa
  let hit := s.hit t.core b l.key o.writes
  let type := (s.needType t.core b l.key o.writes false false).getD tRdmiss
  match o.kind with
  | .store =>
    if !s.writable l.key l.pa o.size then raise 0x15 ea 0
    else if hit then
      set (s.lineStore t.core l.key l.pa (leBytes o.size o.data.toNat))
      pure (.value 0)
    else if s.slow && dr == 1 then
      set (s.addOut (outOf .home a t o l.pa ea l.key .none))
      pure (.value 0)
    else if s.slow then askLine k o ea l dr type 0
    else
      set ((s.homeStore l.key l.pa (leBytes o.size o.data.toNat)).afterWrite dr t.core l.key l.pa)
      pure (.value 0)
  | .load =>
    match s.homeOp l.key l.pa o with
    | none => raise 0x15 ea 0
    | some (w, _) =>
      if hit then pure (.value w)
      else if s.slow then askLine k o ea l dr type w
      else
        let s := s.demote b l.key
        set (if dr = 3 then s.registerReader (s.homeHeddle l.pa) b t.core else s)
        pure (.value w)
  | .atomic _ =>
    if hit then
      if !s.readable b l.key then raise 0x15 ea 0
      else
        let r := o.apply (s.mem.num l.pa o.size)
        set (match r.2 with
          | some w => s.lineStore t.core l.key l.pa (leBytes o.size w)
          | none => s)
        pure (.value r.1)
    else match s.homeOp l.key l.pa o with
      | none => raise 0x15 ea 0
      | some (w, s') =>
        if s.slow && dr != 1 then askLine k o ea l dr type 0
        else
          set (s'.afterWrite dr t.core l.key l.pa)
          pure (.value w)

/-- An access under the reduction draft is made at the home heddle by an active message (Table 7.7, Table 18.8); its checks are made
before the thread continues (R196), and its answer is an ACK in its reply slot (R368). -/
def activeAccess (k : Taker) (o : MemOp) (ea : Word) (l : Leaf) : Exec AccRes := do
  let a ← me
  let t ← self
  let s ← get
  match s.homeOp l.key l.pa o, s.coreSlot t.core with
  | none, _ => raise 0x15 ea 0
  | _, none => stall .memory
  | some (w, _), some slot =>
    let r := { outOf .active a t o l.pa ea l.key .none with slot := slot }
    if o.kind = .load then sendLater k (fun r s => s.addActive r.core r) { r with data := w }
    else send k (fun r s => s.addActive r.core r) r

/-- An access to HBM that has passed rows 2 to 8 (Table 7.2 rows 9 and 10; Table 18.8). -/
def hbmAccess (k : Taker) (o : MemOp) (ea : Word) (l : Leaf) : Exec AccRes := do
  let a ← me
  let t ← self
  let s ← get
  if s.mustMigrate t l then migrate l
  else do
    let dr := s.draftAt l.pa
    if s.shut l.pa then stall .memory
    else match s.ownAt a t l.pa l.key o with
    | .wait => stall .memory
    | .data w => pure (.value w)
    | .free =>
      if !s.stdDraft dr then draftAccess k o ea l dr
      else if s.onceRefused dr l.pa o.writes then raise 0x11 ea 0
      else if dr = 6 then commAccess k o ea l
      else if dr = 5 then activeAccess k o ea l
      else if paDie l.pa ≠ coreDie t.core then farAccess k o ea l dr
      else nearAccess k o ea l dr

/-- A stream has an access to host memory on its way that shares bytes with another (R278). -/
def State.hostClash (s : State) (a : Agent) (loc n : Nat) : Bool :=
  s.outs.any (fun x => x.2.tid == a.tid && x.2.acc == a.acc && x.2.kind == .host && x.2.lane.isNone && overlaps x.2.loc x.2.size loc n)

/-- An access to host memory (R202, R291). What the host's side sees of a die comes with it (R282). -/
def hostAccess (k : Taker) (o : MemOp) (ea : Word) (l : Leaf) : Exec AccRes := do
  let a ← me
  let t ← self
  let s ← get
  let r := outOf .host a t o (hostLoc l.pa) ea l.key .none
  if s.hostClash a r.loc o.size then stall .memory
  else match o.kind with
  | .store =>
    set ((s.plainOp r.loc o).2.hostStamp (s.die (coreDie t.core)).vc)
    pure (.value 0)
  | .load => sendLater k (fun r s => s.addOut r) r
  | .atomic op =>
    if op ≠ .add ∧ op ≠ .swap ∧ op ≠ .cas then raise 0x17 ea 0
    else if !s.mgmt.atomicReq then raise 0x17 ea 3
    else send k (fun r s => s.addOut r) r

/-- An access to a page on a peer device (R194, R196): a store is posted; the thread waits for any other, since the owner's checks
may refuse it (log entry 43). -/
def peerAccess (k : Taker) (o : MemOp) (ea : Word) (l : Leaf) : Exec AccRes := do
  let a ← me
  let t ← self
  let r := outOf .peer a t o l.pa ea l.key .none
  match o.kind with
  | .store =>
    modify (fun s => s.addOut r)
    pure (.value 0)
  | _ => send k (fun r s => s.addOut r) r

/-- A scalar access to global memory, after the checks of Table 7.2. -/
def accessGlobal (k : Taker) (o : MemOp) (ea : Word) : Exec AccRes := do
  let t ← self
  match (← get).checkGlobal t.core t.dom ea o.size true o.writes with
  | (.error b, _) => raiseBad b ea
  | (.ok (_, l), s) =>
    set s
    if l.loc = 0 then hbmAccess k o ea l
    else if l.loc = 1 then hostAccess k o ea l
    else peerAccess k o ea l

/-- Make an access at an effective address (R192, R193, R195). -/
def accessNow (k : Taker) (o : MemOp) (ea : Word) : Exec AccRes := do
  let a ← me
  let t ← self
  match route t.core ea with
  | .error b => raiseBad b ea
  | .ok .global => accessGlobal k o ea
  | .ok (.own off) =>
    if ea.toNat % o.size ≠ 0 then raise 0x03 ea 0
    else if !windowOk ((← get).core t.core) off o.size o.writes false then raise 0x11 ea 0
    else do
      let (w, s) := (← get).plainOp (lsLoc t.core off) o
      set s
      pure (.value w)
  | .ok (.loom c off) =>
    if ea.toNat % o.size ≠ 0 then raise 0x03 ea 0
    else send k (fun r s => s.addActive c r) (outOf .active a t o (lsLoc c off) ea 0 .none)
  | .ok (.creel d off) =>
    if ea.toNat % o.size ≠ 0 then raise 0x03 ea 0
    else send k (fun r s => s.addActive t.core r) (outOf .active a t o (creelLoc d off) ea 0 .none)

/-- The access of a migrated pick has been made (R268). -/
def clearMoved : Exec Unit := do
  let t ← self
  if t.moved then updSelf (fun t => { t with moved := false })

/-- A scalar access: the answer its instruction has waited for, or the access itself (R196). -/
def accessAt (k : Taker) (o : MemOp) (ea : Word) : Exec AccRes := do
  match ← answered with
  | some w =>
    clearMoved
    pure (.answered w)
  | none =>
    let r ← accessNow k o ea
    if r ≠ .moved then clearMoved
    pure r

/-- Write what an access gives a scalar destination field: an entry reserved for an answer holds it already (R129). -/
def takeValue (d : BitVec 5) (r : AccRes) : Exec Next := do
  match r with
  | .value w =>
    setS d w
    pure .seq
  | .answered w =>
    if d.toNat < 24 then setS d w
    pure .seq
  | .moved => pure .stay
  | _ => pure .seq

/-- A load into D (R197). -/
def loadTo (signed : Bool) (n : Nat) (ea : Word) (d : BitVec 5) : Exec Next := do
  let o : MemOp := { kind := .load, signed := signed, size := n, data := 0, compare := 0 }
  takeValue d (← accessAt (takeS d) o ea)

/-- A store of a register's low bytes (R197). -/
def storeFrom (n : Nat) (ea w : Word) : Exec Next := do
  let o : MemOp := { kind := .store, signed := false, size := n, data := w, compare := 0 }
  match ← accessAt Taker.none o ea with
  | .moved => pure .stay
  | _ => pure .seq

end Sys2Proof.Machine
end

