-- ==== Sys2Proof/Machine/AccessEvents.lean ====
section
/-! DEFINITION. Answers to accesses performed elsewhere: active messages, host memory, peer devices and accesses arriving from peers
(R193, R194, R196, R202, R290, R385). -/

namespace Sys2Proof.Machine

/-- An active message's access. -/
def ActiveMsg.op (m : ActiveMsg) : MemOp :=
  { kind := m.kind, signed := m.signed, size := m.size, data := m.data, compare := m.compare }

/-- Perform an active message where it arrives (R193; Table 18.8 draft 5): its value, or the cause of its failure. A lane of a vector
instruction has met its checks before any lane was performed (R161). -/
def State.activeOp (s : State) (m : ActiveMsg) : Except Cause (Word × State) :=
  let o := m.op
  if 2 ^ 54 ≤ m.loc then
    let off := (m.loc - 2 ^ 54) % 2 ^ 26
    if m.checked || s.creelOk m.dom m.place off m.size then .ok (s.plainOp m.loc o) else .error 0x11
  else if 2 ^ 53 ≤ m.loc then
    let off := (m.loc - 2 ^ 53) % 2 ^ 19
    let core := (m.loc - 2 ^ 53) / 2 ^ 19
    if m.checked || windowOk (s.core core) off m.size o.writes true then .ok (s.plainOp m.loc o) else .error 0x11
  else match s.homeOp m.key m.loc o with
    | some r => .ok r
    | none => .error 0x15

/-- The record of a write-back of a core (R366). -/
def wbReq (c b slot : Nat) (key : KeyId) : OutReq :=
  { kind := .coherence, tid := goneTid, acc := false, dom := 0, core := c, acckind := .store, signed := false,
    loc := 128 * b, ea := 0, size := 128, data := 0, compare := 0, dest := .none, key := key, pc := 0, unit := none,
    slot := slot, answer := none, waits := false, nacks := 0, retryAt := none, gone := none, lane := none }

/-- The value an access's destination receives from the data of an answer. -/
def OutReq.value (o : OutReq) (w : Word) : Word :=
  match o.acckind with
  | .load => extend o.signed o.size (w.toNat % 2 ^ (8 * o.size))
  | .store => 0
  | .atomic op => amoOld op o.size (w.toNat % 2 ^ (8 * o.size))

/-- The recorded access of a request. -/
def OutReq.op (o : OutReq) : MemOp := { kind := o.acckind, signed := o.signed, size := o.size, data := o.data, compare := o.compare }

/-- Give an outstanding access its value. -/
def State.finishOut (s : State) (k : Nat) (o : OutReq) (w : Word) : State :=
  let s := { s with outs := alErase s.outs k }
  let s := if o.waits then s.answer o.tid o.acc o.lane w else s
  s.arriveAt o.tid o.dest w

/-- An outstanding access that its stream waits for has failed. -/
def State.failOut (s : State) (k : Nat) (o : OutReq) (c : Cause) (extra : Word) : State :=
  let s := { s with outs := alErase s.outs k }
  match o.lane with
  | some i => s.laneFail o.tid o.acc i (blockNo o.loc) (o.acckind == .store) c o.ea
  | none => (s.answerFail o.tid o.acc c o.ea extra).cancel o.tid o.dest

/-- A write made at a home on another die is one that a release waits for (R287). -/
def State.noteWrite (s : State) (o : OutReq) (e : Nat) : State :=
  if o.acckind = .load ∨ e = coreDie o.core then s
  else s.updThread o.tid (fun t => t.note
    { id := 0, home := BitVec.ofNat 2 e, acked := some (vget (s.die e).vc e 0), acc := o.acc, pa := o.loc, key := o.key,
      size := o.size, data := none })

/-- The home answers an access of the reduction draft with an ACK in the reply slot of its core, its old value in OPND (R368). -/
def State.answerActive (s : State) (o : OutReq) (w : Word) : State :=
  let h := s.homeHeddle o.loc
  s.sendMsg { mkMsg (s.coreNode o.core) (s.heddleNode h) (s.coreNode o.core) tRecallack true (BitVec.ofNat 7 o.slot) o.key
    (128 * blockNo o.loc) kAck 0 none with opnd := w }

/-- Perform an active message and answer its access. Under the reduction draft a load whose copy has been sealed anew since its checks takes
the data it found then, and a lane of a store comes before that write of the whole block (R161, R278). -/
def State.doActive (s : State) (m : ActiveMsg) : State :=
  match s.activeOp m, alGet s.outs m.id with
  | .ok (_, s), none => s
  | .ok (w, s), some o => if m.loc < 2 ^ 52 then (s.noteWrite o m.place).answerActive o w else s.finishOut m.id o w
  | .error _, none => s
  | .error c, some o =>
    if m.loc < 2 ^ 52 ∧ (m.kind = .load ∨ m.checked) then s.answerActive o (if m.kind = .load then o.data else 0)
    else s.failOut m.id o c 0

/-- An active message can be performed: its place has seen what its sender's die had, the sender's die what the place answers, and one
from another die is the oldest that its bridge has brought (R282, R285). -/
def State.activeReady (s : State) (m : ActiveMsg) : Bool :=
  m.stamp.leBut (s.die m.place).vc [] && (m.src == m.place || ((s.die m.place).vc.leBut (s.die m.src).vc [] &&
    frontMsg ((s.land m.src m.place).buffer m.src m.place) == some (.tag m.id)))

/-- `ACTIVE_MESSAGE_ARRIVAL` (R193, R290): the oldest active message of a core is checked and performed, and its issuer answered. -/
def execActiveMessageArrival (core : Nat) (s : State) : Host.Outcome State Fault Refusal :=
  match (s.core core).remote with
  | [] => .next s
  | m :: rest =>
    let u := s.updCore core (fun k => { k with remote := rest })
    .next (if s.activeReady m then (if m.src = m.place then u else u.takeFront m.src m.place).doActive m else s)

/-- A host access answered with a completion error (R202, R316): an atomic takes 0x17 with its REASON; the value of a load is open. -/
def State.hostFailed (s : State) (k : Nat) (o : OutReq) (reason : Word) : State :=
  match o.acckind with
  | .atomic _ => s.failOut k o 0x17 reason
  | _ => ({ s with freeCtr := s.freeCtr + 1 }).finishOut k o (o.value (Config.fresh s.freeCtr))

/-- Host memory answers (R196, R202, R291): a load and an atomic are performed now, on what host memory holds, so that data that is
not there is no answer. A completion error fails an atomic with 0x17; the value of a load is then open. What the host's side has seen
comes with the answer (R282). -/
def State.hostAnswer (s : State) (k : Nat) (o : OutReq) (ans : MemAnswer) : State :=
  let n := 8 * o.size
  let d := s.die (coreDie o.core)
  match ans with
  | .ok w =>
    let m := s.mem.num o.loc o.size
    if w.toNat % 2 ^ n ≠ m ∨ !s.mgmt.fclk.leBut d.vc [] then s
    else match o.acckind with
      | .atomic op =>
        let new := amoNew op o.size m (o.data.toNat % 2 ^ n) (o.compare.toNat % 2 ^ n)
        ((s.plainWrite o.loc (leBytes o.size new)).hostStamp d.vc).finishOut k o (o.value w)
      | _ => s.finishOut k o (o.value w)
  | .refused _ => s
  | .unsupportedRequest =>
    let n := if o.acckind = AccKind.load then s.mgmt.atomicUr else satInc s.mgmt.atomicUr
    ({ s with mgmt := { s.mgmt with atomicUr := n } }).hostFailed k o 1
  | .completerAbort => s.hostFailed k o 2

/-- The device that an access to a peer page goes to (R346). -/
def OutReq.device (o : OutReq) : BitVec 15 := BitVec.ofNat 15 (o.loc / 4096)

/-- What comes from the device of a peer access is let in: its peer is admitted (R385). -/
def State.peerAdmitted (s : State) (o : OutReq) : Bool := s.mgmt.admitted.contains o.device

/-- An answer of a peer device (R194, R196): data, an acknowledgement, or a refusal with its cause. -/
def State.peerAnswer (s : State) (k : Nat) (o : OutReq) (ans : MemAnswer) : State :=
  match ans with
  | .ok w => s.finishOut k o (o.value w)
  | .refused c => if o.acckind = .store then s else s.failOut k o c 0
  | _ => s

/-- Perform an access that has left its core for its home (R279, R283). A load gives what the home holds, or, where its copy has been
sealed anew since the load met its checks, what it held then; a store to a copy that has been sealed anew comes before that write of the
whole block (R278), and one to another die goes out over its bridge (R285). -/
def State.doHome (s : State) (k : Nat) (o : OutReq) : State :=
  match o.acckind with
  | .load =>
    let w := match s.homeOp o.key o.loc o.op with
      | some (w, _) => w
      | none => o.data
    (s.demote (blockNo o.loc) o.key).finishOut k o w
  | _ =>
    let d := coreDie o.core
    let e := paDie o.loc
    let miss := match s.checkGlobal o.core o.dom o.ea o.size true true with
      | (.ok (_, l), _) => s.missOf o.core l
      | _ => none
    let s := if d ≠ e then
        let u := s.sendWrite { tid := o.tid, acc := o.acc } d e o.key o.loc (leBytes o.size o.data.toNat) (some o.data) miss
        if s.draftAt o.loc = 4 then u.firstWrite o.core o.key o.loc else u
      else if s.writable o.key o.loc o.size then
        (s.homeStore o.key o.loc (leBytes o.size o.data.toNat)).afterWrite (s.draftAt o.loc) o.core o.key o.loc
      else s
    { s with outs := alErase s.outs k }

/-- Perform a read that has left its core at a home on another die, and send the reply (R285). -/
def State.doFarRead (s : State) (k : Nat) (o : OutReq) : State :=
  let w := match s.homeOp o.key o.loc o.op with
    | some (w, _) => w
    | none => o.data
  ({ s with outs := alSet s.outs k { o with answer := some (.ok w) } }).sendReply (coreDie o.core) (paDie o.loc) k o.key o.loc w

/-- Answer a peer device. -/
def State.peerReply (s : State) (device : BitVec 15) (tag : Nat) (c : Cause) (w : Word) : State :=
  { s with mgmt := { s.mgmt with out := s.mgmt.out ++ [.peerReply device tag c w] } }

/-- The number that stands for the core of an access to host memory made for a peer device, whose unit names the device and its tag. -/
def portUnitNo : Nat := 2 ^ 20 + 1

/-- An access to host memory is one of a peer device's. -/
def OutReq.forPeer (o : OutReq) : Bool :=
  match o.unit with
  | some (u, _, _, _) => u == portUnitNo
  | none => false

/-- Host memory answers an access of a peer device (log entry 27). -/
def State.hostForPeer (s : State) (k : Nat) (o : OutReq) (ans : MemAnswer) : State :=
  let t := s.hostAnswer k o ans
  match (if (alGet t.outs k).isSome then none else o.unit) with
  | none => t
  | some (_, device, tag, _) =>
    let reply (c : Cause) (w : Word) : State := t.peerReply (BitVec.ofNat 15 device) tag c w
    match ans, o.acckind with
    | .ok w, _ => reply 0 (o.value w)
    | _, .atomic _ => reply 0x17 0
    | _, _ => reply 0 (o.value (Config.fresh s.freeCtr))

/-- `MEMORY_RESPONSE` (R196, R202): the answer to an outstanding access, or the performing of one that has left its core. -/
def execMemoryResponse (req : Nat) (ans : MemAnswer) (s : State) : Host.Outcome State Fault Refusal :=
  match alGet s.outs req with
  | none => .next s
  | some o =>
    if o.kind = .peer ∧ !s.peerAdmitted o then .next (s.refuseTraffic (portOf o.device))
    else if o.forPeer then .next (s.hostForPeer req o ans)
    else if o.unit.isSome then
      .next (if o.kind = .peer ∧ o.answer = none then { s with outs := alSet s.outs req { o with answer := some ans } } else s)
    else match o.kind with
      | .host => .next (s.hostAnswer req o ans)
      | .peer => .next (s.peerAnswer req o ans)
      | .home => .next (s.doHome req o)
      | .dieRead => .next (if o.answer = none then s.doFarRead req o else s)
      | _ => .next s

/-- Insert a store fault in program order (R196). -/
def insertFault (f : StoreFault) : List StoreFault → List StoreFault
  | [] => [f]
  | x :: l => if f.req < x.req then f :: x :: l else x :: insertFault f l

/-- The poster of the fault of an ended thread (R196, Table 19.2). -/
def OutReq.poster (o : OutReq) : Poster :=
  let (kind, key) : BitVec 2 × BitVec 32 := o.gone.getD (0, 0)
  { die := coreDie o.core, col := placeCol o.core, row := placeRow o.core, tkind := kind, dom := o.dom, bobbin := o.tid - goneTid,
    seqkey := key }

/-- `PEER_STORE_REFUSAL` (R196): a refused peer store becomes a deferred store fault, or an entry of SRC 2 when its thread has
ended. -/
def execPeerStoreRefusal (req : Nat) (cause : BitVec 8) (s : State) : Host.Outcome State Fault Refusal :=
  match alGet s.outs req with
  | none => .next s
  | some o =>
    if o.kind ≠ .peer ∨ o.acckind ≠ .store ∨ o.unit.isSome then .next s
    else if !s.peerAdmitted o then .next (s.refuseTraffic (portOf o.device))
    else
      let s := { s with outs := alErase s.outs req }
      if o.gone.isSome then
        .next (s.post (coreDie o.core) (mkEntry o.poster 2 cause 0 o.ea (1#64 <<< 63) 0 s.tick))
      else
        .next (s.updThread o.tid (fun t =>
          { t with storeFaults := insertFault { cause := cause, addr := o.ea, req := req } t.storeFaults }))

/-- The checks of rows 4 to 8 of Table 7.2 on an access from a peer device (R194): its page must let peers in. A page of yet another
device is refused with 0x11, and the access names its context by a domain of this device (log entry 27). -/
def State.peerLeaf (s : State) (die : Nat) (p : PeerAccess) : Except Bad Leaf :=
  let va := p.va.extractLsb' 0 56
  let bad (c : Cause) : Except Bad Leaf := .error { cause := c, extra := 0 }
  match s.walk die (fun top => bit top 20) va with
  | .error x => .error (x.bad false)
  | .ok e =>
    let l := e.leaf va
    if !(if p.kind = .load then l.r else l.w) then bad 0x11
    else if l.loc = 2 then bad 0x11
    else if p.kind ≠ .load ∧ !s.ownerAdmits p.dom l.key l.decl l.owndom then bad 0x11
    else if !s.keyLive l.key then bad 0x14
    else if l.cc ∧ l.loc = 0 ∧ (s.block (blockNo l.pa)).colour.toNat ≠ field p.va 63 60 then bad 0x12
    else .ok l

/-- A core holds a line, a write-back or a partial of a block. -/
def State.cached (s : State) (b : Nat) : Bool :=
  s.cores.any (fun c => (alGet c.2.dcache b).isSome || (alGet c.2.wbuf b).isSome || (alGet c.2.partials b).isSome)

/-- Perform an access from a peer device at the home (rows 9 and 10 of Table 7.2): none while it must wait. -/
def State.peerHome (s : State) (l : Leaf) (o : MemOp) : Option (Except Cause (Word × State)) :=
  let dr := s.draftAt l.pa
  let b := blockNo l.pa
  let done (s : State) : Except Cause (Word × State) := match (if o.writes then s else s.demote b l.key).homeOp l.key l.pa o with
    | some r => .ok r
    | none => .error 0x15
  if s.shut l.pa then none
  else if !s.stdDraft dr then (if s.cached b || (s.block b).access == 3 then none else some (done s))
  else if s.onceRefused dr l.pa o.writes then some (.error 0x11)
  else if dr = 6 then
    let (op, fmt) := s.commOf l.pa
    if o.kind = .load then some (done (s.foldAll (s.homeHeddle l.pa) b))
    else if !o.contributes op fmt then some (.error 0x11)
    else if !s.readable b l.key then some (.error 0x15)
    else
      let n := commStep op fmt (s.mem.num l.pa (commWidth fmt)) (o.data.toNat % 2 ^ (8 * commWidth fmt))
      some (.ok (0, s.homeStore l.key l.pa (leBytes (commWidth fmt) n)))
  else match done s with
    | .ok (w, s) => some (.ok (w, if o.writes ∧ dr = 4 then s.updBlock b (fun x => { x with written := true }) else s))
    | .error c => some (.error c)

/-- An access from a peer device at a page of host memory (log entry 27): a store is posted, and what else there is goes to the host port
as a thread's access does, an atomic by the operations and the enable of R202. -/
def State.peerHost (s : State) (p : PeerAccess) (l : Leaf) (o : MemOp) : State :=
  let die := p.port.toNat / 6
  let ask : State :=
    let r : OutReq :=
      { peerPost die p.dom (hostLoc l.pa) p.va l.key [] with
        kind := .host, acckind := o.kind, size := o.size, data := o.data, compare := o.compare,
        unit := some (portUnitNo, p.device.toNat, p.tag, 0) }
    { s with outs := alSet s.outs s.nextId r, nextId := s.nextId + 1 }
  match o.kind with
  | .store => ((s.plainOp (hostLoc l.pa) o).2.hostStamp (s.die die).vc).peerReply p.device p.tag 0 0
  | .load => ask
  | .atomic op =>
    if (op ≠ .add ∧ op ≠ .swap ∧ op ≠ .cas) ∨ !s.mgmt.atomicReq then s.peerReply p.device p.tag 0x17 0 else ask

/-- `PEER_ACCESS_ARRIVAL` (R194, R385): an access from a peer device at a port heddle of its die. One that fails an integrity check is
reported as any read of the line is (R382). -/
def execPeerAccessArrival (acc : PeerAccess) (s : State) : Host.Outcome State Fault Refusal :=
  let p := acc.port.toNat
  let failed (s : State) (b : Bad) : State :=
    ((s.countWalk (p / 6) b).noteIntegrity (p / 6) b.cause acc.va none).peerReply acc.device acc.tag b.cause 0
  if 24 ≤ p then .next s
  else if !s.mgmt.admitted.contains acc.device then .next (s.refuseTraffic p)
  else match s.peerLeaf (p / 6) acc with
    | .error b => .next (failed s b)
    | .ok l =>
      let o : MemOp := { kind := acc.kind, signed := false, size := acc.size.toNat, data := acc.data, compare := acc.compare }
      if l.loc = 1 then .next (s.peerHost acc l o)
      else match s.peerHome l o with
        | none => .next s
        | some (.error c) => .next (failed s { cause := c, extra := 0 })
        | some (.ok (w, s)) => .next (s.peerReply acc.device acc.tag 0 w)

end Sys2Proof.Machine
end

