-- ==== Sys2Proof/WellFormed.lean ====
section
/-! DEFINITION. Which operands an instruction may carry (Tables 1.2, 2.3, 2.5; R52, R53, R55, R57), and which cores exist. -/

namespace Sys2Proof

/-- P = 0 with PN = 1 is illegal (R53). -/
def Gov.legal (g : Gov) : Bool := !(g.p == 0 && g.n)

/-- SCOPE 6 and 7 are illegal, and SCOPE 0 with ACQ or REL (R52). -/
def Ord.legal (o : Ord) : Bool := decide (o.scope.toNat ≤ 5) && !((o.acq || o.rel) && o.scope == 0)

/-- A fence takes SCOPE 1 to 5 (Table 2.5, major 0x15). -/
def fenceScope (s : BitVec 3) : Bool := s != 0 && decide (s.toNat ≤ 5)

/-- A predicate field holds 0 to 7 (R53). -/
def predField (x : BitVec 5) : Bool := decide (x.toNat < 8)

/-- A queue code is 24 to 27 (R55, R119). -/
def queueField (x : BitVec 5) : Bool := decide (24 ≤ x.toNat) && decide (x.toNat ≤ 27)

/-- The A field of `loop` names s1 to s23 (R122). -/
def loopField (x : BitVec 5) : Bool := x != 0 && decide (x.toNat ≤ 23)

/-- A descriptor pair is named by an even register from s0 to s22 (R199). -/
def pairField (x : BitVec 5) : Bool := !x.getLsbD 0 && decide (x.toNat < 24)

/-- Cores 0 to 4607 are the shuttles, 4608 to 4655 the selvedge cores (Table 0.1). -/
def coreIndex (c : Nat) : Bool := decide (c < 4656)

/-- What Table 2.3 lets a modifier word set for an instruction. -/
structure ModUse where
  clamp01 : Bool
  srcA : Bool
  srcB : Bool
  powRnd : Bool
  deriving DecidableEq, Repr

/-- Every nonzero field of `m` is used by the instruction, and RND is assigned (R57, Table 2.3). SAT and CLAMP 00
and 11 are used by every eligible instruction. -/
def Mod.fits (m : Mod) (u : ModUse) : Bool :=
  decide (m.rnd.toNat ≤ 4) && (u.clamp01 || m.clamp == 0 || m.clamp == 3)
    && (u.srcA || (!m.nega && !m.absa)) && (u.srcB || (!m.negb && !m.absb))
    && (u.powRnd || (m.pow == 0 && m.rnd == 0))

/-- The modifier use of an instruction (Table 2.3): none when no modifier word may precede it. -/
def Instr.modUse : Instr → Option ModUse
  | .fadd .. | .fsub .. | .fmul .. | .fdiv .. | .fsqrt .. | .fmin .. | .fmax .. | .ffma .. | .fabs .. | .fneg ..
  | .fcvtF32S64 .. | .fcvtS64F32 .. | .fcvtF32N64 .. | .fcvtN64F32 .. | .fcmppEq .. | .fcmppLt .. | .fcmppLe ..
  | .fcmppUn .. => some ⟨true, true, true, true⟩
  | .vaddS32 .. | .vsubS32 .. | .vmulS32 .. | .vmulhS32 .. | .vminS32 .. | .vmaxS32 .. | .vminN32 .. | .vmaxN32 ..
  | .vaddS32ScalarB .. | .vsubS32ScalarB .. | .vmulS32ScalarB .. | .vmulhS32ScalarB .. | .vminS32ScalarB ..
  | .vmaxS32ScalarB .. | .vminN32ScalarB .. | .vmaxN32ScalarB .. => some ⟨false, false, false, false⟩
  | .vaddF32 .. | .vsubF32 .. | .vmulF32 .. | .vdivF32 .. | .vminF32 .. | .vmaxF32 ..
  | .vaddF32ScalarB .. | .vsubF32ScalarB .. | .vmulF32ScalarB .. | .vdivF32ScalarB .. | .vminF32ScalarB ..
  | .vmaxF32ScalarB .. => some ⟨true, true, true, true⟩
  | .vsqrtF32 .. | .vabsF32 .. | .vnegF32 .. | .vrcpF32 .. | .vrsqrtF32 .. | .vexp2F32 .. | .vlog2F32 ..
  | .vtanhF32 .. | .vrintF32 .. => some ⟨true, false, true, true⟩
  | .vfmaF32 .. | .vfmsF32 .. | .vfnmaF32 .. | .vfnmsF32 .. | .vdotBf16 .. | .vdotS8 .. | .vfmaF32ScalarB ..
  | .vfmsF32ScalarB .. | .vfnmaF32ScalarB .. | .vfnmsF32ScalarB .. => some ⟨true, true, true, true⟩
  | .vcvtF32S32 .. | .vcvtS32F32 .. | .vcvtBf16F32 .. | .vcvtF32Bf16 .. | .vcvtF16F32 .. | .vcvtF32F16 ..
  | .vcvtE4m3F32 .. | .vcvtF32E4m3 .. | .vcvtE5m2F32 .. | .vcvtF32E5m2 .. | .vqntBx4 .. | .vdqntBx4 ..
  | .vqntBx8i .. | .vdqntBx8i .. => some ⟨true, true, false, true⟩
  | _ => none

/-- A modifier word `m` may precede the instruction (R57). -/
def Instr.eligible (i : Instr) (m : Mod) : Bool :=
  match i.modUse with
  | some u => m.fits u
  | none => false

/-- The operands are ones the spec lets the instruction carry; an instruction issued with others is illegal (0x01).
The rows that name a core name one that exists. -/
def Instr.wf : Instr → Bool
  | .add _ _ _ g => g.legal
  | .sub _ _ _ g => g.legal
  | .and _ _ _ g => g.legal
  | .or _ _ _ g => g.legal
  | .xor _ _ _ g => g.legal
  | .andn _ _ _ g => g.legal
  | .orn _ _ _ g => g.legal
  | .xnor _ _ _ g => g.legal
  | .shl _ _ _ g => g.legal
  | .shr _ _ _ g => g.legal
  | .sar _ _ _ g => g.legal
  | .rol _ _ _ g => g.legal
  | .ror _ _ _ g => g.legal
  | .minS64 _ _ _ g => g.legal
  | .maxS64 _ _ _ g => g.legal
  | .minN64 _ _ _ g => g.legal
  | .maxN64 _ _ _ g => g.legal
  | .sltS64 _ _ _ g => g.legal
  | .sltN64 _ _ _ g => g.legal
  | .seq _ _ _ g => g.legal
  | .sne _ _ _ g => g.legal
  | .clz _ _ g => g.legal
  | .ctz _ _ g => g.legal
  | .popc _ _ g => g.legal
  | .sextS8 _ _ g => g.legal
  | .sextS16 _ _ g => g.legal
  | .sextS32 _ _ g => g.legal
  | .zextN32 _ _ g => g.legal
  | .cmppEq d _ _ g => g.legal && predField d
  | .cmppNe d _ _ g => g.legal && predField d
  | .cmppLtS64 d _ _ g => g.legal && predField d
  | .cmppGeS64 d _ _ g => g.legal && predField d
  | .cmppLtN64 d _ _ g => g.legal && predField d
  | .cmppGeN64 d _ _ g => g.legal && predField d
  | .sel _ _ _ g => g.legal
  | .mul _ _ _ g => g.legal
  | .mulhS64 _ _ _ g => g.legal
  | .mulhN64 _ _ _ g => g.legal
  | .divS64 _ _ _ g => g.legal
  | .divN64 _ _ _ g => g.legal
  | .remS64 _ _ _ g => g.legal
  | .remN64 _ _ _ g => g.legal
  | .bqe a _ _ => queueField a
  | .bqf a _ _ => queueField a
  | .loop a _ _ => loopField a
  | .qclr b => queueField b
  | .qlen _ b => queueField b
  | .fadd _ _ _ g => g.legal
  | .fsub _ _ _ g => g.legal
  | .fmul _ _ _ g => g.legal
  | .fdiv _ _ _ g => g.legal
  | .fsqrt _ _ g => g.legal
  | .fmin _ _ _ g => g.legal
  | .fmax _ _ _ g => g.legal
  | .ffma _ _ _ g => g.legal
  | .fabs _ _ g => g.legal
  | .fneg _ _ g => g.legal
  | .fcvtF32S64 _ _ g => g.legal
  | .fcvtS64F32 _ _ g => g.legal
  | .fcvtF32N64 _ _ g => g.legal
  | .fcvtN64F32 _ _ g => g.legal
  | .fcmppEq d _ _ g => g.legal && predField d
  | .fcmppLt d _ _ g => g.legal && predField d
  | .fcmppLe d _ _ g => g.legal && predField d
  | .fcmppUn d _ _ g => g.legal && predField d
  | .modifierWord m i => i.eligible m && i.wf
  | .ldIndexed _ _ _ _ sx sz g => g.legal && !(sx && sz == 3)
  | .stIndexed _ _ _ _ _ g => g.legal
  | .ldb _ a _ sx sz g => g.legal && pairField a && !(sx && sz == 3)
  | .stb _ a _ _ g => g.legal && pairField a
  | .amoSwap _ _ _ _ ord => ord.legal
  | .amoAdd _ _ _ _ ord => ord.legal
  | .amoAnd _ _ _ _ ord => ord.legal
  | .amoOr _ _ _ _ ord => ord.legal
  | .amoXor _ _ _ _ ord => ord.legal
  | .amoMaxS _ _ _ _ ord => ord.legal
  | .amoMinS _ _ _ _ ord => ord.legal
  | .amoMaxN _ _ _ _ ord => ord.legal
  | .amoMinN _ _ _ _ ord => ord.legal
  | .amoCas _ _ _ _ ord => ord.legal
  | .amoFaddF32 _ _ _ ord => ord.legal
  | .fenceAcq scope => fenceScope scope
  | .fenceRel scope => fenceScope scope
  | .fenceAr scope => fenceScope scope
  | .send _ _ _ ord => ord.legal
  | .vaddS32 _ _ _ g => g.legal
  | .vsubS32 _ _ _ g => g.legal
  | .vmulS32 _ _ _ g => g.legal
  | .vmulhS32 _ _ _ g => g.legal
  | .vminS32 _ _ _ g => g.legal
  | .vmaxS32 _ _ _ g => g.legal
  | .vminN32 _ _ _ g => g.legal
  | .vmaxN32 _ _ _ g => g.legal
  | .vand _ _ _ g => g.legal
  | .vor _ _ _ g => g.legal
  | .vxor _ _ _ g => g.legal
  | .vshl _ _ _ g => g.legal
  | .vshr _ _ _ g => g.legal
  | .vsar _ _ _ g => g.legal
  | .vabsS32 _ _ g => g.legal
  | .vmov _ _ g => g.legal
  | .vsplat _ _ g => g.legal
  | .vid _ g => g.legal
  | .vaddS32ScalarB _ _ _ g => g.legal
  | .vsubS32ScalarB _ _ _ g => g.legal
  | .vmulS32ScalarB _ _ _ g => g.legal
  | .vmulhS32ScalarB _ _ _ g => g.legal
  | .vminS32ScalarB _ _ _ g => g.legal
  | .vmaxS32ScalarB _ _ _ g => g.legal
  | .vminN32ScalarB _ _ _ g => g.legal
  | .vmaxN32ScalarB _ _ _ g => g.legal
  | .vandScalarB _ _ _ g => g.legal
  | .vorScalarB _ _ _ g => g.legal
  | .vxorScalarB _ _ _ g => g.legal
  | .vshlScalarB _ _ _ g => g.legal
  | .vshrScalarB _ _ _ g => g.legal
  | .vsarScalarB _ _ _ g => g.legal
  | .vaddF32 _ _ _ g => g.legal
  | .vsubF32 _ _ _ g => g.legal
  | .vmulF32 _ _ _ g => g.legal
  | .vdivF32 _ _ _ g => g.legal
  | .vminF32 _ _ _ g => g.legal
  | .vmaxF32 _ _ _ g => g.legal
  | .vsqrtF32 _ _ g => g.legal
  | .vabsF32 _ _ g => g.legal
  | .vnegF32 _ _ g => g.legal
  | .vrcpF32 _ _ g => g.legal
  | .vrsqrtF32 _ _ g => g.legal
  | .vexp2F32 _ _ g => g.legal
  | .vlog2F32 _ _ g => g.legal
  | .vtanhF32 _ _ g => g.legal
  | .vrintF32 _ _ g => g.legal
  | .vaddF32ScalarB _ _ _ g => g.legal
  | .vsubF32ScalarB _ _ _ g => g.legal
  | .vmulF32ScalarB _ _ _ g => g.legal
  | .vdivF32ScalarB _ _ _ g => g.legal
  | .vminF32ScalarB _ _ _ g => g.legal
  | .vmaxF32ScalarB _ _ _ g => g.legal
  | .vfmaF32 _ _ _ g => g.legal
  | .vfmsF32 _ _ _ g => g.legal
  | .vfnmaF32 _ _ _ g => g.legal
  | .vfnmsF32 _ _ _ g => g.legal
  | .vdotBf16 _ _ _ g => g.legal
  | .vdotS8 _ _ _ g => g.legal
  | .vfmaF32ScalarB _ _ _ g => g.legal
  | .vfmsF32ScalarB _ _ _ g => g.legal
  | .vfnmaF32ScalarB _ _ _ g => g.legal
  | .vfnmsF32ScalarB _ _ _ g => g.legal
  | .vcvtF32S32 _ _ g => g.legal
  | .vcvtS32F32 _ _ g => g.legal
  | .vcvtBf16F32 _ _ g => g.legal
  | .vcvtF32Bf16 _ _ b g => g.legal && decide (b.toNat ≤ 1)
  | .vcvtF16F32 _ _ g => g.legal
  | .vcvtF32F16 _ _ b g => g.legal && decide (b.toNat ≤ 1)
  | .vcvtE4m3F32 _ _ g => g.legal
  | .vcvtF32E4m3 _ _ b g => g.legal && decide (b.toNat ≤ 3)
  | .vcvtE5m2F32 _ _ g => g.legal
  | .vcvtF32E5m2 _ _ b g => g.legal && decide (b.toNat ≤ 3)
  | .vqntBx4 _ _ g => g.legal
  | .vdqntBx4 _ _ g => g.legal
  | .vqntBx8i _ _ g => g.legal
  | .vdqntBx8i _ _ g => g.legal
  | .vredsumF32 _ _ g => g.legal
  | .vredmaxF32 _ _ g => g.legal
  | .vredminF32 _ _ g => g.legal
  | .vredsumS32 _ _ g => g.legal
  | .vredmaxS32 _ _ g => g.legal
  | .vredminS32 _ _ g => g.legal
  | .vredand _ _ g => g.legal
  | .vredor _ _ g => g.legal
  | .vperm _ _ _ g => g.legal
  | .vslup _ _ _ g => g.legal
  | .vsldn _ _ _ g => g.legal
  | .vbcast _ _ _ g => g.legal
  | .vcomp _ _ g => g.legal
  | .vexpd _ _ g => g.legal
  | .vzip _ _ _ g => g.legal
  | .vunzip _ _ _ g => g.legal
  | .vcmpEqS32 d _ _ g => g.legal && predField d
  | .vcmpNeS32 d _ _ g => g.legal && predField d
  | .vcmpLtS32 d _ _ g => g.legal && predField d
  | .vcmpLeS32 d _ _ g => g.legal && predField d
  | .vcmpLtN32 d _ _ g => g.legal && predField d
  | .vcmpLeN32 d _ _ g => g.legal && predField d
  | .vcmpEqF32 d _ _ g => g.legal && predField d
  | .vcmpLtF32 d _ _ g => g.legal && predField d
  | .vcmpLeF32 d _ _ g => g.legal && predField d
  | .vcmpUnF32 d _ _ g => g.legal && predField d
  | .pand d a b g => g.legal && predField d && predField a && predField b
  | .por d a b g => g.legal && predField d && predField a && predField b
  | .pxor d a b g => g.legal && predField d && predField a && predField b
  | .pnot d b g => g.legal && predField d && predField b
  | .pcnt _ b g => g.legal && predField b
  | .pfirst _ b g => g.legal && predField b
  | .vcmpEqS32ScalarB d _ _ g => g.legal && predField d
  | .vcmpNeS32ScalarB d _ _ g => g.legal && predField d
  | .vcmpLtS32ScalarB d _ _ g => g.legal && predField d
  | .vcmpLeS32ScalarB d _ _ g => g.legal && predField d
  | .vcmpLtN32ScalarB d _ _ g => g.legal && predField d
  | .vcmpLeN32ScalarB d _ _ g => g.legal && predField d
  | .vcmpEqF32ScalarB d _ _ g => g.legal && predField d
  | .vcmpLtF32ScalarB d _ _ g => g.legal && predField d
  | .vcmpLeF32ScalarB d _ _ g => g.legal && predField d
  | .vcmpUnF32ScalarB d _ _ g => g.legal && predField d
  | .vldB32 _ _ g => g.legal
  | .vstB32 _ _ g => g.legal
  | .vldsB32 _ _ _ g => g.legal
  | .vstsB32 _ _ _ g => g.legal
  | .vldS16 _ _ g => g.legal
  | .vldS8 _ _ g => g.legal
  | .vgatherB32 _ _ _ g => g.legal
  | .vscatterB32 _ _ _ g => g.legal
  | .lsld _ _ g => g.legal
  | .lsst _ _ g => g.legal
  | .lsldx _ _ g => g.legal
  | .lsstx _ _ g => g.legal
  | .vaddF32Compact d b p1 => !(d == 0 && b == 0 && !p1)
  | .mstream _ _ _ ord => ord.legal
  | .mstreamz _ _ _ ord => ord.legal
  | .mdrain _ _ _ ord => ord.legal
  | .copy _ _ ord => ord.legal
  | .copyl _ _ ord => ord.legal
  | .halo _ _ ord => ord.legal
  | .weft _ _ ord => ord.legal
  | .cseq _ e => e != 3
  | .chain _ b => decide (b.toNat ≤ 2)
  | .mfsp _ i => i.getLsbD 11
  | .mtsp _ i => i.getLsbD 11
  | .mfmtCommand core => coreIndex core
  | .mlatchCommand core => coreIndex core
  | .msparCommand core => coreIndex core
  | .mscaleCommand core => coreIndex core
  | .mzeroCommand core => coreIndex core
  | .mrowstCommand core => coreIndex core
  | .mstreamCommand core => coreIndex core
  | .mstreamzCommand core => coreIndex core
  | .mdrainCommand core => coreIndex core
  | .rowPickBirth core => coreIndex core
  | .followOnEntry core _ => coreIndex core
  | .engineUnitIssue core _ => coreIndex core
  | .engineUnitComplete core _ => coreIndex core
  | .engineOperationComplete core _ => coreIndex core
  | .weftBurstBirth core => coreIndex core
  | .stripArrival core _ => coreIndex core
  | .chainEntryStart core _ => coreIndex core
  | .chainNextPoll core _ => coreIndex core
  | .chainEntryComplete core _ => coreIndex core
  | .bobbinClaim core _ => coreIndex core
  | .migrationRecordStart core _ => coreIndex core
  | .meshInterrupt core => coreIndex core
  | .pickPreemptDeadline core => coreIndex core
  | .eventEntry core => coreIndex core
  | .channelPickBirth core _ => coreIndex core
  | .timeSliceExpiry core => coreIndex core
  | .activeMessageArrival core => coreIndex core
  | .fetchAhead core _ => coreIndex core
  | .preemptClaimWindow core => coreIndex core
  | .selvedgeEnrolment core _ _ => coreIndex core
  | _ => true

end Sys2Proof
end

