-- ==== Sys2Proof/Decode.lean ====
section
/-! DEFINITION. The decoder, total on any bytes, and the encoder (02_encoding Tables 2.1, 2.2, 2.5; R45 to R60).
The decoder accepts exactly the words that the sub-maps assign; operand codes are judged at issue (Instr.wf and the
thread's register view). -/

namespace Sys2Proof

/-- Register-register format (Table 2.1). -/
structure FmtRR where
  f : BitVec 6
  n : Bool
  p : BitVec 3
  b : BitVec 5
  a : BitVec 5
  d : BitVec 5
  deriving DecidableEq, Repr

/-- The fields of a word of the RR format. -/
def FmtRR.parse (w : BitVec 32) : FmtRR :=
  { f := w.extractLsb' 26 6
    n := w.getLsbD 25
    p := w.extractLsb' 22 3
    b := w.extractLsb' 17 5
    a := w.extractLsb' 12 5
    d := w.extractLsb' 7 5 }

/-- A word of major `m` in the RR format. -/
def FmtRR.pack (m : BitVec 6) (x : FmtRR) : BitVec 32 :=
  x.f ++ BitVec.ofBool x.n ++ x.p ++ x.b ++ x.a ++ x.d ++ m ++ 1#1

/-- Register-immediate format, and MI, which has the same places (Table 2.1). -/
structure FmtRI where
  i : BitVec 12
  f3 : BitVec 3
  a : BitVec 5
  d : BitVec 5
  deriving DecidableEq, Repr

/-- The fields of a word of the RI format. -/
def FmtRI.parse (w : BitVec 32) : FmtRI :=
  { i := w.extractLsb' 20 12
    f3 := w.extractLsb' 17 3
    a := w.extractLsb' 12 5
    d := w.extractLsb' 7 5 }

/-- A word of major `m` in the RI format. -/
def FmtRI.pack (m : BitVec 6) (x : FmtRI) : BitVec 32 :=
  x.i ++ x.f3 ++ x.a ++ x.d ++ m ++ 1#1

/-- High-immediate format (Table 2.1). -/
structure FmtRH where
  i : BitVec 20
  d : BitVec 5
  deriving DecidableEq, Repr

/-- The fields of a word of the RH format. -/
def FmtRH.parse (w : BitVec 32) : FmtRH :=
  { i := w.extractLsb' 12 20
    d := w.extractLsb' 7 5 }

/-- A word of major `m` in the RH format. -/
def FmtRH.pack (m : BitVec 6) (x : FmtRH) : BitVec 32 :=
  x.i ++ x.d ++ m ++ 1#1

/-- Compare-branch format (Table 2.1). -/
structure FmtBC where
  o : BitVec 10
  cc : BitVec 3
  h : BitVec 2
  b : BitVec 5
  a : BitVec 5
  deriving DecidableEq, Repr

/-- The fields of a word of the BC format. -/
def FmtBC.parse (w : BitVec 32) : FmtBC :=
  { o := w.extractLsb' 22 10
    cc := w.extractLsb' 19 3
    h := w.extractLsb' 17 2
    b := w.extractLsb' 12 5
    a := w.extractLsb' 7 5 }

/-- A word of major `m` in the BC format. -/
def FmtBC.pack (m : BitVec 6) (x : FmtBC) : BitVec 32 :=
  x.o ++ x.cc ++ x.h ++ x.b ++ x.a ++ m ++ 1#1

/-- Zero-branch format (Table 2.1). -/
structure FmtBZ where
  o : BitVec 15
  cc : BitVec 3
  h : BitVec 2
  a : BitVec 5
  deriving DecidableEq, Repr

/-- The fields of a word of the BZ format. -/
def FmtBZ.parse (w : BitVec 32) : FmtBZ :=
  { o := w.extractLsb' 17 15
    cc := w.extractLsb' 14 3
    h := w.extractLsb' 12 2
    a := w.extractLsb' 7 5 }

/-- A word of major `m` in the BZ format. -/
def FmtBZ.pack (m : BitVec 6) (x : FmtBZ) : BitVec 32 :=
  x.o ++ x.cc ++ x.h ++ x.a ++ m ++ 1#1

/-- Jump format (Table 2.1). -/
structure FmtJ where
  o : BitVec 25
  deriving DecidableEq, Repr

/-- The fields of a word of the J format. -/
def FmtJ.parse (w : BitVec 32) : FmtJ :=
  { o := w.extractLsb' 7 25 }

/-- A word of major `m` in the J format. -/
def FmtJ.pack (m : BitVec 6) (x : FmtJ) : BitVec 32 :=
  x.o ++ m ++ 1#1

/-- Ordered engine and memory format (Table 2.1). -/
structure FmtX where
  f5 : BitVec 5
  rel : Bool
  acq : Bool
  scope : BitVec 3
  b : BitVec 5
  a : BitVec 5
  t : BitVec 5
  deriving DecidableEq, Repr

/-- The fields of a word of the X format. -/
def FmtX.parse (w : BitVec 32) : FmtX :=
  { f5 := w.extractLsb' 27 5
    rel := w.getLsbD 26
    acq := w.getLsbD 25
    scope := w.extractLsb' 22 3
    b := w.extractLsb' 17 5
    a := w.extractLsb' 12 5
    t := w.extractLsb' 7 5 }

/-- A word of major `m` in the X format. -/
def FmtX.pack (m : BitVec 6) (x : FmtX) : BitVec 32 :=
  x.f5 ++ BitVec.ofBool x.rel ++ BitVec.ofBool x.acq ++ x.scope ++ x.b ++ x.a ++ x.t ++ m ++ 1#1

/-- `i`, when `c` holds: a field that must be zero and is not is illegal (R54). -/
def needZero (c : Bool) (i : Instr) : Except IllegalWhy Instr :=
  if c then .ok i else .error .nonzeroUnused

/-- Major 0x01 (Table 2.5). -/
def major01 (r : FmtRR) : Except IllegalWhy Instr :=
  match r.f.toNat with
  | 0 => .ok (.add r.d r.a r.b ⟨r.p, r.n⟩)
  | 1 => .ok (.sub r.d r.a r.b ⟨r.p, r.n⟩)
  | 2 => .ok (.and r.d r.a r.b ⟨r.p, r.n⟩)
  | 3 => .ok (.or r.d r.a r.b ⟨r.p, r.n⟩)
  | 4 => .ok (.xor r.d r.a r.b ⟨r.p, r.n⟩)
  | 5 => .ok (.andn r.d r.a r.b ⟨r.p, r.n⟩)
  | 6 => .ok (.orn r.d r.a r.b ⟨r.p, r.n⟩)
  | 7 => .ok (.xnor r.d r.a r.b ⟨r.p, r.n⟩)
  | 8 => .ok (.shl r.d r.a r.b ⟨r.p, r.n⟩)
  | 9 => .ok (.shr r.d r.a r.b ⟨r.p, r.n⟩)
  | 10 => .ok (.sar r.d r.a r.b ⟨r.p, r.n⟩)
  | 11 => .ok (.rol r.d r.a r.b ⟨r.p, r.n⟩)
  | 12 => .ok (.ror r.d r.a r.b ⟨r.p, r.n⟩)
  | 13 => .ok (.minS64 r.d r.a r.b ⟨r.p, r.n⟩)
  | 14 => .ok (.maxS64 r.d r.a r.b ⟨r.p, r.n⟩)
  | 15 => .ok (.minN64 r.d r.a r.b ⟨r.p, r.n⟩)
  | 16 => .ok (.maxN64 r.d r.a r.b ⟨r.p, r.n⟩)
  | 17 => .ok (.sltS64 r.d r.a r.b ⟨r.p, r.n⟩)
  | 18 => .ok (.sltN64 r.d r.a r.b ⟨r.p, r.n⟩)
  | 19 => .ok (.seq r.d r.a r.b ⟨r.p, r.n⟩)
  | 20 => .ok (.sne r.d r.a r.b ⟨r.p, r.n⟩)
  | 21 => needZero (r.a == 0) (.clz r.d r.b ⟨r.p, r.n⟩)
  | 22 => needZero (r.a == 0) (.ctz r.d r.b ⟨r.p, r.n⟩)
  | 23 => needZero (r.a == 0) (.popc r.d r.b ⟨r.p, r.n⟩)
  | 24 => needZero (r.a == 0) (.sextS8 r.d r.b ⟨r.p, r.n⟩)
  | 25 => needZero (r.a == 0) (.sextS16 r.d r.b ⟨r.p, r.n⟩)
  | 26 => needZero (r.a == 0) (.sextS32 r.d r.b ⟨r.p, r.n⟩)
  | 27 => needZero (r.a == 0) (.zextN32 r.d r.b ⟨r.p, r.n⟩)
  | 28 => .ok (.cmppEq r.d r.a r.b ⟨r.p, r.n⟩)
  | 29 => .ok (.cmppNe r.d r.a r.b ⟨r.p, r.n⟩)
  | 30 => .ok (.cmppLtS64 r.d r.a r.b ⟨r.p, r.n⟩)
  | 31 => .ok (.cmppGeS64 r.d r.a r.b ⟨r.p, r.n⟩)
  | 32 => .ok (.cmppLtN64 r.d r.a r.b ⟨r.p, r.n⟩)
  | 33 => .ok (.cmppGeN64 r.d r.a r.b ⟨r.p, r.n⟩)
  | 34 => .ok (.sel r.d r.a r.b ⟨r.p, r.n⟩)
  | _ => .error .unassignedCode

/-- Major 0x02 (Table 2.5). -/
def major02 (r : FmtRI) : Except IllegalWhy Instr :=
  match r.f3.toNat with
  | 0 => .ok (.addi r.d r.a r.i)
  | 1 => .ok (.andi r.d r.a r.i)
  | 2 => .ok (.ori r.d r.a r.i)
  | 3 => .ok (.xori r.d r.a r.i)
  | 4 => needZero (r.i.extractLsb' 6 6 == 0) (.shli r.d r.a (r.i.extractLsb' 0 6))
  | 5 => needZero (r.i.extractLsb' 6 6 == 0) (.shri r.d r.a (r.i.extractLsb' 0 6))
  | 6 => needZero (r.i.extractLsb' 6 6 == 0) (.sari r.d r.a (r.i.extractLsb' 0 6))
  | 7 => .ok (.slti r.d r.a r.i)
  | _ => .error .unassignedCode

/-- Major 0x03 (Table 2.5). -/
def major03 (r : FmtRH) : Except IllegalWhy Instr :=
  .ok (.lih r.d r.i)

/-- Major 0x04 (Table 2.5). -/
def major04 (r : FmtRR) : Except IllegalWhy Instr :=
  match r.f.toNat with
  | 0 => .ok (.mul r.d r.a r.b ⟨r.p, r.n⟩)
  | 1 => .ok (.mulhS64 r.d r.a r.b ⟨r.p, r.n⟩)
  | 2 => .ok (.mulhN64 r.d r.a r.b ⟨r.p, r.n⟩)
  | 3 => .ok (.divS64 r.d r.a r.b ⟨r.p, r.n⟩)
  | 4 => .ok (.divN64 r.d r.a r.b ⟨r.p, r.n⟩)
  | 5 => .ok (.remS64 r.d r.a r.b ⟨r.p, r.n⟩)
  | 6 => .ok (.remN64 r.d r.a r.b ⟨r.p, r.n⟩)
  | _ => .error .unassignedCode

/-- Major 0x05 (Table 2.5). -/
def major05 (r : FmtRR) : Except IllegalWhy Instr :=
  match r.f.toNat with
  | 0 => needZero (!r.n && r.p == 0) (.lea r.d r.a r.b (r.f.extractLsb' 0 3))
  | 1 => needZero (!r.n && r.p == 0) (.lea r.d r.a r.b (r.f.extractLsb' 0 3))
  | 2 => needZero (!r.n && r.p == 0) (.lea r.d r.a r.b (r.f.extractLsb' 0 3))
  | 3 => needZero (!r.n && r.p == 0) (.lea r.d r.a r.b (r.f.extractLsb' 0 3))
  | 4 => needZero (!r.n && r.p == 0) (.lea r.d r.a r.b (r.f.extractLsb' 0 3))
  | 5 => needZero (!r.n && r.p == 0) (.lea r.d r.a r.b (r.f.extractLsb' 0 3))
  | 6 => needZero (!r.n && r.p == 0) (.lea r.d r.a r.b (r.f.extractLsb' 0 3))
  | 7 => needZero (!r.n && r.p == 0) (.lea r.d r.a r.b (r.f.extractLsb' 0 3))
  | 8 => needZero (!r.n && r.p == 0) (.ptag r.d r.a r.b)
  | 9 => needZero (!r.n && r.p == 0 && r.b == 0) (.pchk r.d r.a)
  | 10 => needZero (!r.n && r.p == 0) (.bdesc r.d r.a r.b)
  | _ => .error .unassignedCode

/-- Major 0x06 (Table 2.5). -/
def major06 (r : FmtBC) : Except IllegalWhy Instr :=
  match r.cc.toNat with
  | 0 => .ok (.beq r.a r.b r.o r.h)
  | 1 => .ok (.bne r.a r.b r.o r.h)
  | 2 => .ok (.blt r.a r.b r.o r.h)
  | 3 => .ok (.bge r.a r.b r.o r.h)
  | 4 => .ok (.bltn r.a r.b r.o r.h)
  | 5 => .ok (.bgen r.a r.b r.o r.h)
  | _ => .error .unassignedCode

/-- Major 0x07 (Table 2.5). -/
def major07 (r : FmtBZ) : Except IllegalWhy Instr :=
  match r.cc.toNat with
  | 0 => .ok (.beqz r.a r.o r.h)
  | 1 => .ok (.bnez r.a r.o r.h)
  | 2 => .ok (.bltz r.a r.o r.h)
  | 3 => .ok (.bgez r.a r.o r.h)
  | 4 => .ok (.bgtz r.a r.o r.h)
  | 5 => .ok (.blez r.a r.o r.h)
  | 6 => .ok (.bqe r.a r.o r.h)
  | 7 => .ok (.bqf r.a r.o r.h)
  | _ => .error .unassignedCode

/-- Major 0x08 (Table 2.5). -/
def major08 (r : FmtJ) : Except IllegalWhy Instr :=
  .ok (.j r.o)

/-- Major 0x09 (Table 2.5). -/
def major09 (r : FmtJ) : Except IllegalWhy Instr :=
  .ok (.jal r.o)

/-- Major 0x0A (Table 2.5). -/
def major0A (r : FmtRI) : Except IllegalWhy Instr :=
  match r.f3.toNat with
  | 0 => needZero (r.d == 0) (.jr r.a r.i)
  | 1 => .ok (.jalr r.d r.a r.i)
  | 2 => needZero (r.a == 0 && r.d == 0) (.ret r.i)
  | _ => .error .unassignedCode

/-- Major 0x0B (Table 2.5). -/
def major0B (r : FmtBZ) : Except IllegalWhy Instr :=
  match r.cc.toNat with
  | 0 => .ok (.loop r.a r.o r.h)
  | _ => .error .unassignedCode

/-- Major 0x0C (Table 2.5). -/
def major0C (r : FmtRR) : Except IllegalWhy Instr :=
  match r.f.toNat with
  | 0 => needZero (!r.n && r.p == 0 && r.d == 0) (.astart r.a r.b)
  | 1 => needZero (!r.n && r.p == 0 && r.b == 0 && r.a == 0 && r.d == 0) (.astop)
  | 2 => needZero (!r.n && r.p == 0 && r.b == 0 && r.d == 0) (.pushb r.a)
  | 3 => needZero (!r.n && r.p == 0 && r.a == 0 && r.d == 0) (.qclr r.b)
  | 4 => needZero (!r.n && r.p == 0 && r.a == 0) (.qlen r.d r.b)
  | _ => .error .unassignedCode

/-- Major 0x0D (Table 2.5). -/
def major0D (r : FmtBZ) : Except IllegalWhy Instr :=
  match r.cc.toNat with
  | 0 => needZero (r.a == 0) (.brq r.o r.h)
  | 1 => needZero (r.a == 0) (.brqn r.o r.h)
  | _ => .error .unassignedCode

/-- Major 0x0E (Table 2.5). -/
def major0E (r : FmtRI) : Except IllegalWhy Instr :=
  match r.f3.toNat with
  | 0 => needZero (r.a == 0) (.mfs r.d r.i)
  | 1 => needZero (r.d == 0) (.mts r.a r.i)
  | _ => .error .unassignedCode

/-- Major 0x0F (Table 2.5). -/
def major0F (r : FmtRR) : Except IllegalWhy Instr :=
  match r.f.toNat with
  | 0 => .ok (.fadd r.d r.a r.b ⟨r.p, r.n⟩)
  | 1 => .ok (.fsub r.d r.a r.b ⟨r.p, r.n⟩)
  | 2 => .ok (.fmul r.d r.a r.b ⟨r.p, r.n⟩)
  | 3 => .ok (.fdiv r.d r.a r.b ⟨r.p, r.n⟩)
  | 4 => needZero (r.a == 0) (.fsqrt r.d r.b ⟨r.p, r.n⟩)
  | 5 => .ok (.fmin r.d r.a r.b ⟨r.p, r.n⟩)
  | 6 => .ok (.fmax r.d r.a r.b ⟨r.p, r.n⟩)
  | 7 => .ok (.ffma r.d r.a r.b ⟨r.p, r.n⟩)
  | 8 => needZero (r.a == 0) (.fabs r.d r.b ⟨r.p, r.n⟩)
  | 9 => needZero (r.a == 0) (.fneg r.d r.b ⟨r.p, r.n⟩)
  | 10 => needZero (r.a == 0) (.fcvtF32S64 r.d r.b ⟨r.p, r.n⟩)
  | 11 => needZero (r.a == 0) (.fcvtS64F32 r.d r.b ⟨r.p, r.n⟩)
  | 12 => needZero (r.a == 0) (.fcvtF32N64 r.d r.b ⟨r.p, r.n⟩)
  | 13 => needZero (r.a == 0) (.fcvtN64F32 r.d r.b ⟨r.p, r.n⟩)
  | 14 => .ok (.fcmppEq r.d r.a r.b ⟨r.p, r.n⟩)
  | 15 => .ok (.fcmppLt r.d r.a r.b ⟨r.p, r.n⟩)
  | 16 => .ok (.fcmppLe r.d r.a r.b ⟨r.p, r.n⟩)
  | 17 => .ok (.fcmppUn r.d r.a r.b ⟨r.p, r.n⟩)
  | _ => .error .unassignedCode

/-- Major 0x10 (Table 2.5). -/
def major10 (r : FmtRI) : Except IllegalWhy Instr :=
  match r.f3.toNat with
  | 0 => .ok (.ldS8 r.d r.a r.i)
  | 1 => .ok (.ldN8 r.d r.a r.i)
  | 2 => .ok (.ldS16 r.d r.a r.i)
  | 3 => .ok (.ldN16 r.d r.a r.i)
  | 4 => .ok (.ldS32 r.d r.a r.i)
  | 5 => .ok (.ldN32 r.d r.a r.i)
  | 6 => .ok (.ldB64 r.d r.a r.i)
  | _ => .error .unassignedCode

/-- Major 0x11 (Table 2.5). -/
def major11 (r : FmtRI) : Except IllegalWhy Instr :=
  match r.f3.toNat with
  | 0 => .ok (.stB8 r.d r.a r.i)
  | 1 => .ok (.stB16 r.d r.a r.i)
  | 2 => .ok (.stB32 r.d r.a r.i)
  | 3 => .ok (.stB64 r.d r.a r.i)
  | _ => .error .unassignedCode

/-- Major 0x12 (Table 2.5). -/
def major12 (r : FmtRR) : Except IllegalWhy Instr :=
  if r.f.getLsbD 3 then
    if r.f.getLsbD 2 then .error .unassignedCode else .ok (.stIndexed r.d r.a r.b (r.f.extractLsb' 4 2) (r.f.extractLsb' 0 2) ⟨r.p, r.n⟩)
  else if r.f.getLsbD 2 && r.f.extractLsb' 0 2 == 3 then .error .unassignedCode
  else .ok (.ldIndexed r.d r.a r.b (r.f.extractLsb' 4 2) (r.f.getLsbD 2) (r.f.extractLsb' 0 2) ⟨r.p, r.n⟩)

/-- Major 0x13 (Table 2.5). -/
def major13 (r : FmtRR) : Except IllegalWhy Instr :=
  if r.f.extractLsb' 4 2 != 0 then .error .unassignedCode
  else if r.f.getLsbD 3 then
    if r.f.getLsbD 2 then .error .unassignedCode else .ok (.stb r.d r.a r.b (r.f.extractLsb' 0 2) ⟨r.p, r.n⟩)
  else if r.f.getLsbD 2 && r.f.extractLsb' 0 2 == 3 then .error .unassignedCode
  else .ok (.ldb r.d r.a r.b (r.f.getLsbD 2) (r.f.extractLsb' 0 2) ⟨r.p, r.n⟩)

/-- Major 0x14 (Table 2.5). -/
def major14 (r : FmtX) : Except IllegalWhy Instr :=
  match (r.f5.extractLsb' 0 4).toNat with
  | 0 => .ok (.amoSwap r.t r.a r.b (r.f5.getLsbD 4) ⟨r.acq, r.rel, r.scope⟩)
  | 1 => .ok (.amoAdd r.t r.a r.b (r.f5.getLsbD 4) ⟨r.acq, r.rel, r.scope⟩)
  | 2 => .ok (.amoAnd r.t r.a r.b (r.f5.getLsbD 4) ⟨r.acq, r.rel, r.scope⟩)
  | 3 => .ok (.amoOr r.t r.a r.b (r.f5.getLsbD 4) ⟨r.acq, r.rel, r.scope⟩)
  | 4 => .ok (.amoXor r.t r.a r.b (r.f5.getLsbD 4) ⟨r.acq, r.rel, r.scope⟩)
  | 5 => .ok (.amoMaxS r.t r.a r.b (r.f5.getLsbD 4) ⟨r.acq, r.rel, r.scope⟩)
  | 6 => .ok (.amoMinS r.t r.a r.b (r.f5.getLsbD 4) ⟨r.acq, r.rel, r.scope⟩)
  | 7 => .ok (.amoMaxN r.t r.a r.b (r.f5.getLsbD 4) ⟨r.acq, r.rel, r.scope⟩)
  | 8 => .ok (.amoMinN r.t r.a r.b (r.f5.getLsbD 4) ⟨r.acq, r.rel, r.scope⟩)
  | 9 => .ok (.amoCas r.t r.a r.b (r.f5.getLsbD 4) ⟨r.acq, r.rel, r.scope⟩)
  | 10 => if r.f5.getLsbD 4 then .ok (.amoFaddF32 r.t r.a r.b ⟨r.acq, r.rel, r.scope⟩) else .error .unassignedCode
  | _ => .error .unassignedCode

/-- Major 0x15 (Table 2.5). -/
def major15 (r : FmtX) : Except IllegalWhy Instr :=
  if r.f5 != 0 then .error .unassignedCode else
  match r.acq, r.rel with
  | true, false => needZero (r.b == 0 && r.a == 0 && r.t == 0) (.fenceAcq r.scope)
  | false, true => needZero (r.b == 0 && r.a == 0 && r.t == 0) (.fenceRel r.scope)
  | true, true => needZero (r.b == 0 && r.a == 0 && r.t == 0) (.fenceAr r.scope)
  | false, false => .error .unassignedCode

/-- Major 0x16 (Table 2.5). -/
def major16 (r : FmtRI) : Except IllegalWhy Instr :=
  match r.f3.toNat with
  | 0 => needZero (r.d == 0) (.pref r.a r.i)
  | 1 => needZero (r.d == 0) (.prefw r.a r.i)
  | 2 => needZero (r.d == 0) (.ipref r.a r.i)
  | 3 => needZero (r.d == 0) (.prefSc r.a r.i)
  | _ => .error .unassignedCode

/-- Major 0x17 (Table 2.5). -/
def major17 (r : FmtRI) : Except IllegalWhy Instr :=
  match r.f3.toNat with
  | 0 => needZero (r.i.extractLsb' 11 1 == 0 && r.d == 0) (.barInit r.a (r.i.extractLsb' 0 11))
  | 1 => needZero (r.i.extractLsb' 11 1 == 0 && r.a == 0 && r.d == 0) (.barArv (r.i.extractLsb' 0 11))
  | 2 => needZero (r.i.extractLsb' 11 1 == 0 && r.a == 0 && r.d == 0) (.barWait (r.i.extractLsb' 0 11))
  | 3 => needZero (r.i.extractLsb' 11 1 == 0 && r.a == 0 && r.d == 0) (.barSync (r.i.extractLsb' 0 11))
  | 4 => needZero (r.i.extractLsb' 11 1 == 0 && r.a == 0) (.barTest r.d (r.i.extractLsb' 0 11))
  | _ => .error .unassignedCode

/-- Major 0x18 (Table 2.5). -/
def major18 (r : FmtX) : Except IllegalWhy Instr :=
  match r.f5.toNat with
  | 0 => .ok (.send r.t r.a r.b ⟨r.acq, r.rel, r.scope⟩)
  | 1 => needZero (!r.rel && !r.acq && r.scope == 0) (.recv r.t r.a r.b)
  | 2 => needZero (!r.rel && !r.acq && r.scope == 0 && r.t == 0) (.rbind r.a r.b)
  | _ => .error .unassignedCode

/-- Major 0x19 (Table 2.5). -/
def major19 (r : FmtRR) : Except IllegalWhy Instr :=
  match r.f.toNat with
  | 0 => .ok (.vaddS32 r.d r.a r.b ⟨r.p, r.n⟩)
  | 1 => .ok (.vsubS32 r.d r.a r.b ⟨r.p, r.n⟩)
  | 2 => .ok (.vmulS32 r.d r.a r.b ⟨r.p, r.n⟩)
  | 3 => .ok (.vmulhS32 r.d r.a r.b ⟨r.p, r.n⟩)
  | 4 => .ok (.vminS32 r.d r.a r.b ⟨r.p, r.n⟩)
  | 5 => .ok (.vmaxS32 r.d r.a r.b ⟨r.p, r.n⟩)
  | 6 => .ok (.vminN32 r.d r.a r.b ⟨r.p, r.n⟩)
  | 7 => .ok (.vmaxN32 r.d r.a r.b ⟨r.p, r.n⟩)
  | 8 => .ok (.vand r.d r.a r.b ⟨r.p, r.n⟩)
  | 9 => .ok (.vor r.d r.a r.b ⟨r.p, r.n⟩)
  | 10 => .ok (.vxor r.d r.a r.b ⟨r.p, r.n⟩)
  | 11 => .ok (.vshl r.d r.a r.b ⟨r.p, r.n⟩)
  | 12 => .ok (.vshr r.d r.a r.b ⟨r.p, r.n⟩)
  | 13 => .ok (.vsar r.d r.a r.b ⟨r.p, r.n⟩)
  | 14 => needZero (r.a == 0) (.vabsS32 r.d r.b ⟨r.p, r.n⟩)
  | 15 => needZero (r.a == 0) (.vmov r.d r.b ⟨r.p, r.n⟩)
  | 16 => needZero (r.a == 0) (.vsplat r.d r.b ⟨r.p, r.n⟩)
  | 17 => needZero (r.b == 0 && r.a == 0) (.vid r.d ⟨r.p, r.n⟩)
  | 32 => .ok (.vaddS32ScalarB r.d r.a r.b ⟨r.p, r.n⟩)
  | 33 => .ok (.vsubS32ScalarB r.d r.a r.b ⟨r.p, r.n⟩)
  | 34 => .ok (.vmulS32ScalarB r.d r.a r.b ⟨r.p, r.n⟩)
  | 35 => .ok (.vmulhS32ScalarB r.d r.a r.b ⟨r.p, r.n⟩)
  | 36 => .ok (.vminS32ScalarB r.d r.a r.b ⟨r.p, r.n⟩)
  | 37 => .ok (.vmaxS32ScalarB r.d r.a r.b ⟨r.p, r.n⟩)
  | 38 => .ok (.vminN32ScalarB r.d r.a r.b ⟨r.p, r.n⟩)
  | 39 => .ok (.vmaxN32ScalarB r.d r.a r.b ⟨r.p, r.n⟩)
  | 40 => .ok (.vandScalarB r.d r.a r.b ⟨r.p, r.n⟩)
  | 41 => .ok (.vorScalarB r.d r.a r.b ⟨r.p, r.n⟩)
  | 42 => .ok (.vxorScalarB r.d r.a r.b ⟨r.p, r.n⟩)
  | 43 => .ok (.vshlScalarB r.d r.a r.b ⟨r.p, r.n⟩)
  | 44 => .ok (.vshrScalarB r.d r.a r.b ⟨r.p, r.n⟩)
  | 45 => .ok (.vsarScalarB r.d r.a r.b ⟨r.p, r.n⟩)
  | _ => .error .unassignedCode

/-- Major 0x1A (Table 2.5). -/
def major1A (r : FmtRR) : Except IllegalWhy Instr :=
  match r.f.toNat with
  | 0 => .ok (.vaddF32 r.d r.a r.b ⟨r.p, r.n⟩)
  | 1 => .ok (.vsubF32 r.d r.a r.b ⟨r.p, r.n⟩)
  | 2 => .ok (.vmulF32 r.d r.a r.b ⟨r.p, r.n⟩)
  | 3 => .ok (.vdivF32 r.d r.a r.b ⟨r.p, r.n⟩)
  | 4 => .ok (.vminF32 r.d r.a r.b ⟨r.p, r.n⟩)
  | 5 => .ok (.vmaxF32 r.d r.a r.b ⟨r.p, r.n⟩)
  | 6 => needZero (r.a == 0) (.vsqrtF32 r.d r.b ⟨r.p, r.n⟩)
  | 7 => needZero (r.a == 0) (.vabsF32 r.d r.b ⟨r.p, r.n⟩)
  | 8 => needZero (r.a == 0) (.vnegF32 r.d r.b ⟨r.p, r.n⟩)
  | 9 => needZero (r.a == 0) (.vrcpF32 r.d r.b ⟨r.p, r.n⟩)
  | 10 => needZero (r.a == 0) (.vrsqrtF32 r.d r.b ⟨r.p, r.n⟩)
  | 11 => needZero (r.a == 0) (.vexp2F32 r.d r.b ⟨r.p, r.n⟩)
  | 12 => needZero (r.a == 0) (.vlog2F32 r.d r.b ⟨r.p, r.n⟩)
  | 13 => needZero (r.a == 0) (.vtanhF32 r.d r.b ⟨r.p, r.n⟩)
  | 14 => needZero (r.a == 0) (.vrintF32 r.d r.b ⟨r.p, r.n⟩)
  | 32 => .ok (.vaddF32ScalarB r.d r.a r.b ⟨r.p, r.n⟩)
  | 33 => .ok (.vsubF32ScalarB r.d r.a r.b ⟨r.p, r.n⟩)
  | 34 => .ok (.vmulF32ScalarB r.d r.a r.b ⟨r.p, r.n⟩)
  | 35 => .ok (.vdivF32ScalarB r.d r.a r.b ⟨r.p, r.n⟩)
  | 36 => .ok (.vminF32ScalarB r.d r.a r.b ⟨r.p, r.n⟩)
  | 37 => .ok (.vmaxF32ScalarB r.d r.a r.b ⟨r.p, r.n⟩)
  | _ => .error .unassignedCode

/-- Major 0x1B (Table 2.5). -/
def major1B (r : FmtRR) : Except IllegalWhy Instr :=
  match r.f.toNat with
  | 0 => .ok (.vfmaF32 r.d r.a r.b ⟨r.p, r.n⟩)
  | 1 => .ok (.vfmsF32 r.d r.a r.b ⟨r.p, r.n⟩)
  | 2 => .ok (.vfnmaF32 r.d r.a r.b ⟨r.p, r.n⟩)
  | 3 => .ok (.vfnmsF32 r.d r.a r.b ⟨r.p, r.n⟩)
  | 4 => .ok (.vdotBf16 r.d r.a r.b ⟨r.p, r.n⟩)
  | 5 => .ok (.vdotS8 r.d r.a r.b ⟨r.p, r.n⟩)
  | 32 => .ok (.vfmaF32ScalarB r.d r.a r.b ⟨r.p, r.n⟩)
  | 33 => .ok (.vfmsF32ScalarB r.d r.a r.b ⟨r.p, r.n⟩)
  | 34 => .ok (.vfnmaF32ScalarB r.d r.a r.b ⟨r.p, r.n⟩)
  | 35 => .ok (.vfnmsF32ScalarB r.d r.a r.b ⟨r.p, r.n⟩)
  | _ => .error .unassignedCode

/-- Major 0x1C (Table 2.5). -/
def major1C (r : FmtRR) : Except IllegalWhy Instr :=
  match r.f.toNat with
  | 0 => needZero (r.b == 0) (.vcvtF32S32 r.d r.a ⟨r.p, r.n⟩)
  | 1 => needZero (r.b == 0) (.vcvtS32F32 r.d r.a ⟨r.p, r.n⟩)
  | 2 => needZero (r.b == 0) (.vcvtBf16F32 r.d r.a ⟨r.p, r.n⟩)
  | 3 => .ok (.vcvtF32Bf16 r.d r.a r.b ⟨r.p, r.n⟩)
  | 4 => needZero (r.b == 0) (.vcvtF16F32 r.d r.a ⟨r.p, r.n⟩)
  | 5 => .ok (.vcvtF32F16 r.d r.a r.b ⟨r.p, r.n⟩)
  | 6 => needZero (r.b == 0) (.vcvtE4m3F32 r.d r.a ⟨r.p, r.n⟩)
  | 7 => .ok (.vcvtF32E4m3 r.d r.a r.b ⟨r.p, r.n⟩)
  | 8 => needZero (r.b == 0) (.vcvtE5m2F32 r.d r.a ⟨r.p, r.n⟩)
  | 9 => .ok (.vcvtF32E5m2 r.d r.a r.b ⟨r.p, r.n⟩)
  | 10 => needZero (r.b == 0) (.vqntBx4 r.d r.a ⟨r.p, r.n⟩)
  | 11 => needZero (r.b == 0) (.vdqntBx4 r.d r.a ⟨r.p, r.n⟩)
  | 12 => needZero (r.b == 0) (.vqntBx8i r.d r.a ⟨r.p, r.n⟩)
  | 13 => needZero (r.b == 0) (.vdqntBx8i r.d r.a ⟨r.p, r.n⟩)
  | _ => .error .unassignedCode

/-- Major 0x1D (Table 2.5). -/
def major1D (r : FmtRR) : Except IllegalWhy Instr :=
  match r.f.toNat with
  | 0 => needZero (r.b == 0) (.vredsumF32 r.d r.a ⟨r.p, r.n⟩)
  | 1 => needZero (r.b == 0) (.vredmaxF32 r.d r.a ⟨r.p, r.n⟩)
  | 2 => needZero (r.b == 0) (.vredminF32 r.d r.a ⟨r.p, r.n⟩)
  | 3 => needZero (r.b == 0) (.vredsumS32 r.d r.a ⟨r.p, r.n⟩)
  | 4 => needZero (r.b == 0) (.vredmaxS32 r.d r.a ⟨r.p, r.n⟩)
  | 5 => needZero (r.b == 0) (.vredminS32 r.d r.a ⟨r.p, r.n⟩)
  | 6 => needZero (r.b == 0) (.vredand r.d r.a ⟨r.p, r.n⟩)
  | 7 => needZero (r.b == 0) (.vredor r.d r.a ⟨r.p, r.n⟩)
  | _ => .error .unassignedCode

/-- Major 0x1E (Table 2.5). -/
def major1E (r : FmtRR) : Except IllegalWhy Instr :=
  match r.f.toNat with
  | 0 => .ok (.vperm r.d r.a r.b ⟨r.p, r.n⟩)
  | 1 => .ok (.vslup r.d r.a r.b ⟨r.p, r.n⟩)
  | 2 => .ok (.vsldn r.d r.a r.b ⟨r.p, r.n⟩)
  | 3 => .ok (.vbcast r.d r.a r.b ⟨r.p, r.n⟩)
  | 4 => needZero (r.b == 0) (.vcomp r.d r.a ⟨r.p, r.n⟩)
  | 5 => needZero (r.b == 0) (.vexpd r.d r.a ⟨r.p, r.n⟩)
  | 6 => .ok (.vzip r.d r.a r.b ⟨r.p, r.n⟩)
  | 7 => .ok (.vunzip r.d r.a r.b ⟨r.p, r.n⟩)
  | _ => .error .unassignedCode

/-- Major 0x1F (Table 2.5). -/
noncomputable def major1F (r : FmtRR) : Except IllegalWhy Instr :=
  match r.f.toNat with
  | 0 => .ok (.vcmpEqS32 r.d r.a r.b ⟨r.p, r.n⟩)
  | 1 => .ok (.vcmpNeS32 r.d r.a r.b ⟨r.p, r.n⟩)
  | 2 => .ok (.vcmpLtS32 r.d r.a r.b ⟨r.p, r.n⟩)
  | 3 => .ok (.vcmpLeS32 r.d r.a r.b ⟨r.p, r.n⟩)
  | 4 => .ok (.vcmpLtN32 r.d r.a r.b ⟨r.p, r.n⟩)
  | 5 => .ok (.vcmpLeN32 r.d r.a r.b ⟨r.p, r.n⟩)
  | 6 => .ok (.vcmpEqF32 r.d r.a r.b ⟨r.p, r.n⟩)
  | 7 => .ok (.vcmpLtF32 r.d r.a r.b ⟨r.p, r.n⟩)
  | 8 => .ok (.vcmpLeF32 r.d r.a r.b ⟨r.p, r.n⟩)
  | 9 => .ok (.vcmpUnF32 r.d r.a r.b ⟨r.p, r.n⟩)
  | 10 => .ok (.pand r.d r.a r.b ⟨r.p, r.n⟩)
  | 11 => .ok (.por r.d r.a r.b ⟨r.p, r.n⟩)
  | 12 => .ok (.pxor r.d r.a r.b ⟨r.p, r.n⟩)
  | 13 => needZero (r.a == 0) (.pnot r.d r.b ⟨r.p, r.n⟩)
  | 14 => needZero (r.a == 0) (.pcnt r.d r.b ⟨r.p, r.n⟩)
  | 15 => needZero (r.a == 0) (.pfirst r.d r.b ⟨r.p, r.n⟩)
  | 32 => .ok (.vcmpEqS32ScalarB r.d r.a r.b ⟨r.p, r.n⟩)
  | 33 => .ok (.vcmpNeS32ScalarB r.d r.a r.b ⟨r.p, r.n⟩)
  | 34 => .ok (.vcmpLtS32ScalarB r.d r.a r.b ⟨r.p, r.n⟩)
  | 35 => .ok (.vcmpLeS32ScalarB r.d r.a r.b ⟨r.p, r.n⟩)
  | 36 => .ok (.vcmpLtN32ScalarB r.d r.a r.b ⟨r.p, r.n⟩)
  | 37 => .ok (.vcmpLeN32ScalarB r.d r.a r.b ⟨r.p, r.n⟩)
  | 38 => .ok (.vcmpEqF32ScalarB r.d r.a r.b ⟨r.p, r.n⟩)
  | 39 => .ok (.vcmpLtF32ScalarB r.d r.a r.b ⟨r.p, r.n⟩)
  | 40 => .ok (.vcmpLeF32ScalarB r.d r.a r.b ⟨r.p, r.n⟩)
  | 41 => .ok (.vcmpUnF32ScalarB r.d r.a r.b ⟨r.p, r.n⟩)
  | _ => .error .unassignedCode

/-- Major 0x20 (Table 2.5). -/
noncomputable def major20 (r : FmtRR) : Except IllegalWhy Instr :=
  match r.f.toNat with
  | 0 => needZero (r.b == 0) (.vldB32 r.d r.a ⟨r.p, r.n⟩)
  | 1 => needZero (r.b == 0) (.vstB32 r.d r.a ⟨r.p, r.n⟩)
  | 2 => .ok (.vldsB32 r.d r.a r.b ⟨r.p, r.n⟩)
  | 3 => .ok (.vstsB32 r.d r.a r.b ⟨r.p, r.n⟩)
  | 4 => needZero (r.b == 0) (.vldS16 r.d r.a ⟨r.p, r.n⟩)
  | 5 => needZero (r.b == 0) (.vldS8 r.d r.a ⟨r.p, r.n⟩)
  | _ => .error .unassignedCode

/-- Major 0x21 (Table 2.5). -/
noncomputable def major21 (r : FmtRR) : Except IllegalWhy Instr :=
  match r.f.toNat with
  | 0 => .ok (.vgatherB32 r.d r.a r.b ⟨r.p, r.n⟩)
  | 1 => .ok (.vscatterB32 r.d r.a r.b ⟨r.p, r.n⟩)
  | _ => .error .unassignedCode

/-- Major 0x22 (Table 2.5). -/
noncomputable def major22 (r : FmtRR) : Except IllegalWhy Instr :=
  match r.f.toNat with
  | 0 => needZero (!r.n && r.p == 0 && r.b == 0) (.vsetl r.d r.a)
  | 1 => needZero (r.b == 0) (.lsld r.d r.a ⟨r.p, r.n⟩)
  | 2 => needZero (r.b == 0) (.lsst r.d r.a ⟨r.p, r.n⟩)
  | 3 => needZero (r.a == 0) (.lsldx r.d r.b ⟨r.p, r.n⟩)
  | 4 => needZero (r.a == 0) (.lsstx r.d r.b ⟨r.p, r.n⟩)
  | _ => .error .unassignedCode

/-- Major 0x23 (Table 2.5). -/
noncomputable def major23 (r : FmtX) : Except IllegalWhy Instr :=
  match r.f5.toNat with
  | 0 => .ok (.mstream r.t r.a r.b ⟨r.acq, r.rel, r.scope⟩)
  | 1 => .ok (.mstreamz r.t r.a r.b ⟨r.acq, r.rel, r.scope⟩)
  | 2 => .ok (.mdrain r.t r.a r.b ⟨r.acq, r.rel, r.scope⟩)
  | 3 => needZero (!r.rel && !r.acq && r.scope == 0 && r.b == 0 && r.a == 0 && r.t == 0) (.mwait)
  | _ => .error .unassignedCode

/-- Major 0x24 (Table 2.5). -/
noncomputable def major24 (r : FmtRR) : Except IllegalWhy Instr :=
  match r.f.toNat with
  | 0 => needZero (!r.n && r.p == 0 && r.b == 0 && r.d == 0) (.mfmt r.a)
  | 1 => needZero (!r.n && r.p == 0 && r.d == 0) (.mlatch r.a r.b)
  | 2 => needZero (!r.n && r.p == 0) (.mgeom r.d r.a r.b)
  | 3 => needZero (!r.n && r.p == 0 && r.b == 0 && r.d == 0) (.mspar r.a)
  | 4 => needZero (!r.n && r.p == 0 && r.b == 0 && r.a == 0 && r.d == 0) (.mzero)
  | 5 => needZero (!r.n && r.p == 0 && r.b == 0 && r.d == 0) (.mscale r.a)
  | 6 => needZero (!r.n && r.p == 0 && r.b == 0) (.mrow r.d r.a)
  | 7 => needZero (!r.n && r.p == 0 && r.b == 0) (.mrowst r.d r.a)
  | _ => .error .unassignedCode

/-- Major 0x25 (Table 2.5). -/
noncomputable def major25 (r : FmtRR) : Except IllegalWhy Instr :=
  match r.f.toNat with
  | 0 => needZero (!r.n && r.p == 0) (.baddqBx4 r.d r.a r.b)
  | 1 => needZero (!r.n && r.p == 0) (.baddqBx8i r.d r.a r.b)
  | _ => .error .unassignedCode

/-- Major 0x26 (Table 2.5). -/
noncomputable def major26 (r : FmtX) : Except IllegalWhy Instr :=
  match r.f5.toNat with
  | 0 => needZero (r.b == 0) (.copy r.t r.a ⟨r.acq, r.rel, r.scope⟩)
  | _ => .error .unassignedCode

/-- Major 0x27 (Table 2.5). -/
noncomputable def major27 (r : FmtX) : Except IllegalWhy Instr :=
  match r.f5.toNat with
  | 0 => needZero (r.b == 0) (.copyl r.t r.a ⟨r.acq, r.rel, r.scope⟩)
  | _ => .error .unassignedCode

/-- Major 0x28 (Table 2.5). -/
noncomputable def major28 (r : FmtX) : Except IllegalWhy Instr :=
  match r.f5.toNat with
  | 0 => needZero (r.b == 0) (.halo r.t r.a ⟨r.acq, r.rel, r.scope⟩)
  | _ => .error .unassignedCode

/-- Major 0x29 (Table 2.5). -/
noncomputable def major29 (r : FmtX) : Except IllegalWhy Instr :=
  match r.f5.toNat with
  | 0 => needZero (r.b == 0) (.weft r.t r.a ⟨r.acq, r.rel, r.scope⟩)
  | _ => .error .unassignedCode

/-- Major 0x2A (Table 2.5). -/
noncomputable def major2A (r : FmtRI) : Except IllegalWhy Instr :=
  match r.f3.toNat with
  | 0 => needZero (r.i == 0 && r.a == 0) (.seal r.d)
  | 1 => needZero (r.a == 0 && r.d == 0) (.bwait r.i)
  | 2 => needZero (r.i.extractLsb' 2 10 == 0 && r.a == 0) (.cseq r.d (r.i.extractLsb' 0 2))
  | _ => .error .unassignedCode

/-- Major 0x2B (Table 2.5). -/
noncomputable def major2B (r : FmtX) : Except IllegalWhy Instr :=
  match r.f5.toNat with
  | 0 => needZero (!r.rel && !r.acq && r.scope == 0 && r.t == 0) (.chain r.a r.b)
  | _ => .error .unassignedCode

/-- Major 0x2C (Table 2.5). -/
noncomputable def major2C (r : FmtX) : Except IllegalWhy Instr :=
  match r.f5.toNat with
  | 0 => needZero (!r.rel && !r.acq && r.scope == 0) (.launch r.t r.a r.b)
  | 1 => needZero (!r.rel && !r.acq && r.scope == 0 && r.b == 0) (.spawn r.t r.a)
  | _ => .error .unassignedCode

/-- Major 0x2D (Table 2.5). -/
noncomputable def major2D (r : FmtRI) : Except IllegalWhy Instr :=
  match r.f3.toNat with
  | 0 => needZero (r.i == 0 && r.d == 0) (.suspend r.a)
  | 1 => needZero (r.i == 0 && r.a == 0 && r.d == 0) (.yield)
  | 2 => needZero (r.i == 0 && r.a == 0 && r.d == 0) (.exit)
  | _ => .error .unassignedCode

/-- Major 0x2E (Table 2.5). -/
noncomputable def major2E (r : FmtRI) : Except IllegalWhy Instr :=
  match r.f3.toNat with
  | 0 => needZero (r.i == 0) (.grpForm r.d r.a)
  | 1 => needZero (r.i == 0 && r.a == 0 && r.d == 0) (.grpJoin)
  | 2 => needZero (r.i == 0 && r.a == 0 && r.d == 0) (.grpLeave)
  | _ => .error .unassignedCode

/-- Major 0x2F (Table 2.5). -/
noncomputable def major2F (r : FmtRI) : Except IllegalWhy Instr :=
  match r.f3.toNat with
  | 0 => needZero (r.i == 0 && r.a == 0) (.seqOpen r.d)
  | 1 => needZero (r.i == 0 && r.d == 0) (.seqClose r.a)
  | 2 => needZero (r.i == 0 && r.d == 0) (.seqBind r.a)
  | _ => .error .unassignedCode

/-- Major 0x30 (Table 2.5). -/
noncomputable def major30 (r : FmtRI) : Except IllegalWhy Instr :=
  match r.f3.toNat with
  | 0 => needZero (r.i.extractLsb' 8 4 == 0 && r.a == 0 && r.d == 0) (.trap (r.i.extractLsb' 0 8))
  | 1 => needZero (r.i == 0 && r.a == 0 && r.d == 0) (.rfe)
  | 2 => needZero (r.i == 0 && r.a == 0 && r.d == 0) (.wfm)
  | 3 => needZero (r.a == 0) (.mfsp r.d r.i)
  | 4 => needZero (r.d == 0) (.mtsp r.a r.i)
  | _ => .error .unassignedCode

/-- Major 0x31 (Table 2.5). -/
noncomputable def major31 (r : FmtRR) : Except IllegalWhy Instr :=
  match r.f.toNat with
  | 0 => needZero (!r.n && r.p == 0 && r.b == 0) (.dirLd r.d r.a)
  | 1 => needZero (!r.n && r.p == 0 && r.d == 0) (.dirSt r.a r.b)
  | 2 => needZero (!r.n && r.p == 0 && r.b == 0) (.tagGet r.d r.a)
  | 3 => needZero (!r.n && r.p == 0 && r.d == 0) (.tagSet r.a r.b)
  | _ => .error .unassignedCode

/-- Major 0x32 (Table 2.5). -/
noncomputable def major32 (r : FmtX) : Except IllegalWhy Instr :=
  match r.f5.toNat with
  | 0 => needZero (!r.rel && !r.acq && r.scope == 0) (.bxfer r.t r.a r.b)
  | 1 => needZero (!r.rel && !r.acq && r.scope == 0 && r.t == 0) (.reply r.a r.b)
  | 2 => needZero (!r.rel && !r.acq && r.scope == 0 && r.b == 0 && r.t == 0) (.nack r.a)
  | 3 => needZero (!r.rel && !r.acq && r.scope == 0 && r.t == 0) (.fwd r.a r.b)
  | _ => .error .unassignedCode

/-- Major 0x33 (Table 2.5). -/
noncomputable def major33 (r : FmtRI) : Except IllegalWhy Instr :=
  match r.f3.toNat with
  | 0 => needZero (r.i == 0 && r.a == 0 && r.d == 0) (.hend)
  | _ => .error .unassignedCode

/-- The compact halfword forms (Table 2.2): D, B and P1 of the sixteen C codes. -/
noncomputable def decCompact (w : BitVec 16) : Except IllegalWhy Instr :=
  let d := w.extractLsb' 5 5
  let b := w.extractLsb' 10 5
  let p1 := w.getLsbD 15
  if w == 0 then .error .zeroHalfword else
  match (w.extractLsb' 1 4).toNat with
  | 0 => .ok (.vaddF32Compact d b p1)
  | 1 => .ok (.vsubF32Compact d b p1)
  | 2 => .ok (.vmulF32Compact d b p1)
  | 3 => .ok (.vmaxF32Compact d b p1)
  | 4 => .ok (.vminF32Compact d b p1)
  | 5 => .ok (.vaddS32Compact d b p1)
  | 6 => .ok (.vsubS32Compact d b p1)
  | 7 => .ok (.vmulS32Compact d b p1)
  | 8 => .ok (.vandCompact d b p1)
  | 9 => .ok (.vorCompact d b p1)
  | 10 => .ok (.vxorCompact d b p1)
  | 11 => .ok (.vshlCompact d b p1)
  | 12 => .ok (.vshrCompact d b p1)
  | 13 => .ok (.vsarCompact d b p1)
  | 14 => .ok (.vmovCompact d b p1)
  | _ => .ok (.vnegF32Compact d b p1)

/-- A 32-bit word that is no modifier word, by its major (Table 2.4). -/
noncomputable def dec32 (w : BitVec 32) : Except IllegalWhy Instr :=
  match (w.extractLsb' 1 6).toNat with
  | 1 => major01 (FmtRR.parse w)
  | 2 => major02 (FmtRI.parse w)
  | 3 => major03 (FmtRH.parse w)
  | 4 => major04 (FmtRR.parse w)
  | 5 => major05 (FmtRR.parse w)
  | 6 => major06 (FmtBC.parse w)
  | 7 => major07 (FmtBZ.parse w)
  | 8 => major08 (FmtJ.parse w)
  | 9 => major09 (FmtJ.parse w)
  | 10 => major0A (FmtRI.parse w)
  | 11 => major0B (FmtBZ.parse w)
  | 12 => major0C (FmtRR.parse w)
  | 13 => major0D (FmtBZ.parse w)
  | 14 => major0E (FmtRI.parse w)
  | 15 => major0F (FmtRR.parse w)
  | 16 => major10 (FmtRI.parse w)
  | 17 => major11 (FmtRI.parse w)
  | 18 => major12 (FmtRR.parse w)
  | 19 => major13 (FmtRR.parse w)
  | 20 => major14 (FmtX.parse w)
  | 21 => major15 (FmtX.parse w)
  | 22 => major16 (FmtRI.parse w)
  | 23 => major17 (FmtRI.parse w)
  | 24 => major18 (FmtX.parse w)
  | 25 => major19 (FmtRR.parse w)
  | 26 => major1A (FmtRR.parse w)
  | 27 => major1B (FmtRR.parse w)
  | 28 => major1C (FmtRR.parse w)
  | 29 => major1D (FmtRR.parse w)
  | 30 => major1E (FmtRR.parse w)
  | 31 => major1F (FmtRR.parse w)
  | 32 => major20 (FmtRR.parse w)
  | 33 => major21 (FmtRR.parse w)
  | 34 => major22 (FmtRR.parse w)
  | 35 => major23 (FmtX.parse w)
  | 36 => major24 (FmtRR.parse w)
  | 37 => major25 (FmtRR.parse w)
  | 38 => major26 (FmtX.parse w)
  | 39 => major27 (FmtX.parse w)
  | 40 => major28 (FmtX.parse w)
  | 41 => major29 (FmtX.parse w)
  | 42 => major2A (FmtRI.parse w)
  | 43 => major2B (FmtX.parse w)
  | 44 => major2C (FmtX.parse w)
  | 45 => major2D (FmtRI.parse w)
  | 46 => major2E (FmtRI.parse w)
  | 47 => major2F (FmtRI.parse w)
  | 48 => major30 (FmtRI.parse w)
  | 49 => major31 (FmtRR.parse w)
  | 50 => major32 (FmtX.parse w)
  | 51 => major33 (FmtRI.parse w)
  | _ => .error .reservedMajor
/-- A modifier word (Table 2.1): bits 31..23 must be zero (R57). -/
def Mod.parse (w : BitVec 32) : Except IllegalWhy Mod :=
  if w.extractLsb' 23 9 == 0 then
    .ok { rnd := w.extractLsb' 20 3, pow := w.extractLsb' 14 6, absb := w.getLsbD 13, absa := w.getLsbD 12,
          negb := w.getLsbD 11, nega := w.getLsbD 10, clamp := w.extractLsb' 8 2, sat := w.getLsbD 7 }
  else .error .badModifier

/-- The modifier word of `m`. -/
def Mod.pack (m : Mod) : BitVec 32 :=
  0#9 ++ m.rnd ++ m.pow ++ BitVec.ofBool m.absb ++ BitVec.ofBool m.absa ++ BitVec.ofBool m.negb ++
    BitVec.ofBool m.nega ++ m.clamp ++ BitVec.ofBool m.sat ++ 0x3F#6 ++ 1#1

/-- A modifier word with the word after it (R57): both are illegal together at the modifier word. -/
noncomputable def decPair (w v : BitVec 32) : Except IllegalWhy Instr :=
  match Mod.parse w with
  | .error e => .error e
  | .ok m =>
    if v.getLsbD 0 then
      match dec32 v with
      | .error _ => .error .badModifier
      | .ok i => if i.eligible m then .ok (.modifierWord m i) else .error .badModifier
    else .error .badModifier

/-- Why bytes give no instruction: the bytes end too soon (for a fetch, the next halfwords are needed), or the words
are illegal. -/
inductive Reject where
  | short
  | illegal (why : IllegalWhy)
  deriving DecidableEq, Repr

/-- Two bytes as a halfword, the lower address in bits 7..0 (R9). -/
def halfOf (b0 b1 : Byte) : Half := b1 ++ b0
/-- Four bytes as a word, little-endian (R9). -/
def wordOf (b0 b1 b2 b3 : Byte) : W32 := b3 ++ b2 ++ b1 ++ b0

/-- The length in bytes that the first bytes decide (R45). -/
def instrLength (b0 : Byte) : Nat :=
  if b0.getLsbD 0 then if b0.extractLsb' 1 6 == 0x3F then 8 else 4 else 2

/-- A verdict with the instruction's length in bytes. -/
def withLength (n : Nat) : Except IllegalWhy Instr → Except Reject (Instr × Nat)
  | .ok i => .ok (i, n)
  | .error e => .error (.illegal e)

/-- Decode the instruction at the head of a list of bytes, and say how many bytes it takes (R45, R57). A modifier word
is followed by a word; the halfword after it decides whether that word is a compact form, which is illegal there. -/
noncomputable def decode (bs : List Byte) : Except Reject (Instr × Nat) :=
  match bs with
  | b0 :: b1 :: rest =>
    if b0.getLsbD 0 then
      match rest with
      | b2 :: b3 :: more =>
        if b0.extractLsb' 1 6 == 0x3F then
          match more with
          | b4 :: b5 :: b6 :: b7 :: _ => withLength 8 (decPair (wordOf b0 b1 b2 b3) (wordOf b4 b5 b6 b7))
          | _ => .error .short
        else withLength 4 (dec32 (wordOf b0 b1 b2 b3))
      | _ => .error .short
    else withLength 2 (decCompact (halfOf b0 b1))
  | _ => .error .short

/-- The halfwords or words of an instruction: none for an event, which has no encoding. -/
inductive Code where
  | none
  | half (w : BitVec 16)
  | word (w : BitVec 32)
  | pair (m w : BitVec 32)
  deriving DecidableEq, Repr

/-- The bytes of a word from the lowest address (R9). -/
def bytesOfWord (w : BitVec 32) : List Byte :=
  [w.extractLsb' 0 8, w.extractLsb' 8 8, w.extractLsb' 16 8, w.extractLsb' 24 8]

/-- The bytes of a halfword from the lowest address (R9). -/
def bytesOfHalf (w : BitVec 16) : List Byte := [w.extractLsb' 0 8, w.extractLsb' 8 8]

/-- The bytes of a code as memory holds them (R9, R45). -/
def Code.bytes : Code → List Byte
  | .none => []
  | .half w => bytesOfHalf w
  | .word w => bytesOfWord w
  | .pair m w => bytesOfWord m ++ bytesOfWord w

/-- The words of an instruction, from the encoding tables (Tables 2.1, 2.2, 2.5). -/
def encode : Instr → Code
  | .modifierWord m i =>
    match encode i with
    | .word w => .pair (Mod.pack m) w
    | _ => .none
  | .add d a b g => .word (FmtRR.pack 1#6 { f := 0#6, n := g.n, p := g.p, b := b, a := a, d := d })
  | .sub d a b g => .word (FmtRR.pack 1#6 { f := 1#6, n := g.n, p := g.p, b := b, a := a, d := d })
  | .and d a b g => .word (FmtRR.pack 1#6 { f := 2#6, n := g.n, p := g.p, b := b, a := a, d := d })
  | .or d a b g => .word (FmtRR.pack 1#6 { f := 3#6, n := g.n, p := g.p, b := b, a := a, d := d })
  | .xor d a b g => .word (FmtRR.pack 1#6 { f := 4#6, n := g.n, p := g.p, b := b, a := a, d := d })
  | .andn d a b g => .word (FmtRR.pack 1#6 { f := 5#6, n := g.n, p := g.p, b := b, a := a, d := d })
  | .orn d a b g => .word (FmtRR.pack 1#6 { f := 6#6, n := g.n, p := g.p, b := b, a := a, d := d })
  | .xnor d a b g => .word (FmtRR.pack 1#6 { f := 7#6, n := g.n, p := g.p, b := b, a := a, d := d })
  | .shl d a b g => .word (FmtRR.pack 1#6 { f := 8#6, n := g.n, p := g.p, b := b, a := a, d := d })
  | .shr d a b g => .word (FmtRR.pack 1#6 { f := 9#6, n := g.n, p := g.p, b := b, a := a, d := d })
  | .sar d a b g => .word (FmtRR.pack 1#6 { f := 10#6, n := g.n, p := g.p, b := b, a := a, d := d })
  | .rol d a b g => .word (FmtRR.pack 1#6 { f := 11#6, n := g.n, p := g.p, b := b, a := a, d := d })
  | .ror d a b g => .word (FmtRR.pack 1#6 { f := 12#6, n := g.n, p := g.p, b := b, a := a, d := d })
  | .minS64 d a b g => .word (FmtRR.pack 1#6 { f := 13#6, n := g.n, p := g.p, b := b, a := a, d := d })
  | .maxS64 d a b g => .word (FmtRR.pack 1#6 { f := 14#6, n := g.n, p := g.p, b := b, a := a, d := d })
  | .minN64 d a b g => .word (FmtRR.pack 1#6 { f := 15#6, n := g.n, p := g.p, b := b, a := a, d := d })
  | .maxN64 d a b g => .word (FmtRR.pack 1#6 { f := 16#6, n := g.n, p := g.p, b := b, a := a, d := d })
  | .sltS64 d a b g => .word (FmtRR.pack 1#6 { f := 17#6, n := g.n, p := g.p, b := b, a := a, d := d })
  | .sltN64 d a b g => .word (FmtRR.pack 1#6 { f := 18#6, n := g.n, p := g.p, b := b, a := a, d := d })
  | .seq d a b g => .word (FmtRR.pack 1#6 { f := 19#6, n := g.n, p := g.p, b := b, a := a, d := d })
  | .sne d a b g => .word (FmtRR.pack 1#6 { f := 20#6, n := g.n, p := g.p, b := b, a := a, d := d })
  | .clz d b g => .word (FmtRR.pack 1#6 { f := 21#6, n := g.n, p := g.p, b := b, a := 0#5, d := d })
  | .ctz d b g => .word (FmtRR.pack 1#6 { f := 22#6, n := g.n, p := g.p, b := b, a := 0#5, d := d })
  | .popc d b g => .word (FmtRR.pack 1#6 { f := 23#6, n := g.n, p := g.p, b := b, a := 0#5, d := d })
  | .sextS8 d b g => .word (FmtRR.pack 1#6 { f := 24#6, n := g.n, p := g.p, b := b, a := 0#5, d := d })
  | .sextS16 d b g => .word (FmtRR.pack 1#6 { f := 25#6, n := g.n, p := g.p, b := b, a := 0#5, d := d })
  | .sextS32 d b g => .word (FmtRR.pack 1#6 { f := 26#6, n := g.n, p := g.p, b := b, a := 0#5, d := d })
  | .zextN32 d b g => .word (FmtRR.pack 1#6 { f := 27#6, n := g.n, p := g.p, b := b, a := 0#5, d := d })
  | .cmppEq d a b g => .word (FmtRR.pack 1#6 { f := 28#6, n := g.n, p := g.p, b := b, a := a, d := d })
  | .cmppNe d a b g => .word (FmtRR.pack 1#6 { f := 29#6, n := g.n, p := g.p, b := b, a := a, d := d })
  | .cmppLtS64 d a b g => .word (FmtRR.pack 1#6 { f := 30#6, n := g.n, p := g.p, b := b, a := a, d := d })
  | .cmppGeS64 d a b g => .word (FmtRR.pack 1#6 { f := 31#6, n := g.n, p := g.p, b := b, a := a, d := d })
  | .cmppLtN64 d a b g => .word (FmtRR.pack 1#6 { f := 32#6, n := g.n, p := g.p, b := b, a := a, d := d })
  | .cmppGeN64 d a b g => .word (FmtRR.pack 1#6 { f := 33#6, n := g.n, p := g.p, b := b, a := a, d := d })
  | .sel d a b g => .word (FmtRR.pack 1#6 { f := 34#6, n := g.n, p := g.p, b := b, a := a, d := d })
  | .addi d a i => .word (FmtRI.pack 2#6 { i := i, f3 := 0#3, a := a, d := d })
  | .andi d a i => .word (FmtRI.pack 2#6 { i := i, f3 := 1#3, a := a, d := d })
  | .ori d a i => .word (FmtRI.pack 2#6 { i := i, f3 := 2#3, a := a, d := d })
  | .xori d a i => .word (FmtRI.pack 2#6 { i := i, f3 := 3#3, a := a, d := d })
  | .shli d a k => .word (FmtRI.pack 2#6 { i := 0#6 ++ k, f3 := 4#3, a := a, d := d })
  | .shri d a k => .word (FmtRI.pack 2#6 { i := 0#6 ++ k, f3 := 5#3, a := a, d := d })
  | .sari d a k => .word (FmtRI.pack 2#6 { i := 0#6 ++ k, f3 := 6#3, a := a, d := d })
  | .slti d a i => .word (FmtRI.pack 2#6 { i := i, f3 := 7#3, a := a, d := d })
  | .lih d i => .word (FmtRH.pack 3#6 { i := i, d := d })
  | .mul d a b g => .word (FmtRR.pack 4#6 { f := 0#6, n := g.n, p := g.p, b := b, a := a, d := d })
  | .mulhS64 d a b g => .word (FmtRR.pack 4#6 { f := 1#6, n := g.n, p := g.p, b := b, a := a, d := d })
  | .mulhN64 d a b g => .word (FmtRR.pack 4#6 { f := 2#6, n := g.n, p := g.p, b := b, a := a, d := d })
  | .divS64 d a b g => .word (FmtRR.pack 4#6 { f := 3#6, n := g.n, p := g.p, b := b, a := a, d := d })
  | .divN64 d a b g => .word (FmtRR.pack 4#6 { f := 4#6, n := g.n, p := g.p, b := b, a := a, d := d })
  | .remS64 d a b g => .word (FmtRR.pack 4#6 { f := 5#6, n := g.n, p := g.p, b := b, a := a, d := d })
  | .remN64 d a b g => .word (FmtRR.pack 4#6 { f := 6#6, n := g.n, p := g.p, b := b, a := a, d := d })
  | .lea d a b k => .word (FmtRR.pack 5#6 { f := 0#3 ++ k, n := false, p := 0#3, b := b, a := a, d := d })
  | .ptag d a b => .word (FmtRR.pack 5#6 { f := 8#6, n := false, p := 0#3, b := b, a := a, d := d })
  | .pchk d a => .word (FmtRR.pack 5#6 { f := 9#6, n := false, p := 0#3, b := 0#5, a := a, d := d })
  | .bdesc d a b => .word (FmtRR.pack 5#6 { f := 10#6, n := false, p := 0#3, b := b, a := a, d := d })
  | .beq a b o h => .word (FmtBC.pack 6#6 { o := o, cc := 0#3, h := h, b := b, a := a })
  | .bne a b o h => .word (FmtBC.pack 6#6 { o := o, cc := 1#3, h := h, b := b, a := a })
  | .blt a b o h => .word (FmtBC.pack 6#6 { o := o, cc := 2#3, h := h, b := b, a := a })
  | .bge a b o h => .word (FmtBC.pack 6#6 { o := o, cc := 3#3, h := h, b := b, a := a })
  | .bltn a b o h => .word (FmtBC.pack 6#6 { o := o, cc := 4#3, h := h, b := b, a := a })
  | .bgen a b o h => .word (FmtBC.pack 6#6 { o := o, cc := 5#3, h := h, b := b, a := a })
  | .beqz a o h => .word (FmtBZ.pack 7#6 { o := o, cc := 0#3, h := h, a := a })
  | .bnez a o h => .word (FmtBZ.pack 7#6 { o := o, cc := 1#3, h := h, a := a })
  | .bltz a o h => .word (FmtBZ.pack 7#6 { o := o, cc := 2#3, h := h, a := a })
  | .bgez a o h => .word (FmtBZ.pack 7#6 { o := o, cc := 3#3, h := h, a := a })
  | .bgtz a o h => .word (FmtBZ.pack 7#6 { o := o, cc := 4#3, h := h, a := a })
  | .blez a o h => .word (FmtBZ.pack 7#6 { o := o, cc := 5#3, h := h, a := a })
  | .bqe a o h => .word (FmtBZ.pack 7#6 { o := o, cc := 6#3, h := h, a := a })
  | .bqf a o h => .word (FmtBZ.pack 7#6 { o := o, cc := 7#3, h := h, a := a })
  | .j o => .word (FmtJ.pack 8#6 { o := o })
  | .jal o => .word (FmtJ.pack 9#6 { o := o })
  | .jr a i => .word (FmtRI.pack 10#6 { i := i, f3 := 0#3, a := a, d := 0#5 })
  | .jalr d a i => .word (FmtRI.pack 10#6 { i := i, f3 := 1#3, a := a, d := d })
  | .ret i => .word (FmtRI.pack 10#6 { i := i, f3 := 2#3, a := 0#5, d := 0#5 })
  | .loop a o h => .word (FmtBZ.pack 11#6 { o := o, cc := 0#3, h := h, a := a })
  | .astart a b => .word (FmtRR.pack 12#6 { f := 0#6, n := false, p := 0#3, b := b, a := a, d := 0#5 })
  | .astop => .word (FmtRR.pack 12#6 { f := 1#6, n := false, p := 0#3, b := 0#5, a := 0#5, d := 0#5 })
  | .pushb a => .word (FmtRR.pack 12#6 { f := 2#6, n := false, p := 0#3, b := 0#5, a := a, d := 0#5 })
  | .qclr b => .word (FmtRR.pack 12#6 { f := 3#6, n := false, p := 0#3, b := b, a := 0#5, d := 0#5 })
  | .qlen d b => .word (FmtRR.pack 12#6 { f := 4#6, n := false, p := 0#3, b := b, a := 0#5, d := d })
  | .brq o h => .word (FmtBZ.pack 13#6 { o := o, cc := 0#3, h := h, a := 0#5 })
  | .brqn o h => .word (FmtBZ.pack 13#6 { o := o, cc := 1#3, h := h, a := 0#5 })
  | .mfs d i => .word (FmtRI.pack 14#6 { i := i, f3 := 0#3, a := 0#5, d := d })
  | .mts a i => .word (FmtRI.pack 14#6 { i := i, f3 := 1#3, a := a, d := 0#5 })
  | .fadd d a b g => .word (FmtRR.pack 15#6 { f := 0#6, n := g.n, p := g.p, b := b, a := a, d := d })
  | .fsub d a b g => .word (FmtRR.pack 15#6 { f := 1#6, n := g.n, p := g.p, b := b, a := a, d := d })
  | .fmul d a b g => .word (FmtRR.pack 15#6 { f := 2#6, n := g.n, p := g.p, b := b, a := a, d := d })
  | .fdiv d a b g => .word (FmtRR.pack 15#6 { f := 3#6, n := g.n, p := g.p, b := b, a := a, d := d })
  | .fsqrt d b g => .word (FmtRR.pack 15#6 { f := 4#6, n := g.n, p := g.p, b := b, a := 0#5, d := d })
  | .fmin d a b g => .word (FmtRR.pack 15#6 { f := 5#6, n := g.n, p := g.p, b := b, a := a, d := d })
  | .fmax d a b g => .word (FmtRR.pack 15#6 { f := 6#6, n := g.n, p := g.p, b := b, a := a, d := d })
  | .ffma d a b g => .word (FmtRR.pack 15#6 { f := 7#6, n := g.n, p := g.p, b := b, a := a, d := d })
  | .fabs d b g => .word (FmtRR.pack 15#6 { f := 8#6, n := g.n, p := g.p, b := b, a := 0#5, d := d })
  | .fneg d b g => .word (FmtRR.pack 15#6 { f := 9#6, n := g.n, p := g.p, b := b, a := 0#5, d := d })
  | .fcvtF32S64 d b g => .word (FmtRR.pack 15#6 { f := 10#6, n := g.n, p := g.p, b := b, a := 0#5, d := d })
  | .fcvtS64F32 d b g => .word (FmtRR.pack 15#6 { f := 11#6, n := g.n, p := g.p, b := b, a := 0#5, d := d })
  | .fcvtF32N64 d b g => .word (FmtRR.pack 15#6 { f := 12#6, n := g.n, p := g.p, b := b, a := 0#5, d := d })
  | .fcvtN64F32 d b g => .word (FmtRR.pack 15#6 { f := 13#6, n := g.n, p := g.p, b := b, a := 0#5, d := d })
  | .fcmppEq d a b g => .word (FmtRR.pack 15#6 { f := 14#6, n := g.n, p := g.p, b := b, a := a, d := d })
  | .fcmppLt d a b g => .word (FmtRR.pack 15#6 { f := 15#6, n := g.n, p := g.p, b := b, a := a, d := d })
  | .fcmppLe d a b g => .word (FmtRR.pack 15#6 { f := 16#6, n := g.n, p := g.p, b := b, a := a, d := d })
  | .fcmppUn d a b g => .word (FmtRR.pack 15#6 { f := 17#6, n := g.n, p := g.p, b := b, a := a, d := d })
  | .ldS8 d a i => .word (FmtRI.pack 16#6 { i := i, f3 := 0#3, a := a, d := d })
  | .ldN8 d a i => .word (FmtRI.pack 16#6 { i := i, f3 := 1#3, a := a, d := d })
  | .ldS16 d a i => .word (FmtRI.pack 16#6 { i := i, f3 := 2#3, a := a, d := d })
  | .ldN16 d a i => .word (FmtRI.pack 16#6 { i := i, f3 := 3#3, a := a, d := d })
  | .ldS32 d a i => .word (FmtRI.pack 16#6 { i := i, f3 := 4#3, a := a, d := d })
  | .ldN32 d a i => .word (FmtRI.pack 16#6 { i := i, f3 := 5#3, a := a, d := d })
  | .ldB64 d a i => .word (FmtRI.pack 16#6 { i := i, f3 := 6#3, a := a, d := d })
  | .stB8 d a i => .word (FmtRI.pack 17#6 { i := i, f3 := 0#3, a := a, d := d })
  | .stB16 d a i => .word (FmtRI.pack 17#6 { i := i, f3 := 1#3, a := a, d := d })
  | .stB32 d a i => .word (FmtRI.pack 17#6 { i := i, f3 := 2#3, a := a, d := d })
  | .stB64 d a i => .word (FmtRI.pack 17#6 { i := i, f3 := 3#3, a := a, d := d })
  | .ldIndexed d a b k sx sz g => .word (FmtRR.pack 18#6 { f := k ++ 0#1 ++ BitVec.ofBool sx ++ sz, n := g.n, p := g.p, b := b, a := a, d := d })
  | .stIndexed d a b k sz g => .word (FmtRR.pack 18#6 { f := k ++ 2#2 ++ sz, n := g.n, p := g.p, b := b, a := a, d := d })
  | .ldb d a b sx sz g => .word (FmtRR.pack 19#6 { f := 0#3 ++ BitVec.ofBool sx ++ sz, n := g.n, p := g.p, b := b, a := a, d := d })
  | .stb d a b sz g => .word (FmtRR.pack 19#6 { f := 2#4 ++ sz, n := g.n, p := g.p, b := b, a := a, d := d })
  | .amoSwap t a b w32 ord => .word (FmtX.pack 20#6 { f5 := BitVec.ofBool w32 ++ 0#4, rel := ord.rel, acq := ord.acq, scope := ord.scope, b := b, a := a, t := t })
  | .amoAdd t a b w32 ord => .word (FmtX.pack 20#6 { f5 := BitVec.ofBool w32 ++ 1#4, rel := ord.rel, acq := ord.acq, scope := ord.scope, b := b, a := a, t := t })
  | .amoAnd t a b w32 ord => .word (FmtX.pack 20#6 { f5 := BitVec.ofBool w32 ++ 2#4, rel := ord.rel, acq := ord.acq, scope := ord.scope, b := b, a := a, t := t })
  | .amoOr t a b w32 ord => .word (FmtX.pack 20#6 { f5 := BitVec.ofBool w32 ++ 3#4, rel := ord.rel, acq := ord.acq, scope := ord.scope, b := b, a := a, t := t })
  | .amoXor t a b w32 ord => .word (FmtX.pack 20#6 { f5 := BitVec.ofBool w32 ++ 4#4, rel := ord.rel, acq := ord.acq, scope := ord.scope, b := b, a := a, t := t })
  | .amoMaxS t a b w32 ord => .word (FmtX.pack 20#6 { f5 := BitVec.ofBool w32 ++ 5#4, rel := ord.rel, acq := ord.acq, scope := ord.scope, b := b, a := a, t := t })
  | .amoMinS t a b w32 ord => .word (FmtX.pack 20#6 { f5 := BitVec.ofBool w32 ++ 6#4, rel := ord.rel, acq := ord.acq, scope := ord.scope, b := b, a := a, t := t })
  | .amoMaxN t a b w32 ord => .word (FmtX.pack 20#6 { f5 := BitVec.ofBool w32 ++ 7#4, rel := ord.rel, acq := ord.acq, scope := ord.scope, b := b, a := a, t := t })
  | .amoMinN t a b w32 ord => .word (FmtX.pack 20#6 { f5 := BitVec.ofBool w32 ++ 8#4, rel := ord.rel, acq := ord.acq, scope := ord.scope, b := b, a := a, t := t })
  | .amoCas t a b w32 ord => .word (FmtX.pack 20#6 { f5 := BitVec.ofBool w32 ++ 9#4, rel := ord.rel, acq := ord.acq, scope := ord.scope, b := b, a := a, t := t })
  | .amoFaddF32 t a b ord => .word (FmtX.pack 20#6 { f5 := 26#5, rel := ord.rel, acq := ord.acq, scope := ord.scope, b := b, a := a, t := t })
  | .fenceAcq scope => .word (FmtX.pack 21#6 { f5 := 0#5, rel := false, acq := true, scope := scope, b := 0#5, a := 0#5, t := 0#5 })
  | .fenceRel scope => .word (FmtX.pack 21#6 { f5 := 0#5, rel := true, acq := false, scope := scope, b := 0#5, a := 0#5, t := 0#5 })
  | .fenceAr scope => .word (FmtX.pack 21#6 { f5 := 0#5, rel := true, acq := true, scope := scope, b := 0#5, a := 0#5, t := 0#5 })
  | .pref a i => .word (FmtRI.pack 22#6 { i := i, f3 := 0#3, a := a, d := 0#5 })
  | .prefw a i => .word (FmtRI.pack 22#6 { i := i, f3 := 1#3, a := a, d := 0#5 })
  | .ipref a i => .word (FmtRI.pack 22#6 { i := i, f3 := 2#3, a := a, d := 0#5 })
  | .prefSc a i => .word (FmtRI.pack 22#6 { i := i, f3 := 3#3, a := a, d := 0#5 })
  | .barInit a i => .word (FmtRI.pack 23#6 { i := 0#1 ++ i, f3 := 0#3, a := a, d := 0#5 })
  | .barArv i => .word (FmtRI.pack 23#6 { i := 0#1 ++ i, f3 := 1#3, a := 0#5, d := 0#5 })
  | .barWait i => .word (FmtRI.pack 23#6 { i := 0#1 ++ i, f3 := 2#3, a := 0#5, d := 0#5 })
  | .barSync i => .word (FmtRI.pack 23#6 { i := 0#1 ++ i, f3 := 3#3, a := 0#5, d := 0#5 })
  | .barTest d i => .word (FmtRI.pack 23#6 { i := 0#1 ++ i, f3 := 4#3, a := 0#5, d := d })
  | .send t a b ord => .word (FmtX.pack 24#6 { f5 := 0#5, rel := ord.rel, acq := ord.acq, scope := ord.scope, b := b, a := a, t := t })
  | .recv t a b => .word (FmtX.pack 24#6 { f5 := 1#5, rel := false, acq := false, scope := 0#3, b := b, a := a, t := t })
  | .rbind a b => .word (FmtX.pack 24#6 { f5 := 2#5, rel := false, acq := false, scope := 0#3, b := b, a := a, t := 0#5 })
  | .vaddS32 d a b g => .word (FmtRR.pack 25#6 { f := 0#6, n := g.n, p := g.p, b := b, a := a, d := d })
  | .vsubS32 d a b g => .word (FmtRR.pack 25#6 { f := 1#6, n := g.n, p := g.p, b := b, a := a, d := d })
  | .vmulS32 d a b g => .word (FmtRR.pack 25#6 { f := 2#6, n := g.n, p := g.p, b := b, a := a, d := d })
  | .vmulhS32 d a b g => .word (FmtRR.pack 25#6 { f := 3#6, n := g.n, p := g.p, b := b, a := a, d := d })
  | .vminS32 d a b g => .word (FmtRR.pack 25#6 { f := 4#6, n := g.n, p := g.p, b := b, a := a, d := d })
  | .vmaxS32 d a b g => .word (FmtRR.pack 25#6 { f := 5#6, n := g.n, p := g.p, b := b, a := a, d := d })
  | .vminN32 d a b g => .word (FmtRR.pack 25#6 { f := 6#6, n := g.n, p := g.p, b := b, a := a, d := d })
  | .vmaxN32 d a b g => .word (FmtRR.pack 25#6 { f := 7#6, n := g.n, p := g.p, b := b, a := a, d := d })
  | .vand d a b g => .word (FmtRR.pack 25#6 { f := 8#6, n := g.n, p := g.p, b := b, a := a, d := d })
  | .vor d a b g => .word (FmtRR.pack 25#6 { f := 9#6, n := g.n, p := g.p, b := b, a := a, d := d })
  | .vxor d a b g => .word (FmtRR.pack 25#6 { f := 10#6, n := g.n, p := g.p, b := b, a := a, d := d })
  | .vshl d a b g => .word (FmtRR.pack 25#6 { f := 11#6, n := g.n, p := g.p, b := b, a := a, d := d })
  | .vshr d a b g => .word (FmtRR.pack 25#6 { f := 12#6, n := g.n, p := g.p, b := b, a := a, d := d })
  | .vsar d a b g => .word (FmtRR.pack 25#6 { f := 13#6, n := g.n, p := g.p, b := b, a := a, d := d })
  | .vabsS32 d b g => .word (FmtRR.pack 25#6 { f := 14#6, n := g.n, p := g.p, b := b, a := 0#5, d := d })
  | .vmov d b g => .word (FmtRR.pack 25#6 { f := 15#6, n := g.n, p := g.p, b := b, a := 0#5, d := d })
  | .vsplat d b g => .word (FmtRR.pack 25#6 { f := 16#6, n := g.n, p := g.p, b := b, a := 0#5, d := d })
  | .vid d g => .word (FmtRR.pack 25#6 { f := 17#6, n := g.n, p := g.p, b := 0#5, a := 0#5, d := d })
  | .vaddS32ScalarB d a b g => .word (FmtRR.pack 25#6 { f := 32#6, n := g.n, p := g.p, b := b, a := a, d := d })
  | .vsubS32ScalarB d a b g => .word (FmtRR.pack 25#6 { f := 33#6, n := g.n, p := g.p, b := b, a := a, d := d })
  | .vmulS32ScalarB d a b g => .word (FmtRR.pack 25#6 { f := 34#6, n := g.n, p := g.p, b := b, a := a, d := d })
  | .vmulhS32ScalarB d a b g => .word (FmtRR.pack 25#6 { f := 35#6, n := g.n, p := g.p, b := b, a := a, d := d })
  | .vminS32ScalarB d a b g => .word (FmtRR.pack 25#6 { f := 36#6, n := g.n, p := g.p, b := b, a := a, d := d })
  | .vmaxS32ScalarB d a b g => .word (FmtRR.pack 25#6 { f := 37#6, n := g.n, p := g.p, b := b, a := a, d := d })
  | .vminN32ScalarB d a b g => .word (FmtRR.pack 25#6 { f := 38#6, n := g.n, p := g.p, b := b, a := a, d := d })
  | .vmaxN32ScalarB d a b g => .word (FmtRR.pack 25#6 { f := 39#6, n := g.n, p := g.p, b := b, a := a, d := d })
  | .vandScalarB d a b g => .word (FmtRR.pack 25#6 { f := 40#6, n := g.n, p := g.p, b := b, a := a, d := d })
  | .vorScalarB d a b g => .word (FmtRR.pack 25#6 { f := 41#6, n := g.n, p := g.p, b := b, a := a, d := d })
  | .vxorScalarB d a b g => .word (FmtRR.pack 25#6 { f := 42#6, n := g.n, p := g.p, b := b, a := a, d := d })
  | .vshlScalarB d a b g => .word (FmtRR.pack 25#6 { f := 43#6, n := g.n, p := g.p, b := b, a := a, d := d })
  | .vshrScalarB d a b g => .word (FmtRR.pack 25#6 { f := 44#6, n := g.n, p := g.p, b := b, a := a, d := d })
  | .vsarScalarB d a b g => .word (FmtRR.pack 25#6 { f := 45#6, n := g.n, p := g.p, b := b, a := a, d := d })
  | .vaddF32 d a b g => .word (FmtRR.pack 26#6 { f := 0#6, n := g.n, p := g.p, b := b, a := a, d := d })
  | .vsubF32 d a b g => .word (FmtRR.pack 26#6 { f := 1#6, n := g.n, p := g.p, b := b, a := a, d := d })
  | .vmulF32 d a b g => .word (FmtRR.pack 26#6 { f := 2#6, n := g.n, p := g.p, b := b, a := a, d := d })
  | .vdivF32 d a b g => .word (FmtRR.pack 26#6 { f := 3#6, n := g.n, p := g.p, b := b, a := a, d := d })
  | .vminF32 d a b g => .word (FmtRR.pack 26#6 { f := 4#6, n := g.n, p := g.p, b := b, a := a, d := d })
  | .vmaxF32 d a b g => .word (FmtRR.pack 26#6 { f := 5#6, n := g.n, p := g.p, b := b, a := a, d := d })
  | .vsqrtF32 d b g => .word (FmtRR.pack 26#6 { f := 6#6, n := g.n, p := g.p, b := b, a := 0#5, d := d })
  | .vabsF32 d b g => .word (FmtRR.pack 26#6 { f := 7#6, n := g.n, p := g.p, b := b, a := 0#5, d := d })
  | .vnegF32 d b g => .word (FmtRR.pack 26#6 { f := 8#6, n := g.n, p := g.p, b := b, a := 0#5, d := d })
  | .vrcpF32 d b g => .word (FmtRR.pack 26#6 { f := 9#6, n := g.n, p := g.p, b := b, a := 0#5, d := d })
  | .vrsqrtF32 d b g => .word (FmtRR.pack 26#6 { f := 10#6, n := g.n, p := g.p, b := b, a := 0#5, d := d })
  | .vexp2F32 d b g => .word (FmtRR.pack 26#6 { f := 11#6, n := g.n, p := g.p, b := b, a := 0#5, d := d })
  | .vlog2F32 d b g => .word (FmtRR.pack 26#6 { f := 12#6, n := g.n, p := g.p, b := b, a := 0#5, d := d })
  | .vtanhF32 d b g => .word (FmtRR.pack 26#6 { f := 13#6, n := g.n, p := g.p, b := b, a := 0#5, d := d })
  | .vrintF32 d b g => .word (FmtRR.pack 26#6 { f := 14#6, n := g.n, p := g.p, b := b, a := 0#5, d := d })
  | .vaddF32ScalarB d a b g => .word (FmtRR.pack 26#6 { f := 32#6, n := g.n, p := g.p, b := b, a := a, d := d })
  | .vsubF32ScalarB d a b g => .word (FmtRR.pack 26#6 { f := 33#6, n := g.n, p := g.p, b := b, a := a, d := d })
  | .vmulF32ScalarB d a b g => .word (FmtRR.pack 26#6 { f := 34#6, n := g.n, p := g.p, b := b, a := a, d := d })
  | .vdivF32ScalarB d a b g => .word (FmtRR.pack 26#6 { f := 35#6, n := g.n, p := g.p, b := b, a := a, d := d })
  | .vminF32ScalarB d a b g => .word (FmtRR.pack 26#6 { f := 36#6, n := g.n, p := g.p, b := b, a := a, d := d })
  | .vmaxF32ScalarB d a b g => .word (FmtRR.pack 26#6 { f := 37#6, n := g.n, p := g.p, b := b, a := a, d := d })
  | .vfmaF32 d a b g => .word (FmtRR.pack 27#6 { f := 0#6, n := g.n, p := g.p, b := b, a := a, d := d })
  | .vfmsF32 d a b g => .word (FmtRR.pack 27#6 { f := 1#6, n := g.n, p := g.p, b := b, a := a, d := d })
  | .vfnmaF32 d a b g => .word (FmtRR.pack 27#6 { f := 2#6, n := g.n, p := g.p, b := b, a := a, d := d })
  | .vfnmsF32 d a b g => .word (FmtRR.pack 27#6 { f := 3#6, n := g.n, p := g.p, b := b, a := a, d := d })
  | .vdotBf16 d a b g => .word (FmtRR.pack 27#6 { f := 4#6, n := g.n, p := g.p, b := b, a := a, d := d })
  | .vdotS8 d a b g => .word (FmtRR.pack 27#6 { f := 5#6, n := g.n, p := g.p, b := b, a := a, d := d })
  | .vfmaF32ScalarB d a b g => .word (FmtRR.pack 27#6 { f := 32#6, n := g.n, p := g.p, b := b, a := a, d := d })
  | .vfmsF32ScalarB d a b g => .word (FmtRR.pack 27#6 { f := 33#6, n := g.n, p := g.p, b := b, a := a, d := d })
  | .vfnmaF32ScalarB d a b g => .word (FmtRR.pack 27#6 { f := 34#6, n := g.n, p := g.p, b := b, a := a, d := d })
  | .vfnmsF32ScalarB d a b g => .word (FmtRR.pack 27#6 { f := 35#6, n := g.n, p := g.p, b := b, a := a, d := d })
  | .vcvtF32S32 d a g => .word (FmtRR.pack 28#6 { f := 0#6, n := g.n, p := g.p, b := 0#5, a := a, d := d })
  | .vcvtS32F32 d a g => .word (FmtRR.pack 28#6 { f := 1#6, n := g.n, p := g.p, b := 0#5, a := a, d := d })
  | .vcvtBf16F32 d a g => .word (FmtRR.pack 28#6 { f := 2#6, n := g.n, p := g.p, b := 0#5, a := a, d := d })
  | .vcvtF32Bf16 d a b g => .word (FmtRR.pack 28#6 { f := 3#6, n := g.n, p := g.p, b := b, a := a, d := d })
  | .vcvtF16F32 d a g => .word (FmtRR.pack 28#6 { f := 4#6, n := g.n, p := g.p, b := 0#5, a := a, d := d })
  | .vcvtF32F16 d a b g => .word (FmtRR.pack 28#6 { f := 5#6, n := g.n, p := g.p, b := b, a := a, d := d })
  | .vcvtE4m3F32 d a g => .word (FmtRR.pack 28#6 { f := 6#6, n := g.n, p := g.p, b := 0#5, a := a, d := d })
  | .vcvtF32E4m3 d a b g => .word (FmtRR.pack 28#6 { f := 7#6, n := g.n, p := g.p, b := b, a := a, d := d })
  | .vcvtE5m2F32 d a g => .word (FmtRR.pack 28#6 { f := 8#6, n := g.n, p := g.p, b := 0#5, a := a, d := d })
  | .vcvtF32E5m2 d a b g => .word (FmtRR.pack 28#6 { f := 9#6, n := g.n, p := g.p, b := b, a := a, d := d })
  | .vqntBx4 d a g => .word (FmtRR.pack 28#6 { f := 10#6, n := g.n, p := g.p, b := 0#5, a := a, d := d })
  | .vdqntBx4 d a g => .word (FmtRR.pack 28#6 { f := 11#6, n := g.n, p := g.p, b := 0#5, a := a, d := d })
  | .vqntBx8i d a g => .word (FmtRR.pack 28#6 { f := 12#6, n := g.n, p := g.p, b := 0#5, a := a, d := d })
  | .vdqntBx8i d a g => .word (FmtRR.pack 28#6 { f := 13#6, n := g.n, p := g.p, b := 0#5, a := a, d := d })
  | .vredsumF32 d a g => .word (FmtRR.pack 29#6 { f := 0#6, n := g.n, p := g.p, b := 0#5, a := a, d := d })
  | .vredmaxF32 d a g => .word (FmtRR.pack 29#6 { f := 1#6, n := g.n, p := g.p, b := 0#5, a := a, d := d })
  | .vredminF32 d a g => .word (FmtRR.pack 29#6 { f := 2#6, n := g.n, p := g.p, b := 0#5, a := a, d := d })
  | .vredsumS32 d a g => .word (FmtRR.pack 29#6 { f := 3#6, n := g.n, p := g.p, b := 0#5, a := a, d := d })
  | .vredmaxS32 d a g => .word (FmtRR.pack 29#6 { f := 4#6, n := g.n, p := g.p, b := 0#5, a := a, d := d })
  | .vredminS32 d a g => .word (FmtRR.pack 29#6 { f := 5#6, n := g.n, p := g.p, b := 0#5, a := a, d := d })
  | .vredand d a g => .word (FmtRR.pack 29#6 { f := 6#6, n := g.n, p := g.p, b := 0#5, a := a, d := d })
  | .vredor d a g => .word (FmtRR.pack 29#6 { f := 7#6, n := g.n, p := g.p, b := 0#5, a := a, d := d })
  | .vperm d a b g => .word (FmtRR.pack 30#6 { f := 0#6, n := g.n, p := g.p, b := b, a := a, d := d })
  | .vslup d a b g => .word (FmtRR.pack 30#6 { f := 1#6, n := g.n, p := g.p, b := b, a := a, d := d })
  | .vsldn d a b g => .word (FmtRR.pack 30#6 { f := 2#6, n := g.n, p := g.p, b := b, a := a, d := d })
  | .vbcast d a b g => .word (FmtRR.pack 30#6 { f := 3#6, n := g.n, p := g.p, b := b, a := a, d := d })
  | .vcomp d a g => .word (FmtRR.pack 30#6 { f := 4#6, n := g.n, p := g.p, b := 0#5, a := a, d := d })
  | .vexpd d a g => .word (FmtRR.pack 30#6 { f := 5#6, n := g.n, p := g.p, b := 0#5, a := a, d := d })
  | .vzip d a b g => .word (FmtRR.pack 30#6 { f := 6#6, n := g.n, p := g.p, b := b, a := a, d := d })
  | .vunzip d a b g => .word (FmtRR.pack 30#6 { f := 7#6, n := g.n, p := g.p, b := b, a := a, d := d })
  | .vcmpEqS32 d a b g => .word (FmtRR.pack 31#6 { f := 0#6, n := g.n, p := g.p, b := b, a := a, d := d })
  | .vcmpNeS32 d a b g => .word (FmtRR.pack 31#6 { f := 1#6, n := g.n, p := g.p, b := b, a := a, d := d })
  | .vcmpLtS32 d a b g => .word (FmtRR.pack 31#6 { f := 2#6, n := g.n, p := g.p, b := b, a := a, d := d })
  | .vcmpLeS32 d a b g => .word (FmtRR.pack 31#6 { f := 3#6, n := g.n, p := g.p, b := b, a := a, d := d })
  | .vcmpLtN32 d a b g => .word (FmtRR.pack 31#6 { f := 4#6, n := g.n, p := g.p, b := b, a := a, d := d })
  | .vcmpLeN32 d a b g => .word (FmtRR.pack 31#6 { f := 5#6, n := g.n, p := g.p, b := b, a := a, d := d })
  | .vcmpEqF32 d a b g => .word (FmtRR.pack 31#6 { f := 6#6, n := g.n, p := g.p, b := b, a := a, d := d })
  | .vcmpLtF32 d a b g => .word (FmtRR.pack 31#6 { f := 7#6, n := g.n, p := g.p, b := b, a := a, d := d })
  | .vcmpLeF32 d a b g => .word (FmtRR.pack 31#6 { f := 8#6, n := g.n, p := g.p, b := b, a := a, d := d })
  | .vcmpUnF32 d a b g => .word (FmtRR.pack 31#6 { f := 9#6, n := g.n, p := g.p, b := b, a := a, d := d })
  | .pand d a b g => .word (FmtRR.pack 31#6 { f := 10#6, n := g.n, p := g.p, b := b, a := a, d := d })
  | .por d a b g => .word (FmtRR.pack 31#6 { f := 11#6, n := g.n, p := g.p, b := b, a := a, d := d })
  | .pxor d a b g => .word (FmtRR.pack 31#6 { f := 12#6, n := g.n, p := g.p, b := b, a := a, d := d })
  | .pnot d b g => .word (FmtRR.pack 31#6 { f := 13#6, n := g.n, p := g.p, b := b, a := 0#5, d := d })
  | .pcnt d b g => .word (FmtRR.pack 31#6 { f := 14#6, n := g.n, p := g.p, b := b, a := 0#5, d := d })
  | .pfirst d b g => .word (FmtRR.pack 31#6 { f := 15#6, n := g.n, p := g.p, b := b, a := 0#5, d := d })
  | .vcmpEqS32ScalarB d a b g => .word (FmtRR.pack 31#6 { f := 32#6, n := g.n, p := g.p, b := b, a := a, d := d })
  | .vcmpNeS32ScalarB d a b g => .word (FmtRR.pack 31#6 { f := 33#6, n := g.n, p := g.p, b := b, a := a, d := d })
  | .vcmpLtS32ScalarB d a b g => .word (FmtRR.pack 31#6 { f := 34#6, n := g.n, p := g.p, b := b, a := a, d := d })
  | .vcmpLeS32ScalarB d a b g => .word (FmtRR.pack 31#6 { f := 35#6, n := g.n, p := g.p, b := b, a := a, d := d })
  | .vcmpLtN32ScalarB d a b g => .word (FmtRR.pack 31#6 { f := 36#6, n := g.n, p := g.p, b := b, a := a, d := d })
  | .vcmpLeN32ScalarB d a b g => .word (FmtRR.pack 31#6 { f := 37#6, n := g.n, p := g.p, b := b, a := a, d := d })
  | .vcmpEqF32ScalarB d a b g => .word (FmtRR.pack 31#6 { f := 38#6, n := g.n, p := g.p, b := b, a := a, d := d })
  | .vcmpLtF32ScalarB d a b g => .word (FmtRR.pack 31#6 { f := 39#6, n := g.n, p := g.p, b := b, a := a, d := d })
  | .vcmpLeF32ScalarB d a b g => .word (FmtRR.pack 31#6 { f := 40#6, n := g.n, p := g.p, b := b, a := a, d := d })
  | .vcmpUnF32ScalarB d a b g => .word (FmtRR.pack 31#6 { f := 41#6, n := g.n, p := g.p, b := b, a := a, d := d })
  | .vldB32 d a g => .word (FmtRR.pack 32#6 { f := 0#6, n := g.n, p := g.p, b := 0#5, a := a, d := d })
  | .vstB32 d a g => .word (FmtRR.pack 32#6 { f := 1#6, n := g.n, p := g.p, b := 0#5, a := a, d := d })
  | .vldsB32 d a b g => .word (FmtRR.pack 32#6 { f := 2#6, n := g.n, p := g.p, b := b, a := a, d := d })
  | .vstsB32 d a b g => .word (FmtRR.pack 32#6 { f := 3#6, n := g.n, p := g.p, b := b, a := a, d := d })
  | .vldS16 d a g => .word (FmtRR.pack 32#6 { f := 4#6, n := g.n, p := g.p, b := 0#5, a := a, d := d })
  | .vldS8 d a g => .word (FmtRR.pack 32#6 { f := 5#6, n := g.n, p := g.p, b := 0#5, a := a, d := d })
  | .vgatherB32 d a b g => .word (FmtRR.pack 33#6 { f := 0#6, n := g.n, p := g.p, b := b, a := a, d := d })
  | .vscatterB32 d a b g => .word (FmtRR.pack 33#6 { f := 1#6, n := g.n, p := g.p, b := b, a := a, d := d })
  | .vsetl d a => .word (FmtRR.pack 34#6 { f := 0#6, n := false, p := 0#3, b := 0#5, a := a, d := d })
  | .lsld d a g => .word (FmtRR.pack 34#6 { f := 1#6, n := g.n, p := g.p, b := 0#5, a := a, d := d })
  | .lsst d a g => .word (FmtRR.pack 34#6 { f := 2#6, n := g.n, p := g.p, b := 0#5, a := a, d := d })
  | .lsldx d b g => .word (FmtRR.pack 34#6 { f := 3#6, n := g.n, p := g.p, b := b, a := 0#5, d := d })
  | .lsstx d b g => .word (FmtRR.pack 34#6 { f := 4#6, n := g.n, p := g.p, b := b, a := 0#5, d := d })
  | .mstream t a b ord => .word (FmtX.pack 35#6 { f5 := 0#5, rel := ord.rel, acq := ord.acq, scope := ord.scope, b := b, a := a, t := t })
  | .mstreamz t a b ord => .word (FmtX.pack 35#6 { f5 := 1#5, rel := ord.rel, acq := ord.acq, scope := ord.scope, b := b, a := a, t := t })
  | .mdrain t a b ord => .word (FmtX.pack 35#6 { f5 := 2#5, rel := ord.rel, acq := ord.acq, scope := ord.scope, b := b, a := a, t := t })
  | .mwait => .word (FmtX.pack 35#6 { f5 := 3#5, rel := false, acq := false, scope := 0#3, b := 0#5, a := 0#5, t := 0#5 })
  | .mfmt a => .word (FmtRR.pack 36#6 { f := 0#6, n := false, p := 0#3, b := 0#5, a := a, d := 0#5 })
  | .mlatch a b => .word (FmtRR.pack 36#6 { f := 1#6, n := false, p := 0#3, b := b, a := a, d := 0#5 })
  | .mgeom d a b => .word (FmtRR.pack 36#6 { f := 2#6, n := false, p := 0#3, b := b, a := a, d := d })
  | .mspar a => .word (FmtRR.pack 36#6 { f := 3#6, n := false, p := 0#3, b := 0#5, a := a, d := 0#5 })
  | .mzero => .word (FmtRR.pack 36#6 { f := 4#6, n := false, p := 0#3, b := 0#5, a := 0#5, d := 0#5 })
  | .mscale a => .word (FmtRR.pack 36#6 { f := 5#6, n := false, p := 0#3, b := 0#5, a := a, d := 0#5 })
  | .mrow d a => .word (FmtRR.pack 36#6 { f := 6#6, n := false, p := 0#3, b := 0#5, a := a, d := d })
  | .mrowst d a => .word (FmtRR.pack 36#6 { f := 7#6, n := false, p := 0#3, b := 0#5, a := a, d := d })
  | .baddqBx4 d a b => .word (FmtRR.pack 37#6 { f := 0#6, n := false, p := 0#3, b := b, a := a, d := d })
  | .baddqBx8i d a b => .word (FmtRR.pack 37#6 { f := 1#6, n := false, p := 0#3, b := b, a := a, d := d })
  | .copy t a ord => .word (FmtX.pack 38#6 { f5 := 0#5, rel := ord.rel, acq := ord.acq, scope := ord.scope, b := 0#5, a := a, t := t })
  | .copyl t a ord => .word (FmtX.pack 39#6 { f5 := 0#5, rel := ord.rel, acq := ord.acq, scope := ord.scope, b := 0#5, a := a, t := t })
  | .halo t a ord => .word (FmtX.pack 40#6 { f5 := 0#5, rel := ord.rel, acq := ord.acq, scope := ord.scope, b := 0#5, a := a, t := t })
  | .weft t a ord => .word (FmtX.pack 41#6 { f5 := 0#5, rel := ord.rel, acq := ord.acq, scope := ord.scope, b := 0#5, a := a, t := t })
  | .seal d => .word (FmtRI.pack 42#6 { i := 0#12, f3 := 0#3, a := 0#5, d := d })
  | .bwait i => .word (FmtRI.pack 42#6 { i := i, f3 := 1#3, a := 0#5, d := 0#5 })
  | .cseq d e => .word (FmtRI.pack 42#6 { i := 0#10 ++ e, f3 := 2#3, a := 0#5, d := d })
  | .chain a b => .word (FmtX.pack 43#6 { f5 := 0#5, rel := false, acq := false, scope := 0#3, b := b, a := a, t := 0#5 })
  | .launch t a b => .word (FmtX.pack 44#6 { f5 := 0#5, rel := false, acq := false, scope := 0#3, b := b, a := a, t := t })
  | .spawn t a => .word (FmtX.pack 44#6 { f5 := 1#5, rel := false, acq := false, scope := 0#3, b := 0#5, a := a, t := t })
  | .suspend a => .word (FmtRI.pack 45#6 { i := 0#12, f3 := 0#3, a := a, d := 0#5 })
  | .yield => .word (FmtRI.pack 45#6 { i := 0#12, f3 := 1#3, a := 0#5, d := 0#5 })
  | .exit => .word (FmtRI.pack 45#6 { i := 0#12, f3 := 2#3, a := 0#5, d := 0#5 })
  | .grpForm d a => .word (FmtRI.pack 46#6 { i := 0#12, f3 := 0#3, a := a, d := d })
  | .grpJoin => .word (FmtRI.pack 46#6 { i := 0#12, f3 := 1#3, a := 0#5, d := 0#5 })
  | .grpLeave => .word (FmtRI.pack 46#6 { i := 0#12, f3 := 2#3, a := 0#5, d := 0#5 })
  | .seqOpen d => .word (FmtRI.pack 47#6 { i := 0#12, f3 := 0#3, a := 0#5, d := d })
  | .seqClose a => .word (FmtRI.pack 47#6 { i := 0#12, f3 := 1#3, a := a, d := 0#5 })
  | .seqBind a => .word (FmtRI.pack 47#6 { i := 0#12, f3 := 2#3, a := a, d := 0#5 })
  | .trap i => .word (FmtRI.pack 48#6 { i := 0#4 ++ i, f3 := 0#3, a := 0#5, d := 0#5 })
  | .rfe => .word (FmtRI.pack 48#6 { i := 0#12, f3 := 1#3, a := 0#5, d := 0#5 })
  | .wfm => .word (FmtRI.pack 48#6 { i := 0#12, f3 := 2#3, a := 0#5, d := 0#5 })
  | .mfsp d i => .word (FmtRI.pack 48#6 { i := i, f3 := 3#3, a := 0#5, d := d })
  | .mtsp a i => .word (FmtRI.pack 48#6 { i := i, f3 := 4#3, a := a, d := 0#5 })
  | .dirLd d a => .word (FmtRR.pack 49#6 { f := 0#6, n := false, p := 0#3, b := 0#5, a := a, d := d })
  | .dirSt a b => .word (FmtRR.pack 49#6 { f := 1#6, n := false, p := 0#3, b := b, a := a, d := 0#5 })
  | .tagGet d a => .word (FmtRR.pack 49#6 { f := 2#6, n := false, p := 0#3, b := 0#5, a := a, d := d })
  | .tagSet a b => .word (FmtRR.pack 49#6 { f := 3#6, n := false, p := 0#3, b := b, a := a, d := 0#5 })
  | .bxfer t a b => .word (FmtX.pack 50#6 { f5 := 0#5, rel := false, acq := false, scope := 0#3, b := b, a := a, t := t })
  | .reply a b => .word (FmtX.pack 50#6 { f5 := 1#5, rel := false, acq := false, scope := 0#3, b := b, a := a, t := 0#5 })
  | .nack a => .word (FmtX.pack 50#6 { f5 := 2#5, rel := false, acq := false, scope := 0#3, b := 0#5, a := a, t := 0#5 })
  | .fwd a b => .word (FmtX.pack 50#6 { f5 := 3#5, rel := false, acq := false, scope := 0#3, b := b, a := a, t := 0#5 })
  | .hend => .word (FmtRI.pack 51#6 { i := 0#12, f3 := 0#3, a := 0#5, d := 0#5 })
  | .vaddF32Compact d b p1 => .half (BitVec.ofBool p1 ++ b ++ d ++ 0#4 ++ 0#1)
  | .vsubF32Compact d b p1 => .half (BitVec.ofBool p1 ++ b ++ d ++ 1#4 ++ 0#1)
  | .vmulF32Compact d b p1 => .half (BitVec.ofBool p1 ++ b ++ d ++ 2#4 ++ 0#1)
  | .vmaxF32Compact d b p1 => .half (BitVec.ofBool p1 ++ b ++ d ++ 3#4 ++ 0#1)
  | .vminF32Compact d b p1 => .half (BitVec.ofBool p1 ++ b ++ d ++ 4#4 ++ 0#1)
  | .vaddS32Compact d b p1 => .half (BitVec.ofBool p1 ++ b ++ d ++ 5#4 ++ 0#1)
  | .vsubS32Compact d b p1 => .half (BitVec.ofBool p1 ++ b ++ d ++ 6#4 ++ 0#1)
  | .vmulS32Compact d b p1 => .half (BitVec.ofBool p1 ++ b ++ d ++ 7#4 ++ 0#1)
  | .vandCompact d b p1 => .half (BitVec.ofBool p1 ++ b ++ d ++ 8#4 ++ 0#1)
  | .vorCompact d b p1 => .half (BitVec.ofBool p1 ++ b ++ d ++ 9#4 ++ 0#1)
  | .vxorCompact d b p1 => .half (BitVec.ofBool p1 ++ b ++ d ++ 10#4 ++ 0#1)
  | .vshlCompact d b p1 => .half (BitVec.ofBool p1 ++ b ++ d ++ 11#4 ++ 0#1)
  | .vshrCompact d b p1 => .half (BitVec.ofBool p1 ++ b ++ d ++ 12#4 ++ 0#1)
  | .vsarCompact d b p1 => .half (BitVec.ofBool p1 ++ b ++ d ++ 13#4 ++ 0#1)
  | .vmovCompact d b p1 => .half (BitVec.ofBool p1 ++ b ++ d ++ 14#4 ++ 0#1)
  | .vnegF32Compact d b p1 => .half (BitVec.ofBool p1 ++ b ++ d ++ 15#4 ++ 0#1)
  | _ => .none

/-- The bytes of an instruction. -/
def encodeBytes (i : Instr) : List Byte := (encode i).bytes

/-- The bytes of an instruction whose bits are `w`, numbered as the opcode table numbers them: every word little-endian,
the first at the lowest address, `n` bytes of them. -/
def tableBytes (n w : Nat) : List Byte :=
  match n with
  | 0 => []
  | n + 1 => BitVec.ofNat 8 w :: tableBytes n (w / 256)

/-- What this decoder reads from an instruction whose bits are `w` (bits from `nbits` upward are zero): the longest
instruction has 8 bytes. -/
noncomputable def decodeTableWord (nbits w : Nat) : Option Instr :=
  match decode (tableBytes 8 (w % 2 ^ nbits)) with
  | .ok (i, _) => some i
  | .error _ => none

end Sys2Proof
end

