-- ==== Sys2Proof/Machine/Fetch.lean ====
section
/-! DEFINITION. Who may issue, demand fetch through the instruction cache with its start-map words (R47, R48, R61 to R65, Tables
2.7 and 2.8 rows 1 and 2), and the forwarding of a vector group's words (R231). -/

namespace Sys2Proof.Machine

/-- A failed fetch: its cause, extra word and the lowest address that failed (R65). -/
structure FetchFail where
  bad : Bad
  addr : VAddr
  deriving DecidableEq, Repr

/-- Translate text or a start-map word and check the page (Table 2.7); a page of a peer device is refused as not present (log
entry 15). -/
def State.fetchLeaf (s : State) (core : Nat) (d : DomId) (text : Bool) (va : VAddr) : Except Bad Leaf × State :=
  match s.translate core d true va with
  | (.error x, s) => (.error (x.bad true), s)
  | (.ok e, s) =>
    let l := e.leaf va
    if l.loc = 2 then (.error { cause := 0x18, extra := 0 }, s)
    else if (if text then l.xn else !l.r) then (.error { cause := 0x11, extra := 0 }, s)
    else if !s.keyLive l.key then (.error { cause := 0x14, extra := 0 }, s)
    else (.ok l, s)

/-- Read n bytes that lie in one block behind a leaf (Table 2.7, last row). -/
def State.fetchBytes (s : State) (l : Leaf) (n : Nat) : Except Bad (List Byte) :=
  if l.loc = 1 then .ok (s.mem.bytes (hostLoc l.pa) n)
  else if s.readable (blockNo l.pa) l.key then .ok (s.mem.bytes l.pa n)
  else .error { cause := 0x15, extra := 0 }

/-- The cache's address of a line. -/
def Leaf.lineAddr (l : Leaf) : Nat := if l.loc = 1 then hostLoc l.pa else l.pa

/-- Install a line: 4 ways of a set chosen by bits 12 to 7 of the physical address (R61 says only address bits; log entry 8), giving up
one that the implementation picks. -/
def State.installLine (s : State) (core : Nat) (x : ICLine) : State :=
  let k := s.core core
  let set := k.icache.filter (fun y => y.pa / 128 % 64 == x.pa / 128 % 64)
  if set.length < 4 then s.setCore core { k with icache := x :: k.icache }
  else
    let out := set.getD (Config.victim s.freeCtr % set.length) x
    ({ s with freeCtr := s.freeCtr + 1 }).setCore core { k with icache := x :: k.icache.erase out }

/-- The start-map word of a line of an image's text range (R47, R74). A line outside the fetching thread's range (a prefetch, a line
fetched ahead, the second line of a straddle) is kept with the word 0, and a thread of another image that hits it then finds no start
marked: the spec gives no word there; DESIGN CHOICE, log entry 8. -/
def State.mapWord (s : State) (core : Nat) (d : DomId) (im : Image) (line : VAddr) : Except FetchFail (BitVec 64) × State :=
  let first := im.text.toNat / 128
  let here := line.toNat / 128
  if first ≤ here ∧ line.toNat < im.text.toNat + im.tsize.toNat then
    let ma := im.smap + BitVec.ofNat 56 (8 * (here - first))
    match s.fetchLeaf core d false ma with
    | (.error b, s) => (.error { bad := b, addr := ma }, s)
    | (.ok l, s) =>
      match s.fetchBytes l 8 with
      | .error b => (.error { bad := b, addr := ma }, s)
      | .ok bs => (.ok (BitVec.ofNat 64 (ofLE bs)), s)
  else (.ok 0, s)

/-- Fetch the line at a line-aligned address for an instruction at `pc` (R61, R65). After a store to the text a line that the cache
holds gives all old bytes and one that it reads anew all new bytes, where R62 lets the two mix halfword by halfword: DESIGN CHOICE,
log entry 8. -/
def State.fetchLine (s : State) (core : Nat) (d : DomId) (im : Image) (line pc : VAddr) : Except FetchFail ICLine × State :=
  let at_ : VAddr := if line.toNat ≤ pc.toNat ∧ pc.toNat < line.toNat + 128 then pc else line
  match s.fetchLeaf core d true line with
  | (.error b, s) => (.error { bad := b, addr := at_ }, s)
  | (.ok l, s) =>
    match (s.core core).icache.find? (fun x => x.pa == l.lineAddr && x.key == l.key) with
    | some x => (.ok x, s)
    | none =>
      match s.fetchBytes l 128 with
      | .error b => (.error { bad := b, addr := at_ }, s)
      | .ok bs =>
        match s.mapWord core d im line with
        | (.error f, s) => (.error f, s)
        | (.ok w, s) =>
          let x : ICLine := { pa := l.lineAddr, key := l.key, text := blockOf bs, map := w }
          (.ok x, s.installLine core x)

/-- What a fetch gives: the bytes from the PC on, a failed demand fetch, or a target that no start map marks (R48). -/
inductive Fetched where
  | bytes (bs : List Byte)
  | fail (f : FetchFail)
  | notStart
  deriving DecidableEq, Repr

/-- The bytes of a line from an offset on. -/
def ICLine.from (x : ICLine) (k : Nat) : List Byte := (List.range (128 - k)).map (fun i => blockByte x.text (k + i))

/-- The bytes an instruction has, as far as its first bytes show them (R45). -/
def wholeLength (bs : List Byte) : Nat :=
  match bs with
  | b :: _ => if instrLength b = 2 then 2 else if field b 6 1 = 0x3F then 8 else 4
  | [] => 2

/-- Demand fetch of the instruction at a stream's PC. -/
def State.fetchAt (s : State) (t : Thread) (c : Ctx) : Fetched × State :=
  let off := c.pc.toNat % 128
  let line : VAddr := c.pc >>> 7 <<< 7
  match s.fetchLine t.core t.dom t.image line c.pc with
  | (.error f, s) => (.fail f, s)
  | (.ok x, s) =>
    let bs := x.from off
    let marked := decide (t.image.text.toNat ≤ c.pc.toNat) && decide (c.pc.toNat < t.image.text.toNat + t.image.tsize.toNat) &&
      bit x.map (off / 2)
    let done (bs : List Byte) : Fetched := if c.atTarget && !marked then .notStart else .bytes bs
    if wholeLength bs ≤ bs.length then (done bs, s)
    else match s.fetchLine t.core t.dom t.image (line + 128) c.pc with
      | (.error f, s) => (.fail f, s)
      | (.ok y, s) => (done (bs ++ y.from 0), s)

/-- Fetch of a heddle thread from its draft's image (R47, R237, R360); past the end of the text stand zero halfwords. -/
def State.fetchDraft (s : State) (x : HeddleCtx) (c : Ctx) : Fetched :=
  match alGet s.drafts (field x.hdraft 3 0) with
  | none => .notStart
  | some d =>
    let off := c.pc.toNat
    if c.atTarget && !(decide (off < d.text.length) && bit (d.smap.getD (off / 16) 0) (off / 2 % 8)) then .notStart
    else .bytes (((d.text.drop off).take 8) ++ [0, 0])

/-- The word forwarded to a follower that its turn now executes (R231). -/
def State.armedWord (s : State) (a : Agent) : Option FwdWord :=
  if a.acc then none
  else match s.groupOf a.tid with
    | some (_, g) => if g.armed.contains a.tid then (alGetD g.words a.tid []).head? else none
    | none => none

/-- Fetch for an agent's turn. An instruction that has issued and waits is not fetched again (R65). -/
def State.fetch (s : State) (a : Agent) (t : Thread) : Fetched × State :=
  match s.armedWord a with
  | some w => (.bytes w.bytes, s)
  | none =>
    if (t.ctx a.acc).midway ∧ (t.ctx a.acc).word ≠ [] then (.bytes (t.ctx a.acc).word, s)
    else match t.heddle with
    | some x => (s.fetchDraft x (t.ctx a.acc), s)
    | none => s.fetchAt t (t.ctx a.acc)

/-- A leader must wait while a follower's store of 16 words is full (R231). -/
def VGroup.full (g : VGroup) : Bool :=
  g.members.any (fun m => m.2.1 && !m.2.2 && decide (16 ≤ (alGetD g.words m.1 []).length))

/-- An agent's thread exists, runs, is placed, and its stream may issue; on a shuttle that is pre-empted only an instruction that has
issued goes on (R262), and an event entry comes before the execute stream's next (R376). -/
def State.canIssue (s : State) (a : Agent) (t : Thread) : Bool :=
  let placed : Bool := match t.heddle with
    | some _ => true
    | none =>
      if t.kind = .full then
        decide ((s.core t.core).full = some a.tid) && ((s.core t.core).preempt.isNone || !(t.ctx a.acc).atBoundary) &&
          (a.acc || !s.eventDue t.core t)
      else decide (vget (s.core t.core).slots t.slot none = some a.tid)
  let group : Bool := if a.acc then true else match s.groupOf a.tid with
    | none => true
    | some (_, g) =>
      if g.leader = a.tid then !g.full
      else if s.attached a.tid then
        g.armed.contains a.tid || s.forming.any (fun f => f.2.formed.isSome && f.2.issued.contains a.tid)
      else true
  decide (t.status = .running) && (t.ctx a.acc).running && (!a.acc || t.kind == .full) && placed && group && !t.leaving

/-- The major of the instruction that some bytes begin with, its modifier word apart (R45, R49). -/
def majorOf (bs : List Byte) : Nat := field (if wholeLength bs = 8 then bs.getD 4 0 else bs.headD 0) 6 1

/-- The instruction is work for the vector units or the weave array (Table 2.4); every compact form is (Table 2.2). -/
def weavesOrVector (bs : List Byte) : Bool := wholeLength bs == 2 || (decide (0x19 ≤ majorOf bs) && decide (majorOf bs ≤ 0x25))

/-- A throttled die's vector units and weave arrays accept no work in this cycle: they do in one of two (R410). -/
def State.throttled (s : State) (die : Nat) : Bool := (s.die die).throt && s.tick % 2 == 1

/-- A word is a `grp.form`, which a leader does not forward. -/
def isGroupForm (bs : List Byte) : Bool :=
  match bs with
  | b :: _ :: c :: _ => instrLength b == 4 && field b 6 1 == 0x2E && field c 3 1 == 0
  | _ => false

/-- After a leader has issued: its word goes to every attached follower (R231). After a follower has executed a forwarded word,
it is dropped, and the follower detaches where its next PC differs from the leader's or only one of them has jumped there (R123), or
goes on alone after the last word of a leader that has stopped. -/
def State.forward (s : State) (a : Agent) (word : Option FwdWord) (pc : VAddr) (bs : List Byte) : State :=
  match s.thread? a.tid, s.groupOf a.tid with
  | some t, some (gid, g) =>
    if a.acc ∨ (t.ctx false).wait ≠ .none ∨ t.status ≠ .running ∨ isGroupForm bs then s
    else if g.leader = a.tid then
      let words := g.members.foldl (fun ws m =>
        if m.1 ≠ a.tid ∧ m.2.1 ∧ !m.2.2 then alSet ws m.1 (alGetD ws m.1 [] ++ [{ pc := pc, bytes := bs, next := t.exe.pc, jumped := t.exe.atTarget }]) else ws) g.words
      { s with groups := alSet s.groups gid { g with words := words } }
    else match word with
      | none => s
      | some w =>
        let g := { g with words := alSet g.words a.tid ((alGetD g.words a.tid []).drop 1), armed := g.armed.erase a.tid }
        let s := { s with groups := alSet s.groups gid g }
        if t.exe.pc ≠ w.next ∨ t.exe.atTarget ≠ w.jumped then s.detach a.tid false
        else if g.dissolved ∧ alGetD g.words a.tid [] = [] then s.detach a.tid true
        else s
  | _, _ => s

/-- A hint predicts a branch taken (R51, R63). -/
def hintTaken (h : BitVec 2) : Bool := h == 1 || h == 3

/-- Where the fetch unit goes on after the instruction that some bytes at `pc` begin with (R63, Table 2.5); none where it stops. A
`loop`'s count is known to end when its register holds 1 now (log entry 29). -/
def predicted (c : Ctx) (pc : VAddr) (bs : List Byte) : Option VAddr :=
  let next : VAddr := pc + BitVec.ofNat 56 (wholeLength bs)
  let w : BitVec 32 := BitVec.ofNat 32 (ofLE (bs.take 4))
  let bz := FmtBZ.parse w
  let hinted {k : Nat} (o : BitVec k) (h : BitVec 2) : Option VAddr := some (if hintTaken h then relTarget pc o else next)
  if wholeLength bs ≠ 4 then some next
  else match field w 6 1 with
    | 0x06 => hinted (FmtBC.parse w).o (FmtBC.parse w).h
    | 0x07 | 0x0D => hinted bz.o bz.h
    | 0x08 | 0x09 => some (relTarget pc (FmtJ.parse w).o)
    | 0x0A => none
    | 0x0B => if c.reg bz.a.toNat = 1 then some next else hinted bz.o bz.h
    | 0x2D => if (FmtRI.parse w).f3 = 1 then some next else none
    | 0x30 => if (FmtRI.parse w).f3 = 1 then none else some next
    | _ => some next

/-- A line as it stands in a core's instruction cache, by virtual address. -/
def State.residentLine (s : State) (core : Nat) (d : DomId) (line : VAddr) : Option ICLine :=
  match (s.fetchLeaf core d true line).1 with
  | .ok l => (s.core core).icache.find? (fun x => x.pa == l.lineAddr && x.key == l.key)
  | .error _ => none

/-- The bytes of the instruction at an address, as far as its lines are in the cache. -/
def State.residentBytes (s : State) (core : Nat) (d : DomId) (pc : VAddr) : Option (List Byte) :=
  let line : VAddr := pc >>> 7 <<< 7
  match s.residentLine core d line with
  | none => none
  | some x =>
    let bs := x.from (pc.toNat % 128)
    if wholeLength bs ≤ bs.length then some bs else (s.residentLine core d (line + 128)).map (fun y => bs ++ y.from 0)

/-- The lines that the fetch unit reaches on the predicted path from an address on, at most `more` past the present one (R63). A line
not in the cache ends the path: what stands in it is not known. -/
def State.pathLines (s : State) (core : Nat) (d : DomId) (c : Ctx) : Nat → Nat → VAddr → List VAddr
  | 0, _, _ => []
  | fuel + 1, more, pc =>
    let line : VAddr := pc >>> 7 <<< 7
    match s.residentBytes core d pc with
    | none => if (s.residentLine core d line).isSome ∧ 0 < more then [line + 128] else []
    | some bs =>
      match predicted c pc bs with
      | none => []
      | some next =>
        let to_ : VAddr := next >>> 7 <<< 7
        if to_ = line then s.pathLines core d c fuel more next
        else match more with
          | 0 => []
          | m + 1 => to_ :: s.pathLines core d c fuel m next

/-- The lines that a stream's fetch unit may request now: those on its path that it has not requested since the stream last left the
predicted path (R63, R245). -/
def State.aheadLines (s : State) (t : Thread) (acc : Bool) : List VAddr :=
  let c := t.ctx acc
  if t.heddle.isSome ∨ !c.running then []
  else (s.pathLines t.core t.dom c 256 2 c.pc).filter (fun l => !c.ahead.contains l)

/-- A stream has moved on: the line it is in is no longer ahead of it, and off the predicted path nothing is. -/
def Ctx.keepAhead (c : Ctx) (from_ : Ctx) (bs : List Byte) : Ctx :=
  if c.pc = from_.pc then c
  else { c with ahead := if predicted from_ from_.pc bs = some c.pc then c.ahead.erase (c.pc >>> 7 <<< 7) else [] }

/-- An instruction that has issued and is to complete later keeps its bytes (R65). -/
def State.keepWord (s : State) (a : Agent) (pc : VAddr) (bs : List Byte) : State :=
  match s.thread? a.tid with
  | some t =>
    if (t.ctx a.acc).midway ∧ (t.ctx a.acc).pc = pc then s.updThread a.tid (fun u => u.updCtx a.acc (fun c => { c with word := bs })) else s
  | none => s

/-- After an agent's instruction: its word is forwarded (R231), and its fetch unit follows it (R63); `old` is the state before. -/
def State.afterIssue (s : State) (old : State) (a : Agent) (word : Option FwdWord) (pc : VAddr)
    (bs : List Byte) : State :=
  let s := (s.forward a word pc bs).keepWord a pc bs
  match old.thread? a.tid with
  | none => s
  | some t => if (t.ctx a.acc).ahead.isEmpty then s else s.updThread a.tid (fun u => u.updCtx a.acc (fun c => c.keepAhead (t.ctx a.acc) bs))

/-- An input that an agenda may name as an event: a row of the table without an encoding that no issued word raises. -/
def isEvent (i : Instr) : Bool :=
  match i with
  | .illegalInstruction _ => false
  | .modifierWord _ _ => false
  | _ => match encode i with
    | .none => true
    | _ => false

/-- A device that has stopped as fatal takes no input but a reset (R387, R400). -/
def revives (t : Turn) : Bool :=
  match t.act with
  | .event (.deviceReset _) => true
  | _ => false

end Sys2Proof.Machine
end

