-- ==== Sys2Proof/Machine/Block.lean ====
section
/-! DEFINITION. Block formats BX4 and BX8I: decoding (R80 to R82) and the block scale rules (R89, R90). -/

namespace Sys2Proof.Machine

/-- A coded block: payload bytes (16 for BX4, 32 for BX8I), scale, extra byte, and the flags of its coding. -/
structure Coded where
  payload : List Byte
  scale : Nat
  extra : Nat
  flags : FF
  deriving DecidableEq, Repr

/-- Magnitudes of the E2M1 codes in halves (Table 3.2). -/
def e2m1Half (c : Nat) : Nat := [0, 1, 2, 3, 4, 6, 8, 12].getD (c % 8) 0

/-- The exact value of a BX4 code under a scale and extra byte (R80). -/
def bx4Value (code scale extra : Nat) : FVal :=
  if scale = 255 then .nan false
  else if code = 8 then
    let x := (BitVec.ofNat 8 extra).toInt
    .fin (decide (x < 0)) x.natAbs ((scale : Int) - 128)
  else .fin (decide (8 < code)) (e2m1Half code) ((scale : Int) - 128)

/-- The exact value of a BX8I byte under a scale (R82). -/
def bx8iValue (q : Byte) (scale : Nat) : FVal :=
  if scale = 255 then .nan false
  else .fin (decide (q.toInt < 0)) q.toInt.natAbs ((scale : Int) - 127)

/-- Code i of a BX4 payload (R81). -/
def bx4Code (payload : List Byte) (i : Nat) : Nat :=
  let b := (payload.getD (i / 2) 0).toNat
  if i % 2 = 0 then b % 16 else b / 16

/-- Element i of a BX4 block. -/
def Coded.bx4 (c : Coded) (i : Nat) : FVal := bx4Value (bx4Code c.payload i) c.scale c.extra

/-- Element i of a BX8I block. -/
def Coded.bx8i (c : Coded) (i : Nat) : FVal := bx8iValue (c.payload.getD i 0) c.scale

/-- A value is finite. -/
def FVal.isFin (v : FVal) : Bool :=
  match v with
  | .fin _ _ _ => true
  | _ => false

/-- The least exponent of the values of a list, at most e. -/
def minExp : List FVal → Int → Int
  | [], e => e
  | .fin _ m k :: l, e => minExp l (if m = 0 then e else min e k)
  | _ :: l, e => minExp l e

/-- A finite value as an integer multiple of 2^e, where e is at most its exponent. -/
def FVal.scaled (v : FVal) (e : Int) : Int :=
  match v with
  | .fin n m k => if m = 0 then 0 else signed n (m * 2 ^ (k - e).toNat)
  | _ => 0

/-- The least K with n at most 2^K. -/
def clog2 (n : Nat) : Nat := if n ≤ 1 then 0 else Nat.log2 (n - 1) + 1

/-- An integer times 2^k, rounded to the nearest even integer. -/
def rneScale (i k : Int) : Int := signed (decide (i < 0)) (roundMul .rne (decide (i < 0)) i.natAbs k false 0).1

/-- i times 2^k equals j. -/
def scaleEq (i k j : Int) : Bool := if 0 ≤ k then i * 2 ^ k.toNat == j else i == j * 2 ^ (-k).toNat

/-- n times 2^k is above t (or at least t, when `eq`). -/
def aboveScaled (n : Nat) (k : Int) (t : Nat) (eq : Bool) : Bool :=
  let l := if 0 ≤ k then n * 2 ^ k.toNat else n
  let r := if 0 ≤ k then t else t * 2 ^ (-k).toNat
  decide (r < l) || (eq && l == r)

/-- The E2M1 code nearest n times 2^k, ties to the even code: thresholds in quarters (R89). -/
def e2m1Nearest (n : Nat) (k : Int) : Nat :=
  ([(1, false), (3, true), (5, false), (7, true), (10, false), (14, true), (20, false)].filter
    (fun t => aboveScaled n (k + 2) t.1 t.2)).length

/-- The largest magnitude of a list. -/
def maxMag : List Int → Nat
  | [] => 0
  | x :: l => max x.natAbs (maxMag l)

/-- The first position whose magnitude is m. -/
def firstMag (m : Nat) : List Int → Nat
  | [] => 0
  | x :: l => if x.natAbs = m then 0 else firstMag m l + 1

/-- The list without position j. -/
def dropAt {α : Type} : List α → Nat → List α
  | [], _ => []
  | _ :: l, 0 => l
  | x :: l, j + 1 => x :: dropAt l j

/-- Pack 4-bit codes, two a byte, the even element low (R81). -/
def packNibbles : List Nat → List Byte
  | a :: b :: l => BitVec.ofNat 8 (a + 16 * b) :: packNibbles l
  | [a] => [BitVec.ofNat 8 a]
  | [] => []

/-- Flags of a block coded with S = 0xFF (R89). -/
def nanBlockFlags (l : List FVal) : FF :=
  { FF.none with nv := l.any FVal.nv, nx := l.any (fun v => !v.isNan) }

/-- The block scale rule for BX4 (R89) on 32 exact values. Where S is clamped at 254, an element counts as saturated if its scaled
magnitude is above 6 before it is rounded, one whose nearest code is 6 too: the spec leaves open which do; DESIGN CHOICE, log entry
31. -/
def bx4Rule (l : List FVal) : Coded :=
  if l.any (fun v => !v.isFin) then
    { payload := List.replicate 16 0, scale := 255, extra := 0, flags := nanBlockFlags l }
  else
    let e := minExp l 1000
    let v := l.map (fun x => x.scaled e)
    let a1 := maxMag v
    let j := firstMag a1 v
    if a1 = 0 then
      { payload := packNibbles ((List.range 32).map (fun i => if i = j then 8 else 0)), scale := 127, extra := 0, flags := FF.none }
    else
      let a2 := maxMag (dropAt v j)
      let k := max (clog2 a1) (clog2 ((32 * a2 + 2) / 3))
      let s0 : Int := (k : Int) + 121 + e
      let s : Int := max 0 (min 254 s0)
      let sh := e + 127 - s
      let vj := v.getD j 0
      let x0 := rneScale vj (sh + 1)
      let x := max (-128) (min 127 x0)
      let code (i : Nat) (n : Int) : Nat :=
        if i = j then 8
        else
          let c := e2m1Nearest n.natAbs sh
          if c = 0 then 0 else if n < 0 then c + 8 else c
      let codes := v.zipIdx.map (fun p => code p.2 p.1)
      let half (i : Nat) (c : Nat) : Int :=
        if i = j then x else signed (decide (8 < c)) (e2m1Half c)
      let nx := (v.zip codes).zipIdx.any (fun p => !scaleEq p.1.1 (sh + 1) (half p.2 p.1.2))
      let clipped := x0 != x || v.zipIdx.any (fun p => p.2 != j && aboveScaled p.1.natAbs sh 6 false)
      { payload := packNibbles codes, scale := s.toNat, extra := (BitVec.ofInt 8 x).toNat,
        flags := { FF.none with nx := nx, of := decide (254 < s0) && clipped } }

/-- The block scale rule for BX8I (R90) on 32 exact values. -/
def bx8iRule (l : List FVal) : Coded :=
  if l.any (fun v => !v.isFin) then
    { payload := List.replicate 32 0, scale := 255, extra := 0, flags := nanBlockFlags l }
  else
    let e := minExp l 1000
    let v := l.map (fun x => x.scaled e)
    let a1 := maxMag v
    if a1 = 0 then { payload := List.replicate 32 0, scale := 127, extra := 0, flags := FF.none }
    else
      let k := clog2 ((128 * a1 + 126) / 127)
      let s0 : Int := (k : Int) + 120 + e
      let s : Int := max 0 (min 254 s0)
      let sh := e + 127 - s
      let q0 := v.map (fun i => rneScale i sh)
      let q := q0.map (fun i => max (-128) (min 127 i))
      let nx := (v.zip q).any (fun p => !scaleEq p.1 sh p.2)
      { payload := q.map (fun i => BitVec.ofInt 8 i), scale := s.toNat, extra := 0,
        flags := { FF.none with nx := nx, of := decide (254 < s0) && q0 != q } }

end Sys2Proof.Machine
end

