-- ==== Sys2Proof/Machine/Approx.lean ====
section
/-! DEFINITION. The approximations of `vrcp`, `vrsqrt`, `vexp2`, `vlog2` and `vtanh` (R147, Tables 3.4 and 5.4): a free value of the
implementation wherever it meets the bound, the correctly rounded value where it does not (log entry 3). -/

namespace Sys2Proof.Machine

/-- The five approximations. -/
inductive Approx where
  | rcp | rsqrt | exp2 | log2 | tanh
  deriving DecidableEq, Repr

/-- Fixed-point numbers below have 160 fraction bits. -/
def fixBits : Nat := 160

/-- A finite value in fixed point. -/
def toFix (neg : Bool) (m : Nat) (e : Int) : Int :=
  let k := e + fixBits
  signed neg (if 0 ≤ k then m * 2 ^ k.toNat else m / 2 ^ (-k).toNat)

/-- The value of the implementation's bits when it is within a tolerance of a fixed-point number. -/
def pickNear (bits : W32) (target : Int) (tol : Nat) : Exact :=
  let exact := Exact.num (decide (target < 0)) target.natAbs (-(fixBits : Int)) false
  match f32Val bits with
  | .fin n m e => if (toFix n m e - target).natAbs ≤ tol + 2 ^ 60 then .num n m e false else exact
  | _ => exact

/-- Scale an exact result by a power of two. -/
def Exact.shift (x : Exact) (k : Int) : Exact :=
  match x with
  | .num n m e s => .num n m (e + k) s
  | x => x

/-- 2^f for a fraction of n bits, by square roots of r, in fixed point. -/
def exp2Bits : Nat → Nat → Nat → Nat → Nat
  | 0, _, _, acc => acc
  | n + 1, f, r, acc =>
    let r := isqrt (r * 2 ^ fixBits)
    exp2Bits n f r (if f / 2 ^ n % 2 = 1 then acc * r / 2 ^ fixBits else acc)

/-- 2^(f / 2^64) in fixed point, for f below 2^64. -/
def exp2Frac (f : Nat) : Nat := exp2Bits 64 f (2 * 2 ^ fixBits) (2 ^ fixBits)

/-- n bits of log2 x, for x in fixed point from 1 to 2. -/
def log2Bits : Nat → Nat → Nat → Nat
  | 0, _, acc => acc
  | n + 1, x, acc =>
    let y := x * x / 2 ^ fixBits
    if 2 * 2 ^ fixBits ≤ y then log2Bits n (y / 2) (2 * acc + 1) else log2Bits n y (2 * acc)

/-- log2 e times 2^100. -/
def log2e : Nat := 1828833234529184422442202814989

/-- A power of two: k with m 2^e = 2^k. -/
def pow2Of (m : Nat) (e : Int) : Option Int := if 2 ^ Nat.log2 m = m then some (e + (Nat.log2 m : Int)) else none

/-- A magnitude of 24 significant bits and its exponent. -/
def norm24 (m : Nat) (e : Int) : Nat × Int := (m * 2 ^ (24 - bitLen m), e - ((24 - bitLen m : Nat) : Int))

/-- The approximated reciprocal of a positive value. -/
def rcpOf (bits : W32) (m : Nat) (e : Int) (normal : Bool) : Exact :=
  let (m, e) := norm24 m e
  let k := e + 23
  match (if normal then pow2Of m e else none) with
  | some k => .num false 1 (-k) false
  | none =>
    let tol := max (2 ^ (fixBits - 24)) (if k ≤ 150 then 2 ^ (fixBits - (150 - k).toNat) else 0)
    (pickNear (Config.rcpBits bits) ((2 ^ (fixBits + 23) / m : Nat) : Int) tol).shift (-k)

/-- The approximated reciprocal square root of a positive value. -/
def rsqrtOf (bits : W32) (m : Nat) (e : Int) : Exact :=
  let (m, e) := norm24 m e
  let (m, k) : Nat × Int := if (e + 23) % 2 = 0 then (m, e + 23) else (2 * m, e + 22)
  match pow2Of m 0 with
  | some j => if j = 23 then .num false 1 (-(k / 2)) false
      else (pickNear (Config.rsqrtBits bits) (isqrt (2 ^ (2 * fixBits + 23) / m) : Nat) (2 ^ (fixBits - 24))).shift (-(k / 2))
  | none => (pickNear (Config.rsqrtBits bits) (isqrt (2 ^ (2 * fixBits + 23) / m) : Nat) (2 ^ (fixBits - 24))).shift (-(k / 2))

/-- A finite value as its floor and a fraction of 64 bits, held within 260 of zero. -/
def splitInt (neg : Bool) (m : Nat) (e : Int) : Int × Nat :=
  if m = 0 then (0, 0)
  else if 9 ≤ (bitLen m : Int) + e then (if neg then -260 else 260, 0)
  else
    let k := e + 64
    let x := signed neg (if 0 ≤ k then m * 2 ^ k.toNat else (if neg then (m + 2 ^ (-k).toNat - 1) else m) / 2 ^ (-k).toNat)
    (x.fdiv (2 ^ 64), (x.fmod (2 ^ 64)).toNat)

/-- The approximated power of two, which POW scales. A result below 2^-126 may be off by 2^-150 before it is rounded to a multiple of
2^-149, so that no multiple is ruled out that lies within 2^-149 of the exact result (Table 5.4). -/
def exp2Of (pow : Int) (bits : W32) (neg : Bool) (m : Nat) (e : Int) (exact : Bool) : Exact :=
  let (i, f) := splitInt neg m e
  if exact then .num false 1 i false
  else
    let tol := if i + pow < -126 then 2 ^ ((fixBits : Int) + (-150 - i - pow)).toNat else 2 ^ (fixBits - 22)
    (pickNear (Config.exp2Bits bits) (exp2Frac f : Nat) tol).shift i

/-- The approximated base-2 logarithm of a positive value. -/
def log2Of (bits : W32) (m : Nat) (e : Int) : Exact :=
  match pow2Of m e with
  | some k => .num (decide (k < 0)) k.natAbs 0 false
  | none =>
    let (m, e) := norm24 m e
    let k := e + 23
    let l : Int := k * 2 ^ fixBits + ((log2Bits 64 (m * 2 ^ (fixBits - 23)) 0 * 2 ^ (fixBits - 64) : Nat) : Int)
    let tol := if k = 0 ∨ k = -1 then 2 ^ (fixBits - 22) else 2 ^ (bitLen l.natAbs - 23)
    pickNear (Config.log2Bits bits) l tol

/-- The approximated hyperbolic tangent of a positive value of at least 2^-12. -/
def tanhOf (bits : W32) (m : Nat) (e : Int) : Exact :=
  let big := decide (6 < (bitLen m : Int) + e)
  let y := if big then 128 * 2 ^ 64 else
    let p := m * log2e
    let k := e + 1 + 64 - 100
    if 0 ≤ k then p * 2 ^ k.toNat else p / 2 ^ (-k).toNat
  let ex := exp2Frac (y % 2 ^ 64) * 2 ^ (y / 2 ^ 64)
  let one := 2 ^ fixBits
  let t := (ex - one) * 2 ^ fixBits / (ex + one)
  let tol := if (bitLen m : Int) + e ≤ -1 then 2 ^ (fixBits - 22) else 2 ^ (bitLen t - 23)
  match pickNear (Config.tanhBits bits) (t : Nat) tol with
  | .num n a b s => if toFix n a b ≤ (2 ^ fixBits : Nat) then .num n a b s else .num false t (-(fixBits : Int)) false
  | x => x

/-- The sign of an exact result. -/
def Exact.negate (x : Exact) (n : Bool) : Exact :=
  match x with
  | .num a m e s => .num (a != n) m e s
  | .inf a => .inf (a != n)
  | .nan => .nan

/-- The result of an approximation with its special cases: exact value, flags, and whether it is exact (Tables 3.4, 5.4). A result is
normal or below 2^-126 as it is delivered, after POW, and `vtanh` is an odd function (log entry 3). -/
def Approx.eval (o : Approx) (pow : Int) (bits : W32) (v : FVal) : Exact × FF × Bool :=
  let dz := { FF.none with dz := true }
  match o, v with
  | _, .nan q => (.nan, { FF.none with nv := q }, true)
  | .rcp, .inf n => (.num n 0 0 false, FF.none, true)
  | .rcp, .fin n m e =>
    if m = 0 then (.inf n, dz, true)
    else
      let top : Int := (bitLen m : Int) - 1 + e
      let normal := decide (-126 ≤ pow - top) && decide (pow - top ≤ 127)
      ((rcpOf bits m e normal).negate n, FF.none, normal && (pow2Of m e).isSome)
  | .rsqrt, .inf n => if n then (.nan, FF.invalid, true) else (.num false 0 0 false, FF.none, true)
  | .rsqrt, .fin n m e =>
    if m = 0 then (.inf n, dz, true)
    else if n then (.nan, FF.invalid, true)
    else (rsqrtOf bits m e, FF.none, match pow2Of m e with
      | some k => k % 2 == 0
      | none => false)
  | .exp2, .inf n => (if n then .num false 0 0 false else .inf false, FF.none, true)
  | .exp2, .fin n m e =>
    let i := (splitInt n m e).1
    let integral := decide (m = 0) || decide (0 ≤ e) || decide (m % 2 ^ (-e).toNat = 0)
    let exact := integral && decide (-126 ≤ i + pow) && decide (i + pow ≤ 127)
    (exp2Of pow bits n m e (exact || m == 0), FF.none, m == 0 || exact)
  | .log2, .inf n => if n then (.nan, FF.invalid, true) else (.inf false, FF.none, true)
  | .log2, .fin n m e =>
    if m = 0 then (.inf true, dz, true)
    else if n then (.nan, FF.invalid, true)
    else (log2Of bits m e, FF.none, (pow2Of m e).isSome)
  | .tanh, .inf n => (.num n 1 0 false, FF.none, true)
  | .tanh, .fin n m e =>
    if m = 0 then (.num n 0 0 false, FF.none, true)
    else if (bitLen m : Int) + e ≤ -12 then (.num n m e false, FF.none, false)
    else ((tanhOf (bits &&& 0x7FFFFFFF) m e).negate n, FF.none, false)

/-- A pattern after ABS, then NEG. -/
def modBits (x : W32) (neg abs : Bool) : W32 :=
  let y := if abs then x &&& 0x7FFFFFFF else x
  if neg then y ^^^ 0x80000000 else y

/-- One lane of an approximation (R147): POW scales the approximated value, which is rounded to nearest-even; an inexact case
sets NX. -/
def Approx.lane (o : Approx) (m : Option Mod) (x : W32) : W32 × FF :=
  let bits := modBits x (negB m) (absB m)
  let t := tailOf m
  let r := o.eval t.pow bits ((f32Val x).mod (negB m) (absB m))
  let d := Fmt.f32.deliver .rne t r.1
  let fl := if r.2.2 then d.2 else
    let sticky : Exact := match r.1 with
      | .num n a e _ => .num n a e true
      | y => y
    { d.2 with nx := true, uf := (Fmt.f32.deliver .rne t sticky).2.uf }
  (BitVec.ofNat 32 d.1, r.2.1.or fl)

end Sys2Proof.Machine
end

