-- ==== Sys2Proof/Machine/Scalar.lean ====
section
/-! DEFINITION. Integer, constant, multiply, divide, pointer and descriptor instructions, majors 0x01 to 0x05 (R101 to R115). -/

namespace Sys2Proof.Machine

/-- Issue needs of an unpredicated instruction that any thread may issue. -/
def plain (legal : Bool) (uses : List Use) : Need := { legal := legal, cls := .any, uses := uses, len := 4 }

/-- Issue needs of a predicated scalar instruction that any thread may issue (R101). -/
def governed (legal : Bool) (g : Gov) (uses : List Use) : Need :=
  { legal := legal && g.legal, cls := .any, uses := uses, len := 4, gov := some g }

/-- D <- f A B (R101, R104, R109). -/
def aluRR (f : Word → Word → Word) (d a b : BitVec 5) (g : Gov) (s : State) : Host.Outcome State Fault Refusal :=
  issue (governed true g [.sR a, .sR b, .sW d]) (do
    let x ← getS a
    let y ← getS b
    setS d (f x y)
    pure .seq) s

/-- D <- f B. -/
def aluR (f : Word → Word) (d b : BitVec 5) (g : Gov) (s : State) : Host.Outcome State Fault Refusal :=
  issue (governed true g [.sR b, .sW d]) (do
    let y ← getS b
    setS d (f y)
    pure .seq) s

/-- D <- f A. -/
def aluI (f : Word → Word) (d a : BitVec 5) (s : State) : Host.Outcome State Fault Refusal :=
  issue (plain true [.sR a, .sW d]) (do
    let x ← getS a
    setS d (f x)
    pure .seq) s

/-- Predicate D <- f A B in every lane position (R102, R105). -/
def cmpRR (f : Word → Word → Bool) (d a b : BitVec 5) (g : Gov) (s : State) : Host.Outcome State Fault Refusal :=
  issue (governed (predField d) g [.sR a, .sR b]) (do
    let x ← getS a
    let y ← getS b
    setP d.toNat (allLanes (f x y))
    pure .seq) s

/-- A shift amount: bits 5 to 0 (R104). -/
def sh (y : Word) : Nat := field y 5 0

/-- Signed quotient (R109). -/
def divS (x y : Word) : Word := if y = 0 then BitVec.allOnes 64 else x.sdiv y

/-- Unsigned quotient (R109). -/
def divN (x y : Word) : Word := if y = 0 then BitVec.allOnes 64 else x.udiv y

/-- Signed remainder, with the sign of A (R109). -/
def remS (x y : Word) : Word := if y = 0 then x else x.srem y

/-- Unsigned remainder (R109). -/
def remN (x y : Word) : Word := if y = 0 then x else x.umod y

/-- `add` (R104): D <- A + B, wrapping. -/
def execAdd (d a b : BitVec 5) (g : Gov) (s : State) : Host.Outcome State Fault Refusal :=
  aluRR (fun x y => x + y) d a b g s

/-- `sub` (R104): D <- A - B, wrapping. -/
def execSub (d a b : BitVec 5) (g : Gov) (s : State) : Host.Outcome State Fault Refusal :=
  aluRR (fun x y => x - y) d a b g s

/-- `and` (R104): D <- A AND B. -/
def execAnd (d a b : BitVec 5) (g : Gov) (s : State) : Host.Outcome State Fault Refusal :=
  aluRR (fun x y => x &&& y) d a b g s

/-- `or` (R104): D <- A OR B. -/
def execOr (d a b : BitVec 5) (g : Gov) (s : State) : Host.Outcome State Fault Refusal :=
  aluRR (fun x y => x ||| y) d a b g s

/-- `xor` (R104): D <- A XOR B. -/
def execXor (d a b : BitVec 5) (g : Gov) (s : State) : Host.Outcome State Fault Refusal :=
  aluRR (fun x y => x ^^^ y) d a b g s

/-- `andn` (R104): D <- A AND NOT B. -/
def execAndn (d a b : BitVec 5) (g : Gov) (s : State) : Host.Outcome State Fault Refusal :=
  aluRR (fun x y => x &&& ~~~y) d a b g s

/-- `orn` (R104): D <- A OR NOT B. -/
def execOrn (d a b : BitVec 5) (g : Gov) (s : State) : Host.Outcome State Fault Refusal :=
  aluRR (fun x y => x ||| ~~~y) d a b g s

/-- `xnor` (R104): D <- NOT (A XOR B). -/
def execXnor (d a b : BitVec 5) (g : Gov) (s : State) : Host.Outcome State Fault Refusal :=
  aluRR (fun x y => ~~~(x ^^^ y)) d a b g s

/-- `shl` (R104): D <- A shifted left by B<5:0>. -/
def execShl (d a b : BitVec 5) (g : Gov) (s : State) : Host.Outcome State Fault Refusal :=
  aluRR (fun x y => x <<< sh y) d a b g s

/-- `shr` (R104): D <- A shifted right with zero fill by B<5:0>. -/
def execShr (d a b : BitVec 5) (g : Gov) (s : State) : Host.Outcome State Fault Refusal :=
  aluRR (fun x y => x >>> sh y) d a b g s

/-- `sar` (R104): D <- A shifted right with sign fill by B<5:0>. -/
def execSar (d a b : BitVec 5) (g : Gov) (s : State) : Host.Outcome State Fault Refusal :=
  aluRR (fun x y => x.sshiftRight (sh y)) d a b g s

/-- `rol` (R104): D <- A rotated left by B<5:0>. -/
def execRol (d a b : BitVec 5) (g : Gov) (s : State) : Host.Outcome State Fault Refusal :=
  aluRR (fun x y => x.rotateLeft (sh y)) d a b g s

/-- `ror` (R104): D <- A rotated right by B<5:0>. -/
def execRor (d a b : BitVec 5) (g : Gov) (s : State) : Host.Outcome State Fault Refusal :=
  aluRR (fun x y => x.rotateRight (sh y)) d a b g s

/-- `minS64` (R104): D <- the signed smaller. -/
def execMinS64 (d a b : BitVec 5) (g : Gov) (s : State) : Host.Outcome State Fault Refusal :=
  aluRR (fun x y => if x.sle y then x else y) d a b g s

/-- `maxS64` (R104): D <- the signed larger. -/
def execMaxS64 (d a b : BitVec 5) (g : Gov) (s : State) : Host.Outcome State Fault Refusal :=
  aluRR (fun x y => if x.sle y then y else x) d a b g s

/-- `minN64` (R104): D <- the unsigned smaller. -/
def execMinN64 (d a b : BitVec 5) (g : Gov) (s : State) : Host.Outcome State Fault Refusal :=
  aluRR (fun x y => if x.ule y then x else y) d a b g s

/-- `maxN64` (R104): D <- the unsigned larger. -/
def execMaxN64 (d a b : BitVec 5) (g : Gov) (s : State) : Host.Outcome State Fault Refusal :=
  aluRR (fun x y => if x.ule y then y else x) d a b g s

/-- `sltS64` (R104): D <- 1 when A < B, signed. -/
def execSltS64 (d a b : BitVec 5) (g : Gov) (s : State) : Host.Outcome State Fault Refusal :=
  aluRR (fun x y => boolWord (x.slt y)) d a b g s

/-- `sltN64` (R104): D <- 1 when A < B, unsigned. -/
def execSltN64 (d a b : BitVec 5) (g : Gov) (s : State) : Host.Outcome State Fault Refusal :=
  aluRR (fun x y => boolWord (x.ult y)) d a b g s

/-- `seq` (R104): D <- 1 when A = B. -/
def execSeq (d a b : BitVec 5) (g : Gov) (s : State) : Host.Outcome State Fault Refusal :=
  aluRR (fun x y => boolWord (x == y)) d a b g s

/-- `sne` (R104): D <- 1 when A differs from B. -/
def execSne (d a b : BitVec 5) (g : Gov) (s : State) : Host.Outcome State Fault Refusal :=
  aluRR (fun x y => boolWord (x != y)) d a b g s

/-- `clz` (R104): D <- leading zero bits of B. -/
def execClz (d b : BitVec 5) (g : Gov) (s : State) : Host.Outcome State Fault Refusal :=
  aluR (fun y => BitVec.ofNat 64 (leadingZeros y 64)) d b g s

/-- `ctz` (R104): D <- trailing zero bits of B. -/
def execCtz (d b : BitVec 5) (g : Gov) (s : State) : Host.Outcome State Fault Refusal :=
  aluR (fun y => BitVec.ofNat 64 (trailingZeros y 0 64)) d b g s

/-- `popc` (R104): D <- one bits of B. -/
def execPopc (d b : BitVec 5) (g : Gov) (s : State) : Host.Outcome State Fault Refusal :=
  aluR (fun y => BitVec.ofNat 64 (popcount y 64)) d b g s

/-- `sextS8` (R104): D <- B<7:0> sign-extended. -/
def execSextS8 (d b : BitVec 5) (g : Gov) (s : State) : Host.Outcome State Fault Refusal :=
  aluR (fun y => (y.extractLsb' 0 8).signExtend 64) d b g s

/-- `sextS16` (R104): D <- B<15:0> sign-extended. -/
def execSextS16 (d b : BitVec 5) (g : Gov) (s : State) : Host.Outcome State Fault Refusal :=
  aluR (fun y => (y.extractLsb' 0 16).signExtend 64) d b g s

/-- `sextS32` (R104): D <- B<31:0> sign-extended. -/
def execSextS32 (d b : BitVec 5) (g : Gov) (s : State) : Host.Outcome State Fault Refusal :=
  aluR (fun y => (y.extractLsb' 0 32).signExtend 64) d b g s

/-- `zextN32` (R104): D <- B<31:0> zero-extended. -/
def execZextN32 (d b : BitVec 5) (g : Gov) (s : State) : Host.Outcome State Fault Refusal :=
  aluR (fun y => (y.extractLsb' 0 32).setWidth 64) d b g s

/-- `cmppEq` (R104, R105): predicate D <- A = B. -/
def execCmppEq (d a b : BitVec 5) (g : Gov) (s : State) : Host.Outcome State Fault Refusal :=
  cmpRR (fun x y => x == y) d a b g s

/-- `cmppNe` (R104, R105): predicate D <- A differs from B. -/
def execCmppNe (d a b : BitVec 5) (g : Gov) (s : State) : Host.Outcome State Fault Refusal :=
  cmpRR (fun x y => x != y) d a b g s

/-- `cmppLtS64` (R104, R105): predicate D <- A < B, signed. -/
def execCmppLtS64 (d a b : BitVec 5) (g : Gov) (s : State) : Host.Outcome State Fault Refusal :=
  cmpRR (fun x y => x.slt y) d a b g s

/-- `cmppGeS64` (R104, R105): predicate D <- A >= B, signed. -/
def execCmppGeS64 (d a b : BitVec 5) (g : Gov) (s : State) : Host.Outcome State Fault Refusal :=
  cmpRR (fun x y => !x.slt y) d a b g s

/-- `cmppLtN64` (R104, R105): predicate D <- A < B, unsigned. -/
def execCmppLtN64 (d a b : BitVec 5) (g : Gov) (s : State) : Host.Outcome State Fault Refusal :=
  cmpRR (fun x y => x.ult y) d a b g s

/-- `cmppGeN64` (R104, R105): predicate D <- A >= B, unsigned. -/
def execCmppGeN64 (d a b : BitVec 5) (g : Gov) (s : State) : Host.Outcome State Fault Refusal :=
  cmpRR (fun x y => !x.ult y) d a b g s

/-- `sel` (R105): D <- A or B as the P and PN fields select; it always writes D. -/
def execSel (d a b : BitVec 5) (g : Gov) (s : State) : Host.Outcome State Fault Refusal :=
  issue (plain g.legal [.sR a, .sR b, .sW d]) (do
    let x ← getS a
    let y ← getS b
    let c ← ctx
    setS d (if govOn c (some g) then x else y)
    pure .seq) s

/-- `addi` (R106): D <- A + imm. -/
def execAddi (d a : BitVec 5) (i : BitVec 12) (s : State) : Host.Outcome State Fault Refusal :=
  aluI (fun x => x + imm12 i) d a s

/-- `andi` (R106): D <- A AND imm. -/
def execAndi (d a : BitVec 5) (i : BitVec 12) (s : State) : Host.Outcome State Fault Refusal :=
  aluI (fun x => x &&& imm12 i) d a s

/-- `ori` (R106): D <- A OR imm. -/
def execOri (d a : BitVec 5) (i : BitVec 12) (s : State) : Host.Outcome State Fault Refusal :=
  aluI (fun x => x ||| imm12 i) d a s

/-- `xori` (R106): D <- A XOR imm. -/
def execXori (d a : BitVec 5) (i : BitVec 12) (s : State) : Host.Outcome State Fault Refusal :=
  aluI (fun x => x ^^^ imm12 i) d a s

/-- `slti` (R106): D <- 1 when A < imm, signed. -/
def execSlti (d a : BitVec 5) (i : BitVec 12) (s : State) : Host.Outcome State Fault Refusal :=
  aluI (fun x => boolWord (x.slt (imm12 i))) d a s

/-- `shli` (R106): D <- A shifted left by k. -/
def execShli (d a : BitVec 5) (k : BitVec 6) (s : State) : Host.Outcome State Fault Refusal :=
  aluI (fun x => x <<< k.toNat) d a s

/-- `shri` (R106): D <- A shifted right with zero fill by k. -/
def execShri (d a : BitVec 5) (k : BitVec 6) (s : State) : Host.Outcome State Fault Refusal :=
  aluI (fun x => x >>> k.toNat) d a s

/-- `sari` (R106): D <- A shifted right with sign fill by k. -/
def execSari (d a : BitVec 5) (k : BitVec 6) (s : State) : Host.Outcome State Fault Refusal :=
  aluI (fun x => x.sshiftRight k.toNat) d a s

/-- `lih` (R107): D <- sign-extended I20 times 4096. -/
def execLih (d : BitVec 5) (i : BitVec 20) (s : State) : Host.Outcome State Fault Refusal :=
  issue (plain true [.sW d]) (do
    setS d ((i.signExtend 64) <<< 12)
    pure .seq) s

/-- `mul` (R109): D <- the low 64 bits of the product. -/
def execMul (d a b : BitVec 5) (g : Gov) (s : State) : Host.Outcome State Fault Refusal :=
  aluRR (fun x y => x * y) d a b g s

/-- `mulhS64` (R109): D <- the high 64 bits of the signed product. -/
def execMulhS64 (d a b : BitVec 5) (g : Gov) (s : State) : Host.Outcome State Fault Refusal :=
  aluRR (fun x y => ((x.signExtend 128 * y.signExtend 128).extractLsb' 64 64)) d a b g s

/-- `mulhN64` (R109): D <- the high 64 bits of the unsigned product. -/
def execMulhN64 (d a b : BitVec 5) (g : Gov) (s : State) : Host.Outcome State Fault Refusal :=
  aluRR (fun x y => ((x.setWidth 128 * y.setWidth 128).extractLsb' 64 64)) d a b g s

/-- `divS64` (R109): D <- the signed quotient, truncated toward zero. -/
def execDivS64 (d a b : BitVec 5) (g : Gov) (s : State) : Host.Outcome State Fault Refusal :=
  aluRR (fun x y => divS x y) d a b g s

/-- `divN64` (R109): D <- the unsigned quotient. -/
def execDivN64 (d a b : BitVec 5) (g : Gov) (s : State) : Host.Outcome State Fault Refusal :=
  aluRR (fun x y => divN x y) d a b g s

/-- `remS64` (R109): D <- the signed remainder. -/
def execRemS64 (d a b : BitVec 5) (g : Gov) (s : State) : Host.Outcome State Fault Refusal :=
  aluRR (fun x y => remS x y) d a b g s

/-- `remN64` (R109): D <- the unsigned remainder. -/
def execRemN64 (d a b : BitVec 5) (g : Gov) (s : State) : Host.Outcome State Fault Refusal :=
  aluRR (fun x y => remN x y) d a b g s

/-- `lea` (R111): D <- A + (B << k) within the 56-bit address, A's upper byte kept. -/
def execLea (d a b : BitVec 5) (k : BitVec 3) (s : State) : Host.Outcome State Fault Refusal :=
  issue (plain true [.sR a, .sR b, .sW d]) (do
    let x ← getS a
    let y ← getS b
    setS d (leaAdd x (y <<< k.toNat))
    pure .seq) s

/-- `ptag` (R112): the colour of a pointer <- B<3:0>. -/
def execPtag (d a b : BitVec 5) (s : State) : Host.Outcome State Fault Refusal :=
  issue (plain true [.sR a, .sR b, .sW d]) (do
    let x ← getS a
    let y ← getS b
    setS d (y.extractLsb' 0 4 ++ 0#4 ++ x.extractLsb' 0 56)
    pure .seq) s

/-- The word of `pchk` on a translation that exists (Table 4.5, R113). -/
def State.pchkWord (s : State) (d : DomId) (ea : Word) (l : Leaf) : Word :=
  let pass (write : Bool) : Bool := (s.leafChecks d ea write l).isNone && (l.loc != 2 || s.keyLive l.key)
  let cmatch : Bool := !l.cc || l.loc != 0 || (s.block (blockNo l.pa)).colour.toNat == field ea 63 60
  0#58 ++ BitVec.ofBool cmatch ++ BitVec.ofBool (s.keyLive l.key) ++ 1#1 ++ BitVec.ofBool (!l.xn) ++
    BitVec.ofBool (pass true) ++ BitVec.ofBool (pass false)

/-- Translate for a thread: at its core, or by a walk of its die's table for a heddle thread. -/
def State.lookup (s : State) (t : Thread) (va : VAddr) : Except WalkStop TlbEntry × State :=
  match t.heddle with
  | some h => (s.walk (h.heddle / 8) (s.admits t.dom) va, s)
  | none => s.translate t.core t.dom false va

/-- `pchk` (R113): describes what an access through A would meet. -/
def execPchk (d a : BitVec 5) (s : State) : Host.Outcome State Fault Refusal :=
  issue (plain true [.sR a, .sW d]) (do
    let ea ← getS a
    let t ← self
    if field ea 59 56 != 0 || inWindow ea then setS d 0
    else
      let va := ea.extractLsb' 0 56
      match (← get).lookup t va with
      | (.error _, s) =>
        set s
        setS d 0
      | (.ok e, s) =>
        set s
        setS d (s.pchkWord t.dom ea (e.leaf va))
    pure .seq) s

/-- `bdesc` (R115): a bound word from a size and permissions. -/
def execBdesc (d a b : BitVec 5) (s : State) : Host.Outcome State Fault Refusal :=
  issue (plain true [.sR a, .sR b, .sW d]) (do
    let x ← getS a
    let y ← getS b
    setS d (if field x 63 40 = 0 then y.extractLsb' 1 1 ++ y.extractLsb' 0 1 ++ 0#22 ++ x.extractLsb' 0 40 else 0)
    pure .seq) s

end Sys2Proof.Machine
end

