-- ==== Sys2Proof/Machine/ScalarFp.lean ====
section
/-! DEFINITION. Scalar FP32, major 0x0F (R132, R133): every operation with and without a modifier word. -/

namespace Sys2Proof.Machine

/-- Issue needs of a scalar FP32 instruction of `len` bytes. -/
def fpNeed (legal : Bool) (g : Gov) (uses : List Use) (len : Nat) : Need := { governed legal g uses with len := len }

/-- The rounding mode of an instruction with its modifier (R83). -/
def modeOf (m : Option Mod) : Exec RM := do
  let c ← ctx
  pure (roundMode c.fstat (rndOf m))

/-- Merge an operation's flags and write its f32 result: D<63:32> <- 0 (R132). -/
def putF32 (d : BitVec 5) (r : W32 × FF) : Exec Next := do
  mergeFlags r.2
  setS d (r.1.setWidth 64)
  pure .seq

/-- D <- A op B. -/
def fpRR (o : FOp) (m : Option Mod) (len : Nat) (d a b : BitVec 5) (g : Gov) (s : State) : Host.Outcome State Fault Refusal :=
  issue (fpNeed true g [.sR a, .sR b, .sW d] len) (do
    let x ← getS a
    let y ← getS b
    let rm ← modeOf m
    putF32 d (fop o m rm (x.setWidth 32) (y.setWidth 32) 0)) s

/-- D <- op B. -/
def fpR (o : FOp) (m : Option Mod) (len : Nat) (d b : BitVec 5) (g : Gov) (s : State) : Host.Outcome State Fault Refusal :=
  issue (fpNeed true g [.sR b, .sW d] len) (do
    let y ← getS b
    let rm ← modeOf m
    putF32 d (fop o m rm 0 (y.setWidth 32) 0)) s

/-- D <- A × B + D. -/
def fpFma (m : Option Mod) (len : Nat) (d a b : BitVec 5) (g : Gov) (s : State) : Host.Outcome State Fault Refusal :=
  issue (fpNeed true g [.sR a, .sR b, .sR d, .sW d] len) (do
    let x ← getS a
    let y ← getS b
    let z ← getS d
    let rm ← modeOf m
    putF32 d (fop .fma m rm (x.setWidth 32) (y.setWidth 32) (z.setWidth 32))) s

/-- D <- the 64-bit integer B as f32. -/
def fpFromInt (signed : Bool) (m : Option Mod) (len : Nat) (d b : BitVec 5) (g : Gov) (s : State) :
    Host.Outcome State Fault Refusal :=
  issue (fpNeed true g [.sR b, .sW d] len) (do
    let y ← getS b
    let rm ← modeOf m
    putF32 d (intToFloat m rm (negB m) (absB m) (if signed then y.toInt else (y.toNat : Int)))) s

/-- D <- f32 B as a saturated 64-bit integer. -/
def fpToInt (signed : Bool) (m : Option Mod) (len : Nat) (d b : BitVec 5) (g : Gov) (s : State) :
    Host.Outcome State Fault Refusal :=
  issue (fpNeed true g [.sR b, .sW d] len) (do
    let y ← getS b
    let rm ← modeOf m
    let lo : Int := if signed then -(2 ^ 63 : Int) else 0
    let hi : Int := if signed then 2 ^ 63 - 1 else 2 ^ 64 - 1
    let r := floatToInt lo hi m rm (negB m) (absB m) (y.setWidth 32)
    mergeFlags r.2
    setS d (BitVec.ofInt 64 r.1)
    pure .seq) s

/-- Predicate D <- the comparison of A and B. -/
def fpCmp (c : FCmp) (m : Option Mod) (len : Nat) (d a b : BitVec 5) (g : Gov) (s : State) :
    Host.Outcome State Fault Refusal :=
  issue (fpNeed (predField d) g [.sR a, .sR b] len) (do
    let x ← getS a
    let y ← getS b
    let r := fcmp c ((f32Val (x.setWidth 32)).mod (negA m) (absA m)) ((f32Val (y.setWidth 32)).mod (negB m) (absB m))
    mergeFlags r.2
    setP d.toNat (allLanes r.1)
    pure .seq) s

/-- `fadd` (R132): D <- A + B. -/
def execFadd (d a b : BitVec 5) (g : Gov) (s : State) : Host.Outcome State Fault Refusal := fpRR .add none 4 d a b g s

/-- `fsub` (R132): D <- A - B. -/
def execFsub (d a b : BitVec 5) (g : Gov) (s : State) : Host.Outcome State Fault Refusal := fpRR .sub none 4 d a b g s

/-- `fmul` (R132): D <- A × B. -/
def execFmul (d a b : BitVec 5) (g : Gov) (s : State) : Host.Outcome State Fault Refusal := fpRR .mul none 4 d a b g s

/-- `fdiv` (R132): D <- A / B. -/
def execFdiv (d a b : BitVec 5) (g : Gov) (s : State) : Host.Outcome State Fault Refusal := fpRR .div none 4 d a b g s

/-- `fmin` (R132): D <- the smaller, by Table 3.4. -/
def execFmin (d a b : BitVec 5) (g : Gov) (s : State) : Host.Outcome State Fault Refusal := fpRR .min none 4 d a b g s

/-- `fmax` (R132): D <- the larger, by Table 3.4. -/
def execFmax (d a b : BitVec 5) (g : Gov) (s : State) : Host.Outcome State Fault Refusal := fpRR .max none 4 d a b g s

/-- `fsqrt` (R132): D <- the square root of B. -/
def execFsqrt (d b : BitVec 5) (g : Gov) (s : State) : Host.Outcome State Fault Refusal := fpR .sqrt none 4 d b g s

/-- `fabs` (R132): D <- |B|. -/
def execFabs (d b : BitVec 5) (g : Gov) (s : State) : Host.Outcome State Fault Refusal := fpR .abs none 4 d b g s

/-- `fneg` (R132): D <- -B. -/
def execFneg (d b : BitVec 5) (g : Gov) (s : State) : Host.Outcome State Fault Refusal := fpR .neg none 4 d b g s

/-- `ffma` (R132): D <- A × B + D, rounded once. -/
def execFfma (d a b : BitVec 5) (g : Gov) (s : State) : Host.Outcome State Fault Refusal := fpFma none 4 d a b g s

/-- `fcvtF32S64` (R132, R88): D <- the integer B as f32. -/
def execFcvtF32S64 (d b : BitVec 5) (g : Gov) (s : State) : Host.Outcome State Fault Refusal := fpFromInt true none 4 d b g s

/-- `fcvtF32N64` (R132, R88): D <- the integer B as f32. -/
def execFcvtF32N64 (d b : BitVec 5) (g : Gov) (s : State) : Host.Outcome State Fault Refusal := fpFromInt false none 4 d b g s

/-- `fcvtS64F32` (R132, R87): D <- B rounded to a saturated integer. -/
def execFcvtS64F32 (d b : BitVec 5) (g : Gov) (s : State) : Host.Outcome State Fault Refusal := fpToInt true none 4 d b g s

/-- `fcvtN64F32` (R132, R87): D <- B rounded to a saturated integer. -/
def execFcvtN64F32 (d b : BitVec 5) (g : Gov) (s : State) : Host.Outcome State Fault Refusal := fpToInt false none 4 d b g s

/-- `fcmppEq` (R132, R102): predicate D <- the comparison. -/
def execFcmppEq (d a b : BitVec 5) (g : Gov) (s : State) : Host.Outcome State Fault Refusal := fpCmp .eq none 4 d a b g s

/-- `fcmppLt` (R132, R102): predicate D <- the comparison. -/
def execFcmppLt (d a b : BitVec 5) (g : Gov) (s : State) : Host.Outcome State Fault Refusal := fpCmp .lt none 4 d a b g s

/-- `fcmppLe` (R132, R102): predicate D <- the comparison. -/
def execFcmppLe (d a b : BitVec 5) (g : Gov) (s : State) : Host.Outcome State Fault Refusal := fpCmp .le none 4 d a b g s

/-- `fcmppUn` (R132, R102): predicate D <- the comparison. -/
def execFcmppUn (d a b : BitVec 5) (g : Gov) (s : State) : Host.Outcome State Fault Refusal := fpCmp .un none 4 d a b g s

end Sys2Proof.Machine
end

