-- ==== Sys2Proof/Machine/Loads.lean ====
section
/-! DEFINITION. Loads and stores, majors 0x10 to 0x13 (R197 to R199). -/

namespace Sys2Proof.Machine

/-- Issue needs of a memory instruction. -/
def memNeed (legal : Bool) (uses : List Use) : Need := { plain legal uses with cls := .noHeddle }

/-- A base-plus-offset load (R197). -/
def loadMI (signed : Bool) (n : Nat) (d a : BitVec 5) (i : BitVec 12) (s : State) : Host.Outcome State Fault Refusal :=
  issue (memNeed true [.sR a, .sW d]) (do
    let x ← getS a
    loadTo signed n (leaAdd x (imm12 i)) d) s

/-- A base-plus-offset store (R197). -/
def storeMI (n : Nat) (d a : BitVec 5) (i : BitVec 12) (s : State) : Host.Outcome State Fault Refusal :=
  issue (memNeed true [.sR a, .sR d]) (do
    let x ← getS a
    let w ← getS d
    storeFrom n (leaAdd x (imm12 i)) w) s

/-- `ldS8` (R197): loads 1 byte(s), sign-extended. -/
def execLdS8 (d a : BitVec 5) (i : BitVec 12) (s : State) : Host.Outcome State Fault Refusal := loadMI true 1 d a i s

/-- `ldN8` (R197): loads 1 byte(s). -/
def execLdN8 (d a : BitVec 5) (i : BitVec 12) (s : State) : Host.Outcome State Fault Refusal := loadMI false 1 d a i s

/-- `ldS16` (R197): loads 2 byte(s), sign-extended. -/
def execLdS16 (d a : BitVec 5) (i : BitVec 12) (s : State) : Host.Outcome State Fault Refusal := loadMI true 2 d a i s

/-- `ldN16` (R197): loads 2 byte(s). -/
def execLdN16 (d a : BitVec 5) (i : BitVec 12) (s : State) : Host.Outcome State Fault Refusal := loadMI false 2 d a i s

/-- `ldS32` (R197): loads 4 byte(s), sign-extended. -/
def execLdS32 (d a : BitVec 5) (i : BitVec 12) (s : State) : Host.Outcome State Fault Refusal := loadMI true 4 d a i s

/-- `ldN32` (R197): loads 4 byte(s). -/
def execLdN32 (d a : BitVec 5) (i : BitVec 12) (s : State) : Host.Outcome State Fault Refusal := loadMI false 4 d a i s

/-- `ldB64` (R197): loads 8 byte(s). -/
def execLdB64 (d a : BitVec 5) (i : BitVec 12) (s : State) : Host.Outcome State Fault Refusal := loadMI false 8 d a i s

/-- `stB8` (R197): stores 1 byte(s) of D. -/
def execStB8 (d a : BitVec 5) (i : BitVec 12) (s : State) : Host.Outcome State Fault Refusal := storeMI 1 d a i s

/-- `stB16` (R197): stores 2 byte(s) of D. -/
def execStB16 (d a : BitVec 5) (i : BitVec 12) (s : State) : Host.Outcome State Fault Refusal := storeMI 2 d a i s

/-- `stB32` (R197): stores 4 byte(s) of D. -/
def execStB32 (d a : BitVec 5) (i : BitVec 12) (s : State) : Host.Outcome State Fault Refusal := storeMI 4 d a i s

/-- `stB64` (R197): stores 8 byte(s) of D. -/
def execStB64 (d a : BitVec 5) (i : BitVec 12) (s : State) : Host.Outcome State Fault Refusal := storeMI 8 d a i s

/-- `ld` indexed (R198): loads from A + (B << SH). -/
def execLdIndexed (d a b : BitVec 5) (k : BitVec 2) (sx : Bool) (sz : BitVec 2) (g : Gov) (s : State) :
    Host.Outcome State Fault Refusal :=
  issue { memNeed (g.legal && !(sx && sz == 3)) [.sR a, .sR b, .sW d] with gov := some g } (do
    let x ← getS a
    let y ← getS b
    loadTo sx (2 ^ sz.toNat) (leaAdd x (y <<< k.toNat)) d) s

/-- `st` indexed (R198): stores D to A + (B << SH). -/
def execStIndexed (d a b : BitVec 5) (k sz : BitVec 2) (g : Gov) (s : State) : Host.Outcome State Fault Refusal :=
  issue { memNeed g.legal [.sR a, .sR b, .sR d] with gov := some g } (do
    let x ← getS a
    let y ← getS b
    let w ← getS d
    storeFrom (2 ^ sz.toNat) (leaAdd x (y <<< k.toNat)) w) s

/-- The address of a bounded access of n bytes at an offset, after the bound word's checks (R199). -/
def boundedAddr (write : Bool) (n : Nat) (base bw off : Word) : Exec Word :=
  let addr : Word := ((base + off).extractLsb' 0 56).setWidth 64
  if !(if write then bit bw 63 else bit bw 62) || decide (field bw 39 0 < off.toNat + n) then raise 0x13 addr off
  else pure (leaAdd base off)

/-- `ldb` (R199): loads through a descriptor pair. -/
def execLdb (d a b : BitVec 5) (sx : Bool) (sz : BitVec 2) (g : Gov) (s : State) : Host.Outcome State Fault Refusal :=
  issue { memNeed (g.legal && pairField a && !(sx && sz == 3)) [.sR a, .sR (a + 1), .sR b, .sW d] with gov := some g } (do
    let x ← getS a
    let bw ← getS (a + 1)
    let y ← getS b
    let ea ← boundedAddr false (2 ^ sz.toNat) x bw y
    loadTo sx (2 ^ sz.toNat) ea d) s

/-- `stb` (R199): stores through a descriptor pair. -/
def execStb (d a b : BitVec 5) (sz : BitVec 2) (g : Gov) (s : State) : Host.Outcome State Fault Refusal :=
  issue { memNeed (g.legal && pairField a) [.sR a, .sR (a + 1), .sR b, .sR d] with gov := some g } (do
    let x ← getS a
    let bw ← getS (a + 1)
    let y ← getS b
    let w ← getS d
    let ea ← boundedAddr true (2 ^ sz.toNat) x bw y
    storeFrom (2 ^ sz.toNat) ea w) s

end Sys2Proof.Machine
end

