-- ==== Sys2Proof/Machine/Atomics.lean ====
section
/-! DEFINITION. Atomics, major 0x14 (R200 to R203), and fences, major 0x15 (R204). -/

namespace Sys2Proof.Machine

/-- Perform the release of an ordered instruction before it issues (R201). -/
def releaseIf (ord : Ord) : Exec Unit := do
  let c ← ctx
  if ord.rel && !c.midway then release ord.scope.toNat

/-- Perform the acquire of an ordered instruction before its own access (R201): every read before it has been performed, and its own
is performed before the stream goes on. -/
def acquireIf (ord : Ord) : Exec Unit := do
  let c ← ctx
  if ord.acq && !c.midway then acquire

/-- An atomic of n bytes (R200, R201). -/
def amo (op : AmoOp) (n : Nat) (t a b : BitVec 5) (ord : Ord) (s : State) : Host.Outcome State Fault Refusal :=
  let cas : List Use := if op = .cas ∧ t ≠ 0 then [.sR t] else []
  issue { memNeed ord.legal ([.sR a, .sR b, .tok t] ++ cas) with sysRel := ord.rel && ord.scope == 5 } (do
    let ea ← getS a
    let y ← getS b
    let cmp ← if op = .cas ∧ t ≠ 0 then getS t else pure 0
    releaseIf ord
    acquireIf ord
    let o : MemOp := { kind := .atomic op, signed := false, size := n, data := y, compare := cmp }
    match ← accessAt (takeT t) o ea with
    | .moved => pure .stay
    | r => if t = 0 then pure .seq else takeValue t r) s

/-- `amoSwap` (R200): replaces the location with B; T <- the old value. -/
def execAmoSwap (t a b : BitVec 5) (w32 : Bool) (ord : Ord) (s : State) : Host.Outcome State Fault Refusal :=
  amo .swap (if w32 then 4 else 8) t a b ord s

/-- `amoAdd` (R200): adds B, wrapping; T <- the old value. -/
def execAmoAdd (t a b : BitVec 5) (w32 : Bool) (ord : Ord) (s : State) : Host.Outcome State Fault Refusal :=
  amo .add (if w32 then 4 else 8) t a b ord s

/-- `amoAnd` (R200): ANDs B in; T <- the old value. -/
def execAmoAnd (t a b : BitVec 5) (w32 : Bool) (ord : Ord) (s : State) : Host.Outcome State Fault Refusal :=
  amo .and (if w32 then 4 else 8) t a b ord s

/-- `amoOr` (R200): ORs B in; T <- the old value. -/
def execAmoOr (t a b : BitVec 5) (w32 : Bool) (ord : Ord) (s : State) : Host.Outcome State Fault Refusal :=
  amo .or (if w32 then 4 else 8) t a b ord s

/-- `amoXor` (R200): XORs B in; T <- the old value. -/
def execAmoXor (t a b : BitVec 5) (w32 : Bool) (ord : Ord) (s : State) : Host.Outcome State Fault Refusal :=
  amo .xor (if w32 then 4 else 8) t a b ord s

/-- `amoMaxS` (R200): keeps the signed larger; T <- the old value. -/
def execAmoMaxS (t a b : BitVec 5) (w32 : Bool) (ord : Ord) (s : State) : Host.Outcome State Fault Refusal :=
  amo .maxS (if w32 then 4 else 8) t a b ord s

/-- `amoMinS` (R200): keeps the signed smaller; T <- the old value. -/
def execAmoMinS (t a b : BitVec 5) (w32 : Bool) (ord : Ord) (s : State) : Host.Outcome State Fault Refusal :=
  amo .minS (if w32 then 4 else 8) t a b ord s

/-- `amoMaxN` (R200): keeps the unsigned larger; T <- the old value. -/
def execAmoMaxN (t a b : BitVec 5) (w32 : Bool) (ord : Ord) (s : State) : Host.Outcome State Fault Refusal :=
  amo .maxN (if w32 then 4 else 8) t a b ord s

/-- `amoMinN` (R200): keeps the unsigned smaller; T <- the old value. -/
def execAmoMinN (t a b : BitVec 5) (w32 : Bool) (ord : Ord) (s : State) : Host.Outcome State Fault Refusal :=
  amo .minN (if w32 then 4 else 8) t a b ord s

/-- `amoCas` (R200): writes B when the location equals T's value; T <- the old value. -/
def execAmoCas (t a b : BitVec 5) (w32 : Bool) (ord : Ord) (s : State) : Host.Outcome State Fault Refusal :=
  amo .cas (if w32 then 4 else 8) t a b ord s

/-- `amo.fadd.f32` (R200): adds f32 B, rounding to nearest-even. -/
def execAmoFaddF32 (t a b : BitVec 5) (ord : Ord) (s : State) : Host.Outcome State Fault Refusal :=
  amo .faddF32 4 t a b ord s

/-- `fence.acq` (R204, R281): every earlier read of the stream has been performed. -/
def execFenceAcq (scope : BitVec 3) (s : State) : Host.Outcome State Fault Refusal :=
  issue (memNeed (fenceScope scope) []) (do
    acquire
    pure .seq) s

/-- A fence that releases (R204); its release waits for every earlier access, so that `fence.ar` acquires by it too (R281). -/
def fenceRelease (scope : BitVec 3) (s : State) : Host.Outcome State Fault Refusal :=
  issue { memNeed (fenceScope scope) [] with sysRel := scope == 5 } (do
    release scope.toNat
    pure .seq) s

/-- `fence.rel` (R204). -/
def execFenceRel (scope : BitVec 3) (s : State) : Host.Outcome State Fault Refusal := fenceRelease scope s

/-- `fence.ar` (R204). -/
def execFenceAr (scope : BitVec 3) (s : State) : Host.Outcome State Fault Refusal := fenceRelease scope s

end Sys2Proof.Machine
end

