-- ==== Sys2Proof/Machine/Status.lean ====
section
/-! DEFINITION. Status moves, major 0x0E (R31 to R36, R131, R237). -/

namespace Sys2Proof.Machine

/-- The group registers a thread reads (R34): those of the member whose domain it shares. -/
def State.groupRegs (s : State) (t : Thread) : GroupRegs :=
  let k := s.core t.core
  match k.full with
  | none => GroupRegs.zero
  | some f => match s.thread? f with
    | some m => if m.dom = t.dom then k.grp else GroupRegs.zero
    | none => GroupRegs.zero

/-- The array of a core is busy: its queue or its drain buffer holds anything (Table 6.1). -/
def ArrayState.busy (x : ArrayState) : Bool := !x.queue.isEmpty || !x.drain.isEmpty

/-- `%mstat` (Table 1.6). -/
def ArrayState.mstat (x : ArrayState) : Word :=
  0#55 ++ BitVec.ofBool x.busy ++ 0#6 ++ BitVec.ofBool x.ainf ++ BitVec.ofBool x.spx

/-- The value of an assigned status register of Table 1.5, or none. -/
def State.statusRead (s : State) (t : Thread) (acc : Bool) (n : Nat) : Option Word :=
  let g := s.groupRegs t
  let k := s.core t.core
  match n with
  | 0x000 => some 64
  | 0x001 => some 32
  | 0x002 => some 128
  | 0x003 => some 128
  | 0x010 => some ((coreId t.core).setWidth 64)
  | 0x011 => some (BitVec.ofNat 64 (coreDie t.core * 16 + loomOf t.core))
  | 0x012 => some (BitVec.ofNat 64 (coreDie t.core))
  | 0x013 => some (t.dom.setWidth 64)
  | 0x020 => some (g.rank.setWidth 64)
  | 0x021 => some (g.gsize.setWidth 64)
  | 0x022 => some (g.ggeom.setWidth 64)
  | 0x030 => some (g.row0.setWidth 64)
  | 0x031 => some (g.col0.setWidth 64)
  | 0x032 => some (g.emask.setWidth 64)
  | 0x033 => some k.array.mstat
  | 0x040 => some (t.bcoord.setWidth 64)
  | 0x041 => some (t.bflow.setWidth 64)
  | 0x042 => some (t.bcount.setWidth 64)
  | 0x050 => some ((t.ctx acc).fstat.setWidth 64)
  | 0x051 => some (BitVec.ofNat 64 s.tick)
  | 0x060 => some ((vget k.mb 0 0).setWidth 64)
  | 0x061 => some ((vget k.mb 1 0).setWidth 64)
  | 0x062 => some ((vget k.mb 2 0).setWidth 64)
  | 0x063 => some ((vget k.mb 3 0).setWidth 64)
  | 0x070 => some ((t.seqkey &&& 0x800FFFFF#32).setWidth 64)
  | _ => none

/-- What a write of `%fstat` keeps (Table 1.6, R10). -/
def fstatOf (w : Word) : BitVec 10 := w.extractLsb' 0 10 &&& fstatMask

/-- `mfs` in heddle mode (R237). -/
def mfsHeddle (s : State) (t : Thread) (n : Nat) : Exec Word :=
  if n = 0x051 then pure (BitVec.ofNat 64 s.tick)
  else if n = 0x050 then pure (t.exe.fstat.setWidth 64)
  else if n < 0x080 then pure 0
  else if n < 0x800 then raise 0x01 0 0
  else raise 0x02 0 0

/-- `mfs` (R131, Table 1.5a). -/
def execMfs (d : BitVec 5) (i : BitVec 12) (s : State) : Host.Outcome State Fault Refusal :=
  issue (plain true [.sW d]) (do
    let t ← self
    let a ← me
    let s ← get
    let n := i.toNat
    let w ← if t.heddle.isSome then mfsHeddle s t n
      else if 0x800 ≤ n then raise 0x02 0 0
      else match s.statusRead t a.acc n with
        | some w => pure w
        | none => raise 0x01 0 0
    setS d w
    pure .seq) s

/-- Arrivals that a core's mailbox counter has counted in this cycle. -/
def Core.countedNow (k : Core) (now dir : Nat) : Nat := if k.counted.1 = now then k.counted.2.count dir else 0

/-- Write a mailbox counter and wake who waits on it: an arrival of the same cycle adds to the written value (R35). -/
def writeMailbox (dir : Nat) (w : Word) : Exec Unit := do
  let t ← self
  modify (fun s => (s.updCore t.core (fun k =>
    { k with mb := vset k.mb dir (w.setWidth 32 + BitVec.ofNat 32 (k.countedNow s.tick dir)) })).wakeMailbox t.core)

/-- Write `%mstat`: a bit that hardware has set in the same cycle stays set (R35). -/
def writeMstat (w : Word) : Exec Unit := do
  let t ← self
  modify (fun s => s.updCore t.core (fun k =>
    let keep (x : Bool) (at_ : Option Nat) : Bool := x && at_ == some s.tick
    { k with array := { k.array with spx := bit w 0 || keep k.array.spx k.flagged.1, ainf := bit w 1 || keep k.array.ainf k.flagged.2 } }))

/-- `mts` of an assigned number (R131, Table 1.5a). -/
def mtsWrite (n : Nat) (w : Word) : Exec Unit := do
  let t ← self
  let a ← me
  let s ← get
  match n with
  | 0x033 => writeMstat w
  | 0x050 => updCtx (fun c => { c with fstat := fstatOf w })
  | 0x060 => writeMailbox 0 w
  | 0x061 => writeMailbox 1 w
  | 0x062 => writeMailbox 2 w
  | 0x063 => writeMailbox 3 w
  | _ => if (s.statusRead t a.acc n).isSome then raise 0x02 0 0 else raise 0x01 0 0

/-- `mts` (R131, R237). -/
def execMts (a : BitVec 5) (i : BitVec 12) (s : State) : Host.Outcome State Fault Refusal :=
  issue (plain true [.sR a]) (do
    let w ← getS a
    let t ← self
    let n := i.toNat
    if 0x800 ≤ n then raise 0x02 0 0
    else if t.heddle.isSome then
      if n = 0x050 then updCtx (fun c => { c with fstat := fstatOf w }) else raise 0x01 0 0
    else mtsWrite n w
    pure .seq) s

end Sys2Proof.Machine
end

