-- ==== Sys2Proof/Machine/Sync.lean ====
section
/-! DEFINITION. Suspension points (R256), prefetches, major 0x16 (R205), barriers, major 0x17 (R206 to R208), and channels, major
0x18 (R209 to R213). -/

namespace Sys2Proof.Machine

/-- The wait of a key is satisfied already (Table 8.11). -/
def State.keyMet (s : State) (core : Nat) (k : WaitKey) : Bool :=
  match k with
  | .mailbox dir v => mailboxMet (vget (s.core core).mb dir.toNat 0) v
  | .endpoint p => (s.epHead core p.toNat).isSome
  | .address _ | .engine => false
  | .barrier b =>
    !(match (s.core core).full with
      | some f => (match s.thread? f with
        | some t => (match t.gang with
          | some g => (s.core core).pendBars.contains (2048 * g + b.toNat)
          | none => false)
        | none => false)
      | none => false)

/-- Take a suspension point (R256): a pick waits for its engine operations, a full thread for what its inbound ports are still to
receive and for an access of its other stream; then release(.dev), it leaves its vector group (R261), and the thread is written back to resume `len` bytes on. -/
def leave (len : Nat) (k : Option WaitKey) : Exec Next := do
  let a ← me
  let t ← self
  if t.isPick && (← get).engineBusy a.tid then stall .batch
  if !t.isPick && (((← get).core t.core).portsDue || (t.ctx (!a.acc)).accessing) then stall .memory
  releaseAll 4
  modify (fun s => s.detach a.tid false)
  updCtx (fun c => c.advance len .seq)
  modify (fun s =>
    let s := s.suspendThread a.tid k
    match k with
    | some k => if s.keyMet t.core k then s.makeRunnable a.tid else s
    | none => s)
  pure .stay

/-- The translation of a block that a prefetch may move (R205): window, translation, permission or key failures drop it. -/
def prefetchLeaf (write : Bool) (ea : Word) : Exec (Option Leaf) := do
  let t ← self
  if inWindow ea || field ea 59 56 != 0 then pure none
  else
    let (r, s) := (← get).translate t.core t.dom false (ea.extractLsb' 0 56)
    set s
    match r with
    | .error _ => pure none
    | .ok e =>
      let l := e.leaf (ea.extractLsb' 0 56)
      match s.leafChecks t.dom (ea.setWidth 64) write { l with cc := false } with
      | some _ => pure none
      | none => pure (if l.loc = 0 && s.readable (blockNo l.pa) l.key && !s.shut l.pa then some l else none)

/-- Move a block toward the core (R205): its data cache asks the home on its die, or the home of a loaded draft, where it has a free reply
slot. From the home of a standard draft on another die comes a copy for the die, of which the data cache keeps a read-only line (R283;
log entry 45). `cache` is false for `pref.sc`, which brings a home line or a die's copy. -/
def prefetchBlock (write cache : Bool) (ea : Word) : Exec Unit := do
  match ← prefetchLeaf write ea with
  | none => pure ()
  | some l =>
    let a ← me
    let t ← self
    let s ← get
    let d := coreDie t.core
    let e := paDie l.pa
    let b := blockNo l.pa
    let dr := s.draftAt l.pa
    let o : MemOp := { kind := .load, signed := false, size := 0, data := 0, compare := 0 }
    if s.stdDraft dr && d != e then
      if dr ∈ [0, 1, 3, 4] then
        if (alGet (s.die d).copies b).isNone then
          set (s.sendRead { outOf .dieRead a t o l.pa ea l.key .none with whole := !cache } 0)
        else if cache then set (s.keepLine t.core b)
    else if !cache then
      if d = e ∧ !s.isComm dr ∧ dr ≠ 5 then set (s.installHome b l.key)
    else if s.stdDraft dr && dr == 5 then pure ()
    else if cache ∧ !s.isComm dr ∧ (alGet (s.core t.core).wbuf b).isNone then
      match s.needType t.core b l.key (write && !(s.stdDraft dr && dr == 1)) false false, s.coreSlot t.core with
      | some ty, some slot => set (s.sendRequest (outOf .coherence a t o l.pa ea l.key .none) slot ty false)
      | _, _ => pure ()

/-- Issue a prefetch of a block. -/
def prefetchMI (write cache : Bool) (a : BitVec 5) (i : BitVec 12) (s : State) : Host.Outcome State Fault Refusal :=
  issue { memNeed true [.sR a] with quiet := true } (do
    let x ← getS a
    prefetchBlock write cache (leaAdd x (imm12 i))
    pure .seq) s

/-- `pref` (R205): moves a block into the data cache for reading. -/
def execPref (a : BitVec 5) (i : BitVec 12) (s : State) : Host.Outcome State Fault Refusal := prefetchMI false true a i s

/-- `prefw` (R205): moves a block into the data cache writable. -/
def execPrefw (a : BitVec 5) (i : BitVec 12) (s : State) : Host.Outcome State Fault Refusal := prefetchMI true true a i s

/-- `pref.sc` (R205): moves a block into the die's shared cache only. -/
def execPrefSc (a : BitVec 5) (i : BitVec 12) (s : State) : Host.Outcome State Fault Refusal := prefetchMI false false a i s

/-- Move a line of text by the fetch-ahead path: an error drops it and counts (R63, R64). -/
def State.fetchAheadLine (s : State) (core : Nat) (d : DomId) (im : Image) (line : VAddr) : State :=
  match s.fetchLine core d im line line with
  | (.ok _, s) => s
  | (.error _, s) => s.updCore core (fun k => { k with cnt := { k.cnt with fadrop := satInc k.cnt.fadrop } })

/-- `ipref` (R205, R63): moves a line into the instruction cache. -/
def execIpref (a : BitVec 5) (i : BitVec 12) (s : State) : Host.Outcome State Fault Refusal :=
  issue { memNeed true [.sR a] with quiet := true } (do
    let x ← getS a
    let t ← self
    let ea := leaAdd x (imm12 i)
    let line : VAddr := (ea.extractLsb' 0 56) >>> 7 <<< 7
    if inWindow ea || field ea 59 56 != 0 then
      modify (fun s => s.updCore t.core (fun k => { k with cnt := { k.cnt with fadrop := satInc k.cnt.fadrop } }))
    else modify (fun s => s.fetchAheadLine t.core t.dom t.image line)
    pure .seq) s

/-- A barrier of a gang (Table 7.8): EXPECT is `%gsize` at launch. -/
def Gang.barrier (g : Gang) (b : Nat) : Barrier :=
  alGetD g.barriers b { expect := BitVec.ofNat 16 g.members.length, count := 0, phase := 0 }

/-- Set a barrier of a gang. -/
def State.setBarrier (s : State) (gid b : Nat) (x : Barrier) : State :=
  match alGet s.gangs gid with
  | some g => { s with gangs := alSet s.gangs gid { g with barriers := alSet g.barriers b x } }
  | none => s

/-- The gang whose barrier a thread names, or barrier misuse (R208). -/
def barrierGang (b : BitVec 11) : Exec (Nat × Gang) := do
  let t ← self
  let s ← get
  if (s.groupRegs t).gsize = 0 || (t.image.floor && decide (511 < b.toNat)) then raise 0x22 0 0
  else match (s.core t.core).full.bind s.thread? with
    | none => raise 0x22 0 0
    | some f => match f.gang with
      | none => raise 0x22 0 0
      | some gid => match alGet s.gangs gid with
        | none => raise 0x22 0 0
        | some g => pure (gid, g)

/-- The key of a barrier in a core's set of pending barriers. -/
def pendKey (gid : Nat) (b : BitVec 11) : Nat := 2048 * gid + b.toNat

/-- Add an arrival (Table 7.9): COUNT rises and PEND is set. -/
def State.arrive (s : State) (core gid : Nat) (g : Gang) (b : BitVec 11) : State :=
  let x := g.barrier b.toNat
  let s := s.setBarrier gid b.toNat { x with count := x.count + 1 }
  s.updCore core (fun k => { k with pendBars := pendKey gid b :: k.pendBars.erase (pendKey gid b) })

/-- Issue needs of a barrier instruction. -/
def barNeed (uses : List Use) : Need := { plain true uses with cls := .noAccNoHeddle }

/-- `bar.init` (R207): EXPECT <- A at every member. -/
def execBarInit (a : BitVec 5) (i : BitVec 11) (s : State) : Host.Outcome State Fault Refusal :=
  issue (barNeed [.sR a]) (do
    let x ← getS a
    let (gid, g) ← barrierGang i
    let y := g.barrier i.toNat
    if x = 0 || decide (65535 < x.toNat) || y.count != 0 then raise 0x22 0 0
    else do
      modify (fun s => s.setBarrier gid i.toNat { y with expect := x.setWidth 16 })
      pure .seq) s

/-- `bar.arv` (R207): release(.die) and one arrival. Arrivals wait while the phase completes. -/
def execBarArv (i : BitVec 11) (s : State) : Host.Outcome State Fault Refusal :=
  issue (barNeed []) (do
    let t ← self
    let (gid, g) ← barrierGang i
    release 3
    if (g.barrier i.toNat).count = (g.barrier i.toNat).expect then stall .barrier
    else do
      modify (fun s => s.arrive t.core gid g i)
      pure .seq) s

/-- Wait until PEND is 0, then acquire(.die) (R207). -/
def pendWait (gid : Nat) (b : BitVec 11) : Exec Next := do
  let t ← self
  if ((← get).core t.core).pendBars.contains (pendKey gid b) then stall .barrier
  acquire
  pure .seq

/-- `bar.wait` (R207): waits until PEND = 0. -/
def execBarWait (i : BitVec 11) (s : State) : Host.Outcome State Fault Refusal :=
  issue (barNeed []) (do
    let (gid, _) ← barrierGang i
    pendWait gid i) s

/-- `bar.sync` (R207): arrives and then waits, as one instruction; its arrival stays counted while it waits. -/
def execBarSync (i : BitVec 11) (s : State) : Host.Outcome State Fault Refusal :=
  issue (barNeed []) (do
    let a ← me
    let t ← self
    let c ← ctx
    let (gid, g) ← barrierGang i
    if c.got ≠ [] then pendWait gid i
    else do
      release 3
      if (g.barrier i.toNat).count = (g.barrier i.toNat).expect then stall .barrier
      else stallKeep .barrier (fun s =>
        (s.arrive t.core gid g i).updThread a.tid (fun t => t.updCtx a.acc (fun c => { c with got := [1] })))) s

/-- `bar.test` (R207): D <- 1 when PEND = 0, else 0. -/
def execBarTest (d : BitVec 5) (i : BitVec 11) (s : State) : Host.Outcome State Fault Refusal :=
  issue (barNeed [.sW d]) (do
    let t ← self
    let (gid, _) ← barrierGang i
    setS d (boolWord (!((← get).core t.core).pendBars.contains (pendKey gid i)))
    pure .seq) s

/-- The cores of a gang's rectangle (R258). -/
def Gang.cores (g : Gang) : List Nat :=
  (List.range (g.width * g.height)).map (fun i =>
    shuttleAt g.die.toNat (g.orgCol + i % g.width) (g.orgRow + i / g.width))

/-- `BARRIER_PHASE_COMPLETE` (R207): once COUNT = EXPECT, PHASE rises, COUNT clears, and PEND clears at every member. -/
def execBarrierPhaseComplete (gang : Nat) (bar : BitVec 11) (s : State) : Host.Outcome State Fault Refusal :=
  match alGet s.gangs gang with
  | none => .next s
  | some g =>
    let x := g.barrier bar.toNat
    if x.count = x.expect then
      let s := s.setBarrier gang bar.toNat { x with phase := x.phase + 1, count := 0 }
      let s := g.cores.foldl (fun s c =>
        s.updCore c (fun k => { k with pendBars := k.pendBars.erase (pendKey gang bar) })) s
      .next (s.wakeBarrier bar g.cores)
    else .next s

/-- Issue needs of a channel instruction. -/
def chanNeed (legal : Bool) (uses : List Use) : Need := { plain legal uses with cls := .noAccNoHeddle }

/-- Check a 64-byte message's place in local store (R210, R212). -/
def messagePlace (a : Word) (write : Bool) : Exec Unit := do
  let t ← self
  if a.toNat % 64 ≠ 0 then raise 0x03 a 0
  else if !windowOk ((← get).core t.core) a.toNat 64 write false then raise 0x11 a 0

/-- A handle is a repair handle (R377). -/
def isRepair (h : Word) : Bool := bit h 31

/-- A repair handle in a store, with its die (R377). -/
def State.repair? (s : State) (h : Word) : Option (Nat × Repair) :=
  [0, 1, 2, 3].findSome? (fun d => ((s.die d).repairs.find? (fun r => r.handle == h)).map (fun r => (d, r)))

/-- A thread may send to a handle: by its domain's grant table (R209, R384), or, for a repair handle, as the full thread on the
supervisor core that the entry's domain names (R377). -/
def State.maySend (s : State) (t : Thread) (h : Word) : Bool :=
  if isRepair h then
    match s.repair? h with
    | some (_, r) => t.kind == .full && s.effSupv r.dom == coreId t.core
    | none => false
  else (s.dom (s.grantDom t.dom)).grants.any (fun g => g.2.handle == h && g.2.send)

/-- `send` (R210): sends the message at A to the endpoint whose handle is B. -/
def execSend (t a b : BitVec 5) (ord : Ord) (s : State) : Host.Outcome State Fault Refusal :=
  issue { chanNeed ord.legal [.sR a, .sR b, .tok t] with sysRel := ord.rel && ord.scope == 5 } (do
    let x ← getS a
    let h ← getS b
    let g ← me
    let th ← self
    let s ← get
    let device : BitVec 15 := h.extractLsb' 49 15
    if 8 ≤ (s.chans.filter (fun m => m.2.stid == g.tid)).length then stall .send
    messagePlace x false
    if !s.maySend th h then raise 0x16 h 1
    if device ≠ s.mgmt.device && (!s.mgmt.admitted.contains device || (s.port (portOf device)).state != 2) then raise 0x16 h 2
    releaseIf ord
    let dest ← laterT t
    modify (fun s =>
      let m : ChanMsg :=
        { id := s.nextId, handle := h, sender := s.coreNode th.core, stid := g.tid, sdom := th.dom, dest := dest,
          rel := ord.rel, scope := ord.scope,
          stamp := if ord.rel && decide (4 ≤ ord.scope.toNat) then (s.die (coreDie th.core)).vc else Clock.zero, data := BitVec.ofNat 512 (s.mem.num (lsLoc th.core x.toNat) 64) }
      { s with chans := alSet s.chans s.nextId m, nextId := s.nextId + 1 })
    pure .seq) s

/-- An endpoint of the issuing shuttle that belongs to the thread's domain (R212). -/
def ownEndpoint (b : Word) : Exec Endpoint := do
  let t ← self
  let e := (← get).ep t.core b.toNat
  if 15 < b.toNat ∨ e.owner ≠ some t.dom then raise 0x16 b 4 else pure e

/-- `recv` (R212): takes the oldest message of an endpoint and acquires at the scope of its release, whose events the die has then
seen; an empty endpoint suspends the thread at the `recv`. The faults of A come before those of B (DESIGN CHOICE, log entry 35). -/
def execRecv (t a b : BitVec 5) (s : State) : Host.Outcome State Fault Refusal :=
  issue (chanNeed true [.sR a, .sR b, .tok t]) (do
    let before ← get
    let x ← getS a
    let y ← getS b
    let th ← self
    messagePlace x true
    let e ← ownEndpoint y
    if e.handler ≠ 0 then raise 0x16 y 3
    else match (← get).epHead th.core y.toNat with
      | none =>
        set before
        leave 0 (some (.endpoint (y.setWidth 4)))
      | some m => do
        if m.rel then acquire
        if !m.stamp.leBut ((← get).die (coreDie th.core)).vc [] then stall .memory
        modify (fun s =>
          let s := s.epTake th.core y.toNat
          s.plainWrite (lsLoc th.core x.toNat) (leBytes 64 m.data.toNat))
        setT t (m.sender.setWidth 64)
        pure .seq) s

/-- `rbind` (R213): binds an endpoint to the handler at A, or unbinds it. The spec orders the faults of A and of B nowhere: those of A
come first (DESIGN CHOICE, log entry 35). -/
def execRbind (a b : BitVec 5) (s : State) : Host.Outcome State Fault Refusal :=
  issue (chanNeed true [.sR a, .sR b]) (do
    let x ← getS a
    let y ← getS b
    let th ← self
    if field x 59 56 ≠ 0 then raise 0x04 x x
    else if bit x 0 then raise 0x03 x 0
    else do
      let _ ← ownEndpoint y
      modify (fun s => s.updEp th.core y.toNat (fun e => { e with handler := x.extractLsb' 0 56, image := th.image }))
      pure .seq) s

end Sys2Proof.Machine
end

