-- ==== Sys2Proof/Machine/VectorInt.lean ====
section
/-! DEFINITION. Integer lane operations, major 0x19 (R136, R137, R144, R145) and their compact forms (R56), vector length and lane
slices, major 0x22 (R141 to R143). -/

namespace Sys2Proof.Machine

/-- Issue needs of a vector instruction of `len` bytes (Table 2.4, R38). -/
def vecNeed (legal : Bool) (uses : List Use) (len : Nat) : Need :=
  { plain legal uses with cls := .noAccNoHeddle, len := len }

/-- Issue a vector instruction whose lanes a predicate selects (R23, R67). -/
def vecIssue (g : Gov) (n : Need) (body : Exec Next) (s : State) : Host.Outcome State Fault Refusal :=
  issue { n with lanes := some g } body s

/-- How the B field is used: as a vector register, or as a scalar in a scalar-B variant (R137). -/
def useB (scalar : Bool) (b : BitVec 5) : Use := if scalar then .sR b else .vR b

/-- The lane values of B: a vector register's, or the scalar's low 32 bits in every lane (R137). -/
def getB (scalar : Bool) (b : BitVec 5) : Exec (Nat → W32) := do
  if scalar then
    let w ← getS b
    pure (fun _ => w.setWidth 32)
  else
    let v ← getV b
    pure (lane v)

/-- The predicate of a compact form (R56). -/
def compactGov (p1 : Bool) : Gov := { p := if p1 then 1 else 0, n := false }

/-- The binary operations of Table 5.2. -/
inductive VI where
  | add | sub | mul | mulh | minS | maxS | minN | maxN | and | or | xor | shl | shr | sar
  deriving DecidableEq, Repr

/-- An exact integer result as an s32 lane: clamped under SAT or CLAMP 11, else wrapped (R145). -/
def s32Result (m : Option Mod) (i : Int) : W32 :=
  let sat : Bool := match m with
    | some m => m.sat || m.clamp == 3
    | none => false
  BitVec.ofInt 32 (if sat then max (-(2 ^ 31 : Int)) (min (2 ^ 31 - 1) i) else i)

/-- One lane of a binary operation (Table 5.2, R145). -/
def VI.lane (o : VI) (m : Option Mod) (x y : W32) : W32 :=
  match o with
  | .add => s32Result m (x.toInt + y.toInt)
  | .sub => s32Result m (x.toInt - y.toInt)
  | .mul => s32Result m (x.toInt * y.toInt)
  | .mulh => BitVec.ofInt 32 (x.toInt * y.toInt / 2 ^ 32)
  | .minS => if x.sle y then x else y
  | .maxS => if x.sle y then y else x
  | .minN => if x.ule y then x else y
  | .maxN => if x.ule y then y else x
  | .and => x &&& y
  | .or => x ||| y
  | .xor => x ^^^ y
  | .shl => x <<< (field y 4 0)
  | .shr => x >>> (field y 4 0)
  | .sar => x.sshiftRight (field y 4 0)

/-- D <- A op B in the active lanes. -/
def vintRR (o : VI) (scalar : Bool) (m : Option Mod) (len : Nat) (d a b : BitVec 5) (g : Gov) (s : State) :
    Host.Outcome State Fault Refusal :=
  vecIssue g (vecNeed g.legal [.vR a, useB scalar b, .vW d] len) (do
    let on ← activeLanes g
    let x ← getV a
    let y ← getB scalar b
    putLanes d on (fun i => o.lane m (lane x i) (y i))
    pure .seq) s

/-- D <- f B in the active lanes. -/
def vintR (f : W32 → W32) (len : Nat) (d b : BitVec 5) (g : Gov) (s : State) : Host.Outcome State Fault Refusal :=
  vecIssue g (vecNeed g.legal [.vR b, .vW d] len) (do
    let on ← activeLanes g
    let y ← getV b
    putLanes d on (fun i => f (lane y i))
    pure .seq) s

/-- `vaddS32` (R144): d <- a + b. -/
def execVaddS32 (d a b : BitVec 5) (g : Gov) (s : State) : Host.Outcome State Fault Refusal :=
  vintRR .add false none 4 d a b g s

/-- `vsubS32` (R144): d <- a - b. -/
def execVsubS32 (d a b : BitVec 5) (g : Gov) (s : State) : Host.Outcome State Fault Refusal :=
  vintRR .sub false none 4 d a b g s

/-- `vmulS32` (R144): d <- (a × b)<31:0>. -/
def execVmulS32 (d a b : BitVec 5) (g : Gov) (s : State) : Host.Outcome State Fault Refusal :=
  vintRR .mul false none 4 d a b g s

/-- `vmulhS32` (R144): d <- (a × b)<63:32>, signed. -/
def execVmulhS32 (d a b : BitVec 5) (g : Gov) (s : State) : Host.Outcome State Fault Refusal :=
  vintRR .mulh false none 4 d a b g s

/-- `vminS32` (R144): d <- the signed smaller. -/
def execVminS32 (d a b : BitVec 5) (g : Gov) (s : State) : Host.Outcome State Fault Refusal :=
  vintRR .minS false none 4 d a b g s

/-- `vmaxS32` (R144): d <- the signed larger. -/
def execVmaxS32 (d a b : BitVec 5) (g : Gov) (s : State) : Host.Outcome State Fault Refusal :=
  vintRR .maxS false none 4 d a b g s

/-- `vminN32` (R144): d <- the unsigned smaller. -/
def execVminN32 (d a b : BitVec 5) (g : Gov) (s : State) : Host.Outcome State Fault Refusal :=
  vintRR .minN false none 4 d a b g s

/-- `vmaxN32` (R144): d <- the unsigned larger. -/
def execVmaxN32 (d a b : BitVec 5) (g : Gov) (s : State) : Host.Outcome State Fault Refusal :=
  vintRR .maxN false none 4 d a b g s

/-- `vand` (R144): d <- a AND b. -/
def execVand (d a b : BitVec 5) (g : Gov) (s : State) : Host.Outcome State Fault Refusal := vintRR .and false none 4 d a b g s

/-- `vor` (R144): d <- a OR b. -/
def execVor (d a b : BitVec 5) (g : Gov) (s : State) : Host.Outcome State Fault Refusal := vintRR .or false none 4 d a b g s

/-- `vxor` (R144): d <- a XOR b. -/
def execVxor (d a b : BitVec 5) (g : Gov) (s : State) : Host.Outcome State Fault Refusal := vintRR .xor false none 4 d a b g s

/-- `vshl` (R144): d <- a shifted left by b<4:0>. -/
def execVshl (d a b : BitVec 5) (g : Gov) (s : State) : Host.Outcome State Fault Refusal := vintRR .shl false none 4 d a b g s

/-- `vshr` (R144): d <- a shifted right with zero fill. -/
def execVshr (d a b : BitVec 5) (g : Gov) (s : State) : Host.Outcome State Fault Refusal := vintRR .shr false none 4 d a b g s

/-- `vsar` (R144): d <- a shifted right with sign fill. -/
def execVsar (d a b : BitVec 5) (g : Gov) (s : State) : Host.Outcome State Fault Refusal := vintRR .sar false none 4 d a b g s

/-- `vaddS32ScalarB` (R144): d <- a + b, with b the scalar B. -/
def execVaddS32ScalarB (d a b : BitVec 5) (g : Gov) (s : State) : Host.Outcome State Fault Refusal :=
  vintRR .add true none 4 d a b g s

/-- `vsubS32ScalarB` (R144): d <- a - b, with b the scalar B. -/
def execVsubS32ScalarB (d a b : BitVec 5) (g : Gov) (s : State) : Host.Outcome State Fault Refusal :=
  vintRR .sub true none 4 d a b g s

/-- `vmulS32ScalarB` (R144): d <- (a × b)<31:0>, with b the scalar B. -/
def execVmulS32ScalarB (d a b : BitVec 5) (g : Gov) (s : State) : Host.Outcome State Fault Refusal :=
  vintRR .mul true none 4 d a b g s

/-- `vmulhS32ScalarB` (R144): d <- (a × b)<63:32>, signed, with b the scalar B. -/
def execVmulhS32ScalarB (d a b : BitVec 5) (g : Gov) (s : State) : Host.Outcome State Fault Refusal :=
  vintRR .mulh true none 4 d a b g s

/-- `vminS32ScalarB` (R144): d <- the signed smaller, with b the scalar B. -/
def execVminS32ScalarB (d a b : BitVec 5) (g : Gov) (s : State) : Host.Outcome State Fault Refusal :=
  vintRR .minS true none 4 d a b g s

/-- `vmaxS32ScalarB` (R144): d <- the signed larger, with b the scalar B. -/
def execVmaxS32ScalarB (d a b : BitVec 5) (g : Gov) (s : State) : Host.Outcome State Fault Refusal :=
  vintRR .maxS true none 4 d a b g s

/-- `vminN32ScalarB` (R144): d <- the unsigned smaller, with b the scalar B. -/
def execVminN32ScalarB (d a b : BitVec 5) (g : Gov) (s : State) : Host.Outcome State Fault Refusal :=
  vintRR .minN true none 4 d a b g s

/-- `vmaxN32ScalarB` (R144): d <- the unsigned larger, with b the scalar B. -/
def execVmaxN32ScalarB (d a b : BitVec 5) (g : Gov) (s : State) : Host.Outcome State Fault Refusal :=
  vintRR .maxN true none 4 d a b g s

/-- `vandScalarB` (R144): d <- a AND b, with b the scalar B. -/
def execVandScalarB (d a b : BitVec 5) (g : Gov) (s : State) : Host.Outcome State Fault Refusal :=
  vintRR .and true none 4 d a b g s

/-- `vorScalarB` (R144): d <- a OR b, with b the scalar B. -/
def execVorScalarB (d a b : BitVec 5) (g : Gov) (s : State) : Host.Outcome State Fault Refusal :=
  vintRR .or true none 4 d a b g s

/-- `vxorScalarB` (R144): d <- a XOR b, with b the scalar B. -/
def execVxorScalarB (d a b : BitVec 5) (g : Gov) (s : State) : Host.Outcome State Fault Refusal :=
  vintRR .xor true none 4 d a b g s

/-- `vshlScalarB` (R144): d <- a shifted left by b<4:0>, with b the scalar B. -/
def execVshlScalarB (d a b : BitVec 5) (g : Gov) (s : State) : Host.Outcome State Fault Refusal :=
  vintRR .shl true none 4 d a b g s

/-- `vshrScalarB` (R144): d <- a shifted right with zero fill, with b the scalar B. -/
def execVshrScalarB (d a b : BitVec 5) (g : Gov) (s : State) : Host.Outcome State Fault Refusal :=
  vintRR .shr true none 4 d a b g s

/-- `vsarScalarB` (R144): d <- a shifted right with sign fill, with b the scalar B. -/
def execVsarScalarB (d a b : BitVec 5) (g : Gov) (s : State) : Host.Outcome State Fault Refusal :=
  vintRR .sar true none 4 d a b g s

/-- `vabsS32` (R144): d <- |b|; -2^31 gives -2^31. -/
def execVabsS32 (d b : BitVec 5) (g : Gov) (s : State) : Host.Outcome State Fault Refusal :=
  vintR (fun y => if y.msb then -y else y) 4 d b g s

/-- `vmov` (R144): d <- b. -/
def execVmov (d b : BitVec 5) (g : Gov) (s : State) : Host.Outcome State Fault Refusal := vintR id 4 d b g s

/-- `vaddS32Compact` (R56): d <- d op b. -/
def execVaddS32Compact (d b : BitVec 5) (p1 : Bool) (s : State) : Host.Outcome State Fault Refusal :=
  vintRR .add false none 2 d d b (compactGov p1) s

/-- `vsubS32Compact` (R56): d <- d op b. -/
def execVsubS32Compact (d b : BitVec 5) (p1 : Bool) (s : State) : Host.Outcome State Fault Refusal :=
  vintRR .sub false none 2 d d b (compactGov p1) s

/-- `vmulS32Compact` (R56): d <- d op b. -/
def execVmulS32Compact (d b : BitVec 5) (p1 : Bool) (s : State) : Host.Outcome State Fault Refusal :=
  vintRR .mul false none 2 d d b (compactGov p1) s

/-- `vandCompact` (R56): d <- d op b. -/
def execVandCompact (d b : BitVec 5) (p1 : Bool) (s : State) : Host.Outcome State Fault Refusal :=
  vintRR .and false none 2 d d b (compactGov p1) s

/-- `vorCompact` (R56): d <- d op b. -/
def execVorCompact (d b : BitVec 5) (p1 : Bool) (s : State) : Host.Outcome State Fault Refusal :=
  vintRR .or false none 2 d d b (compactGov p1) s

/-- `vxorCompact` (R56): d <- d op b. -/
def execVxorCompact (d b : BitVec 5) (p1 : Bool) (s : State) : Host.Outcome State Fault Refusal :=
  vintRR .xor false none 2 d d b (compactGov p1) s

/-- `vshlCompact` (R56): d <- d op b. -/
def execVshlCompact (d b : BitVec 5) (p1 : Bool) (s : State) : Host.Outcome State Fault Refusal :=
  vintRR .shl false none 2 d d b (compactGov p1) s

/-- `vshrCompact` (R56): d <- d op b. -/
def execVshrCompact (d b : BitVec 5) (p1 : Bool) (s : State) : Host.Outcome State Fault Refusal :=
  vintRR .shr false none 2 d d b (compactGov p1) s

/-- `vsarCompact` (R56): d <- d op b. -/
def execVsarCompact (d b : BitVec 5) (p1 : Bool) (s : State) : Host.Outcome State Fault Refusal :=
  vintRR .sar false none 2 d d b (compactGov p1) s

/-- `vmovCompact` (R56): d <- b. -/
def execVmovCompact (d b : BitVec 5) (p1 : Bool) (s : State) : Host.Outcome State Fault Refusal :=
  vintR id 2 d b (compactGov p1) s

/-- `vsplat` (R144): d <- the scalar B<31:0>. -/
def execVsplat (d b : BitVec 5) (g : Gov) (s : State) : Host.Outcome State Fault Refusal :=
  vecIssue g (vecNeed g.legal [.sR b, .vW d] 4) (do
    let on ← activeLanes g
    let y ← getB true b
    putLanes d on y
    pure .seq) s

/-- `vid` (R144): d <- the lane index. -/
def execVid (d : BitVec 5) (g : Gov) (s : State) : Host.Outcome State Fault Refusal :=
  vecIssue g (vecNeed g.legal [.vW d] 4) (do
    let on ← activeLanes g
    putLanes d on (fun i => BitVec.ofNat 32 i)
    pure .seq) s

/-- `vsetl` (R141): VL and D <- min(A, %lanes); a count of 0 writes only D. -/
def execVsetl (d a : BitVec 5) (s : State) : Host.Outcome State Fault Refusal :=
  issue (vecNeed true [.sR a, .sW d] 4) (do
    let n ← getS a
    if n = 0 then setS d 0
    else
      let vl := min n.toNat 64
      updSelf (fun t => { t with vl := vl })
      setS d (BitVec.ofNat 64 vl)
    pure .seq) s

/-- The lowest active lane among n whose slice offset is bad, with its cause (R143); one both misaligned and too large is misaligned (log
entry 35). -/
def sliceFault (on : BitVec 64) (off : Nat → Nat) (k : Nat) : Nat → Option (Cause × Nat)
  | 0 => none
  | n + 1 =>
    if on.getLsbD k && off k % 4 != 0 then some (0x03, k)
    else if on.getLsbD k && decide (508 < off k) then some (0x13, k)
    else sliceFault on off (k + 1) n

/-- Check the slice offsets of the active lanes (R143). The record's address is the offset (log entry 35). -/
def checkSlices (on : BitVec 64) (off : Nat → Nat) : Exec Unit :=
  match sliceFault on off 0 64 with
  | some (c, k) => raise c (BitVec.ofNat 64 (off k)) (BitVec.ofNat 64 k)
  | none => pure ()

/-- Load a word per active lane from the slices of the issuing core (R142, R143). -/
def sliceLoad (d : BitVec 5) (on : BitVec 64) (off : Nat → Nat) : Exec Next := do
  let t ← self
  checkSlices on off
  let s ← get
  putLanes d on (fun i => BitVec.ofNat 32 (s.mem.num (sliceLoc t.core i (off i)) 4))
  pure .seq

/-- Store a word per active lane into the slices, lanes n and above first. -/
def State.sliceStores (s : State) (core : Nat) (on : BitVec 64) (off : Nat → Nat) (x : VWord) : Nat → State
  | 0 => s
  | n + 1 =>
    let s := s.sliceStores core on off x n
    if on.getLsbD n then { s with mem := s.mem.putNum (sliceLoc core n (off n)) 4 (lane x n).toNat } else s

/-- Store a word per active lane to the slices of the issuing core (R142, R143). -/
def sliceStore (x : VWord) (on : BitVec 64) (off : Nat → Nat) : Exec Next := do
  let t ← self
  checkSlices on off
  modify (fun s => s.sliceStores t.core on off x 64)
  pure .seq

/-- `lsld` (R143): loads one word per active lane from its slice at offset A. -/
def execLsld (d a : BitVec 5) (g : Gov) (s : State) : Host.Outcome State Fault Refusal :=
  vecIssue g (vecNeed g.legal [.sR a, .vW d] 4) (do
    let on ← activeLanes g
    let x ← getS a
    sliceLoad d on (fun _ => x.toNat)) s

/-- `lsst` (R143): stores one word per active lane to its slice at offset A. -/
def execLsst (d a : BitVec 5) (g : Gov) (s : State) : Host.Outcome State Fault Refusal :=
  vecIssue g (vecNeed g.legal [.sR a, .vR d] 4) (do
    let on ← activeLanes g
    let x ← getS a
    let v ← getV d
    sliceStore v on (fun _ => x.toNat)) s

/-- `lsldx` (R143): loads one word per active lane from its slice at the lane's offset in B. -/
def execLsldx (d b : BitVec 5) (g : Gov) (s : State) : Host.Outcome State Fault Refusal :=
  vecIssue g (vecNeed g.legal [.vR b, .vW d] 4) (do
    let on ← activeLanes g
    let y ← getV b
    sliceLoad d on (fun i => (lane y i).toNat)) s

/-- `lsstx` (R143): stores one word per active lane to its slice at the lane's offset in B. -/
def execLsstx (d b : BitVec 5) (g : Gov) (s : State) : Host.Outcome State Fault Refusal :=
  vecIssue g (vecNeed g.legal [.vR b, .vR d] 4) (do
    let on ← activeLanes g
    let y ← getV b
    let v ← getV d
    sliceStore v on (fun i => (lane y i).toNat)) s

end Sys2Proof.Machine
end

