-- ==== Sys2Proof/Machine/VectorFp.lean ====
section
/-! DEFINITION. Floating-point lane operations, majors 0x1A and 0x1B (R138, R146 to R149), their compact forms (R56), and
reductions, major 0x1D (R98, R154). -/

namespace Sys2Proof.Machine

/-- The flags of the active lanes below n (R138). -/
def orFlags (on : BitVec 64) (f : Nat → FF) : Nat → FF
  | 0 => FF.none
  | n + 1 => (orFlags on f n).or (if on.getLsbD n then f n else FF.none)

/-- Write the active lanes of D and merge their flags. -/
def putLanesF (d : BitVec 5) (on : BitVec 64) (f : Nat → W32 × FF) : Exec Unit := do
  mergeFlags (orFlags on (fun i => (f i).2) 64)
  putLanes d on (fun i => (f i).1)

/-- D <- A op B in the active lanes. -/
def vfpRR (o : FOp) (scalar : Bool) (m : Option Mod) (len : Nat) (d a b : BitVec 5) (g : Gov) (s : State) :
    Host.Outcome State Fault Refusal :=
  vecIssue g (vecNeed g.legal [.vR a, useB scalar b, .vW d] len) (do
    let on ← activeLanes g
    let x ← getV a
    let y ← getB scalar b
    let rm ← modeOf m
    putLanesF d on (fun i => fop o m rm (lane x i) (y i) 0)
    pure .seq) s

/-- D <- op B in the active lanes. -/
def vfpR (o : FOp) (m : Option Mod) (len : Nat) (d b : BitVec 5) (g : Gov) (s : State) : Host.Outcome State Fault Refusal :=
  vecIssue g (vecNeed g.legal [.vR b, .vW d] len) (do
    let on ← activeLanes g
    let y ← getV b
    let rm ← modeOf m
    putLanesF d on (fun i => fop o m rm 0 (lane y i) 0)
    pure .seq) s

/-- D <- the approximation of B in the active lanes (R147); RND is ignored. -/
def vapprox (o : Approx) (m : Option Mod) (len : Nat) (d b : BitVec 5) (g : Gov) (s : State) :
    Host.Outcome State Fault Refusal :=
  vecIssue g (vecNeed g.legal [.vR b, .vW d] len) (do
    let on ← activeLanes g
    let y ← getV b
    putLanesF d on (fun i => o.lane m (lane y i))
    pure .seq) s

/-- D <- f A B D in the active lanes (R148). A mesh port as D is popped for the addend and then written (log entry 36). -/
def vfused (f : Option Mod → RM → W32 → W32 → W32 → W32 × FF) (scalar : Bool) (m : Option Mod) (len : Nat) (d a b : BitVec 5)
    (g : Gov) (s : State) : Host.Outcome State Fault Refusal :=
  vecIssue g (vecNeed g.legal [.vR a, useB scalar b, .vR d, .vW d] len) (do
    let on ← activeLanes g
    let x ← getV a
    let y ← getB scalar b
    let z ← getV d
    let rm ← modeOf m
    putLanesF d on (fun i => f m rm (lane x i) (y i) (lane z i))
    pure .seq) s

/-- One lane of `vdot.bf16` (R148): two exact products and the addend, rounded once. -/
def dotBf16 (m : Option Mod) (rm : RM) (a b c : W32) : W32 × FF :=
  let ea (k : Nat) : FVal := (Fmt.bf16.value (field a (16 * k + 15) (16 * k))).mod (negA m) (absA m)
  let eb (k : Nat) : FVal := (Fmt.bf16.value (field b (16 * k + 15) (16 * k))).mod (negB m) (absB m)
  let z := f32Val c
  let p0 := exactMul (ea 0) (eb 0)
  let p1 := exactMul (ea 1) (eb 1)
  let u := exactSum rm p0.1 p1.1
  let v := exactSum rm u.1 z.exact
  let r := Fmt.f32.deliver rm (tailOf m) v.1
  (BitVec.ofNat 32 r.1, ((((nvOf [ea 0, ea 1, eb 0, eb 1, z]).or p0.2).or p1.2).or u.2).or (v.2.or r.2))

/-- An s8 source after ABS, then NEG, exactly (R149). -/
def s8Mod (x : W32) (k : Nat) (neg abs : Bool) : Int :=
  let i := (x.extractLsb' (8 * k) 8).toInt
  let j : Int := if abs then i.natAbs else i
  if neg then -j else j

/-- An exact integer times 2^pow, rounded to an integer by the mode (R149). -/
def scaleInt (rm : RM) (i : Int) (pow : Int) : Int := signed (decide (i < 0)) (roundMul rm (decide (i < 0)) i.natAbs pow false 0).1

/-- One lane of `vdot.s8` (R149). -/
def dotS8 (m : Option Mod) (rm : RM) (a b c : W32) : W32 × FF :=
  let p (k : Nat) : Int := s8Mod a k (negA m) (absA m) * s8Mod b k (negB m) (absB m)
  let t := tailOf m
  let i := scaleInt rm (p 0 + p 1 + p 2 + p 3 + c.toInt) t.pow
  let j := if t.clamp = 1 then max 0 (min 1 i) else if t.clamp = 2 then max (-1) (min 1 i) else i
  (s32Result m j, FF.none)

/-- A node of the tree (R98): two present children combine, one passes through. -/
def redNode (f : W32 → W32 → W32 × FF) (x y : Option W32) : Option W32 × FF :=
  match x, y with
  | some a, some b => let r := f a b; (some r.1, r.2)
  | some a, none => (some a, FF.none)
  | none, y => (y, FF.none)

/-- The root of the tree of n levels over the leaves from lane k (R98). -/
def redTree (f : W32 → W32 → W32 × FF) (leaf : Nat → Option W32) : Nat → Nat → Option W32 × FF
  | 0, k => (leaf k, FF.none)
  | n + 1, k =>
    let l := redTree f leaf n k
    let r := redTree f leaf n (k + 2 ^ n)
    let x := redNode f l.1 r.1
    (x.1, (l.2.or r.2).or x.2)

/-- Scalar D <- the reduction of A's active lanes, or the identity (R154). -/
def vreduce (f : RM → W32 → W32 → W32 × FF) (ident : W32) (sx : Bool) (d a : BitVec 5) (g : Gov) (s : State) :
    Host.Outcome State Fault Refusal :=
  vecIssue g (vecNeed g.legal [.vR a, .sW d] 4) (do
    let on ← activeLanes g
    let x ← getV a
    let rm ← modeOf none
    let r := redTree (f rm) (fun i => if on.getLsbD i then some (lane x i) else none) 6 0
    let w := r.1.getD ident
    mergeFlags r.2
    setS d (if sx then w.signExtend 64 else w.setWidth 64)
    pure .seq) s

/-- `vaddF32` (R146): d <- a + b, rounded once. -/
def execVaddF32 (d a b : BitVec 5) (g : Gov) (s : State) : Host.Outcome State Fault Refusal := vfpRR .add false none 4 d a b g s

/-- `vsubF32` (R146): d <- a - b, rounded once. -/
def execVsubF32 (d a b : BitVec 5) (g : Gov) (s : State) : Host.Outcome State Fault Refusal := vfpRR .sub false none 4 d a b g s

/-- `vmulF32` (R146): d <- a × b, rounded once. -/
def execVmulF32 (d a b : BitVec 5) (g : Gov) (s : State) : Host.Outcome State Fault Refusal := vfpRR .mul false none 4 d a b g s

/-- `vdivF32` (R146): d <- a / b, rounded once. -/
def execVdivF32 (d a b : BitVec 5) (g : Gov) (s : State) : Host.Outcome State Fault Refusal := vfpRR .div false none 4 d a b g s

/-- `vminF32` (R146): d <- the smaller, by Table 3.4, rounded once. -/
def execVminF32 (d a b : BitVec 5) (g : Gov) (s : State) : Host.Outcome State Fault Refusal := vfpRR .min false none 4 d a b g s

/-- `vmaxF32` (R146): d <- the larger, by Table 3.4, rounded once. -/
def execVmaxF32 (d a b : BitVec 5) (g : Gov) (s : State) : Host.Outcome State Fault Refusal := vfpRR .max false none 4 d a b g s

/-- `vaddF32ScalarB` (R146): d <- a + b, with b the scalar B. -/
def execVaddF32ScalarB (d a b : BitVec 5) (g : Gov) (s : State) : Host.Outcome State Fault Refusal :=
  vfpRR .add true none 4 d a b g s

/-- `vsubF32ScalarB` (R146): d <- a - b, with b the scalar B. -/
def execVsubF32ScalarB (d a b : BitVec 5) (g : Gov) (s : State) : Host.Outcome State Fault Refusal :=
  vfpRR .sub true none 4 d a b g s

/-- `vmulF32ScalarB` (R146): d <- a × b, with b the scalar B. -/
def execVmulF32ScalarB (d a b : BitVec 5) (g : Gov) (s : State) : Host.Outcome State Fault Refusal :=
  vfpRR .mul true none 4 d a b g s

/-- `vdivF32ScalarB` (R146): d <- a / b, with b the scalar B. -/
def execVdivF32ScalarB (d a b : BitVec 5) (g : Gov) (s : State) : Host.Outcome State Fault Refusal :=
  vfpRR .div true none 4 d a b g s

/-- `vminF32ScalarB` (R146): d <- the smaller, by Table 3.4, with b the scalar B. -/
def execVminF32ScalarB (d a b : BitVec 5) (g : Gov) (s : State) : Host.Outcome State Fault Refusal :=
  vfpRR .min true none 4 d a b g s

/-- `vmaxF32ScalarB` (R146): d <- the larger, by Table 3.4, with b the scalar B. -/
def execVmaxF32ScalarB (d a b : BitVec 5) (g : Gov) (s : State) : Host.Outcome State Fault Refusal :=
  vfpRR .max true none 4 d a b g s

/-- `vsqrtF32` (R146): d <- √b. -/
def execVsqrtF32 (d b : BitVec 5) (g : Gov) (s : State) : Host.Outcome State Fault Refusal := vfpR .sqrt none 4 d b g s

/-- `vabsF32` (R146): d <- |b|. -/
def execVabsF32 (d b : BitVec 5) (g : Gov) (s : State) : Host.Outcome State Fault Refusal := vfpR .abs none 4 d b g s

/-- `vnegF32` (R146): d <- -b. -/
def execVnegF32 (d b : BitVec 5) (g : Gov) (s : State) : Host.Outcome State Fault Refusal := vfpR .neg none 4 d b g s

/-- `vrintF32` (R146): d <- b rounded to an integral value. -/
def execVrintF32 (d b : BitVec 5) (g : Gov) (s : State) : Host.Outcome State Fault Refusal := vfpR .rint none 4 d b g s

/-- `vrcpF32` (R147): d <- approximately 1/b. -/
def execVrcpF32 (d b : BitVec 5) (g : Gov) (s : State) : Host.Outcome State Fault Refusal := vapprox .rcp none 4 d b g s

/-- `vrsqrtF32` (R147): d <- approximately 1/√b. -/
def execVrsqrtF32 (d b : BitVec 5) (g : Gov) (s : State) : Host.Outcome State Fault Refusal := vapprox .rsqrt none 4 d b g s

/-- `vexp2F32` (R147): d <- approximately 2^b. -/
def execVexp2F32 (d b : BitVec 5) (g : Gov) (s : State) : Host.Outcome State Fault Refusal := vapprox .exp2 none 4 d b g s

/-- `vlog2F32` (R147): d <- approximately log2 b. -/
def execVlog2F32 (d b : BitVec 5) (g : Gov) (s : State) : Host.Outcome State Fault Refusal := vapprox .log2 none 4 d b g s

/-- `vtanhF32` (R147): d <- approximately tanh b. -/
def execVtanhF32 (d b : BitVec 5) (g : Gov) (s : State) : Host.Outcome State Fault Refusal := vapprox .tanh none 4 d b g s

/-- `vfmaF32` (R148): d <- a × b + c, rounded once. -/
def execVfmaF32 (d a b : BitVec 5) (g : Gov) (s : State) : Host.Outcome State Fault Refusal :=
  vfused (fop .fma) false none 4 d a b g s

/-- `vfmsF32` (R148): d <- a × b - c, rounded once. -/
def execVfmsF32 (d a b : BitVec 5) (g : Gov) (s : State) : Host.Outcome State Fault Refusal :=
  vfused (fop .fms) false none 4 d a b g s

/-- `vfnmaF32` (R148): d <- -(a × b) - c, rounded once. -/
def execVfnmaF32 (d a b : BitVec 5) (g : Gov) (s : State) : Host.Outcome State Fault Refusal :=
  vfused (fop .fnma) false none 4 d a b g s

/-- `vfnmsF32` (R148): d <- -(a × b) + c, rounded once. -/
def execVfnmsF32 (d a b : BitVec 5) (g : Gov) (s : State) : Host.Outcome State Fault Refusal :=
  vfused (fop .fnms) false none 4 d a b g s

/-- `vfmaF32ScalarB` (R148): d <- a × b + c, with b the scalar B. -/
def execVfmaF32ScalarB (d a b : BitVec 5) (g : Gov) (s : State) : Host.Outcome State Fault Refusal :=
  vfused (fop .fma) true none 4 d a b g s

/-- `vfmsF32ScalarB` (R148): d <- a × b - c, with b the scalar B. -/
def execVfmsF32ScalarB (d a b : BitVec 5) (g : Gov) (s : State) : Host.Outcome State Fault Refusal :=
  vfused (fop .fms) true none 4 d a b g s

/-- `vfnmaF32ScalarB` (R148): d <- -(a × b) - c, with b the scalar B. -/
def execVfnmaF32ScalarB (d a b : BitVec 5) (g : Gov) (s : State) : Host.Outcome State Fault Refusal :=
  vfused (fop .fnma) true none 4 d a b g s

/-- `vfnmsF32ScalarB` (R148): d <- -(a × b) + c, with b the scalar B. -/
def execVfnmsF32ScalarB (d a b : BitVec 5) (g : Gov) (s : State) : Host.Outcome State Fault Refusal :=
  vfused (fop .fnms) true none 4 d a b g s

/-- `vdotBf16` (R148): d <- a0 × b0 + a1 × b1 + c, rounded once. -/
def execVdotBf16 (d a b : BitVec 5) (g : Gov) (s : State) : Host.Outcome State Fault Refusal :=
  vfused dotBf16 false none 4 d a b g s

/-- `vdotS8` (R149): d <- the four s8 products plus c. -/
def execVdotS8 (d a b : BitVec 5) (g : Gov) (s : State) : Host.Outcome State Fault Refusal :=
  vfused dotS8 false none 4 d a b g s

/-- `vaddF32Compact` (R56): d <- d op b. The halfword 0x0000 is illegal (R46). -/
def execVaddF32Compact (d b : BitVec 5) (p1 : Bool) (s : State) : Host.Outcome State Fault Refusal :=
  if d = 0 ∧ b = 0 ∧ !p1 then illegal s else vfpRR .add false none 2 d d b (compactGov p1) s

/-- `vsubF32Compact` (R56): d <- d op b. -/
def execVsubF32Compact (d b : BitVec 5) (p1 : Bool) (s : State) : Host.Outcome State Fault Refusal :=
  vfpRR .sub false none 2 d d b (compactGov p1) s

/-- `vmulF32Compact` (R56): d <- d op b. -/
def execVmulF32Compact (d b : BitVec 5) (p1 : Bool) (s : State) : Host.Outcome State Fault Refusal :=
  vfpRR .mul false none 2 d d b (compactGov p1) s

/-- `vmaxF32Compact` (R56): d <- d op b. -/
def execVmaxF32Compact (d b : BitVec 5) (p1 : Bool) (s : State) : Host.Outcome State Fault Refusal :=
  vfpRR .max false none 2 d d b (compactGov p1) s

/-- `vminF32Compact` (R56): d <- d op b. -/
def execVminF32Compact (d b : BitVec 5) (p1 : Bool) (s : State) : Host.Outcome State Fault Refusal :=
  vfpRR .min false none 2 d d b (compactGov p1) s

/-- `vnegF32Compact` (R56): d <- -b. -/
def execVnegF32Compact (d b : BitVec 5) (p1 : Bool) (s : State) : Host.Outcome State Fault Refusal :=
  vfpR .neg none 2 d b (compactGov p1) s

/-- `vredsumF32` (R154, R98): D <- the sum of the active lanes by the tree. -/
def execVredsumF32 (d a : BitVec 5) (g : Gov) (s : State) : Host.Outcome State Fault Refusal :=
  vreduce (fun rm x y => fop .add none rm x y 0) 0 false d a g s

/-- `vredmaxF32` (R154, R98): D <- the max of the active lanes by the tree. -/
def execVredmaxF32 (d a : BitVec 5) (g : Gov) (s : State) : Host.Outcome State Fault Refusal :=
  vreduce (fun rm x y => fop .max none rm x y 0) 0xFF800000 false d a g s

/-- `vredminF32` (R154, R98): D <- the min of the active lanes by the tree. -/
def execVredminF32 (d a : BitVec 5) (g : Gov) (s : State) : Host.Outcome State Fault Refusal :=
  vreduce (fun rm x y => fop .min none rm x y 0) 0x7F800000 false d a g s

/-- `vredsumS32` (R154, R98): D <- the wrapping sum of the active lanes. -/
def execVredsumS32 (d a : BitVec 5) (g : Gov) (s : State) : Host.Outcome State Fault Refusal :=
  vreduce (fun _ x y => (x + y, FF.none)) 0 true d a g s

/-- `vredmaxS32` (R154, R98): D <- the signed maximum of the active lanes. -/
def execVredmaxS32 (d a : BitVec 5) (g : Gov) (s : State) : Host.Outcome State Fault Refusal :=
  vreduce (fun _ x y => (if x.sle y then y else x, FF.none)) 0x80000000 true d a g s

/-- `vredminS32` (R154, R98): D <- the signed minimum of the active lanes. -/
def execVredminS32 (d a : BitVec 5) (g : Gov) (s : State) : Host.Outcome State Fault Refusal :=
  vreduce (fun _ x y => (if x.sle y then x else y, FF.none)) 0x7FFFFFFF true d a g s

/-- `vredand` (R154, R98): D <- the bitwise AND of the active lanes. -/
def execVredand (d a : BitVec 5) (g : Gov) (s : State) : Host.Outcome State Fault Refusal :=
  vreduce (fun _ x y => (x &&& y, FF.none)) 0xFFFFFFFF false d a g s

/-- `vredor` (R154, R98): D <- the bitwise OR of the active lanes. -/
def execVredor (d a : BitVec 5) (g : Gov) (s : State) : Host.Outcome State Fault Refusal :=
  vreduce (fun _ x y => (x ||| y, FF.none)) 0 false d a g s

end Sys2Proof.Machine
end

