-- ==== Sys2Proof/Machine/VectorConv.lean ====
section
/-! DEFINITION. Conversions and block quantisation, major 0x1C (R150 to R153). -/

namespace Sys2Proof.Machine

/-- D <- f (old D) A in the active lanes, where D is not read. -/
def vconv (f : Option Mod → RM → W32 → W32 → W32 × FF) (legal : Bool) (m : Option Mod) (len : Nat) (d a : BitVec 5) (g : Gov)
    (s : State) : Host.Outcome State Fault Refusal :=
  vecIssue g (vecNeed (legal && g.legal) [.vR a, .vW d] len) (do
    let on ← activeLanes g
    let x ← getV a
    let rm ← modeOf m
    putLanesF d on (fun i => f m rm 0 (lane x i))
    pure .seq) s

/-- `vcvt.s32.f32` of one lane (R87). -/
def toS32 (m : Option Mod) (rm : RM) (_c x : W32) : W32 × FF :=
  let r := floatToInt (-(2 ^ 31 : Int)) (2 ^ 31 - 1) m rm (negA m) (absA m) x
  (BitVec.ofInt 32 r.1, r.2)

/-- A widening conversion of element k of w bits (R150). -/
def widen (f : Fmt) (w k : Nat) (m : Option Mod) (rm : RM) (_c x : W32) : W32 × FF :=
  let r := fconv f .f32 m rm (negA m) (absA m) (x.toNat / 2 ^ (w * k) % 2 ^ w)
  (BitVec.ofNat 32 r.1, r.2)

/-- A narrowing conversion to w bits, shifted into the old lane (R151). -/
def narrow (f : Fmt) (w : Nat) (m : Option Mod) (rm : RM) (c x : W32) : W32 × FF :=
  let r := fconv .f32 f m rm (negA m) (absA m) x.toNat
  ((c <<< w) ||| BitVec.ofNat 32 r.1, r.2)

/-- D <- the narrowed A shifted into D in the active lanes (R151; log entry 36 on a mesh port as D). -/
def vnarrow (f : Fmt) (w : Nat) (m : Option Mod) (len : Nat) (d a : BitVec 5) (g : Gov) (s : State) :
    Host.Outcome State Fault Refusal :=
  vecIssue g (vecNeed g.legal [.vR a, .vR d, .vW d] len) (do
    let on ← activeLanes g
    let x ← getV a
    let c ← getV d
    let rm ← modeOf m
    putLanesF d on (fun i => narrow f w m rm (lane c i) (lane x i))
    pure .seq) s

/-- A source value of a quantisation (R152): NEGA, ABSA, POW and CLAMP act and give an f32, rounded to nearest even where POW takes it out
of the format (log entry 37); an inactive lane gives +0. -/
def quantSource (m : Option Mod) (on : Bool) (x : W32) : FVal :=
  if !on then .fin false 0 0
  else
    let v := (f32Val x).mod (negA m) (absA m)
    match v with
    | .nan q => .nan q
    | _ => Fmt.f32.value (Fmt.f32.deliver .rne { tailOf m with sat := false } v.exact).1

/-- Lanes of D from nb coded blocks in the layout of Table 5.6. -/
def blockLanes (bs : List Coded) (per i : Nat) : W32 :=
  let nb := bs.length
  if i < per * nb then
    match bs[i / per]? with
    | some c => BitVec.ofNat 32 (ofLE ((c.payload.drop (4 * (i % per))).take 4))
    | none => 0
  else match bs[i - per * nb]? with
    | some c => BitVec.ofNat 32 (c.scale + 256 * c.extra)
    | none => 0

/-- Quantise the whole blocks below VL (R152): every lane below VL is written, whatever the predicate. -/
def vquant (rule : List FVal → Coded) (m : Option Mod) (len : Nat) (d a : BitVec 5) (g : Gov) (s : State) :
    Host.Outcome State Fault Refusal :=
  vecIssue g (vecNeed g.legal [.vR a, .vW d] len) (do
    let t ← self
    let on ← activeLanes g
    let x ← getV a
    let nb := t.vl / 32
    let bs := (List.range nb).map (fun k =>
      rule ((List.range 32).map (fun i => quantSource m (on.getLsbD (32 * k + i)) (lane x (32 * k + i)))))
    let per := match bs with
      | c :: _ => c.payload.length / 4
      | [] => 0
    if nb = 0 then
      if 28 ≤ d.toNat then setV d 0
      pure .seq
    else
      bs.foldl (fun u c => do
        u
        mergeFlags c.flags) (pure ())
      putLanes d (BitVec.ofNat 64 (2 ^ t.vl - 1)) (blockLanes bs per)
      pure .seq) s

/-- The bytes of lanes k to k + n - 1. -/
def laneBytes (x : VWord) (k n : Nat) : List Byte := (List.range n).flatMap (fun i => leBytes 4 (lane x (k + i)).toNat)

/-- A coded block k of nb in the layout of Table 5.6. -/
def codedOf (bx4 : Bool) (nb k : Nat) (x : VWord) : Coded :=
  let per := if bx4 then 4 else 8
  let w := (lane x (per * nb + k)).toNat
  { payload := laneBytes x (per * k) per, scale := w % 256, extra := if bx4 then w / 256 % 256 else 0, flags := FF.none }

/-- Dequantise the active lanes of the whole blocks below VL (R153, R91). -/
def vdequant (bx4 : Bool) (m : Option Mod) (len : Nat) (d a : BitVec 5) (g : Gov) (s : State) :
    Host.Outcome State Fault Refusal :=
  vecIssue g (vecNeed g.legal [.vR a, .vW d] len) (do
    let t ← self
    let on ← activeLanes g
    let x ← getV a
    let rm ← modeOf m
    let nb := t.vl / 32
    let value (i : Nat) : W32 × FF :=
      let c := codedOf bx4 nb (i / 32) x
      let v := (if bx4 then c.bx4 (i % 32) else c.bx8i (i % 32)).mod (negA m) (absA m)
      let r := Fmt.f32.deliver rm (tailOf m) v.exact
      (BitVec.ofNat 32 r.1, r.2)
    putLanesF d (on &&& BitVec.ofNat 64 (2 ^ (32 * nb) - 1)) value
    pure .seq) s

/-- `vcvtF32S32` (R150, R88): d <- the s32 a as f32. -/
def execVcvtF32S32 (d a : BitVec 5) (g : Gov) (s : State) : Host.Outcome State Fault Refusal :=
  vconv (fun m rm _ x => intToFloat m rm (negA m) (absA m) x.toInt) true none 4 d a g s

/-- `vcvtS32F32` (R150, R87): d <- a rounded to a saturated s32. -/
def execVcvtS32F32 (d a : BitVec 5) (g : Gov) (s : State) : Host.Outcome State Fault Refusal := vconv toS32 true none 4 d a g s

/-- `vcvtBf16F32` (R151, R86): narrows a to bf16 and shifts it into d. -/
def execVcvtBf16F32 (d a : BitVec 5) (g : Gov) (s : State) : Host.Outcome State Fault Refusal := vnarrow .bf16 16 none 4 d a g s

/-- `vcvtF16F32` (R151, R86): narrows a to f16 and shifts it into d. -/
def execVcvtF16F32 (d a : BitVec 5) (g : Gov) (s : State) : Host.Outcome State Fault Refusal := vnarrow .f16 16 none 4 d a g s

/-- `vcvtE4m3F32` (R151, R86): narrows a to e4m3 and shifts it into d. -/
def execVcvtE4m3F32 (d a : BitVec 5) (g : Gov) (s : State) : Host.Outcome State Fault Refusal := vnarrow .e4m3 8 none 4 d a g s

/-- `vcvtE5m2F32` (R151, R86): narrows a to e5m2 and shifts it into d. -/
def execVcvtE5m2F32 (d a : BitVec 5) (g : Gov) (s : State) : Host.Outcome State Fault Refusal := vnarrow .e5m2 8 none 4 d a g s

/-- `vcvtF32Bf16` (R150, R86): d <- the selected bf16 element of a, widened exactly. -/
def execVcvtF32Bf16 (d a b : BitVec 5) (g : Gov) (s : State) : Host.Outcome State Fault Refusal :=
  vconv (widen .bf16 16 b.toNat) (decide (b.toNat ≤ 1)) none 4 d a g s

/-- `vcvtF32F16` (R150, R86): d <- the selected f16 element of a, widened exactly. -/
def execVcvtF32F16 (d a b : BitVec 5) (g : Gov) (s : State) : Host.Outcome State Fault Refusal :=
  vconv (widen .f16 16 b.toNat) (decide (b.toNat ≤ 1)) none 4 d a g s

/-- `vcvtF32E4m3` (R150, R86): d <- the selected e4m3 element of a, widened exactly. -/
def execVcvtF32E4m3 (d a b : BitVec 5) (g : Gov) (s : State) : Host.Outcome State Fault Refusal :=
  vconv (widen .e4m3 8 b.toNat) (decide (b.toNat ≤ 3)) none 4 d a g s

/-- `vcvtF32E5m2` (R150, R86): d <- the selected e5m2 element of a, widened exactly. -/
def execVcvtF32E5m2 (d a b : BitVec 5) (g : Gov) (s : State) : Host.Outcome State Fault Refusal :=
  vconv (widen .e5m2 8 b.toNat) (decide (b.toNat ≤ 3)) none 4 d a g s

/-- `vqntBx4` (R152): quantises whole blocks of 32 lanes. -/
def execVqntBx4 (d a : BitVec 5) (g : Gov) (s : State) : Host.Outcome State Fault Refusal := vquant bx4Rule none 4 d a g s

/-- `vqntBx8i` (R152): quantises whole blocks of 32 lanes. -/
def execVqntBx8i (d a : BitVec 5) (g : Gov) (s : State) : Host.Outcome State Fault Refusal := vquant bx8iRule none 4 d a g s

/-- `vdqntBx4` (R153): d <- the block element, rounded to f32. -/
def execVdqntBx4 (d a : BitVec 5) (g : Gov) (s : State) : Host.Outcome State Fault Refusal := vdequant true none 4 d a g s

/-- `vdqntBx8i` (R153): d <- the block element, rounded to f32. -/
def execVdqntBx8i (d a : BitVec 5) (g : Gov) (s : State) : Host.Outcome State Fault Refusal := vdequant false none 4 d a g s

end Sys2Proof.Machine
end

