-- ==== Sys2Proof/Machine/Weave.lean ====
section
/-! DEFINITION. The weave array: formats (R171), weight latching (R93, R173), streaming (R94 to R97, R177, R178), rows and drains
(R180, R184), and the array command queue (R168, R169). -/

namespace Sys2Proof.Machine

/-- Stored planes Q of an activation format (Table 3.6). -/
def planesOf (fmt : Nat) : Nat := if fmt ≤ 1 then 8 else if fmt ≤ 3 then 12 else 16

/-- Default plane count P of an activation format (Table 3.6). -/
def defaultPlanes (fmt : Nat) : Nat :=
  match fmt with
  | 0 => 5
  | 1 => 8
  | 2 => 10
  | 3 => 10
  | _ => 12

/-- Extent of a weight image (Table 6.3). -/
def imageBytes (wfmt : Nat) : Nat :=
  match wfmt with
  | 0 => 9216
  | 1 => 16896
  | 2 => 16384
  | 3 => 16384
  | _ => 32768

/-- Extent of an activation operand (Table 6.4). -/
def operandBytes (q nb : Nat) : Nat := 128 * q * nb + 64 * nb

/-- K blocks of a pass: 4 for a dense tile, 8 for a 2:4 tile (R177). -/
def kBlocks (sparse : Bool) : Nat := if sparse then 8 else 4

/-- Byte i of an image. -/
def imgByte (img : List Byte) (i : Nat) : Nat := (img.getD i 0).toNat

/-- The exact value of stored weight j of column n (Table 6.3). -/
def weightValue (img : List Byte) (wfmt n j : Nat) : FVal :=
  let b := 4 * n + j / 32
  match wfmt with
  | 0 =>
    let byte := imgByte img (16 * b + j % 32 / 2)
    bx4Value (if j % 2 = 0 then byte % 16 else byte / 16) (imgByte img (8192 + b)) (imgByte img (8704 + b))
  | 1 => bx8iValue (img.getD (32 * b + j % 32) 0) (imgByte img (16384 + b))
  | 2 => Fmt.e4m3.value (imgByte img (128 * n + j))
  | 3 => Fmt.e5m2.value (imgByte img (128 * n + j))
  | _ => Fmt.bf16.value (imgByte img (256 * n + 2 * j) + 256 * imgByte img (256 * n + 2 * j + 1))

/-- Exponent of the largest magnitude of a list of finite values, none where all are zero (R93). -/
def topExp : List FVal → Option Int
  | [] => none
  | .fin _ m e :: l =>
    if m = 0 then topExp l
    else
      let k : Int := (bitLen m : Int) - 1 + e
      (match topExp l with
      | some j => some (max j k)
      | none => some k)
  | _ :: l => topExp l

/-- The values of K block kb of column n. -/
def weightBlock (img : List Byte) (wfmt : Nat) (sparse : Bool) (n kb : Nat) : List FVal :=
  let w := if sparse then 16 else 32
  (List.range w).map (fun i => weightValue img wfmt n (w * kb + i))

/-- The 9-bit significand of a finite weight under block exponent e (R93). -/
def significand (v : FVal) (e : Int) : BitVec 9 :=
  match v with
  | .fin n m k => BitVec.ofInt 9 (max (-256) (min 255 (signed n (roundMul .rne n m (k + 7 - e) false 0).1)))
  | _ => 0

/-- The tile latched from a weight image and the metadata store (R173, R93). -/
def latchTile (img : List Byte) (wfmt : BitVec 4) (sparse : Bool) (codes : Vector (BitVec 4) 8192) : Tile :=
  let blk (n kb : Nat) : List FVal := weightBlock img wfmt.toNat sparse n kb
  let sig (i : Nat) : BitVec 9 :=
    let n := i / 128
    let j := i % 128
    let l := blk n (if sparse then j / 16 else j / 32)
    if l.any (fun v => !v.isFin) then 0
    else match topExp l with
      | some e => significand (weightValue img wfmt.toNat n j) e
      | none => 0
  let sw (i : Nat) : BitVec 16 :=
    let l := blk (i / 8) (i % 8)
    if kBlocks sparse ≤ i % 8 ∨ l.any (fun v => !v.isFin) then 0
    else match topExp l with
      | some e => BitVec.ofInt 16 (e - 7)
      | none => 0
  let bad (i : Nat) : Bool := decide (i % 8 < kBlocks sparse) && (blk (i / 8) (i % 8)).any (fun v => !v.isFin)
  { sig := (Vector.range 16384).map sig, sw := (Vector.range 1024).map sw,
    nonfin := (BitVec.ofBoolListLE ((List.range 1024).map bad)).setWidth 1024,
    wfmt := wfmt, sparse := sparse, codes := codes }

/-- A sparsity code names two ascending positions (Table 3.8). -/
def codeLegal (c : BitVec 4) : Bool := decide (field c 1 0 < field c 3 2)

/-- The latched weight at position i of K block kb of column n, zero where none is latched (R173, R97, R178). -/
def Tile.weight (t : Tile) (n kb i : Nat) : Int :=
  if t.sparse then
    let g := 8 * kb + i / 4
    let c := vget t.codes (64 * n + g) 0
    if !codeLegal c then 0
    else if i % 4 = field c 1 0 then (vget t.sig (128 * n + 2 * g) 0).toInt
    else if i % 4 = field c 3 2 then (vget t.sig (128 * n + 2 * g + 1) 0).toInt
    else 0
  else (vget t.sig (128 * n + 32 * kb + i) 0).toInt

/-- What one pass reads of an activation block: its exponent and plane words 0 to P - 1. -/
structure ActBlock where
  e : BitVec 16
  planes : List W32
  deriving DecidableEq, Repr

/-- Read the activation block of row m, block kb from an operand (Table 6.4). -/
def actBlock (img : List Byte) (q p nb m kb : Nat) : ActBlock :=
  let base := 4 * q * (nb * m + kb)
  { e := BitVec.ofNat 16 (ofLE ((img.drop (128 * q * nb + 2 * (nb * m + kb))).take 2)),
    planes := (List.range p).map (fun w => BitVec.ofNat 32 (ofLE ((img.drop (base + 4 * w)).take 4))) }

/-- The integer whose bits, sign first, are bit i of each plane word (R177, R178). -/
def planeInt (i : Nat) : List W32 → Int
  | [] => 0
  | s :: l => l.foldl (fun x w => 2 * x + (if w.getLsbD i then 1 else 0)) (if s.getLsbD i then -1 else 0)

/-- Add the partial of one block to an accumulator element (R95, R96, R178). -/
def addPartial (a : ArrayState) (kv n kb : Nat) (x : ActBlock) (acc : W32) : W32 :=
  if kv ≤ 32 * kb then acc
  else if x.e = 0x8000#16 ∨ a.tile.nonfin.getLsbD (8 * n + kb) then BitVec.ofNat 32 Fmt.f32.nan
  else
    let s : Int := (List.range 32).foldl (fun t i =>
      if 32 * kb + i < kv then t + a.tile.weight n kb i * planeInt i x.planes else t) 0
    let e : Int := x.e.toInt - ((a.p.toNat : Int) - 2) + a.mshift.toInt + (vget a.tile.sw (8 * n + kb) 0).toInt
    let r := exactSum .rne (f32Val acc).exact (.num (decide (s < 0)) s.natAbs e false)
    BitVec.ofNat 32 (Fmt.f32.deliver .rne Tail.none r.1).1

/-- The valid K positions of a pass (R178). -/
def passDepth (sparse : Bool) (kv : Nat) : Nat :=
  let d := 32 * kBlocks sparse
  if kv = 0 then d else min kv d

/-- A pattern is infinite or NaN. -/
def nonFinite (x : W32) : Bool := !(f32Val x).isFin

/-- What a stream gives: the array after it, and SPX, INF and ROWS of its completion word. -/
structure StreamResult where
  array : ArrayState
  spx : Bool
  inf : Bool

/-- Stream one pass from an operand (R178). -/
def ArrayState.stream (a : ArrayState) (zero : Bool) (img : List Byte) (mv kv : Nat) : StreamResult :=
  let a := if zero then { a with acc := Vector.replicate 4096 0, tspx := false, tinf := false } else a
  let nb := kBlocks a.tile.sparse
  let depth := passDepth a.tile.sparse kv
  let blocks : Vector ActBlock 256 := (Vector.range 256).map (fun i =>
    actBlock img (planesOf a.afmt.toNat) a.p.toNat nb (i / 8) (i % 8))
  let none : ActBlock := { e := 0, planes := [] }
  let acc := (Vector.range 4096).map (fun i =>
    let m := i / 128
    let old := vget a.acc i 0
    if m < mv then (List.range nb).foldl (fun x kb => addPartial a depth (i % 128) kb (vget blocks (8 * m + kb) none) x) old
    else old)
  let spx := a.tile.sparse && (List.range 8192).any (fun i =>
    decide (4 * (i % 64) < depth) && !codeLegal (vget a.tile.codes i 0))
  let inf := (List.range (128 * mv)).any (fun i => nonFinite (vget acc i 0))
  { array := { a with acc := acc, tspx := a.tspx || spx, tinf := a.tinf || inf, spx := a.spx || spx, ainf := a.ainf || inf },
    spx := spx, inf := inf }

/-- Set the accumulator to zero and clear the tile flags (R176). -/
def ArrayState.zeroed (a : ArrayState) : ArrayState := { a with acc := Vector.replicate 4096 0, tspx := false, tinf := false }

/-- Write the captured lanes of half a row (R184). -/
def ArrayState.writeRow (a : ArrayState) (row : BitVec 5) (half : Bool) (vl : Nat) (x : VWord) : ArrayState :=
  let base := 128 * row.toNat + (if half then 64 else 0)
  { a with acc := (Vector.range 4096).map (fun i =>
      if base ≤ i ∧ i < base + vl then lane x (i - base) else vget a.acc i 0) }

/-- Half a row as a vector (R184). -/
def ArrayState.readRow (a : ArrayState) (row : BitVec 5) (half : Bool) : Nat → W32 := fun i =>
  vget a.acc (128 * row.toNat + (if half then 64 else 0) + i) 0

/-- The metadata codes in 4,096 bytes: group g of column n in byte 32n + g div 2 (R174). -/
def metaCodes (img : List Byte) : Vector (BitVec 4) 8192 :=
  (Vector.range 8192).map (fun i =>
    let b := imgByte img (32 * (i / 64) + i % 64 / 2)
    BitVec.ofNat 4 (if i % 2 = 0 then b % 16 else b / 16))

/-- The rows a drain copies (R180 step 2): columns from nv on are +0. -/
def ArrayState.drainRows (a : ArrayState) (entry : VAddr) (mv nv : Nat) (flow : BitVec 16) (op : Nat) : List DrainRow :=
  (List.range mv).map (fun m =>
    { row := m, data := (Vector.range 128).map (fun n => if n < nv then vget a.acc (128 * m + n) 0 else 0),
      entry := entry, flow := flow, count := mv, op := op })

/-- AFMT, and SPARSE of the latched tile, as a command entering the queue now will see them (R169). -/
def ArrayState.formatAhead (a : ArrayState) : Nat × Bool :=
  a.queue.foldl (fun x c => match c.cmd with
    | .mfmt f _ => (f.toNat, x.2)
    | .mlatch _ _ sp => (x.1, sp)
    | _ => x) (a.afmt.toNat, a.tile.sparse)

/-- The extent that a stream entering the queue now may read. -/
def ArrayState.streamExtent (a : ArrayState) : Nat :=
  let f := a.formatAhead
  operandBytes (planesOf f.1) (kBlocks f.2)

/-- Update a core's array. -/
def State.updArray (s : State) (core : Nat) (f : ArrayState → ArrayState) : State :=
  s.updCore core (fun k => { k with array := f k.array })

/-- A command's place among those that arrive in one cycle (R168): execute stream, access stream, picks by slot, copy engine. -/
def State.cmdRank (s : State) (tid : Nat) (follow : Option Nat) : Nat :=
  if follow.isSome then 16
  else match s.thread? tid with
    | some t => if t.kind = .full then (if s.cur.acc then 1 else 0) else 2 + t.slot
    | none => 0

/-- Put a command behind those before it: all of earlier cycles, and those of its own cycle that do not come after it (R168). -/
def putCmd (q : QueuedCmd) : List QueuedCmd → List QueuedCmd
  | [] => [q]
  | x :: l => if x.at_ = q.at_ ∧ q.rank < x.rank then q :: x :: l else x :: putCmd q l

/-- Enter a command into the array command queue (R168). -/
def State.enterCmd (s : State) (core tid : Nat) (follow : Option Nat) (id : Nat) (c : ArrCmd) : State :=
  s.updArray core (fun a => { a with
    queue := putCmd { id := id, cmd := c, tid := tid, follow := follow, at_ := s.tick, rank := s.cmdRank tid follow } a.queue })

/-- The engine of an operation: 0 copy engine, 1 weave array, 2 weft unit (R215). -/
def OpKind.engine : OpKind → Nat
  | .copy | .copyl | .halo => 0
  | .mstream | .mdrain => 1
  | .weft => 2

/-- An engine operation as it is accepted (R214, R170): it counts in its thread's open batch. -/
def newOp (kind : OpKind) (t : Thread) (tid : Nat) (dest : Dest) (ord : Ord) (num : Nat) (rec_ : Vector Word 8) : EngineOp :=
  { kind := kind, tid := tid, dom := t.dom, image := t.image, dest := dest, batch := t.lastSealed + 1, ord := ord, num := num,
    record := rec_, idx := [], follow := .none, followMv := 0, chain := false, row := 0, off := 0, inflight := [], held := [],
    state := .active, count := 0, live := 0, htrap := false, spx := false, inf := false, rows := 0, strips := [],
    prior := [], since := Clock.zero, far := [], peers := [] }

/-- What an engine operation that a thread issues now comes after (R288): its accesses on their way and its writes that have not
settled, by number, and the events it has seen. Stores posted to peer devices are ordered by a release at `.sys` only (R287). -/
def State.priorOf (s : State) (tid : Nat) : List Nat × Clock :=
  match s.thread? tid with
  | none => ([], Clock.zero)
  | some t =>
    let outs := s.outs.filter (fun o => o.2.tid == tid && o.2.unit.isNone && o.2.size != 0 &&
      !(o.2.kind == .peer && o.2.acckind == .store))
    let far := t.writes.filter (fun w => w.acked.isNone)
    let seen := t.writes.foldl (fun c w => match w.acked with
      | some n => Clock.join c (vset Clock.zero w.home.toNat n)
      | none => c) (s.die (coreDie t.core)).vc
    (outs.map Prod.fst ++ far.map RemoteWrite.id, seen)

/-- Accesses and writes of a thread named by number have settled, and a die has seen the events of a clock (R288). -/
def State.settledBefore (s : State) (d tid : Nat) (prior : List Nat) (since : Clock) : Bool :=
  since.leBut (s.die d).vc [] && !s.outs.any (fun o => prior.contains o.1) &&
    (match s.thread? tid with
    | some t => t.writes.all (fun w => !prior.contains w.id || w.id == 0 || s.settled d 4 w)
    | none => true) &&
    !([0, 1, 2, 3].any (fun e => (s.incoming d e).any (fun m => match m with
      | .write _ _ id _ _ _ _ => id != 0 && prior.contains id
      | _ => false)))

/-- What an operation comes after has come about (R288). -/
def State.priorDone (s : State) (core : Nat) (x : EngineOp) : Bool := s.settledBefore (coreDie core) x.tid x.prior x.since

/-- The operation that a queued `mstream` completes. -/
def QueuedCmd.streams (q : QueuedCmd) : Option Nat :=
  match q.cmd with
  | .mstream _ _ _ _ op => op
  | _ => none

/-- An operation that its thread issues now (R288), on the shuttle of a full thread. -/
def State.issued (s : State) (x : EngineOp) : EngineOp :=
  let p := s.priorOf x.tid
  { x with prior := p.1, since := p.2, owner := (s.thread? x.tid).bind (fun t => (s.core t.core).full) }

/-- Accept an operation: the next number of its engine (Table 19.4) and a fresh key. -/
def State.acceptOp (s : State) (core : Nat) (x : EngineOp) : Nat × State :=
  let (id, s) := s.fresh
  let e := x.kind.engine
  let n := vget (s.core core).opnums e 0
  (id, s.updCore core (fun k =>
    { k with opnums := vset k.opnums e (n + 1), ops := alSet k.ops id { x with num := n } }))

/-- The 64 bits of a completion word (Tables 6.2, 8.1). -/
def EngineOp.word (x : EngineOp) : Word :=
  let flags : Nat := (if x.spx then 2 ^ 63 else 0) + (if x.inf then 2 ^ 62 else 0) + (if x.htrap then 2 ^ 61 else 0)
  BitVec.ofNat 64 (flags + (match x.kind with
    | .mstream | .mdrain => x.rows % 64
    | _ => x.count % 2 ^ 40))

/-- The thread's writes that an operation made at homes on other dies: whoever waits for it has them before it (R289). -/
def EngineOp.writes (x : EngineOp) : List RemoteWrite := x.far.flatMap (fun w => [{ w with acc := false }, { w with acc := true }])

/-- The operation's release can complete (R287): at its SCOPE when REL is set, which waits for what its thread did before it and what
its picks did (R180, R221), else at `.core` (R289). -/
def State.opReleased (s : State) (core : Nat) (x : EngineOp) : Bool :=
  let scope := if x.ord.rel then x.ord.scope.toNat else 1
  x.far.all (s.settled (coreDie core) scope) && (!x.ord.rel || s.priorDone core x) &&
    !(x.ord.rel && scope == 5 && (s.peerStorePending x.tid || s.outs.any (fun o => x.peers.contains o.1)))

/-- Finish an operation: its token, its batch and its place in the engine (R214, R299). -/
def State.finishOp (s : State) (core op : Nat) (x : EngineOp) : State :=
  let s := s.updCore core (fun k => { k with ops := alErase k.ops op })
  let s := s.updThread x.tid (fun t => { t with writes := t.writes ++ x.writes })
  (s.giveToken x.tid x.dest x.word).unhold x.tid

/-- A drain among a core's operations still has rows to be born or picks that run (R180). -/
def State.drainLive (s : State) (core op : Nat) : Bool :=
  (s.core core).array.drain.any (fun r => r.op == op) ||
    (match s.op? core op with
    | some x => x.kind == .mdrain && x.live != 0
    | none => false)

/-- The bytes of local store an array command reads. -/
def State.lsRead (s : State) (core a n : Nat) : List Byte := s.mem.bytes (lsLoc core a) n

end Sys2Proof.Machine
end

