-- ==== Sys2Proof/Machine/Matrix.lean ====
section
/-! DEFINITION. Array instructions, majors 0x23 to 0x25 (R167 to R188). -/

namespace Sys2Proof.Machine

/-- Who may use the array (R167): no row pick, and a pick only on a shuttle whose full thread shares its domain. -/
def mayUseArray : Exec Unit := do
  let t ← self
  let s ← get
  if t.kind = .rowPick then raise 0x01 0 0
  else if t.kind = .pick then
    match (s.core t.core).full.bind s.thread? with
    | none => raise 0x02 0 0
    | some f => if f.dom = t.dom then pure () else raise 0x02 0 0
  else pure ()

/-- Issue needs of major 0x23. -/
def operateNeed (ord : Ord) (uses : List Use) : Need := { plain ord.legal uses with cls := .noHeddle }

/-- Issue needs of major 0x24: the execute stream of a full thread (Table 2.4). -/
def setupNeed (uses : List Use) : Need := { plain true uses with cls := .exeOnly }

/-- An operand register holds an illegal value (R171). -/
def illegalOperand {α : Type} (w : Word) : Exec α := raise 0x01 0 w

/-- Stall while the array command queue is full (R168). -/
def queueRoom : Exec Unit := do
  let t ← self
  if 8 ≤ ((← get).core t.core).array.queue.length then stall .array

/-- Check a local-store operand of an array command: its alignment, then its extent against the windows (R169). -/
def arrayOperand (a : Word) (n : Nat) : Exec Unit := do
  let t ← self
  if a.toNat % 128 ≠ 0 then raise 0x03 a 0
  else if !windowOk ((← get).core t.core) a.toNat n false false then raise 0x11 a 0

/-- Enter a command that completes no engine operation. -/
def enter (c : ArrCmd) : Exec Unit := do
  let a ← me
  let t ← self
  let (id, s) := (← get).fresh
  set (s.enterCmd t.core a.tid none id c)

/-- Accept an array operation whose completion word goes to T, and enter its command (R170). -/
def enterOp (kind : OpKind) (rows : Nat) (t : BitVec 5) (ord : Ord) (c : Nat → ArrCmd) : Exec Unit := do
  let dest ← laterT t
  let a ← me
  let th ← self
  let s ← get
  let (id, s) := s.acceptOp th.core (s.issued { newOp kind th a.tid dest ord 0 (Vector.replicate 8 0) with rows := rows })
  set (s.enterCmd th.core a.tid none id (c id))

/-- MV of a stream or drain word: itself, or `%emask.MV`, or 32 (R178, R180). -/
def rowsOf (mv : Nat) (emask : BitVec 24) : Nat :=
  if mv ≠ 0 then mv else if field emask 5 0 ≠ 0 then field emask 5 0 else 32

/-- The stream word has no illegal value (R178). -/
def streamWordOk (b : Word) : Bool :=
  decide (field b 5 0 ≤ 32) && decide (field b 16 8 ≤ 256) && field b 7 6 == 0 && field b 63 17 == 0

/-- `mstream` and `mstreamz` (R178). An illegal stream word is found before a bad address (log entry 35). -/
def stream (zero : Bool) (t a b : BitVec 5) (ord : Ord) (s : State) : Host.Outcome State Fault Refusal :=
  issue (operateNeed ord [.sR a, .sR b, .tok t]) (do
    mayUseArray
    let x ← getS a
    let y ← getS b
    let th ← self
    if !streamWordOk y then illegalOperand y
    else do
      let s ← get
      arrayOperand x (s.core th.core).array.streamExtent
      queueRoom
      let mv := rowsOf (field y 5 0) (s.groupRegs th).emask
      enterOp .mstream mv t ord (fun id => .mstream zero (x.setWidth 19) mv (field y 16 8) (some id))
      pure .seq) s

/-- `mstream` (R178): enters a command that streams one pass. -/
def execMstream (t a b : BitVec 5) (ord : Ord) (s : State) : Host.Outcome State Fault Refusal := stream false t a b ord s

/-- `mstreamz` (R178): enters a command that zeroes the accumulator and streams one pass. -/
def execMstreamz (t a b : BitVec 5) (ord : Ord) (s : State) : Host.Outcome State Fault Refusal := stream true t a b ord s

/-- The drain word has no illegal value (R180). -/
def drainWordOk (b : Word) : Bool :=
  decide (field b 5 0 ≤ 32) && decide (field b 15 8 ≤ 128) && field b 7 6 == 0 && field b 31 17 == 0 && field b 63 48 == 0

/-- NV of a drain word: itself, or `%emask.NV`, or 128 (R180). -/
def colsOf (nv : Nat) (emask : BitVec 24) : Nat :=
  if nv ≠ 0 then nv else if field emask 15 8 ≠ 0 then field emask 15 8 else 128

/-- A handler's entry address (R180, R220, R228). -/
def entryAddr (a : Word) : Exec Unit :=
  if field a 59 56 ≠ 0 then raise 0x04 a a else if bit a 0 then raise 0x03 a 0 else pure ()

/-- `mdrain` (R180): enters a command that drains accumulator rows into handler picks. A bad entry address is found before an illegal drain
word (log entry 35). -/
def execMdrain (t a b : BitVec 5) (ord : Ord) (s : State) : Host.Outcome State Fault Refusal :=
  issue (operateNeed ord [.sR a, .sR b, .tok t]) (do
    mayUseArray
    let x ← getS a
    let y ← getS b
    let th ← self
    entryAddr x
    if !drainWordOk y then illegalOperand y
    else do
      queueRoom
      let em := ((← get).groupRegs th).emask
      let mv := rowsOf (field y 5 0) em
      enterOp .mdrain mv t ord (fun id =>
        .mdrain (x.extractLsb' 0 56) mv (colsOf (field y 15 8) em) (bit y 16) (y.extractLsb' 32 16) id)
      pure .seq) s

/-- The number of a queued command, and for a drain the operation that its row picks complete (R180). -/
def QueuedCmd.ids (q : QueuedCmd) : List Nat :=
  match q.cmd with
  | .mdrain _ _ _ _ _ op => [q.id, op]
  | _ => [q.id]

/-- Wait for the commands that stood in the queue when the instruction issued to complete, a drain's row picks with it (R180, R183,
R184); `drains` waits for drains that had left the queue too. -/
def waitCommands (drains : Bool) (go : Exec Next) : Exec Next := do
  let a ← me
  let t ← self
  let c ← ctx
  let s ← get
  let k := s.core t.core
  if c.got = [] then
    let ids := (k.array.queue.flatMap QueuedCmd.ids).map (BitVec.ofNat 64) ++
      (if drains then (k.ops.filter (fun o => s.drainLive t.core o.1)).map (fun o => BitVec.ofNat 64 o.1) else [])
    if ids.isEmpty then go
    else stallKeep .array (fun s => s.updThread a.tid (fun t => t.updCtx a.acc (fun c => { c with got := ids })))
  else if c.got.any (fun i =>
      k.array.queue.any (fun q => BitVec.ofNat 64 q.id == i) || s.drainLive t.core i.toNat) then stall .array
  else go

/-- `mwait` (R183): waits until every command queued at its issue, and its drains, have completed. -/
def execMwait (s : State) : Host.Outcome State Fault Refusal :=
  issue { plain true [] with cls := .noHeddle } (do
    if !(← ctx).midway then mayUseArray
    waitCommands true (pure .seq)) s

/-- `mfmt` (R172): enters a command that sets the activation format and P. -/
def execMfmt (a : BitVec 5) (s : State) : Host.Outcome State Fault Refusal :=
  issue (setupNeed [.sR a]) (do
    let x ← getS a
    let fmt := field x 3 0
    let p := field x 12 8
    if 5 < fmt || decide (planesOf fmt < p) || field x 7 4 != 0 || field x 63 13 != 0 then illegalOperand x
    else do
      queueRoom
      enter (.mfmt (BitVec.ofNat 4 fmt) (BitVec.ofNat 5 (if p = 0 then defaultPlanes fmt else p)))
      pure .seq) s

/-- `mlatch` (R173): reads a weight image into a shadow tile and enters a command that latches it. An illegal B is found before a bad
address (log entry 35). -/
def execMlatch (a b : BitVec 5) (s : State) : Host.Outcome State Fault Refusal :=
  issue (setupNeed [.sR a, .sR b]) (do
    let x ← getS a
    let y ← getS b
    let t ← self
    if 4 < field y 3 0 || field y 63 5 != 0 then illegalOperand y
    else do
      let n := imageBytes (field y 3 0)
      arrayOperand x n
      queueRoom
      enter (.mlatch ((← get).lsRead t.core x.toNat n) (y.extractLsb' 0 4) (bit y 4))
      pure .seq) s

/-- `mgeom` (R179): assigns an output tile to the gang member. An illegal word is found before a `%gsize` of 0 (log entry 35). -/
def execMgeom (d a b : BitVec 5) (s : State) : Host.Outcome State Fault Refusal :=
  issue (setupNeed [.sR a, .sR b, .sW d]) (do
    let x ← getS a
    let y ← getS b
    let th ← self
    let g := (← get).groupRegs th
    let m := field x 19 0
    let n := field x 39 20
    let k := field x 59 40
    if m = 0 || n = 0 || k = 0 || field x 63 60 != 0 then illegalOperand x
    else if field y 15 2 != 0 || field y 63 48 != 0 then illegalOperand y
    else if g.gsize = 0 then raise 0x23 0 0
    else do
      let tm := (m + 31) / 32
      let tn := (n + 127) / 128
      let t := g.rank.toNat + field y 47 16 * g.gsize.toNat
      let (row0, col0, em, r) : BitVec 32 × BitVec 32 × BitVec 24 × Bool :=
        if tm * tn ≤ t then (0, 0, 0, false)
        else
          let tr := if bit y 0 then t % tm else t / tn
          let tc := if bit y 0 then t / tm else t % tn
          let (mv, nv, kv) : Nat × Nat × Nat :=
            if bit y 1 then (32, 128, 128)
            else (min 32 (m - 32 * tr), min 128 (n - 128 * tc), k - 128 * ((k + 127) / 128 - 1))
          (BitVec.ofNat 32 (32 * tr), BitVec.ofNat 32 (128 * tc), BitVec.ofNat 24 (kv * 65536 + nv * 256 + mv), true)
      modify (fun s => s.updCore th.core (fun c => { c with grp := { c.grp with row0 := row0, col0 := col0, emask := em } }))
      setS d (boolWord r)
      pure .seq) s

/-- `mspar` (R174): enters a command that loads the metadata store. -/
def execMspar (a : BitVec 5) (s : State) : Host.Outcome State Fault Refusal :=
  issue (setupNeed [.sR a]) (do
    let x ← getS a
    arrayOperand x 4096
    queueRoom
    enter (.mspar (x.setWidth 19))
    pure .seq) s

/-- `mzero` (R176): enters a command that zeroes the accumulator. -/
def execMzero (s : State) : Host.Outcome State Fault Refusal :=
  issue (setupNeed []) (do
    queueRoom
    enter .mzero
    pure .seq) s

/-- `mscale` (R175): enters a command that sets MSHIFT. -/
def execMscale (a : BitVec 5) (s : State) : Host.Outcome State Fault Refusal :=
  issue (setupNeed [.sR a]) (do
    let x ← getS a
    if field x 63 8 ≠ 0 then illegalOperand x
    else do
      queueRoom
      enter (.mscale (x.extractLsb' 0 8))
      pure .seq) s

/-- `mrow` (R184): waits for the older commands in the queue to complete, then reads half an accumulator row into D. -/
def execMrow (d a : BitVec 5) (s : State) : Host.Outcome State Fault Refusal :=
  issue (setupNeed [.sR a, .vW d]) (do
    let before ← get
    let x ← getS a
    let t ← self
    if field x 63 6 ≠ 0 then illegalOperand x
    else do
      let after ← get
      set before
      waitCommands false (do
        set after
        putLanes d (BitVec.ofNat 64 (2 ^ t.vl - 1)) ((after.core t.core).array.readRow (x.extractLsb' 0 5) (bit x 5))
        pure .seq)) s

/-- `mrowst` (R184): captures D and enters a command that writes half an accumulator row. -/
def execMrowst (d a : BitVec 5) (s : State) : Host.Outcome State Fault Refusal :=
  issue (setupNeed [.sR a, .vR d]) (do
    let x ← getS a
    let v ← getV d
    let t ← self
    if field x 63 6 ≠ 0 then illegalOperand x
    else do
      queueRoom
      enter (.mrowst (x.extractLsb' 0 5) (bit x 5) t.vl v)
      pure .seq) s

/-- The exact sum of two block elements (R92). -/
def blockSum (x y : FVal) : FVal :=
  match (exactSum .rne x.exact y.exact).1 with
  | .nan => .nan false
  | .inf n => .inf n
  | .num n m e _ => .fin n m e

/-- `baddq` (R188, R92): adds the whole blocks below VL and requantises them. -/
def blockAdd (bx4 : Bool) (d a b : BitVec 5) (s : State) : Host.Outcome State Fault Refusal :=
  issue (vecNeed true [.vR a, .vR b, .vW d] 4) (do
    let x ← getV a
    let y ← getV b
    let t ← self
    let nb := t.vl / 32
    let elem (v : VWord) (k i : Nat) : FVal :=
      let c := codedOf bx4 nb k v
      if bx4 then c.bx4 i else c.bx8i i
    let coded (k : Nat) : Coded :=
      let sums := (List.range 32).map (fun i => blockSum (elem x k i) (elem y k i))
      let r := if bx4 then bx4Rule sums else bx8iRule sums
      if (codedOf bx4 nb k x).scale = 255 ∨ (codedOf bx4 nb k y).scale = 255 then { r with flags := FF.none } else r
    let bs := (List.range nb).map coded
    if nb = 0 then
      if 28 ≤ d.toNat then setV d 0
      pure .seq
    else do
      bs.foldl (fun u c => do
        u
        mergeFlags c.flags) (pure ())
      putLanes d (BitVec.ofNat 64 (2 ^ t.vl - 1)) (blockLanes bs (if bx4 then 4 else 8))
      pure .seq) s

/-- `baddq.bx4` (R188). -/
def execBaddqBx4 (d a b : BitVec 5) (s : State) : Host.Outcome State Fault Refusal := blockAdd true d a b s

/-- `baddq.bx8i` (R188). -/
def execBaddqBx8i (d a b : BitVec 5) (s : State) : Host.Outcome State Fault Refusal := blockAdd false d a b s

end Sys2Proof.Machine
end

