-- ==== Sys2Proof/Machine/ArrayEvents.lean ====
section
/-! DEFINITION. The turns of array commands at the head of the queue (R168 to R184) and the births of drained rows (R180 to R182). A
command's event does nothing unless that command is at the head. -/

namespace Sys2Proof.Machine

/-- Finish an array operation whose command has taken its turn once its release can complete (R170). -/
def State.tryFinish (s : State) (core op : Nat) : State :=
  match s.op? core op with
  | some x => if s.opReleased core x then s.finishOp core op x else s
  | none => s

/-- The head of a core's queue, which a throttled array takes up in one cycle of two (R410). -/
def State.queueHead (s : State) (core : Nat) : Option QueuedCmd :=
  if s.throttled (coreDie core) then none else (s.core core).array.queue.head?

/-- Take the head of the queue, apply its effect to the array, and tell the copy whose follow-on command it is (R186). -/
def State.turn (s : State) (core : Nat) (q : QueuedCmd) (f : ArrayState → ArrayState) : State :=
  let s := s.updArray core (fun a => { f a with queue := a.queue.drop 1 })
  match q.follow with
  | some op => s.updOp core op (fun x => { x with follow := .done })
  | none => s.unhold q.tid

/-- The turn of `mstream` or `mstreamz`: stream the pass and write the completion word (R178, R170). With
ACQ its first read of local store comes after its thread's earlier accesses. -/
def State.streamTurn (s : State) (core : Nat) (zero : Bool) : State :=
  match s.queueHead core with
  | some q =>
    match q.cmd with
    | .mstream z a mv kv op =>
      if z ≠ zero ∨ (op.bind (s.op? core)).any (fun x => x.state != .active || (x.ord.acq && !s.priorDone core x)) then s
      else
        let k := (s.core core).array
        let img := s.lsRead core a.toNat (operandBytes (planesOf k.afmt.toNat) (kBlocks k.tile.sparse))
        let r := k.stream z img mv kv
        let s := (s.turn core q (fun _ => r.array)).updCore core (fun c =>
          { c with flagged := (if r.spx then some s.tick else c.flagged.1, if r.inf then some s.tick else c.flagged.2) })
        let mark (x : EngineOp) : EngineOp := { x with spx := x.spx || r.spx, inf := x.inf || r.inf, row := 1 }
        (match op, q.follow with
        | some id, _ => (s.updOp core id mark).tryFinish core id
        | none, some id => s.updOp core id (fun x => { x with spx := x.spx || r.spx, inf := x.inf || r.inf })
        | none, none => s)
    | _ => s
  | none => s

/-- `MFMT_COMMAND` (R168, R172): AFMT and P change. -/
def execMfmtCommand (core : Nat) (s : State) : Host.Outcome State Fault Refusal :=
  match s.queueHead core with
  | some q => match q.cmd with
    | .mfmt f p => .next (s.turn core q (fun a => { a with afmt := f, p := p }))
    | _ => .next s
  | none => .next s

/-- `MLATCH_COMMAND` (R173): the shadow tile replaces the latched tile, with the metadata the store holds now. -/
def execMlatchCommand (core : Nat) (s : State) : Host.Outcome State Fault Refusal :=
  match s.queueHead core with
  | some q => match q.cmd with
    | .mlatch img w sp => .next (s.turn core q (fun a => { a with tile := latchTile img w sp a.codes }))
    | _ => .next s
  | none => .next s

/-- `MSPAR_COMMAND` (R174): loads the metadata store. -/
def execMsparCommand (core : Nat) (s : State) : Host.Outcome State Fault Refusal :=
  match s.queueHead core with
  | some q => match q.cmd with
    | .mspar x => .next (s.turn core q (fun a => { a with codes := metaCodes (s.lsRead core x.toNat 4096) }))
    | _ => .next s
  | none => .next s

/-- `MSCALE_COMMAND` (R175): sets MSHIFT. -/
def execMscaleCommand (core : Nat) (s : State) : Host.Outcome State Fault Refusal :=
  match s.queueHead core with
  | some q => match q.cmd with
    | .mscale x => .next (s.turn core q (fun a => { a with mshift := x }))
    | _ => .next s
  | none => .next s

/-- `MZERO_COMMAND` (R176): zeroes the accumulator and clears TSPX and TINF. -/
def execMzeroCommand (core : Nat) (s : State) : Host.Outcome State Fault Refusal :=
  match s.queueHead core with
  | some q => match q.cmd with
    | .mzero => .next (s.turn core q ArrayState.zeroed)
    | _ => .next s
  | none => .next s

/-- `MROWST_COMMAND` (R184): writes the captured lanes into half a row. -/
def execMrowstCommand (core : Nat) (s : State) : Host.Outcome State Fault Refusal :=
  match s.queueHead core with
  | some q => match q.cmd with
    | .mrowst row half vl x => .next (s.turn core q (fun a => a.writeRow row half vl x))
    | _ => .next s
  | none => .next s

/-- `MSTREAM_COMMAND` (R178): streams the pass. -/
def execMstreamCommand (core : Nat) (s : State) : Host.Outcome State Fault Refusal := .next (s.streamTurn core false)

/-- `MSTREAMZ_COMMAND` (R178): zeroes, then streams the pass. -/
def execMstreamzCommand (core : Nat) (s : State) : Host.Outcome State Fault Refusal := .next (s.streamTurn core true)

/-- `MDRAIN_COMMAND` (R180): copies rows into the drain buffer once it is empty, records the flags, and clears under CLR. -/
def execMdrainCommand (core : Nat) (s : State) : Host.Outcome State Fault Refusal :=
  match s.queueHead core with
  | some q => match q.cmd with
    | .mdrain entry mv nv clr flow op =>
      let a := (s.core core).array
      if !a.drain.isEmpty then .next s
      else
        let rows := a.drainRows entry mv nv flow op
        let s := s.turn core q (fun a => { (if clr then a.zeroed else a) with drain := rows })
        .next (s.updOp core op (fun x => { x with spx := a.tspx, inf := a.tinf, row := 1 }))
    | _ => .next s
  | none => .next s

/-- A row pick as it is born (R181). -/
def rowPick (core : Nat) (x : EngineOp) (r : DrainRow) : Thread :=
  let half (k : Nat) : VWord := vecOf (fun i => vget r.data (64 * k + i) 0)
  let t := Thread.init .rowPick core 7 x.dom x.image r.entry
  { t with v := vset (vset t.v 0 (half 0)) 1 (half 1), bcoord := BitVec.ofNat 48 r.row, bflow := r.flow,
           bcount := BitVec.ofNat 32 r.count, origin := .drain core r.op }

/-- `ROW_PICK_BIRTH` (R180 to R182, R288, R413): the oldest drained row is born in slot 7 when it is free and the pool has a
bobbin. -/
def execRowPickBirth (core : Nat) (s : State) : Host.Outcome State Fault Refusal :=
  let k := s.core core
  match k.array.drain with
  | [] => .next s
  | r :: rest =>
    match s.op? core r.op with
    | none => .next (s.updArray core (fun a => { a with drain := rest }))
    | some x =>
      if (vget k.slots 7 none).isSome ∨ !s.priorDone core x then .next s
      else match s.takeBobbin x.dom (coreDie core) false x.image with
        | none => .next s
        | some (tid, s) =>
          let s := s.updArray core (fun a => { a with drain := rest })
          let s := s.updOp core r.op (fun x => { x with live := x.live + 1, count := x.count + 1 })
          .next (s.placePick tid core 7 (rowPick core x r))

end Sys2Proof.Machine
end

