-- ==== Sys2Proof/Machine/Branch.lean ====
section
/-! DEFINITION. Branches, jumps, calls and the counted loop, majors 0x06 to 0x0B (R116 to R123). -/

namespace Sys2Proof.Machine

/-- Where a PC-relative branch goes (R50, R117). -/
def branchTo {n : Nat} (taken : Bool) (o : BitVec n) : Exec Next := do
  let c ← ctx
  pure (if taken then .jump (relTarget c.pc o) else .seq)

/-- A compare-branch (R118). -/
def branchBC (p : Word → Word → Bool) (a b : BitVec 5) (o : BitVec 10) (s : State) : Host.Outcome State Fault Refusal :=
  issue (plain true [.sR a, .sR b]) (do
    let x ← getS a
    let y ← getS b
    branchTo (p x y) o) s

/-- A zero-branch (R119). -/
def branchBZ (p : Word → Bool) (a : BitVec 5) (o : BitVec 15) (s : State) : Host.Outcome State Fault Refusal :=
  issue (plain true [.sR a]) (do
    let x ← getS a
    branchTo (p x) o) s

/-- A branch on the state of a queue, which it neither pops nor pushes (R119). -/
def branchQueue (p : List QEntry → Bool) (a : BitVec 5) (o : BitVec 15) (s : State) : Host.Outcome State Fault Refusal :=
  issue { plain (queueField a) [] with cls := .noPick } (do
    let t ← self
    branchTo (p (t.qRest (a.toNat - 24))) o) s

/-- The checks of a computed target (R121). -/
def checkTarget (t : Word) : Exec VAddr :=
  if field t 59 56 ≠ 0 then raise 0x04 t t
  else if bit t 0 then raise 0x03 t 0
  else pure (t.extractLsb' 0 56)

/-- The address after a 32-bit instruction. -/
def pcAfter : Exec Word := do
  let c ← ctx
  pure ((c.pc + 4).setWidth 64)

/-- `beq` (R118): branches when A = B. The hint changes nothing (R51). -/
def execBeq (a b : BitVec 5) (o : BitVec 10) (_h : BitVec 2) (s : State) : Host.Outcome State Fault Refusal :=
  branchBC (fun x y => x == y) a b o s

/-- `bne` (R118): branches when A differs from B. The hint changes nothing (R51). -/
def execBne (a b : BitVec 5) (o : BitVec 10) (_h : BitVec 2) (s : State) : Host.Outcome State Fault Refusal :=
  branchBC (fun x y => x != y) a b o s

/-- `blt` (R118): branches when A < B, signed. The hint changes nothing (R51). -/
def execBlt (a b : BitVec 5) (o : BitVec 10) (_h : BitVec 2) (s : State) : Host.Outcome State Fault Refusal :=
  branchBC (fun x y => x.slt y) a b o s

/-- `bge` (R118): branches when A >= B, signed. The hint changes nothing (R51). -/
def execBge (a b : BitVec 5) (o : BitVec 10) (_h : BitVec 2) (s : State) : Host.Outcome State Fault Refusal :=
  branchBC (fun x y => !x.slt y) a b o s

/-- `bltn` (R118): branches when A < B, unsigned. The hint changes nothing (R51). -/
def execBltn (a b : BitVec 5) (o : BitVec 10) (_h : BitVec 2) (s : State) : Host.Outcome State Fault Refusal :=
  branchBC (fun x y => x.ult y) a b o s

/-- `bgen` (R118): branches when A >= B, unsigned. The hint changes nothing (R51). -/
def execBgen (a b : BitVec 5) (o : BitVec 10) (_h : BitVec 2) (s : State) : Host.Outcome State Fault Refusal :=
  branchBC (fun x y => !x.ult y) a b o s

/-- `beqz` (R119): branches when A = 0. -/
def execBeqz (a : BitVec 5) (o : BitVec 15) (_h : BitVec 2) (s : State) : Host.Outcome State Fault Refusal :=
  branchBZ (fun x => x == 0) a o s

/-- `bnez` (R119): branches when A is not 0. -/
def execBnez (a : BitVec 5) (o : BitVec 15) (_h : BitVec 2) (s : State) : Host.Outcome State Fault Refusal :=
  branchBZ (fun x => x != 0) a o s

/-- `bltz` (R119): branches when A < 0. -/
def execBltz (a : BitVec 5) (o : BitVec 15) (_h : BitVec 2) (s : State) : Host.Outcome State Fault Refusal :=
  branchBZ (fun x => x.slt 0) a o s

/-- `bgez` (R119): branches when A >= 0. -/
def execBgez (a : BitVec 5) (o : BitVec 15) (_h : BitVec 2) (s : State) : Host.Outcome State Fault Refusal :=
  branchBZ (fun x => !x.slt 0) a o s

/-- `bgtz` (R119): branches when A > 0. -/
def execBgtz (a : BitVec 5) (o : BitVec 15) (_h : BitVec 2) (s : State) : Host.Outcome State Fault Refusal :=
  branchBZ (fun x => BitVec.slt 0 x) a o s

/-- `blez` (R119): branches when A <= 0. -/
def execBlez (a : BitVec 5) (o : BitVec 15) (_h : BitVec 2) (s : State) : Host.Outcome State Fault Refusal :=
  branchBZ (fun x => !BitVec.slt 0 x) a o s

/-- `bqe` (R119): branches when queue A holds no filled entry. -/
def execBqe (a : BitVec 5) (o : BitVec 15) (_h : BitVec 2) (s : State) : Host.Outcome State Fault Refusal :=
  branchQueue (fun q => !q.any (fun e => match e with
    | .filled _ => true
    | .reserved _ => false)) a o s

/-- `bqf` (R119): branches when queue A has no free entry. -/
def execBqf (a : BitVec 5) (o : BitVec 15) (_h : BitVec 2) (s : State) : Host.Outcome State Fault Refusal :=
  branchQueue (fun q => decide (16 ≤ q.length)) a o s

/-- `j` (R120). -/
def execJ (o : BitVec 25) (s : State) : Host.Outcome State Fault Refusal :=
  issue (plain true []) (branchTo true o) s

/-- `jal` (R120): the link register <- PC + 4. -/
def execJal (o : BitVec 25) (s : State) : Host.Outcome State Fault Refusal :=
  issue (plain true [.link true]) (do
    setLink (← pcAfter)
    branchTo true o) s

/-- `jr` (R121). -/
def execJr (a : BitVec 5) (i : BitVec 12) (s : State) : Host.Outcome State Fault Refusal :=
  issue (plain true [.sR a]) (do
    let x ← getS a
    let t ← checkTarget (x + imm12 i)
    pure (.jump t)) s

/-- `jalr` (R121): D <- PC + 4 after A is read. -/
def execJalr (d a : BitVec 5) (i : BitVec 12) (s : State) : Host.Outcome State Fault Refusal :=
  issue (plain true [.sR a, .sW d]) (do
    let x ← getS a
    let t ← checkTarget (x + imm12 i)
    setS d (← pcAfter)
    pure (.jump t)) s

/-- `ret` (R121): transfers control to the link register plus imm. -/
def execRet (i : BitVec 12) (s : State) : Host.Outcome State Fault Refusal :=
  issue (plain true [.link false]) (do
    let x ← getLink
    let t ← checkTarget (x + imm12 i)
    pure (.jump t)) s

/-- `loop` (R122): A <- A - 1, and branches while the result is not zero. -/
def execLoop (a : BitVec 5) (o : BitVec 15) (_h : BitVec 2) (s : State) : Host.Outcome State Fault Refusal :=
  issue (plain (loopField a) [.sR a, .sW a]) (do
    let x ← getS a
    setS a (x - 1)
    branchTo (x - 1 != 0) o) s

end Sys2Proof.Machine
end

