-- ==== Sys2Proof/Machine/CausalEvents.lean ====
section
/-! DEFINITION. Causal delivery between the dies (R285, R286): the protocol events of the bridges. -/

namespace Sys2Proof.Machine

/-- Apply an update at a die that holds a copy of its block: the new data, or an invalidation (R285). -/
def Die.applyUpdate (d : Die) (block : Nat) (data : Option (KeyId × Block)) : Die :=
  if (alGet d.copies block).isNone then d
  else match data with
    | some x => { d with copies := alSet d.copies block x }
    | none => { d with copies := alErase d.copies block }

/-- An update of die e with a stamp can be delivered at a die (R286). -/
def Die.canUpdate (d : Die) (e : Nat) (stamp : Clock) : Bool := stamp.at e == d.vc.at e + 1 && stamp.leBut d.vc [e]

/-- `CAUSAL_UPDATE` (R286): the oldest message of a bridge, beats apart, is an update that can be delivered. -/
def execCausalUpdate (src dst : BitVec 2) (s : State) : Host.Outcome State Fault Refusal :=
  let e := src.toNat
  let f := dst.toNat
  let s := s.land e f
  match frontMsg (s.buffer e f) with
  | some (.update stamp block data) =>
    if (s.die f).canUpdate e stamp then
      let s := s.setBuffer e f (dropFront (s.buffer e f))
      .next ((s.dropOn f block).updDie f (fun d =>
        let d := d.applyUpdate block data
        { d with vc := vset d.vc e (vget stamp e 0) }))
    else .next s
  | _ => .next s

/-- Remove the first beat of a list. -/
def dropBeat : List BridgeMsg → List BridgeMsg
  | [] => []
  | m :: l => if m.isBeat then l else m :: dropBeat l

/-- An update of a die's events up to a count is still to be delivered. -/
def updateBefore (e n : Nat) (l : List BridgeMsg) : Bool :=
  l.any (fun m => match m with
    | .update stamp _ _ => decide (stamp.at e ≤ n)
    | _ => false)

/-- A die has seen the events of another up to a count (R286): a count already passed changes nothing. -/
def Die.advance (d : Die) (e : Nat) (n : BitVec 48) : Die := if d.vc.at e < n.toNat then { d with vc := vset d.vc e n } else d

/-- `CAUSAL_BEAT` (R286): the oldest beat of a bridge, once every update at or below its count is delivered. -/
def execCausalBeat (src dst : BitVec 2) (s : State) : Host.Outcome State Fault Refusal :=
  let e := src.toNat
  let f := dst.toNat
  let s := s.land e f
  match (s.buffer e f).find? BridgeMsg.isBeat with
  | some (.beat n) =>
    if updateBefore e n.toNat (s.buffer e f) then .next s
    else .next ((s.setBuffer e f (dropBeat (s.buffer e f))).updDie f (fun d => d.advance e n))
  | _ => .next s

/-- Acknowledge a thread's write with its event (R285). -/
def State.ackWrite (s : State) (tid id : Nat) (n : BitVec 48) : State :=
  s.updThread tid (fun t =>
    { t with writes := t.writes.map (fun w => if w.id = id then { w with acked := some n } else w) })

/-- Apply a store that has reached its home, and acknowledge it over the bridge (R285). One to a copy that has been sealed anew under
another key since it met its checks comes before that write of the whole block (R278). The host's side knows of a store that no
thread made. -/
def State.applyWrite (s : State) (d e tid id : Nat) (key : KeyId) (pa : Nat) (bs : List Byte) : State :=
  let s := if !s.writable key pa bs.length then s
    else if tid = 0 then s.deviceStore key pa bs
    else
      let u := s.homeStore key pa bs
      if s.draftAt pa = 3 then u.pushNow key (blockNo pa) else u
  if tid = 0 then { s with mgmt := { s.mgmt with fclk := s.mgmt.fclk.join (s.die e).vc } }
  else s.sendBridge e d (.ack tid id (vget (s.die e).vc e 0))

/-- `WRITE_REQUEST_DELIVERY` (R286): a store that can be delivered is applied at its home, counts an event and is acknowledged. -/
def execWriteRequestDelivery (src dst : BitVec 2) (s : State) : Host.Outcome State Fault Refusal :=
  let d := src.toNat
  let e := dst.toNat
  let s := s.land d e
  match frontMsg (s.buffer d e) with
  | some (.write stamp tid id key pa bs miss) =>
    if stamp.leBut (s.die e).vc [e] then
      .next (((s.setBuffer d e (dropFront (s.buffer d e))).countIf d pa miss).applyWrite d e tid id key pa bs)
    else .next s
  | _ => .next s

/-- Take a read reply: its value, and its copy for the die, of which the core that asked keeps a line (R274, R285). -/
def State.takeReply (s : State) (d id : Nat) (w : Word) (copy : Option (Nat × KeyId × Block)) : State :=
  let s := match copy with
    | some (b, x) => (s.dropOn d b).installCopy d b x
    | none => s
  match alGet s.outs id with
  | none => s
  | some o => ((if copy.isSome ∧ o.unit.isNone ∧ !o.whole then s.keepLine o.core (blockNo o.loc) else s)).finishOut id o w

/-- `READ_REPLY_DELIVERY` (R285, R286): an answer of a home is delivered: a read reply that can be, or the acknowledgement of a
write. -/
def execReadReplyDelivery (src dst : BitVec 2) (s : State) : Host.Outcome State Fault Refusal :=
  let e := src.toNat
  let d := dst.toNat
  let s := s.land e d
  match frontMsg (s.buffer e d) with
  | some (.reply stamp id w copy) =>
    if stamp.leBut (s.die d).vc [d] then .next ((s.setBuffer e d (dropFront (s.buffer e d))).takeReply d id w copy)
    else .next s
  | some (.ack tid id n) => .next ((s.setBuffer e d (dropFront (s.buffer e d))).ackWrite tid id n)
  | _ => .next s

/-- `ANNOUNCE_TIMER` (R285): a changed event count is announced on every bridge. -/
def execAnnounceTimer (die : BitVec 2) (s : State) : Host.Outcome State Fault Refusal :=
  let d := die.toNat
  let n := vget (s.die d).vc d 0
  if (s.die d).announced = n then .next s
  else
    let s := s.updDie d (fun r => { r with announced := n })
    .next ([0, 1, 2, 3].foldl (fun s f => if f = d then s else s.sendBridge d f (.beat n)) s)

end Sys2Proof.Machine
end

