-- ==== Sys2Proof/Machine/Movement.lean ====
section
/-! DEFINITION. Units of engine operations (R216 to R220, R307): where each reads and writes, its checks before issue, and how it is
performed. -/

namespace Sys2Proof.Machine

/-- What became of a part of a unit: it is done, it must wait (requests it has sent stay), or it fails. -/
inductive Part (α : Type) where
  | done (x : α) (s : State)
  | wait (s : State)
  | fail (b : Bad) (addr : Word) (s : State)

/-- Every byte of a range lies in a window of a core's local store (R40, R216). -/
def windowBytes (k : Core) (off n : Nat) (write remote : Bool) : Bool :=
  (List.range n).all (fun i => windowOk k (off + i) 1 write remote)

/-- Rules of a draft that refuse a copy unit's write (R203; Table 18.8 draft 4). -/
def State.unitRefused (s : State) (pa : Nat) (write : Bool) : Bool :=
  let dr := s.draftAt pa
  write && (s.onceRefused dr pa true || (if s.stdDraft dr then dr == 6 else s.isComm dr))

/-- Check n bytes at an address before a unit is issued (R307): rows 2 to 8 of Table 7.2, own windows and the creel; a remote
local store is checked when the unit gets there. -/
def State.checkPart (s : State) (core : Nat) (d : DomId) (ea : Word) (n : Nat) (write : Bool) : Option Bad × State :=
  match route core ea with
  | .error b => (some b, s)
  | .ok (.own off) => (if windowBytes (s.core core) off n write false then none else some { cause := 0x11, extra := 0 }, s)
  | .ok (.loom _ _) => (none, s)
  | .ok (.creel die off) => (if s.creelOk d die off n then none else some { cause := 0x11, extra := 0 }, s)
  | .ok .global =>
    match s.checkGlobal core d ea n false write with
    | (.error b, s) => (some b, s)
    | (.ok (_, l), s) => (if l.loc = 0 && s.unitRefused l.pa write then some { cause := 0x11, extra := 0 } else none, s)

/-- A range cut where it crosses a 128-byte boundary: offsets and lengths. -/
def blockParts (a n : Nat) : List (Nat × Nat) :=
  let first := min n (128 - a % 128)
  if n = 0 then [] else if first = n then [(0, n)] else [(0, first), (first, n - first)]

/-- A range cut into naturally aligned accesses of 8, 4, 2 or 1 bytes. -/
def wordParts (a : Nat) : Nat → Nat → Nat → List (Nat × Nat)
  | 0, _, _ => []
  | k + 1, off, n =>
    if n = 0 then []
    else
      let p := a + off
      let w := if p % 8 = 0 ∧ 8 ≤ n then 8 else if p % 4 = 0 ∧ 4 ≤ n then 4 else if p % 2 = 0 ∧ 2 ≤ n then 2 else 1
      (off, w) :: wordParts a k (off + w) (n - w)

/-- The thread and engine unit a part belongs to. -/
structure UnitRef where
  core : Nat
  op : Nat
  u : EngUnit
  tid : Nat
  dom : DomId
  /-- it has been issued: its checks are behind it, but for those that only the place it reaches makes (R307) -/
  issued : Bool := false
  /-- what its operation's checks found -/
  leaves : List UnitLeaf := []

/-- An outstanding access of an engine unit. -/
def UnitRef.out (r : UnitRef) (k : OutKind) (o : MemOp) (loc : Nat) (ea : Word) (key : KeyId) : OutReq :=
  { kind := k, tid := r.tid, acc := false, dom := r.dom, core := r.core, acckind := o.kind, signed := false, loc := loc,
    ea := ea, size := o.size, data := o.data, compare := 0, dest := .none, key := key, pc := 0,
    unit := some (r.core, r.op, r.u.row, r.u.off), slot := 0, answer := none, waits := false, nacks := 0, retryAt := none, gone := none,
    lane := none }

/-- What the unit's check found at an address. -/
def UnitRef.leaf (r : UnitRef) (ea : Word) (write : Bool) : Option Leaf :=
  (r.leaves.find? (fun l => l.row == r.u.row && l.off == r.u.off && l.ea == ea && l.write == write)).map UnitLeaf.leaf

/-- The translation of a unit's part in global memory (R307): the one that its check found, or a fresh one. -/
def State.unitLeaf (s : State) (r : UnitRef) (ea : Word) (n : Nat) (write : Bool) : Except Bad Leaf × State :=
  match r.leaf ea write with
  | some l => (.ok l, s)
  | none => match s.checkGlobal r.core r.dom ea n false write with
    | (.error b, s) => (.error b, s)
    | (.ok (_, l), s) => (.ok l, s)

/-- The home has refused a unit's part because its page moves or its region is rebound (R355, R358): it is translated afresh. -/
def State.unitMoved (s : State) (r : UnitRef) : State :=
  s.updOp r.core r.op (fun x => { x with leaves := x.leaves.filter (fun l => !(l.row == r.u.row && l.off == r.u.off)) })

/-- An outstanding access belongs to the unit. -/
def UnitRef.owns (r : UnitRef) (o : OutReq) : Bool := o.unit == some (r.core, r.op, r.u.row, r.u.off)

/-- Drop the unit's outstanding accesses to peer devices. -/
def State.dropUnit (s : State) (r : UnitRef) : State :=
  { s with outs := s.outs.filter (fun o => !(r.owns o.2 && o.2.kind == .peer)) }

/-- Perform the accesses of a part at a peer device (R194, R196): send them, then take their answers. -/
def State.peerPart (s : State) (r : UnitRef) (ea : Word) (pa : Nat) (key : KeyId) (write : Bool) (bs : List Byte) (n : Nat) :
    Part (List Byte) :=
  let kind : AccKind := if write then .store else .load
  let find (off : Nat) : Option OutReq :=
    (s.outs.find? (fun o => r.owns o.2 && o.2.kind == .peer && o.2.acckind == kind && o.2.ea == leaAdd ea (BitVec.ofNat 64 off))).map
      Prod.snd
  let parts := wordParts ea.toNat n 0 n
  if parts.any (fun p => (find p.1).isNone) then
    .wait (parts.foldl (fun s p =>
      let o : MemOp := { kind := kind, signed := false, size := p.2,
                         data := BitVec.ofNat 64 (ofLE ((bs.drop p.1).take p.2)), compare := 0 }
      s.addOut (r.out .peer o (pa + p.1) (leaAdd ea (BitVec.ofNat 64 p.1)) key)) s)
  else
    let answer (p : Nat × Nat) : Option MemAnswer := (find p.1).bind OutReq.answer
    if parts.any (fun p => (answer p).isNone) then .wait s
    else match parts.findSome? (fun p => match answer p with
        | some (.refused c) => some (c, p.1)
        | some (.unsupportedRequest) | some (.completerAbort) => some (0x11, p.1)
        | _ => none) with
      | some (c, off) => .fail { cause := c, extra := 0 } (leaAdd ea (BitVec.ofNat 64 off)) (s.dropUnit r)
      | none => .done (parts.flatMap (fun p => match answer p with
          | some (.ok w) => leBytes p.2 w.toNat
          | _ => leBytes p.2 0)) s

/-- The cause with which the home refused a block to a unit, if it did (R364). -/
def State.unitDenied (s : State) (r : UnitRef) : Option Cause :=
  s.outs.findSome? (fun o => if r.owns o.2 && o.2.kind == .coherence then (match o.2.answer with
    | some (.refused c) => some c
    | _ => none) else none)

/-- Drop the unit's coherence requests that have been answered. -/
def State.dropDenied (s : State) (r : UnitRef) : State :=
  { s with outs := s.outs.filter (fun o => !(r.owns o.2 && o.2.kind == .coherence && o.2.answer.isSome)) }

/-- Bring a block of a loaded draft into the core's data cache for a unit: its line, whose old data does not matter where the unit
writes it `whole` (R275). A combined block of a commutative draft is not kept. -/
def State.unitLine (s : State) (r : UnitRef) (ea : Word) (l : Leaf) (write whole : Bool) : Part DCLine :=
  let b := blockNo l.pa
  let k := s.core r.core
  let comm := s.isComm (s.draftAt l.pa)
  match s.unitDenied r with
  | some c => .fail { cause := c, extra := 0 } ea (s.dropDenied r)
  | none =>
    if (alGet k.wbuf b).isSome then .wait s
    else match (if comm then alGet k.dcache b else none) with
      | some x => .done x (s.updCore r.core (fun k => { k with dcache := alErase k.dcache b }))
      | none =>
        let held : Bool := whole && (match alGet k.dcache b with
          | some x => x.writable && x.key == l.key
          | none => false)
        match (if held then none else s.needType r.core b l.key write comm false), alGet k.dcache b with
        | none, some x => .done x s
        | none, none => .wait s
        | some ty, _ =>
          if s.outs.any (fun o => o.2.kind == .coherence && o.2.core == r.core && blockNo o.2.loc == b) then .wait s
          else match s.coreSlot r.core with
            | none => .wait s
            | some slot =>
              let o : MemOp := { kind := if write then .store else .load, signed := false, size := 0, data := 0, compare := 0 }
              .wait (s.sendRequest { r.out .coherence o l.pa ea l.key with whole := whole } slot ty false)

/-- A unit reaches a place on a die now: nothing that the clocks of the two dies order before is undelivered (R285). -/
def State.unitReach (s : State) (d e : Nat) : Bool := d == e || s.causalOk d e

/-- A write of an operation at a home on another die (R287). -/
def State.noteFar (s : State) (core op : Nat) (key : KeyId) (pa n : Nat) : State :=
  let d := coreDie core
  let e := paDie pa
  if d = e then s
  else
    let w : RemoteWrite := { id := 0, home := BitVec.ofNat 2 e, acked := some (vget (s.die e).vc e 0), acc := false, pa := pa,
                             key := key, size := n, data := none }
    s.updOp core op (fun x => { x with far := x.far.filter (fun w => !s.settled d 4 w) ++ [w] })

/-- Read n bytes of one block of HBM for a unit. -/
def State.readHbm (s : State) (r : UnitRef) (ea : Word) (l : Leaf) (n : Nat) : Part (List Byte) :=
  let dr := s.draftAt l.pa
  let d := coreDie r.core
  let e := paDie l.pa
  let b := blockNo l.pa
  let poison (s : State) : Part (List Byte) := .fail { cause := 0x15, extra := 0 } ea s
  if s.shut l.pa then .wait (s.unitMoved r)
  else if !s.stdDraft dr then
    match s.unitLine r ea l false false with
    | .done x s => .done (((leBytes 128 x.data.toNat).drop (l.pa % 128)).take n) s
    | .wait s => .wait s
    | .fail b a s => .fail b a s
  else
    let copy : Option (KeyId × Block) := if d = e ∨ dr = 5 ∨ dr = 6 then none else alGet (s.die d).copies b
    match copy with
    | some (key, x) =>
      if (s.block b).poison then poison s
      else if key = l.key then .done (((leBytes 128 x.toNat).drop (l.pa % 128)).take n) s
      else .wait (s.dropCopy d b)
    | none =>
      if !s.unitReach d e ∨ (dr = 6 ∧ !s.foldReady (s.homeHeddle l.pa) b) then .wait s
      else
        let s := if dr = 6 then s.foldAll (s.homeHeddle l.pa) b else s.demote b l.key
        if s.readable b l.key then .done (s.mem.bytes l.pa n) (if d = e then s else s.countMiss d l) else poison s

/-- Write bytes of one block of HBM for a unit. -/
def State.writeHbm (s : State) (r : UnitRef) (ea : Word) (l : Leaf) (bs : List Byte) : Part (List Byte) :=
  let dr := s.draftAt l.pa
  let d := coreDie r.core
  let e := paDie l.pa
  if s.shut l.pa then .wait (s.unitMoved r)
  else if s.unitRefused l.pa true then .fail { cause := 0x11, extra := 0 } ea s
  else if !s.stdDraft dr then
    match s.unitLine r ea l true (bs.length == 128) with
    | .done x s =>
      let y : DCLine := if bs.length = 128 then { key := l.key, data := blockOf bs, writable := true }
        else { x with data := blockPut x.data (l.pa % 128) bs }
      .done [] ((s.updCore r.core (fun k => { k with dcache := alSet k.dcache (blockNo l.pa) y })).wakeAddr l.pa)
    | .wait s => .wait s
    | .fail b a s => .fail b a s
  else if !s.unitReach d e then .wait s
  else if !s.writable l.key l.pa bs.length then .fail { cause := 0x15, extra := 0 } ea s
  else
    let s := ((s.homeStore l.key l.pa bs).afterWrite dr r.core l.key l.pa).noteFar r.core r.op l.key l.pa bs.length
    .done [] (if d = e then s else s.countMiss d l)

/-- Read n bytes that lie in one aligned block of the address space (R216). -/
def State.readPart (s : State) (r : UnitRef) (ea : Word) (n : Nat) : Part (List Byte) :=
  match route r.core ea with
  | .error b => .fail b ea s
  | .ok (.own off) =>
    if r.issued || windowBytes (s.core r.core) off n false false then .done (s.mem.bytes (lsLoc r.core off) n) s
    else .fail { cause := 0x11, extra := 0 } ea s
  | .ok (.loom c off) =>
    if !s.unitReach (coreDie r.core) (coreDie c) then .wait s
    else if windowBytes (s.core c) off n false true then .done (s.mem.bytes (lsLoc c off) n) s
    else .fail { cause := 0x11, extra := 0 } ea s
  | .ok (.creel die off) =>
    if !s.unitReach (coreDie r.core) die then .wait s
    else if r.issued || s.creelOk r.dom die off n then .done (s.mem.bytes (creelLoc die off) n) s
    else .fail { cause := 0x11, extra := 0 } ea s
  | .ok .global =>
    match s.unitLeaf r ea n false with
    | (.error b, s) => .fail b ea s
    | (.ok l, s) =>
      if l.loc = 0 then s.readHbm r ea l n
      else if l.loc = 1 then
        if s.mgmt.fclk.leBut (s.die (coreDie r.core)).vc [] then .done (s.mem.bytes (hostLoc l.pa) n) s else .wait s
      else s.peerPart r ea l.pa l.key false [] n

/-- Write bytes that lie in one aligned block of the address space (R216). -/
def State.writePart (s : State) (r : UnitRef) (ea : Word) (bs : List Byte) : Part (List Byte) :=
  let n := bs.length
  match route r.core ea with
  | .error b => .fail b ea s
  | .ok (.own off) =>
    if r.issued || windowBytes (s.core r.core) off n true false then .done [] (s.plainWrite (lsLoc r.core off) bs)
    else .fail { cause := 0x11, extra := 0 } ea s
  | .ok (.loom c off) =>
    if !s.unitReach (coreDie r.core) (coreDie c) then .wait s
    else if windowBytes (s.core c) off n true true then .done [] (s.plainWrite (lsLoc c off) bs)
    else .fail { cause := 0x11, extra := 0 } ea s
  | .ok (.creel die off) =>
    if !s.unitReach (coreDie r.core) die then .wait s
    else if r.issued || s.creelOk r.dom die off n then .done [] (s.plainWrite (creelLoc die off) bs)
    else .fail { cause := 0x11, extra := 0 } ea s
  | .ok .global =>
    match s.unitLeaf r ea n true with
    | (.error b, s) => .fail b ea s
    | (.ok l, s) =>
      if l.loc = 0 then s.writeHbm r ea l bs
      else if l.loc = 1 then .done [] ((s.plainWrite (hostLoc l.pa) bs).hostStamp (s.die (coreDie r.core)).vc)
      else s.peerPart r ea l.pa l.key true bs n

/-- Read a range of at most 128 bytes, which may cross one block boundary. -/
def State.readParts (s : State) (r : UnitRef) (ea : Word) : List (Nat × Nat) → Part (List Byte)
  | [] => .done [] s
  | (off, n) :: l =>
    match s.readPart r (leaAdd ea (BitVec.ofNat 64 off)) n with
    | .done bs s =>
      (match s.readParts r ea l with
      | .done cs s => .done (bs ++ cs) s
      | x => x)
    | x => x

/-- Check a range of at most 128 bytes before its unit is issued. -/
def State.checkParts (s : State) (core : Nat) (d : DomId) (ea : Word) (write : Bool) :
    List (Nat × Nat) → Option (Bad × Word) × State
  | [] => (none, s)
  | (off, n) :: l =>
    let a := leaAdd ea (BitVec.ofNat 64 off)
    match s.checkPart core d a n write with
    | (some b, s) => (some (b, a), s)
    | (none, s) => s.checkParts core d ea write l

/-- Word k of an operation's record. -/
def EngineOp.w (x : EngineOp) (k : Nat) : Word := vget x.record k 0

/-- The directions of a halo's strips, in order, with rows and bytes of each (Table 8.6). -/
def EngineOp.halos (x : EngineOp) : List (Nat × Nat × Nat) :=
  let rb := field (x.w 1) 18 0
  let rows := field (x.w 1) 43 32
  let hd := field (x.w 2) 7 0
  let hw := field (x.w 2) 23 8
  ([(0, hd, rb), (1, rows, hw), (2, hd, rb), (3, rows, hw)]).filter (fun d => bit (x.w 2) (32 + d.1))

/-- The strip and the row within it of row r of a halo. -/
def stripOf : List (Nat × Nat × Nat) → Nat → Option (Nat × Nat × Nat)
  | [], _ => none
  | (d, n, len) :: l, r => if r < n then some (d, r, len) else stripOf l (r - n)

/-- Bytes of an element of a layout record (Table 8.3). -/
def EngineOp.elem (x : EngineOp) : Nat := 2 ^ field (x.w 2) 49 48

/-- Rows of an operation and bytes of row r (R307); a weft read's rows are its items, and its columns bursts. -/
def EngineOp.rowCount (x : EngineOp) : Nat :=
  match x.kind with
  | .copy => if field (x.w 2) 47 32 = 0 then 1 else field (x.w 2) 47 32
  | .copyl => field (x.w 4) 47 32 * field (x.w 4) 63 48
  | .halo => (x.halos.map (fun d => d.2.1)).sum
  | .weft => field (x.w 2) 31 0
  | _ => 0

/-- Bytes (or bursts) of row r. -/
def EngineOp.rowLen (x : EngineOp) (r : Nat) : Nat :=
  match x.kind with
  | .copy => field (x.w 2) 31 0
  | .copyl => field (x.w 2) 47 32 * x.elem
  | .halo => (match stripOf x.halos r with
    | some (_, _, len) => len
    | none => 0)
  | .weft => field (x.w 2) 47 32
  | _ => 0

/-- Sign-extended product of a row number and a stride. -/
def strideOf (r : Nat) (stride : Int) : Word := BitVec.ofInt 64 ((r : Int) * stride)

/-- The receiving field of a halo strip at the neighbour (Table 8.6). -/
def EngineOp.recv (x : EngineOp) (d : Nat) : Nat :=
  match d with
  | 0 => field (x.w 4) 18 0
  | 1 => field (x.w 4) 50 32
  | 2 => field (x.w 3) 18 0
  | _ => field (x.w 3) 50 32

/-- Where a unit writes: an address of the issuing core, or a place in a neighbour's local store. -/
inductive UnitDest where
  | addr (a : Word)
  | mesh (core off : Nat)
  deriving DecidableEq, Repr

/-- The destination of byte `off` of row r. -/
def EngineOp.destAt (x : EngineOp) (core r off : Nat) : UnitDest :=
  match x.kind with
  | .copy => .addr (leaAdd (x.w 1) (strideOf r (BitVec.toInt ((x.w 4).extractLsb' 32 32)) + BitVec.ofNat 64 off))
  | .copyl => .addr (leaAdd (x.w 1) (BitVec.ofNat 64 (r * field (x.w 7) 23 0 + off)))
  | .halo =>
    (match stripOf x.halos r with
    | some (d, k, len) => .mesh ((neighbour core d).getD core) (x.recv d + k * len + off)
    | none => .mesh core 0)
  | _ => .addr 0

/-- The low bits that place a unit's destination in an aligned block of 128 bytes. -/
def UnitDest.low : UnitDest → Nat
  | .addr a => a.toNat % 128
  | .mesh _ off => off % 128

/-- The source of byte `off` of row r: an address, or the padding of a layout record (R217). -/
def EngineOp.srcAt (x : EngineOp) (r off : Nat) : Option Word :=
  match x.kind with
  | .copy => some (leaAdd (x.w 0) (strideOf r (BitVec.toInt ((x.w 4).extractLsb' 0 32)) + BitVec.ofNat 64 off))
  | .copyl =>
    let px := field (x.w 4) 63 48
    let y : Int := BitVec.toInt ((x.w 4).extractLsb' 0 16) + (r / px : Nat) * (field (x.w 5) 7 0 : Nat) +
      BitVec.toInt ((x.w 5).extractLsb' 16 16)
    let c : Int := BitVec.toInt ((x.w 4).extractLsb' 16 16) + (r % px : Nat) * (field (x.w 5) 15 8 : Nat) +
      BitVec.toInt ((x.w 5).extractLsb' 32 16)
    if 0 ≤ y ∧ y < (field (x.w 2) 15 0 : Nat) ∧ 0 ≤ c ∧ c < (field (x.w 2) 31 16 : Nat) then
      some (leaAdd (x.w 0) (BitVec.ofInt 64
        (y * (field (x.w 6) 39 0 : Nat) + c * (field (x.w 2) 47 32 * x.elem : Nat) + (off : Nat))))
    else none
  | .halo =>
    (match stripOf x.halos r with
    | some (d, k, _) =>
      let rb := field (x.w 1) 18 0
      let row := if d = 2 then field (x.w 1) 43 32 - field (x.w 2) 7 0 + k else k
      let col := if d = 1 then rb - field (x.w 2) 23 8 else 0
      some (BitVec.ofNat 64 (0xFFFFFF * 2 ^ 32 + field (x.w 0) 18 0 + row * field (x.w 0) 50 32 + col + off))
    | none => some 0)
  | .weft =>
    let i := if bit (x.w 3) 0 then x.idx.getD r 0 else BitVec.ofNat 64 r
    some (leaAdd (x.w 0) (i * BitVec.ofNat 64 (field (x.w 4) 39 0) + BitVec.ofNat 64 (64 * off)))
  | _ => some 0

/-- Padding bytes from byte `off` of a position (R217). -/
def EngineOp.padBytes (x : EngineOp) (off n : Nat) : List Byte :=
  (List.range n).map (fun i =>
    BitVec.ofNat 8 (field (x.w 7) 55 24 / 2 ^ (8 * ((off + i) % x.elem))))

/-- The next unit that is not issued yet (R307). -/
def EngineOp.nextUnit (x : EngineOp) (core : Nat) : Option EngUnit :=
  let len := x.rowLen x.row
  if x.rowCount ≤ x.row ∨ len = 0 then none
  else if x.kind = .weft then some { row := x.row, off := x.off, len := 64 }
  else some { row := x.row, off := x.off, len := min (128 - (x.destAt core x.row x.off).low) (len - x.off) }

/-- Step past the next unit. -/
def EngineOp.passUnit (x : EngineOp) (u : EngUnit) : EngineOp :=
  let off := u.off + (if x.kind = .weft then 1 else u.len)
  if x.rowLen u.row ≤ off then { x with row := u.row + 1, off := 0 } else { x with row := u.row, off := off }

/-- Every unit of an operation has been issued and has landed. -/
def EngineOp.landed (x : EngineOp) (core : Nat) : Bool :=
  (x.nextUnit core).isNone && x.inflight.isEmpty && x.held.isEmpty && x.state == .active

/-- Check a unit before it is issued (R307): source first, then destination. -/
def State.checkUnit (s : State) (core : Nat) (x : EngineOp) (u : EngUnit) : Option (Bad × Word) × State :=
  let src := x.srcAt u.row u.off
  let (b, s) := match src with
    | some a => s.checkParts core x.dom a false (blockParts a.toNat u.len)
    | none => (none, s)
  match b with
  | some e => (some e, s)
  | none =>
    if x.kind = .weft then (none, s)
    else match x.destAt core u.row u.off with
      | .addr a => s.checkParts core x.dom a true [(0, u.len)]
      | .mesh _ _ => (none, s)

/-- What the checks of a unit that passed them find in global memory (R307). -/
def State.unitLeaves (s : State) (core : Nat) (x : EngineOp) (u : EngUnit) : List UnitLeaf :=
  let found (a : Word) (write : Bool) (p : Nat × Nat) : Option UnitLeaf :=
    let ea := leaAdd a (BitVec.ofNat 64 p.1)
    match route core ea with
    | .ok .global =>
      (match (s.checkGlobal core x.dom ea p.2 false write).1 with
      | .ok (_, l) => some { row := u.row, off := u.off, ea := ea, write := write, leaf := l }
      | .error _ => none)
    | _ => none
  let src := match x.srcAt u.row u.off with
    | some a => (blockParts a.toNat u.len).filterMap (found a false)
    | none => []
  let dst := match (if x.kind = .weft then none else some (x.destAt core u.row u.off)) with
    | some (.addr a) => ([(0, u.len)]).filterMap (found a true)
    | _ => []
  src ++ dst

/-- Perform a unit, once what its operation comes after has come about (R288): its bytes when it has landed. -/
def State.performUnit (s : State) (r : UnitRef) (x : EngineOp) : Part (List Byte) :=
  let u := r.u
  if !s.priorDone r.core x then .wait s
  else
  let got := match x.srcAt u.row u.off with
    | some a => s.readParts r a (blockParts a.toNat u.len)
    | none => .done (x.padBytes u.off u.len) s
  match got with
  | .done bs s =>
    if x.kind = .weft then .done bs (s.dropUnit r)
    else match x.destAt r.core u.row u.off with
      | .addr a =>
        (match s.writePart r a bs with
        | .done _ s => .done bs (s.dropUnit r)
        | y => y)
      | .mesh c off =>
        if !s.unitReach (coreDie r.core) (coreDie c) then .wait s
        else if windowBytes (s.core c) off u.len true true then .done bs ((s.plainWrite (lsLoc c off) bs).dropUnit r)
        else .fail { cause := 0x11, extra := 0 } (BitVec.ofNat 64 off) s
  | y => y

/-- The poster of an engine's fault: the issuing thread, or what is kept of one that has ended (R352). -/
def State.enginePoster (s : State) (core : Nat) (x : EngineOp) : Poster :=
  match s.thread? x.tid with
  | some t => t.poster x.tid false
  | none =>
    let (tkind, bobbin, seqkey) := x.gone.getD (3, 0, 0)
    { die := coreDie core, col := placeCol core, row := placeRow core, tkind := tkind, dom := x.dom, bobbin := bobbin, seqkey := seqkey }

/-- Update the chain whose running entry an operation is: on its core, or in the save area of a thread displaced from it. -/
def State.updOpChain (s : State) (core op : Nat) (x : EngineOp) (f : Chain → Chain) : State :=
  let e := x.kind.engine
  let upd (l : Vector Chain 3) : Vector Chain 3 :=
    let c := vget l e Chain.empty
    if c.running.any (fun q => q.op == op) then vset l e (f c) else l
  let s := s.updCore core (fun k => { k with chains := upd k.chains })
  s.updThread x.tid (fun t =>
    if t.core = core then { t with saved := t.saved.map (fun v => { v with chains := upd v.chains }) } else t)

/-- Stop an operation at a fault and post its message (R215, R307); a chain parks on its entry (R226). -/
def State.faultOp (s : State) (core op : Nat) (x : EngineOp) (b : Bad) (addr : Word) : State :=
  let s := s.updOp core op (fun x => { x with state := .faulted b.cause addr })
  let e := x.kind.engine
  let s := if x.chain then s.updOpChain core op x (fun c => { c with faulted := true, parked := true }) else s
  let w6 : Word := BitVec.ofNat 64 (e * 2 ^ 48 + x.num % 2 ^ 32)
  ((s.countWalk (coreDie core) b).post (coreDie core) (mkEntry (s.enginePoster core x) 1 b.cause 0 addr b.extra w6 s.tick)).noteIntegrity
    (coreDie core) b.cause addr none

end Sys2Proof.Machine
end

