-- ==== Sys2Proof/Machine/Engines.lean ====
section
/-! DEFINITION. Engine instructions, batches and chains, majors 0x26 to 0x2B (R214 to R226, R298). -/

namespace Sys2Proof.Machine

/-- Issue needs of an engine instruction. -/
def engineNeed (ord : Ord) (uses : List Use) : Need := { plain ord.legal uses with cls := .noHeddle }

/-- Read a 64-byte command record from own local store (R214). -/
def readRecord (a : Word) : Exec (Vector Word 8) := do
  let t ← self
  let s ← get
  if a.toNat % 64 ≠ 0 then raise 0x03 a 0
  else if !windowOk (s.core t.core) a.toNat 64 false false then raise 0x11 a 0
  else
    let bs := s.lsRead t.core a.toNat 64
    pure ((Vector.range 8).map (fun k => wordAt bs k))

/-- Trap on an illegal record word (R214). -/
def recordWord (bad : Bool) (w : Word) : Exec Unit := if bad then raise 0x01 0 w else pure ()

/-- Stall while an engine holds as many operations as it accepts (Table 12.1). -/
def engineRoom (e cap : Nat) : Exec Unit := do
  let t ← self
  if cap ≤ (((← get).core t.core).ops.filter (fun o => o.2.kind.engine == e)).length then stall .engine

/-- An address of own local store (R192). -/
def ownOffset (core : Nat) (a : Word) : Bool :=
  match route core a with
  | .ok (.own _) => true
  | _ => false

/-- OP of a follow-on word (Table 6.6). -/
def followOp (w : Word) : Nat := field w 3 0

/-- The fields of a follow-on word are legal (Table 6.6). -/
def followOk (w : Word) : Bool :=
  let mv := field w 29 24
  let kv := field w 40 32
  !bit w 23 && field w 31 30 == 0 && field w 63 41 == 0 &&
    (match followOp w with
    | 0 => w == 0
    | 1 | 2 => decide (mv ≤ 32) && decide (kv ≤ 256)
    | 3 => decide (field w 27 24 ≤ 4) && !bit w 29 && kv == 0
    | 4 => mv == 0 && kv == 0
    | _ => false)

/-- The largest extent a follow-on command can read (R185). -/
def followExtent (w : Word) : Nat :=
  match followOp w with
  | 3 => imageBytes (field w 27 24)
  | 4 => 4096
  | _ => operandBytes 16 8

/-- Check a follow-on word against a core's windows: the cause with the failing address and the extra word (R185). -/
def State.followBad (s : State) (core : Nat) (w : Word) : Option (Cause × Word × Word) :=
  let a : Word := BitVec.ofNat 64 (field w 22 4)
  if !followOk w then some (0x01, 0, w)
  else if followOp w = 0 then none
  else if a.toNat % 128 ≠ 0 then some (0x03, a, 0)
  else if !windowOk (s.core core) a.toNat (followExtent w) false false then some (0x11, a, 0)
  else none

/-- MV of a follow-on stream: its own, or `%emask.MV` as it stands now, or 32 (R185). -/
def State.followRows (s : State) (t : Thread) (w : Word) : Nat := rowsOf (field w 29 24) (s.groupRegs t).emask

/-- Illegal words of a copy record (Table 8.2); `own` says that DADDR is in own local store. -/
def copyBad (r : Vector Word 8) (own : Bool) : List (Bool × Word) :=
  let w (k : Nat) : Word := vget r k 0
  [(field (w 2) 63 48 != 0, w 2), (followOp (w 3) != 0 && !own, w 3), (w 5 != 0, w 5), (w 6 != 0, w 6), (w 7 != 0, w 7)]

/-- Illegal words of a layout record (Table 8.3). -/
def copylBad (r : Vector Word 8) (own : Bool) : List (Bool × Word) :=
  let w (k : Nat) : Word := vget r k 0
  let es := 2 ^ field (w 2) 49 48
  let c := field (w 2) 47 32
  [(field (w 2) 15 0 == 0 || field (w 2) 31 16 == 0 || c == 0 || field (w 2) 49 48 == 3 || field (w 2) 63 50 != 0, w 2),
   (followOp (w 3) != 0 && !own, w 3),
   (field (w 4) 47 32 == 0 || field (w 4) 63 48 == 0, w 4),
   (field (w 5) 7 0 == 0 || field (w 5) 15 8 == 0 || field (w 5) 63 48 != 0, w 5),
   (decide (field (w 6) 39 0 < field (w 2) 31 16 * c * es) || field (w 6) 63 40 != 0, w 6),
   (decide (field (w 7) 23 0 < c * es) || field (w 7) 23 0 % es != 0 || field (w 7) 63 56 != 0, w 7)]

/-- Illegal words of a halo record (Table 8.5); bits that belong to no field are reserved. -/
def haloBad (r : Vector Word 8) : List (Bool × Word) :=
  let w (k : Nat) : Word := vget r k 0
  let rb := field (w 1) 18 0
  let rows := field (w 1) 43 32
  let hd := field (w 2) 7 0
  let hw := field (w 2) 23 8
  let ns := bit (w 2) 32 || bit (w 2) 34
  let ew := bit (w 2) 33 || bit (w 2) 35
  [(decide (field (w 0) 50 32 < rb) || field (w 0) 31 19 != 0 || field (w 0) 63 51 != 0, w 0),
   (rb == 0 || rows == 0 || field (w 1) 31 19 != 0 || field (w 1) 63 44 != 0, w 1),
   (decide (rows < hd) || decide (rb < hw) || (ns && hd == 0) || (ew && hw == 0) || field (w 2) 31 24 != 0 ||
      field (w 2) 63 36 != 0, w 2),
   (field (w 3) 31 19 != 0 || field (w 3) 63 51 != 0, w 3), (field (w 4) 31 19 != 0 || field (w 4) 63 51 != 0, w 4),
   (w 5 != 0, w 5), (w 6 != 0, w 6), (w 7 != 0, w 7)]

/-- Illegal words of a weft record (Table 8.7); bits that belong to no field are reserved. -/
def weftBad (r : Vector Word 8) : List (Bool × Word) :=
  let w (k : Nat) : Word := vget r k 0
  let items := field (w 2) 31 0
  let bpi := field (w 2) 47 32
  [((w 0).toNat % 64 != 0, w 0),
   (items == 0 || bpi == 0 || decide (2 ^ 32 ≤ items * bpi) || field (w 2) 63 48 != 0, w 2),
   (field (w 3) 15 2 != 0 || field (w 3) 63 51 != 0, w 3),
   (field (w 4) 39 0 % 64 != 0 || field (w 4) 63 40 != 0, w 4), (w 5 != 0, w 5), (w 6 != 0, w 6), (w 7 != 0, w 7)]

/-- The first illegal word. -/
def firstBad : List (Bool × Word) → Option Word
  | [] => none
  | (b, w) :: l => if b then some w else firstBad l

/-- Bytes of an index of a weft's array. -/
def idxWidth (r : Vector Word 8) : Nat := if bit (vget r 3 0) 1 then 8 else 4

/-- The extent of a tile (R218). -/
def tileBytes (r : Vector Word 8) : Nat :=
  (field (vget r 1 0) 43 32 - 1) * field (vget r 0 0) 50 32 + field (vget r 1 0) 18 0

/-- The checks of a record that follow its fields, on a core: none, or the cause with its address and extra word. -/
def State.recordCheck (s : State) (core : Nat) (kind : OpKind) (r : Vector Word 8) : Option (Cause × Word × Word) :=
  let w (k : Nat) : Word := vget r k 0
  let k := s.core core
  match kind with
  | .copy | .copyl =>
    let own := ownOffset core (w 1)
    (match firstBad (if kind = .copy then copyBad r own else copylBad r own) with
    | some x => some (0x01, 0, x)
    | none => s.followBad core (w 3))
  | .halo =>
    (match firstBad (haloBad r) with
    | some x => some (0x01, 0, x)
    | none =>
      if (List.range 4).any (fun d => bit (w 2) (32 + d) && (neighbour core d).isNone) then some (0x21, 0, 0)
      else if !windowOk k (field (w 0) 18 0) (tileBytes r) false false then some (0x11, BitVec.ofNat 64 (field (w 0) 18 0), 0)
      else none)
  | .weft =>
    (match firstBad (weftBad r) with
    | some x => some (0x01, 0, x)
    | none =>
      let idx := field (w 3) 50 32
      if inWindow (w 0) then some (0x04, w 0, w 0)
      else if field (w 1) 59 56 ≠ 0 then some (0x04, w 1, w 1)
      else if bit (w 1) 0 then some (0x03, w 1, 0)
      else if bit (w 3) 0 ∧ idx % idxWidth r ≠ 0 then some (0x03, BitVec.ofNat 64 idx, 0)
      else if bit (w 3) 0 ∧ !windowOk k idx (field (w 2) 31 0 * idxWidth r) false false then some (0x11, BitVec.ofNat 64 idx, 0)
      else none)
  | _ => none

/-- The indices of an indexed weft, read from local store (R220). -/
def State.weftIndices (s : State) (core : Nat) (r : Vector Word 8) : List Word :=
  if bit (vget r 3 0) 0 then
    (List.range (field (vget r 2 0) 31 0)).map (fun i =>
      BitVec.ofNat 64 (s.mem.num (lsLoc core (field (vget r 3 0) 50 32 + i * idxWidth r)) (idxWidth r)))
  else []

/-- The operation a record asks for, with what is read or resolved at issue. -/
def State.opOf (s : State) (core : Nat) (kind : OpKind) (t : Thread) (x : EngineOp) : EngineOp :=
  match kind with
  | .copy | .copyl =>
    let f := vget x.record 3 0
    if followOp f = 0 then x else { x with follow := .pending, followMv := s.followRows t f }
  | .weft => { x with idx := s.weftIndices core x.record }
  | _ => x

/-- An engine instruction (R214): stall while its engine is full (R298), read and check the record, then hand the operation to the
engine. -/
def engineOp (kind : OpKind) (cap : Nat) (t a : BitVec 5) (ord : Ord) (s : State) : Host.Outcome State Fault Refusal :=
  issue (engineNeed ord [.sR a, .tok t]) (do
    let x ← getS a
    engineRoom kind.engine cap
    let r ← readRecord x
    let th ← self
    match (← get).recordCheck th.core kind r with
    | some (c, addr, extra) => raise c addr extra
    | none => do
      let g ← me
      let dest ← laterT t
      let th ← self
      let s ← get
      set (s.acceptOp th.core (s.issued (s.opOf th.core kind th (newOp kind th g.tid dest ord 0 r)))).2
      pure .seq) s

/-- `copy` (R216): starts a strided copy. -/
def execCopy (t a : BitVec 5) (ord : Ord) (s : State) : Host.Outcome State Fault Refusal := engineOp .copy 16 t a ord s

/-- `copyl` (R217): starts a layout-record copy. -/
def execCopyl (t a : BitVec 5) (ord : Ord) (s : State) : Host.Outcome State Fault Refusal := engineOp .copyl 16 t a ord s

/-- `halo` (R218): starts a halo exchange. -/
def execHalo (t a : BitVec 5) (ord : Ord) (s : State) : Host.Outcome State Fault Refusal := engineOp .halo 16 t a ord s

/-- `weft` (R220): starts a weft read. -/
def execWeft (t a : BitVec 5) (ord : Ord) (s : State) : Host.Outcome State Fault Refusal := engineOp .weft 4 t a ord s

/-- The oldest batch of a thread with an operation that has not completed (R222). -/
def State.oldestBatch (s : State) (t : Thread) (tid : Nat) : Option Nat :=
  (s.core t.core).ops.foldl (fun m o =>
    if o.2.tid == tid && !o.2.chain then
      (match m with
      | some b => some (min b o.2.batch)
      | none => some o.2.batch)
    else m) none

/-- The number of sealed batches that are unfinished: they finish in order (R222). -/
def State.unfinished (s : State) (t : Thread) (tid : Nat) : Nat :=
  match s.oldestBatch t tid with
  | some b => t.lastSealed + 1 - b
  | none => 0

/-- `seal` (R222): closes the open batch; a seventeenth unfinished batch stalls. -/
def execSeal (d : BitVec 5) (s : State) : Host.Outcome State Fault Refusal :=
  issue { plain true [.sW d] with cls := .noHeddle } (do
    let a ← me
    let t ← self
    if 16 ≤ (← get).unfinished t a.tid then stall .batch
    else do
      updSelf (fun t => { t with lastSealed := t.lastSealed + 1 })
      setS d (BitVec.ofNat 64 (t.lastSealed + 1))
      pure .seq) s

/-- The first deferred engine fault among batches lo to hi whose batch has finished (R215, R222). -/
def State.batchTrap (s : State) (t : Thread) (tid lo hi : Nat) : Option EngineFault :=
  t.engFaults.find? (fun f => decide (lo ≤ f.batch) && decide (f.batch ≤ hi) && (match s.oldestBatch t tid with
    | some b => decide (f.batch < b)
    | none => true))

/-- `bwait` (R223, R215): waits until at most N sealed batches are unfinished. It notes the batches it waits for when it
issues, and raises a deferred engine fault of one of them once that batch has finished. -/
def execBwait (i : BitVec 12) (s : State) : Host.Outcome State Fault Refusal :=
  issue { plain true [] with cls := .noHeddle } (do
    let a ← me
    let t ← self
    let c ← ctx
    let s ← get
    let n := i.toNat
    match c.got with
    | lo :: hi :: _ =>
      match s.batchTrap t a.tid lo.toNat hi.toNat with
      | some f => stop (.trap f.trap (fun s =>
          (s.metFault a.tid f).updThread a.tid (fun t => t.updCtx a.acc Ctx.unissue)))
      | none =>
        if s.unfinished t a.tid ≠ 0 ∧ (s.oldestBatch t a.tid).getD 0 ≤ hi.toNat then stall .batch
        else pure .seq
    | _ =>
      let u := s.unfinished t a.tid
      if 16 ≤ n ∨ u ≤ n then pure .seq
      else
        let lo := (s.oldestBatch t a.tid).getD 0
        stallKeep .batch (fun s => s.updThread a.tid (fun t => t.updCtx a.acc (fun c =>
          { c with got := [BitVec.ofNat 64 lo, BitVec.ofNat 64 (lo + (u - n) - 1)] })))) s

/-- `cseq` (R224): D <- the last sequence number of an engine's chain. -/
def execCseq (d : BitVec 5) (e : BitVec 2) (s : State) : Host.Outcome State Fault Refusal :=
  issue { plain (e != 3) [.sW d] with cls := .noHeddle } (do
    let t ← self
    setS d (BitVec.ofNat 64 (vget ((← get).core t.core).chains e.toNat Chain.empty).done)
    pure .seq) s

/-- Append a tail to a chain (R226): a parked engine goes on when it names a new tail. -/
def Chain.append (c : Chain) (a : VAddr) (tid : Nat) (dom : DomId) : Chain :=
  let c := { c with tail := a, tid := tid, dom := dom, appends := c.appends ++ [(tid, a)] }
  match c.cursor with
  | none => { c with cursor := some a, parked := false, started := false }
  | some x => { c with parked := c.faulted || (c.started && c.running.isEmpty && x == a) }

/-- What a chain's entries come after once a thread has appended to it (R288). -/
def Chain.after (c : Chain) (p : List Nat × Clock) : Chain := { c with prior := c.prior ++ p.1, since := c.since.join p.2 }

/-- `chain` (R226): release(.core), then a new tail for an engine's chain. A pick on a shuttle without a full thread is of another domain
than the chain's (log entry 35). -/
def execChain (a b : BitVec 5) (s : State) : Host.Outcome State Fault Refusal :=
  issue { plain (decide (b.toNat ≤ 2)) [.sR a] with cls := .noHeddle } (do
    let x ← getS a
    let g ← me
    let t ← self
    let s ← get
    let owner : Option DomId := ((s.core t.core).full.bind s.thread?).map Thread.dom
    if t.isPick && owner != some t.dom then raise 0x02 0 0
    else do
      release 1
      if x.toNat % 128 ≠ 0 then raise 0x03 x 0
      else do
        modify (fun s => s.updCore t.core (fun k => { k with
            chains := vset k.chains b.toNat
              (((vget k.chains b.toNat Chain.empty).append (x.extractLsb' 0 56) g.tid t.dom).after (s.priorOf g.tid)) }))
        pure .seq) s

end Sys2Proof.Machine
end

