-- ==== Sys2Proof/Machine/EngineEvents.lean ====
section
/-! DEFINITION. What the engines do by themselves: units (R307), completions (R214), follow-on commands (R186), weft births (R220), halo
strips (R219) and chains (R226). -/

namespace Sys2Proof.Machine

/-- The thread an operation acts for is on its shuttle, or suspended with its state still there, and not held off by
pre-emption (R187, R262). -/
def State.opRuns (s : State) (core tid : Nat) : Bool :=
  match s.thread? tid with
  | none => true
  | some t =>
    let k := s.core core
    t.kind != .full || (k.preempt.isNone && !t.leaving && (k.full == some tid || k.last == some tid))

/-- Units of an engine that are in flight on a core. -/
def State.unitsInFlight (s : State) (core e : Nat) : Nat :=
  (((s.core core).ops.filter (fun o => o.2.kind.engine == e)).map (fun o => o.2.inflight.length)).sum

/-- The engine may issue another unit of an operation (Table 12.1, R220). -/
def State.unitRoom (s : State) (core : Nat) (x : EngineOp) : Bool :=
  if x.kind = .weft then
    decide ((s.core core).returned.length + s.unitsInFlight core 2 < 16) && (freeSlot (s.core core)).isSome && s.opRuns core x.tid
  else decide (s.unitsInFlight core 0 < 32)

/-- A unit comes earlier in the order of issue (R307). -/
def EngUnit.before (u v : EngUnit) : Bool := decide (u.row < v.row) || (u.row == v.row && decide (u.off < v.off))

/-- Hold a unit that failed, in the order of issue (R307). -/
def holdUnit (u : EngUnit) : List EngUnit → List EngUnit
  | [] => [u]
  | v :: l => if u.before v then u :: v :: l else v :: holdUnit u l

/-- The unit an operation issues next: the first that is held, else the first not yet issued (R307). -/
def EngineOp.toIssue (x : EngineOp) (core : Nat) : Option EngUnit := x.held.head?.or (x.nextUnit core)

/-- A unit is issued with what its checks found: it is held no longer, or the operation steps past it. -/
def EngineOp.issueUnit (x : EngineOp) (u : EngUnit) (found : List UnitLeaf) : EngineOp :=
  let x := { x with inflight := x.inflight ++ [u], leaves := x.leaves ++ found }
  if x.held.isEmpty then x.passUnit u else { x with held := x.held.erase u }

/-- A unit fails its checks before it is issued: the operation holds it. -/
def EngineOp.holdBack (x : EngineOp) (u : EngUnit) : EngineOp :=
  if x.held.isEmpty then { x.passUnit u with held := [u] } else x

/-- `ENGINE_UNIT_ISSUE` (R307): the engine checks and issues its next unit, or stops at it and posts a fault message. -/
def execEngineUnitIssue (core op : Nat) (s : State) : Host.Outcome State Fault Refusal :=
  match s.op? core op with
  | none => .next s
  | some x =>
    match x.toIssue core with
    | none => .next s
    | some u =>
      if x.state ≠ .active ∨ !s.unitRoom core x then .next s
      else match s.checkUnit core x u with
        | (none, s) => .next (s.updOp core op (fun y => y.issueUnit u (s.unitLeaves core x u)))
        | (some (b, addr), s) =>
          let s := s.updOp core op (fun x => x.holdBack u)
          .next (s.faultOp core op x b addr)

/-- A halo strip has landed whole: no unit of its direction is still to come (R219). -/
def EngineOp.stripLanded (x : EngineOp) (dir : Nat) : Bool :=
  let inDir (r : Nat) : Bool := match stripOf x.halos r with
    | some (d, _, _) => d == dir
    | none => false
  !inDir x.row && (List.range x.row).any inDir && !x.inflight.any (fun u => inDir u.row) && !x.held.any (fun u => inDir u.row)

/-- A unit is in flight no longer. -/
def EngineOp.unflight (x : EngineOp) (u : EngUnit) : EngineOp :=
  { x with inflight := x.inflight.erase u, leaves := x.leaves.filter (fun l => !(l.row == u.row && l.off == u.off)) }

/-- Count the bytes that a copy has written (Table 8.1). -/
def EngineOp.countBytes (x : EngineOp) (n : Nat) : EngineOp :=
  if x.kind = .copy ∨ x.kind = .copyl then { x with count := x.count + n } else x

/-- Record that a unit has landed. -/
def State.unitLanded (s : State) (core op : Nat) (u : EngUnit) (bs : List Byte) : State :=
  let s := s.updOp core op (fun x => (x.unflight u).countBytes bs.length)
  let s := s.updOp core op (fun x => if x.landed core then { x with landedAt := some s.tick } else x)
  match s.op? core op with
  | none => s
  | some x =>
    match x.kind with
    | .weft => s.updCore core (fun k =>
        { k with returned := k.returned ++ [{ op := op, item := u.row, burst := u.off, data := BitVec.ofNat 512 (ofLE bs) }] })
    | .halo =>
      (match stripOf x.halos u.row with
      | some (d, _, _) =>
        if x.stripLanded d then
          let key := 4 * (neighbour core d).getD core + opposite d
          let s := s.updOp core op (fun x => { x with strips := x.strips ++ [BitVec.ofNat 2 d] })
          { s with strips := alSet s.strips key (alGetD s.strips key [] ++ [{ op := op, src := core }]) }
        else s
      | none => s)
    | _ => s

/-- The unit in flight that memory answers next: any of them (R220, R307; log entry 2). -/
def EngineOp.toLand (x : EngineOp) (ctr : Nat) : Option EngUnit :=
  match x.inflight with
  | [] => none
  | [u] => some u
  | l => l[Config.unitOrder ctr % l.length]?

/-- `ENGINE_UNIT_COMPLETE` (R307): a unit in flight lands, waits for what it needs, or fails a late check. -/
def execEngineUnitComplete (core op : Nat) (s : State) : Host.Outcome State Fault Refusal :=
  match s.op? core op with
  | none => .next s
  | some x =>
    match x.toLand s.freeCtr with
    | none => .next s
    | some u =>
      let s := { s with freeCtr := s.freeCtr + 1 }
      match s.performUnit { core := core, op := op, u := u, tid := x.tid, dom := x.dom, issued := true, leaves := x.leaves } x with
      | .done bs s => .next (s.unitLanded core op u bs)
      | .wait s => .next s
      | .fail b addr s =>
        let s := s.updOp core op (fun x => { x.unflight u with held := holdUnit u x.held })
        .next (if x.state = .active then s.faultOp core op x b addr else s)

/-- Everything an operation does before its release has been done (R214, R170, R180, R186, R219, R221). -/
def State.opDone (s : State) (core op : Nat) (x : EngineOp) : Bool :=
  match x.kind with
  | .copy | .copyl => x.landed core && (x.follow == .none || x.follow == .done)
  | .halo => x.landed core && x.strips.isEmpty
  | .weft => x.landed core && x.live == 0 && !(s.core core).returned.any (fun b => b.op == op)
  | .mstream => if x.chain then x.follow == .done else x.row == 1
  | .mdrain => x.row == 1 && !s.drainLive core op

/-- `ENGINE_OPERATION_COMPLETE` (R214, R299): the release, the token and the batch count of an operation. -/
def execEngineOperationComplete (core op : Nat) (s : State) : Host.Outcome State Fault Refusal :=
  match s.op? core op with
  | none => .next s
  | some x => if !x.chain ∧ s.opDone core op x ∧ s.opReleased core x then .next (s.finishOp core op x) else .next s

/-- The follow-on word of an operation. -/
def EngineOp.followWord (x : EngineOp) : Word := if x.kind = .mstream then x.w 0 else x.w 3

/-- The command of a follow-on word (Table 6.6); a weight image is read as it enters the queue (R173). -/
def State.followCmd (s : State) (core : Nat) (x : EngineOp) : ArrCmd :=
  let w := x.followWord
  let a : BitVec 19 := BitVec.ofNat 19 (field w 22 4)
  match followOp w with
  | 3 => .mlatch (s.lsRead core a.toNat (imageBytes (field w 27 24))) (w.extractLsb' 24 4) (bit w 28)
  | 4 => .mspar a
  | o => .mstream (o == 2) a x.followMv (field w 40 32) none

/-- The array takes an operation's follow-on command now (R187): the full thread that owns the array runs there, or pre-emption has
begun since the copy's last byte landed. -/
def State.followRuns (s : State) (core : Nat) (x : EngineOp) : Bool :=
  match (s.core core).preempt with
  | none => s.opRuns core (x.owner.getD x.tid)
  | some since => (s.core core).full == x.owner && (x.landedAt.any (fun t => decide (t < since)) || (x.landedAt.isNone && x.kind != .mstream))

/-- `FOLLOW_ON_ENTRY` (R186, R187): once the copy has landed, its command enters the queue when there is room. -/
def execFollowOnEntry (core op : Nat) (s : State) : Host.Outcome State Fault Refusal :=
  match s.op? core op with
  | none => .next s
  | some x =>
    if x.follow = .pending ∧ (x.kind = .mstream ∨ x.landed core) ∧ (s.core core).array.queue.length < 8 ∧ s.followRuns core x
        ∧ x.state = .active then
      let (id, s) := s.fresh
      let s := s.enterCmd core x.tid (some op) id (s.followCmd core x)
      .next (s.updOp core op (fun x => { x with follow := .entered }))
    else .next s

/-- `WEFT_BURST_BIRTH` (R220, R221, R413): the oldest returned burst is born as a pick. -/
def execWeftBurstBirth (core : Nat) (s : State) : Host.Outcome State Fault Refusal :=
  let k := s.core core
  match k.returned with
  | [] => .next s
  | b :: rest =>
    match s.op? core b.op, freeSlot k with
    | some x, some slot =>
      if !s.opRuns core x.tid then .next s
      else match s.takeBobbin x.dom (coreDie core) false x.image with
        | none => .next s
        | some (tid, s) =>
          let s := s.updCore core (fun k => { k with returned := rest })
          let s := s.updOp core b.op (fun x => { x with live := x.live + 1, count := x.count + 1 })
          let t := pickInit core slot x.dom x.image ((x.w 1).extractLsb' 0 56) (.weft core b.op)
          let t := { t with exe := t.exe.setRegs 0 (words8 b.data),
                            bcoord := BitVec.ofNat 48 (b.item * 65536 + b.burst), bflow := (x.w 3).extractLsb' 16 16,
                            bcount := BitVec.ofNat 32 (x.rowCount * x.rowLen 0) }
          .next (s.placePick tid core slot t)
    | none, _ => .next (s.updCore core (fun k => { k with returned := rest }))
    | _, none => .next s

/-- `STRIP_ARRIVAL` (R219): a strip that has landed is counted in the receiving core's mailbox counter, after the sender's
release when REL is set. -/
def execStripArrival (core : Nat) (dir : BitVec 2) (s : State) : Host.Outcome State Fault Refusal :=
  let key := 4 * core + dir.toNat
  match alGetD s.strips key [] with
  | [] => .next s
  | p :: rest =>
    let ready : Bool := match s.op? p.src p.op with
      | some x => !x.ord.rel || (x.landed p.src && s.opReleased p.src x)
      | none => true
    if !ready then .next s
    else
      let s := { s with strips := if rest.isEmpty then alErase s.strips key else alSet s.strips key rest }
      let s := s.updOp p.src p.op (fun x =>
        { x with count := x.count + 1, strips := x.strips.erase (BitVec.ofNat 2 (opposite dir.toNat)) })
      let s := s.updCore core (fun k =>
        { k with mb := vset k.mb dir.toNat (vget k.mb dir.toNat 0 + 1),
                 counted := (s.tick, dir.toNat :: (if k.counted.1 = s.tick then k.counted.2 else [])) })
      .next (s.wakeMailbox core)

/-- A chain of a core. -/
def State.chain (s : State) (core e : Nat) : Chain := vget (s.core core).chains e Chain.empty

/-- Update a chain of a core. -/
def State.updChain (s : State) (core e : Nat) (f : Chain → Chain) : State :=
  s.updCore core (fun k => { k with chains := vset k.chains e (f (vget k.chains e Chain.empty)) })

/-- The engine's own reference for reading a chain's entry or writing its sequence number. -/
def chainRef (core e : Nat) (c : Chain) (row : Nat) : UnitRef :=
  { core := core, op := 2 ^ 60 + e, u := { row := row, off := 0, len := 128 }, tid := c.tid, dom := c.dom }

/-- The words of a chain entry that are illegal (Table 8.9; log entry 39 on what follows a matrix command's word). -/
def entryBad (e : Nat) (w : Nat → Word) : List (Bool × Word) :=
  let f := w 10
  let scope := field f 6 4
  [(field f 1 0 == 3 || decide (6 ≤ scope) || ((bit f 2 || bit f 3) && scope == 0), f)] ++
    ([11, 12, 13, 14, 15].map (fun k => (w k != 0, w k))) ++
    (if e = 1 then [1, 2, 3, 4, 5, 6, 7].map (fun k => (w k != 0, w k)) else [])

/-- The kind of operation of a chain entry. -/
def entryKind (e k : Nat) : OpKind :=
  match e, k with
  | 0, 1 => .copyl
  | 0, 2 => .halo
  | 0, _ => .copy
  | 1, _ => .mstream
  | _, _ => .weft

/-- The thread that appended the entry at the cursor. -/
def Chain.appender (c : Chain) : Nat :=
  match c.appends with
  | a :: _ => a.1
  | [] => c.tid

/-- The operation of a chain entry with the given words. -/
def chainOp (s : State) (core e : Nat) (c : Chain) (w : Nat → Word) : EngineOp :=
  let t := (s.thread? c.appender).getD (Thread.init .full core 0 c.dom Image.empty 0)
  let f := w 10
  let x := newOp (entryKind e (field f 1 0)) t c.appender .none { acq := bit f 2, rel := bit f 3, scope := f.extractLsb' 4 3 } 0
    ((Vector.range 8).map w)
  let x := { x with chain := true, batch := 0, dom := c.dom, prior := c.prior, since := c.since }
  if e = 1 then { x with follow := if followOp (w 0) = 0 then .done else .pending, followMv := s.followRows t (w 0) }
  else s.opOf core x.kind t x

/-- An entry of a chain starts: its operation, and its CWORD. -/
def Chain.start (c : Chain) (id : Nat) (addr : VAddr) (cword : Word) : Chain :=
  { c with running := c.running ++ [{ op := id, addr := addr, cword := cword }], started := true }

/-- The engine may take its chain's next step: entries overlap on the copy engine only (R226). -/
def State.chainSteps (s : State) (core e : Nat) (c : Chain) : Bool :=
  decide (e ≤ 2) && !c.parked && !c.faulted && (e == 0 || c.running.isEmpty) && s.opRuns core c.tid &&
    s.settledBefore (coreDie core) c.tid c.prior c.since

/-- Stop a chain at its entry, or (`rows` 2) at the NEXT of its entry (R226, R215). -/
def State.chainFault (s : State) (core e : Nat) (x : EngineOp) (rows : Nat) (addr : VAddr) (b : Bad) (ea : Word) : State :=
  let (id, s) := s.acceptOp core { x with rows := rows }
  let s := s.updChain core e (fun c => c.start id addr 0)
  match s.op? core id with
  | some x => s.faultOp core id x b ea
  | none => s

/-- The engine has room for a chain's next entry (Table 12.1). -/
def State.chainRoom (s : State) (core e : Nat) : Bool :=
  let n := ((s.core core).ops.filter (fun o => o.2.kind.engine == e)).length
  if e = 0 then decide (n < 16) else if e = 2 then decide (n < 4) else true

/-- `CHAIN_ENTRY_START` (R226): the engine reads, checks and starts the entry at its cursor. -/
def execChainEntryStart (core : Nat) (eng : BitVec 2) (s : State) : Host.Outcome State Fault Refusal :=
  let e := eng.toNat
  let c := s.chain core e
  match c.cursor with
  | none => .next s
  | some a =>
    if c.started ∨ !s.chainSteps core e c ∨ !s.chainRoom core e then .next s
    else
      let ea : Word := a.setWidth 64
      if a.toNat % 128 ≠ 0 then .next (s.chainFault core e (chainOp s core e c (fun _ => 0)) 1 a { cause := 0x03, extra := 0 } ea)
      else match s.readPart (chainRef core e c 0) ea 128 with
      | .wait s => .next s
      | .fail b addr s => .next (s.chainFault core e (chainOp s core e c (fun _ => 0)) 1 a b addr)
      | .done bs s =>
        let s := s.dropUnit (chainRef core e c 0)
        let w (k : Nat) : Word := wordAt bs k
        let x := chainOp s core e c w
        let bad : Option (Cause × Word × Word) := match firstBad (entryBad e w) with
          | some y => some (0x01, ea, y)
          | none => if e = 1 then s.followBad core (w 0) else s.recordCheck core x.kind x.record
        (match bad with
        | some (cause, addr, extra) => .next (s.chainFault core e x 1 a { cause := cause, extra := extra } addr)
        | none =>
          let (id, s) := s.acceptOp core x
          .next (s.updChain core e (fun c => c.start id a (w 9))))

/-- The appends that the end of the entry at an address settles: those up to the first that named it as its tail. -/
def Chain.settle (c : Chain) (addr : VAddr) : List (Nat × VAddr) :=
  if c.appends.any (fun a => a.2 == addr) then (c.appends.dropWhile (fun a => a.2 != addr)).drop 1 else c.appends

/-- An entry of a chain has ended: the engine parks when nothing runs and the cursor is at the tail. -/
def Chain.ended (c : Chain) (op : Nat) : Chain :=
  let rest := c.running.filter (fun r => r.op != op)
  let gone := c.running.filter (fun r => r.op == op)
  { c with running := rest, parked := rest.isEmpty && c.started && c.cursor == some c.tail,
           appends := gone.foldl (fun l r => { c with appends := l }.settle r.addr) c.appends }

/-- `CHAIN_ENTRY_COMPLETE` (R226, R301): after its release the oldest running entry's sequence number is written. -/
def execChainEntryComplete (core : Nat) (eng : BitVec 2) (s : State) : Host.Outcome State Fault Refusal :=
  let e := eng.toNat
  let c := s.chain core e
  match c.running with
  | [] => .next s
  | r :: _ =>
    let id := r.op
    match s.op? core id with
    | none => .next s
    | some x =>
      if x.state ≠ .active ∨ x.rows = 1 ∨ x.rows = 2 ∨ !s.opDone core id x ∨ !s.opReleased core x ∨ !s.opRuns core c.tid then .next s
      else
        let done (s : State) : State :=
          let s := s.finishOp core id { x with dest := .none }
          (s.updChain core e (fun c => { c.ended id with done := c.done + 1 })).unhold x.tid
        let u := chainRef core e c 1
        if r.cword = 0 then .next (done s)
        else if r.cword.toNat % 8 ≠ 0 then .next (s.faultOp core id x { cause := 0x03, extra := 0 } r.cword)
        else match s.writePart u r.cword (leBytes 8 (c.done + 1)) with
          | .wait s => .next s
          | .done _ s => .next (done (s.dropUnit u))
          | .fail b addr s => .next (s.faultOp core id x b addr)

/-- `CHAIN_NEXT_POLL` (R226): the engine reads NEXT of the entry it has finished and moves to it once it is not 0. -/
def execChainNextPoll (core : Nat) (eng : BitVec 2) (s : State) : Host.Outcome State Fault Refusal :=
  let e := eng.toNat
  let c := s.chain core e
  match c.cursor with
  | none => .next s
  | some a =>
    if !c.started ∨ c.cursor = some c.tail ∨ !s.chainSteps core e c then .next s
    else
      let r := chainRef core e c 2
      match s.readPart r (leaAdd (a.setWidth 64) 64) 8 with
      | .wait s => .next s
      | .fail b addr s => .next (s.chainFault core e (chainOp s core e c (fun _ => 0)) 2 a b addr)
      | .done bs s =>
        let w := wordAt bs 0
        let s := s.dropUnit r
        if w = 0 then .next s
        else .next (s.updChain core e (fun c => { c with cursor := some (w.extractLsb' 0 56), started := false }))

end Sys2Proof.Machine
end

