-- ==== Sys2Proof/Machine/Launch.lean ====
section
/-! DEFINITION. Kernel descriptors (R250), the acceptance of gang launches (R43, R227, R247, R258), the placing of new full threads
(R26, R166, R250, R258) and the births of spawned picks (R228, R413). -/

namespace Sys2Proof.Machine

/-- A kernel descriptor (Table 10.2). -/
structure KDesc where
  image : Image
  entry : VAddr
  lsbytes : Nat
  remote : Bool
  tvec : VAddr
  /-- the fields are ones this device accepts (R43, Table 10.2) -/
  ok : Bool
  deriving DecidableEq, Repr

/-- A kernel descriptor from its eight words. -/
def kdescOf (addr : VAddr) (w : Nat → Word) : KDesc :=
  let cls := field (w 1) 39 32
  let ls := field (w 4) 19 0
  { image := { kdesc := addr, text := (w 0).extractLsb' 0 56, tsize := (w 1).extractLsb' 0 32, smap := (w 2).extractLsb' 0 56,
               floor := cls == 0 },
    entry := (w 3).extractLsb' 0 56, lsbytes := ls, remote := bit (w 4) 63, tvec := (w 5).extractLsb' 0 56,
    ok := decide (cls ≤ 1) && decide (ls ≤ (if cls = 0 then 262144 else 393216)) && field (w 5) 63 56 == 0 && w 6 == 0 && w 7 == 0 }

/-- Read a kernel descriptor for a domain on a die. -/
def State.readKdesc (s : State) (die : Nat) (d : DomId) (a : Word) : Except Bad KDesc :=
  if a.toNat % 64 ≠ 0 then .error { cause := 0x03, extra := 0 }
  else match s.sysLoadWords die d a 8 with
    | .error b => .error b
    | .ok l => .ok (kdescOf (a.extractLsb' 0 56) (fun k => l.getD k 0))

/-- A launch as its record or packet asks for it (Tables 8.10, 17.4). -/
structure LaunchReq where
  die : Nat
  /-- the domain that launches -/
  ldom : DomId
  dom : DomId
  col : Nat
  row : Nat
  width : Nat
  height : Nat
  args : Vector Word 6
  cword : Word
  token : Option (Nat × Dest)
  qcb : Option Nat
  /-- the events that the launch's release covers (R227, R259) -/
  stamp : Clock

/-- The rectangle lies on the die (Table 8.10). -/
def LaunchReq.onDie (q : LaunchReq) : Bool :=
  decide (1 ≤ q.width) && decide (1 ≤ q.height) && decide (q.col + q.width ≤ 48) && decide (q.row + q.height ≤ 24)

/-- Shuttles that full threads of a domain and its descendants hold, from the launch that takes their bobbins on (R247). -/
def State.shutsOf (s : State) (d : DomId) : Nat :=
  (s.threads.filter (fun t => t.2.kind == .full && s.within t.2.dom d)).length

/-- The launch keeps to the budget of its domain and of every ancestor (R247). -/
def State.inBudget (s : State) (q : LaunchReq) : Bool :=
  (s.effDiemask q.dom).getLsbD q.die && decide (q.width ≤ (s.effMaxw q.dom).toNat) && decide (q.height ≤ (s.effMaxh q.dom).toNat)
    && (s.lineage q.dom).all (fun a => decide (s.shutsOf a.1 + q.width * q.height ≤ (s.effMaxshut a.1).toNat))

/-- The launch's domain is live and is the launching domain or a descendant of it (R227). -/
def State.mayLaunch (s : State) (q : LaunchReq) : Bool := (s.dom q.dom).state == 1 && s.within q.dom q.ldom

/-- A gang's record as it is accepted. -/
def LaunchReq.gang (q : LaunchReq) (k : KDesc) (members : List Nat) : Gang :=
  { dom := q.dom, ldom := q.ldom, die := BitVec.ofNat 2 q.die, orgCol := q.col, orgRow := q.row, width := q.width,
    height := q.height, image := k.image, entry := k.entry, lsbytes := k.lsbytes, remote := k.remote, tvec := k.tvec,
    args := q.args, members := members, released := false, ended := 0, trapped := 0, cword := q.cword, token := q.token,
    qcb := q.qcb, single := false, barriers := [], stamp := q.stamp }

/-- A new full thread that holds its bobbin and waits for its shuttle (R258). -/
def heldMember (dom : DomId) (k : KDesc) (gid core : Nat) : Thread :=
  { Thread.init .full core 0 dom k.image k.entry with status := .taken, gang := some gid, member := true }

/-- Take one bobbin and context block for each shuttle of a list (R258 step 1). -/
def State.takeMembers (s : State) (dom : DomId) (die : Nat) (k : KDesc) (gid : Nat) : List Nat → Option (List Nat × State)
  | [] => some ([], s)
  | c :: l =>
    match s.takeBobbin dom die true k.image with
    | none => none
    | some (tid, s) =>
      match ((s.setThread tid (heldMember dom k gid c)).putBobbin tid).takeMembers dom die k gid l with
      | none => none
      | some (ts, s) => some (tid :: ts, s)

/-- Accept a launch whose descriptor has been read: none where it is refused, and then nothing is taken (R258 step 1). -/
def State.acceptGang (s : State) (q : LaunchReq) (k : KDesc) : Option State :=
  let n := q.width * q.height
  if !q.onDie || !s.mayLaunch q || !k.ok || (k.image.floor && decide (64 < n)) || !s.inBudget q then none
  else
    let (gid, s) := s.fresh
    match s.takeMembers q.dom q.die k gid (q.gang k []).cores with
    | none => none
    | some (ts, s) => some { s with gangs := alSet s.gangs gid (q.gang k ts) }

/-- `%ggeom` of a gang (Table 1.6). -/
def Gang.geom (g : Gang) : BitVec 29 :=
  BitVec.ofNat 29 (g.height * 2 ^ 24 + g.width * 2 ^ 16 + g.orgRow * 2 ^ 8 + g.orgCol)

/-- Window 0's limit register at launch (R250). -/
def launchLimit (lsbytes : Nat) (remote : Bool) : Word := BitVec.ofNat 64 (lsbytes % 2 ^ 19 + 3 * 2 ^ 32 + (if remote then 2 ^ 34 else 0))

/-- Install the first lines of an image in a core's instruction cache (R258 steps 3 and 4). -/
def State.installText (s : State) (core : Nat) (d : DomId) (im : Image) (entry : VAddr) : State :=
  let s := s.updCore core (fun k => { k with icache := [] })
  let first : VAddr := entry >>> 7 <<< 7
  (List.range 32).foldl (fun s i =>
    let line := first + BitVec.ofNat 56 (128 * i)
    if im.text.toNat / 128 ≤ line.toNat / 128 ∧ line.toNat < im.text.toNat + im.tsize.toNat then
      s.fetchAheadLine core d im line
    else s) s

/-- A core as a new full thread finds it (R26, R166, R250, Table 1.5). -/
def Core.fresh (k : Core) (tid lsbytes : Nat) (remote : Bool) (tvec : VAddr) (now : Nat) : Core :=
  { k with full := some tid, ports := Vector.replicate 4 [], mb := Vector.replicate 4 0, grp := GroupRegs.zero,
           pwb := Vector.replicate 8 0, pwl := vset (Vector.replicate 8 0) 0 (launchLimit lsbytes remote),
           tvec := tvec.setWidth 64, epc := 0, ecause := 0, eaddr := 0, einfo := 0, estat := 0, sscratch := 0,
           array := ArrayState.launch, chains := Vector.replicate 3 Chain.empty, gate := .open, preempt := none, intr := false, unbound := false,
           last := none, placedAt := now }

/-- Start a full thread that holds its bobbin on a core (R250, R258 step 5, R263). -/
def State.startFull (s : State) (tid core : Nat) (g : Gang) : State :=
  let s := s.updThread tid (fun t =>
    { t with core := core, status := .running, heldTo := none, exe := t.exe.setRegs 1 g.args.toList })
  let s := s.stash core
  let now := s.tick
  ((s.updCore core (fun k => k.fresh tid g.lsbytes g.remote g.tvec now)).putBobbin tid).openEps core g.dom

/-- No earlier launch that wants a shuttle of the rectangle still waits (R258 step 2). -/
def State.firstInLine (s : State) (gid : Nat) (g : Gang) : Bool :=
  s.gangs.all (fun h => decide (gid ≤ h.1) || h.2.released || h.2.single || h.2.die != g.die ||
    !h.2.cores.any (fun c => g.cores.contains c))

/-- Release a gang (R258 steps 3 to 6, R259): every member's state, then its first instruction may issue; the launch's T is 0. -/
def State.releaseGang (s : State) (gid : Nat) (g : Gang) : State :=
  let s := (g.members.zip g.cores).zipIdx.foldl (fun s (m, i) =>
    let s := (s.startFull m.1 m.2 g).installText m.2 g.dom g.image g.entry
    s.updCore m.2 (fun k => { k with grp := { GroupRegs.zero with
      rank := BitVec.ofNat 16 i, gsize := BitVec.ofNat 16 g.members.length, ggeom := g.geom } })) s
  let s := { s with gangs := alSet s.gangs gid { g with released := true, barriers := [] } }
  match g.token with
  | some (tid, d) => s.giveToken tid d 0
  | none => s

/-- A spawned pick's registers and place (R27, R228). -/
def PendingBirth.pick (p : PendingBirth) (slot : Nat) : Thread :=
  let t := pickInit p.core slot p.dom p.image p.entry .spawn
  { t with exe := t.exe.setRegs 8 p.regs.toList }

/-- Bear a spawned pick: in a free slot with T 0, or as a runnable bobbin with T 1; none while the pool has no bobbin. -/
def State.bear (s : State) (p : PendingBirth) : Option State :=
  let die := coreDie p.core
  match s.takeBobbin p.dom die false p.image with
  | none => none
  | some (tid, s) =>
    match freeSlot (s.core p.core) with
    | some slot => some ((s.placePick tid p.core slot (p.pick slot)).giveToken p.tid p.dest 0)
    | none =>
      let s := s.setThread tid { p.pick 0 with status := .runnable }
      some ((s.enqueue tid p.dom die).giveToken p.tid p.dest 1)

end Sys2Proof.Machine
end

