-- ==== Sys2Proof/Machine/Work.lean ====
section
/-! DEFINITION. Work creation, suspension and ending, majors 0x2C and 0x2D (R227 to R229). -/

namespace Sys2Proof.Machine

/-- Issue needs of majors 0x2C, 0x2D and 0x2F. -/
def workNeed (uses : List Use) : Need := { plain true uses with cls := .noAccNoHeddle }

/-- The launch a record asks for (Table 8.10). -/
def launchReq (r : Vector Word 8) (t : Thread) (b : Word) : LaunchReq :=
  let w := vget r 1 0
  { die := coreDie t.core, ldom := t.dom, dom := if field w 51 32 = 0 then t.dom else w.extractLsb' 32 20,
    col := field w 5 0, row := field w 12 8, width := field w 21 16, height := field w 28 24,
    args := (Vector.range 6).map (fun i => vget r (2 + i) 0), cword := b, token := none, qcb := none,
    stamp := Clock.zero }

/-- Bits of the rectangle word that belong to no field (Table 8.10). -/
def rectReserved (w : Word) : Bool :=
  field w 7 6 != 0 || field w 15 13 != 0 || field w 23 22 != 0 || field w 31 29 != 0 || field w 63 52 != 0

/-- `launch` (R227): starts a gang on the issuer's die. -/
def execLaunch (t a b : BitVec 5) (s : State) : Host.Outcome State Fault Refusal :=
  issue (workNeed [.sR a, .sR b, .tok t]) (do
    let x ← getS a
    let y ← getS b
    let r ← readRecord x
    let g ← me
    let th ← self
    if y.toNat % 8 ≠ 0 then raise 0x03 y 0
    else if field y 59 56 ≠ 0 then raise 0x04 y y
    else do
      release 4
      let w := vget r 1 0
      let q := launchReq r th y
      if rectReserved w || !q.onDie then raise 0x23 0 w
      else do
        let kd := vget r 0 0
        let s ← get
        match s.readKdesc q.die th.dom kd with
        | .error e => raiseBad e kd
        | .ok k =>
          let word : Option Bad := if y = 0 then none
            else (match s.sysStore q.die Clock.zero th.dom y (leBytes 8 0) with
              | .error e => some e
              | .ok _ => none)
          match word with
          | some e => raiseBad e y
          | none => do
            let dest ← laterT t
            match (← get).acceptGang { q with token := some (g.tid, dest), stamp := ((← get).die (coreDie th.core)).vc } k with
            | none => raise 0x23 0 0
            | some s =>
              set s
              pure .seq) s

/-- `spawn` (R228): creates a pick that runs the handler at A. -/
def execSpawn (t a : BitVec 5) (s : State) : Host.Outcome State Fault Refusal :=
  issue (workNeed [.sR a, .tok t]) (do
    let x ← getS a
    let g ← me
    let th ← self
    entryAddr x
    match (List.range 6).find? (fun i => (th.ctx g.acc).pend.getLsbD (8 + i)) with
    | some i => stall (.token (8 + i))
    | none => pure ()
    release 4
    let dest ← laterT t
    let s ← get
    let p : PendingBirth :=
      { tid := g.tid, core := th.core, dom := th.dom, image := th.image, entry := x.extractLsb' 0 56,
        regs := (Vector.range 6).map (fun i => th.getReg false (8 + i)), dest := dest }
    match s.bear p with
    | some s => set s
    | none => set { s with births := alSet s.births s.nextId p, nextId := s.nextId + 1 }
    pure .seq) s

/-- The wait a key asks for, or that the key is illegal (Table 8.11). -/
def waitKeyOf (k : Word) : Option (Option WaitKey) :=
  match field k 63 60 with
  | 0 => if k = 0 then some none else none
  | 1 => if field k 59 34 = 0 then some (some (.mailbox (k.extractLsb' 32 2) (k.extractLsb' 0 32))) else none
  | 2 => if field k 59 56 = 0 ∧ field k 2 0 = 0 then some (some (.address (k.extractLsb' 0 56))) else none
  | 3 => if field k 59 11 = 0 then some (some (.barrier (k.extractLsb' 0 11))) else none
  | _ => none

/-- `suspend` (R229): releases, writes the thread back and waits for the event of the key. -/
def execSuspend (a : BitVec 5) (s : State) : Host.Outcome State Fault Refusal :=
  issue (workNeed [.sR a]) (do
    let x ← getS a
    match waitKeyOf x with
    | none => raise 0x01 0 x
    | some k => leave 4 k) s

/-- `yield` (R229): writes the thread back, runnable at once. -/
def execYield (s : State) : Host.Outcome State Fault Refusal := issue (workNeed []) (leave 4 none) s

/-- Stop the access stream as `astop` does, once its access in flight has completed (R126, R229 step 1). -/
def Thread.stopAccess (t : Thread) : Thread :=
  if t.kind = .full ∧ t.acc.running then { t with boq := [], acc := { t.acc with running := false, wait := .none } } else t

/-- What `exit` waits for (R229 step 2). -/
def State.exitBusy (s : State) (tid : Nat) (t : Thread) : Bool :=
  let k := s.core t.core
  s.engineBusy tid ||
    (t.kind == .full && (!k.array.queue.isEmpty || !k.array.drain.isEmpty || k.ops.any (fun o => s.drainLive t.core o.1)))

/-- `exit` (R229): stops the access stream, waits for engine work, releases and ends the thread. -/
def execExit (s : State) : Host.Outcome State Fault Refusal :=
  issue (workNeed []) (do
    let a ← me
    let t ← self
    if t.kind = .full ∧ t.acc.running ∧ t.acc.midway then stall .memory
    else if (← get).exitBusy a.tid t then stallKeep .batch (fun s => s.updThread a.tid Thread.stopAccess)
    else match t.engFaults with
      | f :: _ => raiseEngine f
      | [] => do
        releaseAll 4
        modify (fun s => s.endThread a.tid false)
        pure .stay) s

end Sys2Proof.Machine
end

