-- ==== Sys2Proof/Machine/System.lean ====
section
/-! DEFINITION. System instructions, major 0x30 (R236, Table 8.12), and the privileged and heddle status registers (R39, Tables 1.8
and 8.13). -/

namespace Sys2Proof.Machine

/-- Issue needs of `trap` and `wfm`. -/
def sysNeed (uses : List Use) : Need := { plain true uses with cls := .noAccNoHeddle }

/-- `trap` (R236): raises a trap with the immediate cause; bit 61 of its extra word is set. -/
def execTrap (i : BitVec 8) (s : State) : Host.Outcome State Fault Refusal :=
  issue (sysNeed []) (raise i 0 (1#64 <<< 61)) s

/-- `rfe` (R236): returns from supervisor mode to `%epc` and the saved mode. -/
def execRfe (s : State) : Host.Outcome State Fault Refusal :=
  issue { plain true [] with cls := .supervisor } returnFromException s

/-- An unbound endpoint of a domain on a core holds a message (R236). -/
def State.messageFor (s : State) (core : Nat) (d : DomId) : Bool :=
  (List.range 16).any (fun p =>
    let e := s.ep core p
    e.owner == some d && e.handler == 0 && (s.epHead core p).isSome)

/-- The wait of a `wfm` has lasted 65,536 cycles. -/
def wfmOver (c : Ctx) (tick : Nat) : Bool :=
  match c.wait with
  | .wfm since => decide (65536 ≤ tick - since)
  | _ => false

/-- When the `wfm` at the PC began to wait. -/
def wfmSince (c : Ctx) (tick : Nat) : Nat :=
  match c.wait with
  | .wfm since => since
  | _ => tick

/-- `wfm` (R236): waits for a message, in supervisor mode for an event, or for 65,536 cycles. -/
def execWfm (s : State) : Host.Outcome State Fault Refusal :=
  issue (sysNeed []) (do
    let t ← self
    let c ← ctx
    let s ← get
    if s.messageFor t.core t.dom || (t.mode == 1 && (s.eventWaiting t.core t.dom).isSome) || wfmOver c s.tick then pure .seq
    else stall (.wfm (wfmSince c s.tick))) s

/-- The value of a privileged status register (Table 1.8). -/
def Core.sprRead (k : Core) (n : Nat) : Word :=
  match n with
  | 0x800 => k.tvec
  | 0x801 => k.epc
  | 0x802 => k.ecause
  | 0x803 => k.eaddr
  | 0x804 => k.einfo
  | 0x805 => k.estat
  | 0x806 => k.sscratch
  | _ => if n < 0x818 then vget k.pwb (n - 0x810) 0 else vget k.pwl (n - 0x818) 0

/-- A write of a privileged status register (Table 1.8); reserved fields are ignored (R10). -/
def Core.sprWrite (k : Core) (n : Nat) (w : Word) : Core :=
  match n with
  | 0x800 => { k with tvec := w }
  | 0x801 => { k with epc := w }
  | 0x802 => { k with ecause := w &&& 0xFF }
  | 0x803 => { k with eaddr := w }
  | 0x804 => { k with einfo := w }
  | 0x805 => { k with estat := w &&& 3 }
  | 0x806 => { k with sscratch := w }
  | _ =>
    if n < 0x818 then { k with pwb := vset k.pwb (n - 0x810) (w &&& pwbMask) }
    else { k with pwl := vset k.pwl (n - 0x818) (w &&& pwlMask) }

/-- The value of a heddle status register (Table 8.13). -/
def HeddleCtx.read (x : HeddleCtx) (n : Nat) : Word :=
  match n with
  | 0xC00 => x.hmsg.setWidth 64
  | 0xC01 => x.haddr.setWidth 64
  | 0xC02 => x.hsrc.setWidth 64
  | 0xC03 => x.htag.setWidth 64
  | 0xC04 => x.hkey.setWidth 64
  | 0xC05 => x.hslot.setWidth 64
  | 0xC06 => BitVec.ofNat 64 x.hsteps
  | 0xC07 => x.hdraft.setWidth 64
  | 0xC08 => x.hcomm.setWidth 64
  | _ => x.horig.setWidth 64

/-- `mfsp` (R236, Table 8.12): reads a privileged status register, or in heddle mode a heddle register. -/
def execMfsp (d : BitVec 5) (i : BitVec 12) (s : State) : Host.Outcome State Fault Refusal :=
  issue { plain (decide (0x800 ≤ i.toNat)) [.sW d] with cls := .spr i.toNat false } (do
    let t ← self
    match t.heddle with
    | some x => setS d (x.read i.toNat)
    | none => setS d (((← get).core t.core).sprRead i.toNat)
    pure .seq) s

/-- `mtsp` (R236, Table 8.12): writes a privileged status register. -/
def execMtsp (a : BitVec 5) (i : BitVec 12) (s : State) : Host.Outcome State Fault Refusal :=
  issue { plain (decide (0x800 ≤ i.toNat)) [.sR a] with cls := .spr i.toNat true } (do
    let x ← getS a
    let t ← self
    modify (fun s => s.updCore t.core (fun k => k.sprWrite i.toNat x))
    pure .seq) s

end Sys2Proof.Machine
end

