-- ==== Sys2Proof/Machine/SchedEvents.lean ====
section
/-! DEFINITION. Gang release (R258), claims of bobbins (R254, R340), pending births (R413), migration arrivals (R268), pre-emption
(R262, R343, R378, R389), and wakes by time (R229, R257). -/

namespace Sys2Proof.Machine

/-- A core's gate admits a domain (R389). -/
def Gate.admits (g : Gate) (d : DomId) : Bool :=
  match g with
  | .open => true
  | .closed => false
  | .reserved r _ _ => r == d

/-- A gang's shuttles hold no full thread and are open (R258 step 2), and their die has seen what the launch released (R259). -/
def State.rectangleFree (s : State) (g : Gang) : Bool :=
  g.stamp.leBut (s.die g.die.toNat).vc [] && g.cores.all (fun c => (s.core c).vacant && (s.core c).gate == .open)

/-- `GANG_RELEASE` (R258, R259): the launch unit of the die releases the first waiting launch whose rectangle is free. -/
def execGangRelease (launch : Nat) (s : State) : Host.Outcome State Fault Refusal :=
  match alGet s.gangs launch with
  | none => .next s
  | some g =>
    if g.released ∨ g.single ∨ !s.rectangleFree g ∨ !s.firstInLine launch g then .next s
    else .next (s.releaseGang launch g)

/-- A free pick slot of a core takes picks of a domain: the full thread's own, a selvedge core's, or on an idle shuttle any that
the effective DIEMASK allows there (R254, R260, R340). -/
def State.slotTakes (s : State) (core : Nat) (d : DomId) : Bool :=
  let k := s.core core
  k.gate.admits d && (s.effDiemask d).getLsbD (coreDie core) &&
    (match k.full.bind s.thread? with
      | some t => t.dom == d
      | none => !isSelvedge core || k.selvedge == some d)

/-- A core takes a full-thread bobbin of a domain (R251, R254, R389), with what neighbours have sent it (R20). -/
def State.shuttleTakes (s : State) (core tid : Nat) (d : DomId) : Bool :=
  let k := s.core core
  let left : Bool := match s.thread? tid with
    | some t => t.core == core || (s.core t.core).last != some tid || !(s.core t.core).portsDue
    | none => true
  let free : Bool := (k.vacant && left) || (k.full.isNone && k.preempt.isNone && k.last == some tid)
  let gate : Bool := match k.gate with
    | .open => true
    | .closed => false
    | .reserved _ t _ => t == tid
  !isSelvedge core && free && gate && (s.effDiemask d).getLsbD (coreDie core)

/-- A runnable bobbin that a core's sequencers (slot 7) or pick slots may claim: it acquires what it has seen elsewhere (R256). -/
def State.claims (s : State) (core : Nat) (full : Bool) (tid : Nat) (t : Thread) : Bool :=
  decide (t.status = .runnable) && t.clock.leBut (s.die (coreDie core)).vc [] &&
    (if full then t.kind == .full && (s.effDiemask t.dom).getLsbD (coreDie core) &&
        (((s.core core).full == some tid && (s.core core).preempt.isNone) || s.shuttleTakes core tid t.dom)
     else t.isPick && s.slotTakes core t.dom)

/-- A run-queue entry's effective priority (R340). -/
def RunEntry.effective (e : RunEntry) (us age : Nat) : Nat := min 7 (e.prio + (us - e.since) / max age 1)

/-- The better of two heads: higher effective priority, then the earlier enqueue time (R340). -/
def betterHead (us age : Nat) (a : Option (Nat × RunEntry)) (b : Nat × RunEntry) : Option (Nat × RunEntry) :=
  match a with
  | none => some b
  | some x =>
    let p := x.2.effective us age
    let q := b.2.effective us age
    if p < q ∨ (p = q ∧ b.2.since < x.2.since) then some b else some x

/-- The head entry that a core claims of the lists of its die, with the domain whose run queue holds it (R340). -/
def State.bestEntry (s : State) (core : Nat) (full : Bool) : Option (Nat × RunEntry) :=
  let fits (e : RunEntry) : Bool := match s.thread? e.tid with
    | some t => t.heldTo.isNone && s.claims core full e.tid t
    | none => false
  let heads := s.doms.flatMap (fun d => (List.range 8).filterMap (fun p =>
    ((d.2.runq.find? (fun e => e.die.toNat == coreDie core && e.prio == p)).filter fits).map (fun e => (d.1, e))))
  heads.foldl (betterHead s.us s.mgmt.age.toNat) none

/-- A held bobbin that its core may claim (R254, R257). -/
def State.heldBobbin (s : State) (core : Nat) (full : Bool) : Option (Nat × Thread) :=
  s.threads.find? (fun x => x.2.heldTo == some core && s.claims core full x.1 x.2)

/-- A resumed thread takes the trap of an operation that was aborted while the thread was saved (R215, R308). -/
def State.resumeFault (s : State) (tid : Nat) : State :=
  match (s.thread? tid).bind (fun t => t.engFaults.find? EngineFault.onResume) with
  | none => s
  | some f => (s.metFault tid f).takeTrap { tid := tid, acc := false } f.trap

/-- The image of the kernel descriptor that a bobbin's word of its pool names, which a resumed bobbin runs (R413). What has no place in
memory stays as it was (log entry 25). -/
def State.recallImage (s : State) (die tid : Nat) (t : Thread) : Thread :=
  match s.bobbinIndex t.dom tid with
  | none => t
  | some n =>
    let img := (s.dom (s.poolDom t.dom)).bobimg
    match (if img = 0 then none else s.getWord die t.dom (img + BitVec.ofNat 56 (8 * n))) with
    | none => t
    | some a =>
      if a.extractLsb' 0 56 = t.image.kdesc then t
      else match s.readKdesc die t.dom a with
        | .ok k => { t with image := k.image }
        | .error _ => t

/-- What a claimed pick's bobbin holds in memory (R252), its address and `s8` to `s13`, with its image (R413). -/
def State.recallBobbin (s : State) (die tid : Nat) (t : Thread) : Thread :=
  if (s.bobbinIndex t.dom tid).isNone then t
  else
    let t := match s.getPiece die t.dom (BitVec.ofNat 56 (64 * tid)) 64 with
      | some bs => { t with exe := { t.exe.setRegs 8 ((List.range 6).map (fun i => w64At bs (16 + 8 * i))) with
                                       pc := (w64At bs 0).extractLsb' 0 56 &&& ~~~1#56 } }
      | none => t
    s.recallImage die tid t

/-- Start a claimed bobbin: a suspended full thread in place or from its save areas, a new one at its entry, a pick in a slot. The claim
binds the shuttle (R262). -/
def State.startBobbin (s : State) (core slot tid : Nat) : State :=
  let s := s.updCore core (fun k => { k with unbound := false })
  match s.thread? tid with
  | none => s
  | some t =>
    if t.kind ≠ .full then s.placePick tid core slot { s.recallBobbin (coreDie core) tid t with heldTo := none }
    else
      let t := s.recallImage (coreDie core) tid t
      let s := s.setThread tid t
      if (s.core core).full = some tid then
        (((s.setThread tid { t with status := .running, heldTo := none }).putBobbin tid).reopenEps core).resumeFault tid
      else match t.saved, t.gang.bind (alGet s.gangs) with
        | none, some g => s.startFull tid core g
        | _, _ => (s.placeFull tid core).resumeFault tid

/-- `BOBBIN_CLAIM` (R340, R254): an idle shuttle (slot 7 stands for its sequencers) or a free slot 0 to 6 claims a runnable bobbin:
one held to it, else the best head of its domain's lists. -/
def execBobbinClaim (core slot : Nat) (s : State) : Host.Outcome State Fault Refusal :=
  let k := s.core core
  let full := slot == 7
  if 7 < slot ∨ k.preempt.isSome ∨ (!full ∧ (vget k.slots slot none).isSome) then .next s
  else match s.heldBobbin core full with
    | some (tid, _) => .next (s.startBobbin core slot tid)
    | none => match s.bestEntry core full with
      | none => .next s
      | some (d, e) =>
        let s := (s.popRun (BitVec.ofNat 20 d) e).updDom (BitVec.ofNat 20 d) (fun r => { r with runq := r.runq.erase e })
        .next (s.startBobbin core slot e.tid)

/-- `RUN_QUEUE_RETRY` (R340): a bobbin whose list was full is tried again 1 µs later, and appended once there is room. -/
def execRunQueueRetry (tid : Nat) (s : State) : Host.Outcome State Fault Refusal :=
  match s.doms.findSome? (fun d => (d.2.unqueued.find? (fun e => e.tid == tid)).map (fun e => (d.1, e))) with
  | none => .next s
  | some (d, e) =>
    let id := BitVec.ofNat 20 d
    if s.tick < e.since + usCycles then .next s
    else if s.runqFull id e.die.toNat e.prio then
      .next (s.updDom id (fun r => { r with unqueued := r.unqueued.map (fun x => if x = e then { e with since := s.tick } else x) }))
    else
      let e' : RunEntry := { e with since := s.us }
      .next ((s.pushRun id e').updDom id (fun r => { r with unqueued := r.unqueued.erase e, runq := r.runq ++ [e'] }))

/-- `PENDING_BIRTH` (R413): a spawned pick that waited for a bobbin is born. -/
def execPendingBirth (birth : Nat) (s : State) : Host.Outcome State Fault Refusal :=
  match alGet s.births birth with
  | none => .next s
  | some p =>
    match s.bear p with
    | none => .next s
    | some s => .next { s with births := alErase s.births birth }

/-- A pick slot of a core is free for a migrating pick. -/
def State.slotFree (s : State) (core : Nat) (d : DomId) : Bool :=
  (freeSlot (s.core core)).isSome && s.slotTakes core d

/-- How far a shuttle stands from a memory heddle, in columns (R268; log entry 28). -/
def distance (heddle core : Nat) : Nat :=
  let a := Config.heddleColumn heddle
  (coreCol core - a) + (a - coreCol core)

/-- `MIGRATION_RECORD_START` (R268): a record of the home die's buffer starts in a free slot of the shuttle nearest the heddle that
serves its page, acquires what its old die had seen, and issues its access afresh. -/
def execMigrationRecordStart (core slot : Nat) (s : State) : Host.Outcome State Fault Refusal :=
  let k := s.core core
  let d := coreDie core
  if 6 < slot ∨ k.preempt.isSome ∨ (vget k.slots slot none).isSome then .next s
  else
    let fits (r : MigRec) : Bool := match s.thread? r.tid with
      | some t => s.slotTakes core t.dom && t.clock.leBut (s.die d).vc [] &&
          (List.range 1152).all (fun i =>
            let c := d * 1152 + i
            c == core || decide (distance r.heddle core ≤ distance r.heddle c) || !s.slotFree c t.dom)
      | none => false
    match (s.die d).migbuf.find? fits with
    | none => .next s
    | some r =>
      match s.thread? r.tid with
      | none => .next s
      | some t =>
        let s := s.updDie d (fun x => { x with migbuf := x.migbuf.erase r })
        .next (s.placePick r.tid core slot { t with exe := { t.exe with atTarget := true } })

/-- A stream as it is saved at a boundary: an instruction that only waits stays unissued, but for a counted arrival (R134, R262). -/
def Ctx.rerun (c : Ctx) : Ctx := if c.arrived then { c with word := [], ahead := [] } else { c.unissue with wait := .none, ahead := [] }

/-- A release(.dev) of both streams of a thread is complete (R256). -/
def State.writesDone (s : State) (tid : Nat) (t : Thread) : Bool := s.released tid t false 4 && s.released tid t true 4

/-- A follow-on command that is still to enter stays with its copy until the full thread runs again (R187). -/
def State.followStays (s : State) (core : Nat) (x : EngineOp) : Bool :=
  x.follow == .pending && x.kind != .mstream && x.landed core && !s.followRuns core x

/-- Pre-emption may save a full thread now: boundary, user mode, accesses performed, array work done, reserved entries filled (R262,
R187, R135, R378). A copy that landed before has its follow-on command entered first. -/
def State.canSave (s : State) (core tid : Nat) (t : Thread) : Bool :=
  let k := s.core core
  let reserved (l : List QEntry) : Bool := l.any (fun e => match e with
    | .reserved _ => true
    | _ => false)
  (t.mode != 1 || t.status == .stopped) && t.exe.atBoundary && t.acc.atBoundary && k.array.queue.isEmpty && k.array.drain.isEmpty &&
    !t.q.toList.any reserved && !k.portsDue && s.writesDone tid t &&
    !k.ops.any (fun o => o.2.follow == .pending && o.2.kind != .mstream && o.2.state == .active && o.2.landed core && s.followRuns core o.2)

/-- Save a full thread that pre-emption takes off its shuttle (R262 steps 2 and 4, R257, R372). -/
def State.preemptFull (s : State) (core tid : Nat) (t : Thread) : State :=
  let held := t.member || s.engineBusy tid
  let s := s.spillEps core
  let s := s.detach tid false
  let st : Status := if t.status = .running then .runnable else t.status
  let target (c : Ctx) : Ctx := { c.rerun with atTarget := true }
  let s := s.setThread tid { t with status := st, clock := (s.die (coreDie core)).vc, heldTo := if held ∨ t.heldTo.isSome then some core else none, leaving := true,
                                    exe := target t.exe, acc := target t.acc }
  let s := s.saveFull tid
  if t.status = .running ∧ !held then s.enqueue tid t.dom (coreDie core) else s

/-- The core has an entry of a thread that its die's full ring has not accepted (R378). -/
def State.entryHeld (s : State) (core : Nat) : Bool :=
  match (s.core core).last with
  | some tid => (s.die (coreDie core)).heldPosts.any (fun e => field e.rec2 32 0 == tid)
  | none => false

/-- The shuttle reports to the treadle pair (R262 step 6, R389 step 4). -/
def State.report (s : State) (core : Nat) : State :=
  let now := s.tick
  let s := s.updCore core (fun k => { k with preempt := none, gate := match k.gate with
    | .reserved d t _ => .reserved d t now
    | _ => .open })
  { s with slots := s.slots.map (fun x => { x with preempting := x.preempting.map (fun l => l.erase core) }) }

/-- Picks remain in a core's slots. -/
def Core.hasPicks (k : Core) : Bool := k.slots.toList.any Option.isSome

/-- Report once nothing holds it back, else wait for the full thread, the picks or the fault ring. -/
def State.reportIf (s : State) (core since : Nat) : State :=
  if (s.core core).full.isSome || (s.core core).hasPicks || s.entryHeld core then s.updCore core (fun k => { k with preempt := some since })
  else s.report core

/-- Save the full thread of a shuttle that pre-emption has stopped, once it can be saved (R262 steps 3 and 4). -/
def State.saveStopped (s : State) (core : Nat) : State :=
  match (s.core core).full with
  | none => s
  | some tid => match s.thread? tid with
    | none => s
    | some t => if s.canSave core tid t then s.preemptFull core tid t else s

/-- The full thread of a core. -/
def State.fullOn (s : State) (core : Nat) : Option Thread := (s.core core).full.bind s.thread?

/-- The treadle pair may interrupt a shuttle (R343): a PREEMPT packet names it, its time slice is over, or its full thread has stopped and
is to be recovered from (log entry 47). -/
def State.mayInterrupt (s : State) (core : Nat) : Bool :=
  let sliced : Bool := match (s.core core).gate with
    | .reserved _ _ _ => true
    | _ => false
  s.slots.toList.any (fun x => (x.preempting.getD []).contains core) || sliced ||
    (s.fullOn core).any (fun t => t.status == .stopped)

/-- A shuttle's full thread runs in supervisor mode, where a mesh interrupt waits for its `rfe` (R378). -/
def State.supervising (s : State) (core : Nat) : Bool := (s.fullOn core).any (fun t => t.status == .running && t.mode == 1)

/-- A mesh interrupt takes effect: the shuttle stops, and saves its full thread if that can be saved now (R262). -/
def State.interrupt (s : State) (core : Nat) : State := ((s.stopShuttle core).saveStopped core).reportIf core s.tick

/-- `MESH_INTERRUPT` (R262): the shuttle stops issuing, switches its endpoints to SPILL, saves its full thread once that can be saved,
and gives its picks time to end. A second interrupt is ignored (R389), and one in supervisor mode is held (R378). The
treadle pair sends it (R343). -/
def execMeshInterrupt (core : Nat) (s : State) : Host.Outcome State Fault Refusal :=
  if !s.firmware ∨ (s.core core).preempt.isSome ∨ !s.mayInterrupt core then .next s
  else if s.supervising core then .next (s.updCore core (fun k => { k with intr := true }))
  else .next (s.interrupt core)

/-- Pre-emption may save a pick now, as `yield` would (R28, R256). A follow-on command that the pre-emption itself holds back is not waited
for (R187). -/
def State.canSavePick (s : State) (tid : Nat) (t : Thread) : Bool :=
  t.exe.atBoundary && !s.engineBusyWith tid (fun x => !s.followStays t.core x) && s.writesDone tid t

/-- Save a pick as by `yield`, keeping note of a counted arrival. -/
def State.savePick (s : State) (tid : Nat) (t : Thread) : State :=
  (s.suspendThread tid none).updThread tid (fun x => { x with exe := { x.exe with got := t.exe.rerun.got, wait := t.exe.rerun.wait } })

/-- `PICK_PREEMPT_DEADLINE` (R262 steps 3 to 6): an interrupt that a supervisor held which has stopped or left takes effect; the full thread is saved once it can be, after 2,048 cycles the picks still running
are saved, and when none is left the shuttle reports. -/
def execPickPreemptDeadline (core : Nat) (s : State) : Host.Outcome State Fault Refusal :=
  match (s.core core).preempt with
  | none => if (s.core core).intr ∧ !s.supervising core then .next (s.interrupt core) else .next s
  | some t0 =>
    let s := s.saveStopped core
    if (s.core core).hasPicks ∧ s.tick < t0 + 2048 then .next s
    else
      let s := (s.core core).slots.toList.foldl (fun s x => match x with
        | none => s
        | some tid => match s.thread? tid with
          | some t => if s.canSavePick tid t then s.savePick tid t else s
          | none => s) s
      .next (s.reportIf core t0)

/-- The best full-thread bobbin of another domain that waits on a shuttle's die for a shuttle (R343): its identifier, its domain
and its effective priority. -/
def State.bestWaiting (s : State) (core : Nat) (d : DomId) : Option (Nat × DomId × Nat) :=
  let entries := s.doms.flatMap (fun x => x.2.runq.filterMap (fun e =>
    match s.thread? e.tid with
    | some t => if t.kind = .full ∧ t.dom ≠ d ∧ e.die.toNat = coreDie core ∧ t.heldTo.isNone then
        some (e.tid, t.dom, e.effective s.us s.mgmt.age.toNat) else none
    | none => none))
  let held := s.threads.filterMap (fun x =>
    if x.2.kind = .full ∧ x.2.dom ≠ d ∧ x.2.status = .runnable ∧ x.2.heldTo = some core then
      some (x.1, x.2.dom, (s.effPrio x.2.dom).toNat) else none)
  let open_ (x : Nat × DomId × Nat) : Bool := (List.range 1152).any (fun i => s.shuttleTakes (coreDie core * 1152 + i) x.1 x.2.1)
  (held ++ entries.filter (fun x => !open_ x)).foldl (fun a x => match a with
    | none => some x
    | some y => if y.2.2 < x.2.2 then some x else some y) none

/-- `TIME_SLICE_EXPIRY` (R343, R389): a full thread has held its shuttle for its slice while another domain's waits: the shuttle is
closed to all but that bobbin by the treadle pair, and its mesh interrupt may follow. -/
def execTimeSliceExpiry (core : Nat) (s : State) : Host.Outcome State Fault Refusal :=
  let k := s.core core
  match k.full.bind s.thread? with
  | none => .next s
  | some t =>
    if !s.firmware ∨ k.preempt.isSome ∨ k.gate ≠ .open ∨ s.tick - k.placedAt < (s.effSlice t.dom).toNat * usCycles then .next s
    else match s.bestWaiting core t.dom with
      | some (tid, d, p) =>
        if p < (s.effPrio t.dom).toNat then .next s
        else .next (s.updCore core (fun k => { k with gate := .reserved d tid s.tick }))
      | none => .next s

/-- `PREEMPT_CLAIM_WINDOW` (R389 step 4): a shuttle reserved for a bobbin that has not claimed it within 1 µs opens to every domain. -/
def execPreemptClaimWindow (core : Nat) (s : State) : Host.Outcome State Fault Refusal :=
  let k := s.core core
  match k.gate with
  | .reserved _ _ since =>
    if k.full.isNone ∧ k.preempt.isNone ∧ since + usCycles ≤ s.tick then .next (s.updCore core (fun k => { k with gate := .open }))
    else .next s
  | _ => .next s

/-- `EVENT_ENTRY` (R376): a user thread at an instruction boundary enters supervisor mode at `%tvec`. -/
def execEventEntry (core : Nat) (s : State) : Host.Outcome State Fault Refusal :=
  let k := s.core core
  match k.full with
  | none => .next s
  | some tid => match s.thread? tid, (s.thread? tid).bind (fun t => s.eventWaiting core t.dom) with
    | some t, some m =>
      if !s.eventDue core t then .next s
      else
        let w (i : Nat) : Word := (words8 m.data).getD i 0
        let s := s.detach tid false
        let s := s.updCore core (fun k =>
          { k with epc := t.exe.pc.setWidth 64, estat := 0, ecause := (w 0) >>> 56,
                   eaddr := (w 1) &&& 0xF0FF_FFFF_FFFF_FFFF, einfo := w 3 })
        let pc : VAddr := k.tvec.extractLsb' 0 56 &&& ~~~1#56
        .next (s.updThread tid (fun t => { t with mode := 1, exe := { t.exe.unissue with pc := pc, atTarget := true, wait := .none, ahead := [] } }))
    | _, _ => .next s

/-- A stream waits at a `bwait`, or for a token, and its wait is not over (R223, R256). -/
def State.parkable (s : State) (tid : Nat) (t : Thread) (acc : Bool) : Bool :=
  let c := t.ctx acc
  c.running && (match c.wait with
    | .token r => s.tokenWait { tid := tid, acc := acc } t r
    | .batch => (match c.got with
      | lo :: hi :: _ => (s.batchTrap t tid lo.toNat hi.toNat).isNone && s.unfinished t tid != 0 &&
          decide ((s.oldestBatch t tid).getD 0 ≤ hi.toNat)
      | _ => false)
    | _ => false)

/-- A full thread suspends at its wait for a batch, a token or a launch (R223, R227, R254, R256), once its accesses are performed and
its other stream is at a boundary. -/
def State.park (s : State) (tid : Nat) : State :=
  match s.thread? tid with
  | none => s
  | some t =>
    let k := s.core t.core
    if t.kind ≠ .full ∨ t.status ≠ .running ∨ k.full ≠ some tid ∨ k.preempt.isSome ∨ t.mode = 1 ∨
        !(s.parkable tid t false || s.parkable tid t true) ∨ !t.exe.atBoundary ∨ !t.acc.atBoundary ∨ k.portsDue ∨
        !s.writesDone tid t then s
    else (s.setThread tid { t with exe := t.exe.rerun, acc := t.acc.rerun }).suspendThread tid (some .engine)

/-- `WAKE_TABLE_TIMEOUT` (R257): an address waiter that the full wake table could not take becomes runnable after 1 µs. -/
def execWakeTableTimeout (tid : Nat) (s : State) : Host.Outcome State Fault Refusal :=
  match s.thread? tid with
  | none => .next s
  | some t =>
    match t.status, alGet (s.die (coreDie t.core)).timed tid with
    | .waiting _, some due => if due ≤ s.tick then .next (s.makeRunnable tid) else .next s
    | _, _ => .next s

/-- `WFM_TIMEOUT` (R236): a `wfm` ends after 65,536 cycles. -/
def execWfmTimeout (tid : Nat) (s : State) : Host.Outcome State Fault Refusal :=
  match s.thread? tid with
  | none => .next s
  | some t =>
    if t.status = .running ∧ wfmOver t.exe s.tick then
      .next (s.updThread tid (fun t => { t with exe := t.exe.advance 4 .seq }))
    else .next s

/-- `SPURIOUS_WAKE` (R229): a waiting bobbin becomes runnable; one stopped by a trap does not (Table 10.6). -/
def execSpuriousWake (tid : Nat) (s : State) : Host.Outcome State Fault Refusal :=
  match s.thread? tid with
  | some t => (match t.status with
    | .waiting _ => .next (s.makeRunnable tid)
    | _ => .next s)
  | none => .next s

/-- The streams that fetch on a core. -/
def State.fetchStreams (s : State) (core : Nat) : List (Agent × Thread) :=
  let k := s.core core
  let of (tid : Nat) (accs : List Bool) : List (Agent × Thread) := match s.thread? tid with
    | some t => accs.map (fun x => ({ tid := tid, acc := x }, t))
    | none => []
  (k.full.map (fun tid => of tid [false, true])).getD [] ++ k.slots.toList.flatMap (fun x => (x.map (fun tid => of tid [false])).getD [])

/-- `FETCH_AHEAD` (R63, R243): the fetch unit requests a line that lies ahead on the path of a stream of the core; an error drops it and
counts. Any other line it does not request. -/
def execFetchAhead (core : Nat) (line : BitVec 56) (s : State) : Host.Outcome State Fault Refusal :=
  let line : VAddr := line >>> 7 <<< 7
  match (s.fetchStreams core).find? (fun x => (s.aheadLines x.2 x.1.acc).contains line) with
  | none => .next s
  | some (a, t) =>
    .next ((s.fetchAheadLine core t.dom t.image line).updThread a.tid (fun t => t.updCtx a.acc (fun c => { c with ahead := line :: c.ahead })))

end Sys2Proof.Machine
end

