-- ==== Sys2Proof/Machine/ChannelEvents.lean ====
section
/-! DEFINITION. Channel messages on their way (R211, R213, R263, R266), the block queue (R189), the fault ring's retries (R375) and
resume packets (R377). -/

namespace Sys2Proof.Machine

/-- A message behind no earlier one of its sender to the same endpoint, and none that the endpoint has refused to its interface (R211). -/
def State.nextInOrder (s : State) (k : Nat) (m : ChanMsg) : Bool :=
  !s.chans.any (fun x => decide (x.1 < k) && x.2.handle == m.handle &&
    (x.2.stid == m.stid || (x.2.refused && x.2.sender == m.sender)))

/-- A message leaves its way; a launch that only waited for its acknowledgement is complete (R227). -/
def State.eraseMsg (s : State) (k : Nat) : State :=
  let s := { s with chans := alErase s.chans k }
  s.gangs.foldl (fun s e => if e.2.sends.contains k then s.gangCheck e.1 { e.2 with sends := e.2.sends.erase k } else s) s

/-- The endpoint has refused a message, which its sender's interface retries (R211). -/
def State.refuseMsg (s : State) (k : Nat) (m : ChanMsg) : State := { s with chans := alSet s.chans k { m with refused := true } }

/-- Hand a message to its endpoint's router; a peer device's answer is a free value of T (log entry 12). A message to a repair handle
that the store holds is a resume packet. -/
def State.tryMessage (s : State) (k : Nat) : State :=
  match alGet s.chans k with
  | none => s
  | some m =>
    if !s.nextInOrder k m then s
    else if (m.handle.extractLsb' 49 15 : BitVec 15) ≠ s.mgmt.device then
      let v := (Config.fresh s.freeCtr).toNat % 3
      let s := ({ s with freeCtr := s.freeCtr + 1 }).eraseMsg k
      if v = 2 then s.dropMsg m else s.giveToken m.stid m.dest (BitVec.ofNat 64 v)
    else if isRepair m.handle ∧ (s.repair? m.handle).isSome then s
    else match s.routeMsg m with
      | (.refused, _) => s.refuseMsg k m
      | (.dropped, _) => (s.eraseMsg k).dropMsg m
      | (_, s) => s.eraseMsg k

/-- `MESSAGE_ARRIVAL` (R263): a message is deposited, spilled, refused or dropped by its endpoint's record. -/
def execMessageArrival (msg : Nat) (s : State) : Host.Outcome State Fault Refusal := .next (s.tryMessage msg)

/-- `SEND_RETRY` (R211, R264): a message that was refused is offered again. -/
def execSendRetry (msg : Nat) (s : State) : Host.Outcome State Fault Refusal := .next (s.tryMessage msg)

/-- The owner of an endpoint runs on its core (Table 10.9). -/
def State.ownerRuns (s : State) (core : Nat) : Bool :=
  match (s.core core).full.bind s.thread? with
  | some t => decide (t.status = .running)
  | none => isSelvedge core

/-- `CHANNEL_PICK_BIRTH` (R213, R413): the oldest message of a bound endpoint is born as a pick, once the core's die has seen what the
send released (R212). -/
def execChannelPickBirth (core : Nat) (port : BitVec 4) (s : State) : Host.Outcome State Fault Refusal :=
  let e := s.ep core port.toNat
  match e.owner, s.epHead core port.toNat, freeSlot (s.core core) with
  | some d, some m, some slot =>
    if e.handler = 0 ∨ !s.ownerRuns core ∨ !m.stamp.leBut (s.die (coreDie core)).vc [] then .next s
    else match s.takeBobbin d (coreDie core) false e.image with
      | none => .next s
      | some (tid, s) =>
        let s := s.epTake core port.toNat
        let t := pickInit core slot d e.image e.handler .channel
        .next (s.placePick tid core slot { t with exe := t.exe.setRegs 0 (words8 m.data) })
  | _, _, _ => .next s

/-- `BLOCK_QUEUE_HANDOUT` (R189): the next block index of a flow goes to enrolled core number b mod n, as one channel message at its
endpoint 0; its sender's name is 0xFFFF (R212). -/
def execBlockQueueHandout (die : BitVec 2) (flow : BitVec 16) (s : State) : Host.Outcome State Fault Refusal :=
  match alGet (s.die die.toNat).flows flow.toNat with
  | none => .next s
  | some f =>
    match f.cores[f.next % f.cores.length]? with
    | none => .next s
    | some core =>
      let m : ChanMsg :=
        { id := s.nextId, handle := mkHandle s.mgmt.device core 0 (s.ep core 0).check,
          sender := s.mgmt.device ++ 0xFFFF#16, stid := 0, sdom := 0, dest := .none, rel := false, scope := 0, stamp := Clock.zero,
          data := BitVec.ofNat 512 (f.next % 2 ^ 40 + flow.toNat * 2 ^ 40) }
      match ({ s with nextId := s.nextId + 1 }).routeMsg m with
      | (.deposited, s) | (.spilled, s) =>
        .next (s.updDie die.toNat (fun d => { d with flows := alSet d.flows flow.toNat { f with next := f.next + 1 } }))
      | _ => .next s

/-- A held entry of the same poster lies earlier: entries of one poster keep their order (R374). -/
def earlierHeld (l : List FaultEntry) (k : Nat) (e : FaultEntry) : Bool :=
  (l.take k).any (fun x => x.poster == e.poster)

/-- `FAULT_RING_RETRY` (R375): the k-th waiting entry of a die is offered again; a heddle thread that it has kept occupied is then free. -/
def execFaultRingRetry (die : BitVec 2) (k : Nat) (s : State) : Host.Outcome State Fault Refusal :=
  let d := s.die die.toNat
  match d.heldPosts[k]? with
  | none => .next s
  | some e =>
    if !d.frRoom ∨ earlierHeld d.heldPosts k e then .next s
    else
      let s := (s.updDie die.toNat (fun d => { d with heldPosts := d.heldPosts.eraseIdx k })).postNow die.toNat e
      .next (match e.holds with
        | some tid => s.freeHeddle tid
        | none => s)

/-- A resume packet: its data, the die whose store holds what it names, and that record (R377). `stamp` is its sender's release. -/
structure Packet where
  data : BitVec 512
  stamp : Clock
  die : Nat
  rep : Repair

/-- Word i of a resume packet. -/
def Packet.w (p : Packet) (i : Nat) : Word := (words8 p.data).getD i 0

/-- ACTION of a resume packet. -/
def Packet.action (p : Packet) : Nat := field (p.w 0) 1 0

/-- The packet of a message, when it is next in its sender's order and its handle is in the store. -/
def State.packet (s : State) (k : Nat) : Option Packet :=
  match alGet s.chans k with
  | none => none
  | some m =>
    if !isRepair m.handle ∨ !s.nextInOrder k m then none
    else (s.repair? m.handle).map (fun r => { data := m.data, stamp := m.stamp, die := r.1, rep := r.2 })

/-- The packet's fields are accepted (Table 19.6). -/
def Packet.ok (p : Packet) : Bool :=
  let r := p.rep
  decide (p.action < 3) && !(p.action == 1 && r.src == 0) && !(p.action == 2 && r.src == 1) &&
    (r.src == 0 || field (p.w 1) 55 0 == 0) &&
    (if r.src = 0 then p.w 2 == 0 else decide (p.w 2 = BitVec.ofNat 64 (r.eng.toNat * 2 ^ 48 + r.op))) &&
    [3, 4, 5, 6, 7].all (fun i => p.w i == 0)

/-- A packet's message is delivered. -/
def State.takePacket (s : State) (k : Nat) : State :=
  match alGet s.chans k with
  | some m => (s.eraseMsg k).giveToken m.stid m.dest 0
  | none => s

/-- An accepted packet's handle leaves the store. -/
def State.takeRepair (s : State) (p : Packet) : State :=
  s.updDie p.die (fun d => { d with repairs := d.repairs.erase p.rep, handless := d.handless.erase p.rep })

/-- The faulted engine operation a packet names: its key among its core's operations, and the operation. -/
def State.packetOp (s : State) (r : Repair) : Option (Nat × EngineOp) :=
  (s.core r.core).ops.find? (fun o => o.2.kind.engine == r.eng.toNat && o.2.num % 2 ^ 32 == r.op &&
    (match o.2.state with
    | .faulted _ _ => true
    | .active => false))

/-- A thread stopped by a trap goes on at NEWPC, or at the record's PC for 0 (R377, Table 19.7). -/
def State.resumeThread (s : State) (r : Repair) (newpc : VAddr) : State :=
  match s.thread? r.tid with
  | none => s
  | some t =>
    if t.status ≠ .stopped then s
    else
      let t := t.updCtx r.acc (fun c => { c with pc := if newpc = 0 then c.pc else newpc, ahead := [] })
      let t := { t with exe := { t.exe with atTarget := true }, acc := { t.acc with atTarget := true } }
      if (s.core t.core).full = some r.tid then (s.setThread r.tid { t with status := .running }).reopenEps t.core
      else ((s.setThread r.tid t).putContext r.tid).makeRunnable r.tid

/-- The engine performs the faulting unit and every held one again and goes on (R215, R307); a chain reads an entry that failed as a
whole again. -/
def State.resumeOp (s : State) (r : Repair) : State :=
  match s.packetOp r with
  | none => s
  | some (k, x) =>
    let other (c : Chain) : Bool := c.running.any (fun q => q.op != k && (match (s.op? r.core q.op).map EngineOp.state with
      | some (.faulted _ _) => true
      | _ => false))
    if x.chain ∧ (x.rows = 1 ∨ x.rows = 2) then
      let s := s.updOpChain r.core k x (fun c =>
        { c with running := c.running.filter (fun q => q.op != k), started := x.rows == 2, faulted := other c, parked := other c })
      s.updCore r.core (fun c => { c with ops := alErase c.ops k })
    else
      let s := s.updOp r.core k (fun x => { x with state := .active })
      if x.chain then s.updOpChain r.core k x (fun c => { c with faulted := other c, parked := other c }) else s

/-- The operation ends (R215, R377): its thread takes a deferred engine fault later, or when it resumes where it is saved (R308), and
a chain moves on to NEXT. -/
def State.abortOp (s : State) (r : Repair) (cause : Cause) : State :=
  match s.packetOp r with
  | none => s
  | some (k, x) =>
    let addr : Word := match x.state with
      | .faulted _ a => a
      | .active => 0
    let other (c : Chain) : Bool := c.running.any (fun q => q.op != k && (match (s.op? r.core q.op).map EngineOp.state with
      | some (.faulted _ _) => true
      | _ => false))
    let s := if x.chain then s.updOpChain r.core k x (fun c =>
        let d := c.ended k
        { d with faulted := other c, parked := d.parked || other c }) else s
    let s := s.updCore r.core (fun c =>
      { c with ops := alErase c.ops k, returned := c.returned.filter (fun b => b.op != k),
               array := { c.array with queue := c.array.queue.filter (fun q => q.streams != some k) } })
    let f : EngineFault := { cause := cause, addr := addr, eng := r.eng, dest := x.dest, batch := x.batch, onResume := false }
    let s := s.updThread x.tid (fun t =>
      let t := { t with engFaults := t.engFaults ++ [{ f with onResume := t.status != .running && t.status != .stopped || t.saved.isSome }] }
      match x.dest with
      | .reg acc n => t.updCtx acc (fun c => { c with pend := setPend c.pend n false })
      | _ => t)
    (s.wakeEngine x.tid).unhold x.tid

/-- A resume packet waits before it is accepted: a resume of a thread until its die has seen what the sender released, an abort until the
operation's issued units have completed, a discard until the thread's engine operations are complete and its stores are done as at
`exit` (R229, R377). -/
def State.packetWaits (s : State) (p : Packet) : Bool :=
  match p.action with
  | 0 => p.rep.src == 0 && !p.stamp.leBut (s.die (coreDie p.rep.core)).vc []
  | 1 => (match s.packetOp p.rep with
    | some (_, x) => !x.inflight.isEmpty
    | none => false)
  | _ => (match s.thread? p.rep.tid with
    | some t => t.status == .stopped &&
      (s.exitBusy p.rep.tid t || !s.released p.rep.tid t false 4 || !s.released p.rep.tid t true 4)
    | none => false)

/-- What an accepted resume packet does (R377). -/
def State.doPacket (s : State) (p : Packet) : State :=
  match p.action with
  | 0 => if p.rep.src = 0 then s.resumeThread p.rep ((p.w 1).extractLsb' 0 56) else s.resumeOp p.rep
  | 1 => s.abortOp p.rep ((p.w 0).extractLsb' 8 8)
  | _ => if ((s.thread? p.rep.tid).map Thread.status) = some .stopped then s.endThread p.rep.tid true else s

/-- A resume packet with one of the ACTIONs of an event arrives: one whose fields are not accepted is ignored and its handle kept. -/
def State.runPacket (s : State) (k : Nat) (actions : List Nat) : State :=
  match s.packet k with
  | none => s
  | some p =>
    if !actions.contains p.action then s
    else if !p.ok then s.takePacket k
    else if s.packetWaits p then s
    else ((s.takePacket k).takeRepair p).doPacket p

/-- `RESUME` (R377): a resume packet restarts a stopped thread, whose die has then seen what its sender released, or a faulted engine
operation; one with ACTION 3 is ignored. -/
def execResumePacket (msg : Nat) (s : State) : Host.Outcome State Fault Refusal := .next (s.runPacket msg [0, 3])

/-- `ABORT` (R377): a resume packet ends a faulted engine operation once its issued units have completed. -/
def execAbortPacket (msg : Nat) (s : State) : Host.Outcome State Fault Refusal := .next (s.runPacket msg [1])

/-- `DISCARD` (R377): a resume packet ends a stopped thread by trap, once its engine operations are complete, and
its stores are done as at `exit` (R229). -/
def execDiscardPacket (msg : Nat) (s : State) : Host.Outcome State Fault Refusal := .next (s.runPacket msg [2])

/-- Firmware sends a packet on a supervisor's behalf for the k-th entry of a die that was posted without a handle (R377). -/
def State.repairFor (s : State) (die k : Nat) (data : BitVec 512) : State :=
  match (s.die die).handless[k]? with
  | none => s
  | some r =>
    let p : Packet := { data := data, stamp := (s.die 0).vc, die := die, rep := r }
    if !s.firmware ∨ !p.ok ∨ s.packetWaits p then s else (s.takeRepair p).doPacket p

end Sys2Proof.Machine
end

