-- ==== Sys2Proof/Machine/CoherenceEvents.lean ====
section
/-! DEFINITION. Coherence messages reaching heddles and shuttles (R237, R361 to R366, R393 to R395): the protocol events. -/

namespace Sys2Proof.Machine

/-- Take a coherence message out of flight, once its die has seen what its sender's had, and in its turn on its bridge (R285, R286). -/
def State.takeMsg (s : State) (k : Nat) : Option (CohMsg × State) :=
  match alGet s.msgs k with
  | some m =>
    if s.msgReady k m then
      let u := if s.crosses m then s.takeFront (nodeDie m.src) (nodeDie m.dst) else s
      some (m, { u with msgs := alErase u.msgs k })
    else none
  | none => none

/-- A request of a core on another die that finds no line there is a miss of that die at the page's home (R354). -/
def State.countRequest (s : State) (m : CohMsg) : State :=
  match s.outs.find? (fun o => o.2.kind == .coherence && s.coreNode o.2.core == m.src && o.2.slot == m.slot.toNat) with
  | some (_, o) =>
    if nodeDie m.src = nodeDie m.dst ∨ (m.type.toNat ≠ tRdmiss ∧ m.type.toNat ≠ tWrmiss) then s
    else match s.checkGlobal o.core o.dom o.ea 1 false false with
      | (.ok (_, l), _) => if l.loc = 0 ∧ blockNo l.pa = blockNo m.pa then s.countMiss (nodeDie m.src) l else s
      | _ => s
  | none => s

/-- A memory heddle, and not a port heddle. -/
def isMemHeddle (h : Nat) : Bool := decide (h < 64)

/-- A request of a type reaches a heddle (R237, R394). -/
def requestAt (type : Nat) (k : Nat) (s : State) : State :=
  match s.takeMsg k with
  | none => s
  | some (m, s') =>
    match s.node m.dst with
    | some (.heddle h) => if m.type.toNat = type ∧ !m.reply ∧ isMemHeddle h then (s'.countRequest m).homeRequest h m else s
    | _ => s

/-- `RDMISS` (R237): a read miss reaches the home. -/
def execRdmiss (msg : Nat) (s : State) : Host.Outcome State Fault Refusal := .next (requestAt tRdmiss msg s)

/-- `WRMISS` (R237): a write miss reaches the home. -/
def execWrmiss (msg : Nat) (s : State) : Host.Outcome State Fault Refusal := .next (requestAt tWrmiss msg s)

/-- `UPGRADE` (R237): an upgrade reaches the home. -/
def execUpgrade (msg : Nat) (s : State) : Host.Outcome State Fault Refusal := .next (requestAt tUpgrade msg s)

/-- `WB` (R366, R394, R395): a write-back reaches the home. A write-once block's first write-back (Table 18.8 draft 4) marks it
written. -/
def execWb (msg : Nat) (s : State) : Host.Outcome State Fault Refusal :=
  match s.takeMsg msg with
  | none => .next s
  | some (m, s') =>
    if m.type.toNat = tWb ∧ !m.reply ∧ m.slot = 0 then .next (s'.updBlock (blockNo m.pa) (fun x => { x with written := true }))
    else .next (requestAt tWb msg s)

/-- A reply-lane message reaches a heddle (R394). -/
def replyAt (type : Nat) (k : Nat) (s : State) : State :=
  match s.takeMsg k with
  | none => s
  | some (m, s') =>
    match s.node m.dst with
    | some (.heddle h) => if m.type.toNat = type ∧ m.reply ∧ isMemHeddle h then s'.homeReply h m else s
    | _ => s

/-- `RECALLACK` (R394): an answer on the reply lane reaches the home. -/
def execRecallack (msg : Nat) (s : State) : Host.Outcome State Fault Refusal := .next (replyAt tRecallack msg s)

/-- A shuttle's answer to a heddle's message (R393). -/
def State.coreAnswer (s : State) (core : Nat) (m : CohMsg) (x : Option (KeyId × Block)) : State :=
  match x with
  | some (key, d) =>
    s.sendMsg (mkMsg m.src (s.coreNode core) m.orig tRecallack true m.slot key m.pa kData 0 (some d))
  | none => s.sendMsg (mkMsg m.src (s.coreNode core) m.orig tRecallack true m.slot m.key m.pa kAck 0 none)

/-- A line as an answer carries it. -/
def DCLine.carried (x : DCLine) : KeyId × Block := (x.key, x.data)

/-- A line has data that only it holds. -/
def DCLine.dirty (x : DCLine) : Bool := x.writable && !x.void

/-- A shuttle puts off its answer to a RECALL or FWD while a reply that grants it the block is on its way: the access that asked for it,
such as an atomic, comes first (R365; log entry 44). -/
def State.defers (s : State) (c : Nat) (m : CohMsg) : Bool :=
  (m.type.toNat == tRecall || m.type.toNat == tFwd) && s.granted c (blockNo m.pa) false

/-- A heddle's message of a type at its destination: a shuttle answers, a heddle dispatches it. -/
def heddleMsg (type : Nat) (atCore : State → Nat → CohMsg → State) (k : Nat) (s : State) : State :=
  match s.takeMsg k with
  | none => s
  | some (m, s') =>
    if m.type.toNat ≠ type ∨ m.reply then s
    else match s.node m.dst with
      | some (.core c) => if s.defers c m then s else atCore s' c m
      | some (.heddle h) => if isMemHeddle h then s'.homeRequest h m else s
      | _ => s

/-- A RECALL at a shuttle (R393): the line is invalidated and its data returned when it was writable. -/
def State.recallAt (s : State) (c : Nat) (m : CohMsg) : State :=
  let b := blockNo m.pa
  let k := s.core c
  match alGet k.dcache b with
  | some x =>
    let s := s.updCore c (fun k => { k with dcache := alErase k.dcache b })
    s.coreAnswer c m (if x.dirty then some x.carried else none)
  | none => s.coreAnswer c m ((alGet k.wbuf b).map DCLine.carried)

/-- `RECALL` (R393). -/
def execRecall (msg : Nat) (s : State) : Host.Outcome State Fault Refusal := .next (heddleMsg tRecall State.recallAt msg s)

/-- A FWD at a shuttle (R393): a writable line becomes read-only and its data is returned. -/
def State.fwdAt (s : State) (c : Nat) (m : CohMsg) : State :=
  let b := blockNo m.pa
  let k := s.core c
  match alGet k.dcache b with
  | some x =>
    let s := s.updCore c (fun k =>
      { k with dcache := if x.void then alErase k.dcache b else alSet k.dcache b { x with writable := false, old := none } })
    s.coreAnswer c m (if x.dirty then some x.carried else none)
  | none => s.coreAnswer c m ((alGet k.wbuf b).map DCLine.carried)

/-- `FWD_REQUEST` (R393). -/
def execFwdRequest (msg : Nat) (s : State) : Host.Outcome State Fault Refusal := .next (heddleMsg tFwd State.fwdAt msg s)

/-- A PUSH at a shuttle (R393): a read-only line takes the block, an absent one is installed where a way is invalid. -/
def State.pushAt (s : State) (c : Nat) (m : CohMsg) : State :=
  let b := blockNo m.pa
  let k := s.core c
  let keep (d : Block) : State :=
    s.updCore c (fun k => { k with dcache := alSet k.dcache b { key := m.key, data := d, writable := false } })
  let s' := match alGet k.dcache b, m.data with
    | some x, some d => if x.writable then s else if m.bad then s.updCore c (fun k => { k with dcache := alErase k.dcache b })
        else keep d
    | none, some d => if !m.bad ∧ (k.dcSet b).length < 8 then keep d else s
    | _, none => s
  s'.coreAnswer c m none

/-- `PUSH` (R393). -/
def execPush (msg : Nat) (s : State) : Host.Outcome State Fault Refusal := .next (heddleMsg tPush State.pushAt msg s)

/-- A RED at a shuttle (R393): it returns and drops its partial. -/
def State.redAt (s : State) (c : Nat) (m : CohMsg) : State :=
  let b := blockNo m.pa
  match alGet (s.core c).partials b with
  | some x => (s.updCore c (fun k => { k with partials := alErase k.partials b })).coreAnswer c m (some x)
  | none => s.coreAnswer c m none

/-- `RED` (R393). -/
def execRed (msg : Nat) (s : State) : Host.Outcome State Fault Refusal := .next (heddleMsg tRed State.redAt msg s)

/-- A recorded request is a write-back (R366). -/
def OutReq.isWb (o : OutReq) : Bool := o.kind == .coherence && o.size == 128

/-- Give a stream that waits for a request its answer, and the register or entry that takes its value the value. -/
def State.give (s : State) (o : OutReq) (w : Word) : State :=
  (if o.waits then s.answer o.tid o.acc o.lane w else s).arriveAt o.tid o.dest w

/-- The request of a core that a reply's slot names (R362, R368). -/
def State.slotReq (s : State) (c : Nat) (slot : BitVec 7) : Option (Nat × OutReq) :=
  s.outs.find? (fun o => (o.2.kind == .coherence || (o.2.kind == .active && o.2.slot != 0)) && o.2.core == c && o.2.slot == slot.toNat && o.2.answer.isNone)

/-- The instruction at the PC that waits for a request is issued again; a vector instruction goes on, and where a lane has `had` its line
it has met every check (R161). -/
def State.reissue (s : State) (o : OutReq) (had : Bool) : State :=
  if !o.waits then s
  else if o.lane.isSome then
    s.updThread o.tid (fun t => t.updCtx o.acc (fun c =>
      if had then { c with seen := if c.seen.contains (blockNo o.loc) then c.seen else blockNo o.loc :: c.seen } else c))
  else (s.updThread o.tid (fun t => t.updCtx o.acc (fun c => if c.phase = .sent then c.unissue else c))).cancel o.tid o.dest

/-- Forget a request that has been answered. -/
def State.endReq (s : State) (k : Nat) : State := { s with outs := alErase s.outs k }

/-- A request that its stream has gone on behind and that cannot be served: its access is made at its home instead (R196), and a prefetch is
dropped (R205). -/
def State.homeInstead (s : State) (k : Nat) (o : OutReq) : State :=
  let b := blockNo o.loc
  let (op, fmt) := s.commOf o.loc
  if o.size = 0 then s.endReq k
  else if s.draftAt o.loc = 6 ∧ o.op.contributes op fmt then ((s.endReq k).contribute o.core o.key o.loc o.op)
  else
    let s := if s.draftAt o.loc = 6 then s.foldAll (s.homeHeddle o.loc) b else s
    { s with outs := alSet s.outs k { o with kind := .home, slot := 0, retryAt := none } }

/-- A request has not brought what its access needs: the access is issued again, by its instruction or its unit, or made at the home. -/
def State.again (s : State) (k : Nat) (o : OutReq) : State :=
  if o.waits ∨ o.unit.isSome then (s.endReq k).reissue o false else s.homeInstead k o

/-- A request is refused for good: its access, or its engine unit, takes a cause. An access that its stream has gone on behind met its checks
when it issued (R196): it comes before what has happened to the block since (R278). -/
def State.failReq (s : State) (k : Nat) (o : OutReq) (c : Cause) : State :=
  if !o.waits ∧ o.unit.isNone ∧ o.acckind = .load ∧ o.size ≠ 0 then s.finishOut k o o.data
  else if o.waits then s.failOut k o c 0
  else if o.unit.isSome then { s with outs := alSet s.outs k { o with answer := some (.refused c), slot := 0 } }
  else s.endReq k

/-- Make room for a block in a core's data cache; a writable line goes to the write-back buffer and its WB to the home (R366). -/
def State.makeRoom (s : State) (c b slot : Nat) : State :=
  let k := s.core c
  let set := k.dcSet b
  if set.length < 8 then s
  else
    let s := { s with freeCtr := s.freeCtr + 1 }
    match set[Config.victim s.freeCtr % set.length]? with
    | none => s
    | some (v, x) =>
      let s := s.updCore c (fun k => { k with dcache := alErase k.dcache v })
      if !x.dirty then s
      else
        let s := s.updCore c (fun k => { k with wbuf := alSet k.wbuf v x })
        let m := mkMsg (s.heddleNode (s.homeHeddle (128 * v))) (s.coreNode c) (s.coreNode c) tWb false (BitVec.ofNat 7 slot) x.key
          (128 * v) 0 0 (some x.data)
        (s.addOut (wbReq c v slot x.key)).sendMsg m

/-- Perform the recorded access on the line now in the data cache and answer it (R364). A vector instruction asks for the lines of
its lanes before any lane is performed (R161): it goes on. -/
def State.performLine (s : State) (o : OutReq) (x : DCLine) : State :=
  if o.size = 0 then s.reissue o true
  else
    let r := blockOp x.data (o.loc % 128) o.op
    let s := match r.2 with
      | none => s
      | some y => (s.updCore o.core (fun k => { k with dcache := alSet k.dcache (blockNo o.loc) { x with data := y } })).wakeAddr o.loc
    s.give o r.1

/-- Perform the recorded access of a request on the line that a standard draft's home has granted (R364). -/
def State.performStd (s : State) (o : OutReq) : State :=
  if o.size = 0 then s.reissue o true
  else
    let r := o.op.apply (s.mem.num o.loc o.size)
    (match r.2 with
      | some w => s.lineStore o.core o.key o.loc (leBytes o.size w)
      | none => s).give o r.1

/-- A line that a standard draft's home grants: one that the core has written keeps what HBM holds. -/
def State.grantLine (s : State) (c b : Nat) (key : KeyId) (wr : Bool) : State :=
  let old := match alGet (s.core c).dcache b with
    | some x => if wr then x.old else none
    | none => none
  s.updCore c (fun k => { k with dcache := alSet k.dcache b { key := key, data := s.blockData b, writable := wr, old := old } })

/-- DATA to a request (R364): the block is installed with its grant and the access performed. A load of a commutative draft is
given its value and nothing is kept. -/
def State.dataAt (s : State) (k : Nat) (o : OutReq) (m : CohMsg) : State :=
  let b := blockNo o.loc
  match m.data with
  | none => s.again k o
  | some d =>
    if !s.keyLive o.key then s.failReq k o 0x14
    else if s.stdDraft (s.draftAt o.loc) ∧ s.draftAt o.loc ≠ 6 then
      if !s.readable b o.key then s.failReq k o 0x15
      else (((s.endReq k).makeRoom o.core b o.slot).grantLine o.core b o.key (m.grant == 2)).performStd o
    else if (m.bad ∨ m.key ≠ o.key) ∧ !o.whole then s.failReq k o 0x15
    else
      let x : DCLine := { key := o.key, data := d, writable := m.grant == 2, void := o.whole && (m.bad || m.key != o.key) }
      if s.isComm (s.draftAt o.loc) ∧ o.unit.isNone then
        let s := s.endReq k
        if o.acckind = .load then (if o.size = 0 then s.reissue o true else s.give o (blockOp d (o.loc % 128) o.op).1)
        else if o.size = 0 then (s.startPartial o.core o.key o.loc).reissue o true
        else if s.contribReady o.core o.key o.loc ∨ !o.waits then (s.contribute o.core o.key o.loc o.op).give o 0
        else s.reissue o true
      else
        let s := (s.endReq k).makeRoom o.core b o.slot
        let s := s.updCore o.core (fun k => { k with dcache := alSet k.dcache b x })
        s.performLine o x

/-- A reply of a kind reaches the core that a slot of it waits on. -/
def coreReply (k : Nat) (want : CohMsg → Bool) (f : State → Nat → OutReq → CohMsg → State) (s : State) : State :=
  match s.takeMsg k with
  | none => s
  | some (m, s') =>
    if !m.reply || !want m then s
    else match s.node m.dst with
      | some (.core c) =>
        (match s'.slotReq c m.slot with
        | some (j, o) => f s' j o m
        | none => s')
      | _ => s

/-- `DATA_REPLY` (R364). -/
def execDataReply (msg : Nat) (s : State) : Host.Outcome State Fault Refusal :=
  .next (coreReply msg (fun m => m.type.toNat == tRecallack && m.kind == kData) State.dataAt s)

/-- The home has acknowledged a write-back: the buffer is freed (R366). -/
def State.wbDone (s : State) (k : Nat) (o : OutReq) : State :=
  (s.endReq k).updCore o.core (fun c => { c with wbuf := alErase c.wbuf (blockNo o.loc) })

/-- ACK to a request (R364): with a grant the core keeps its copy and the access is performed; without one it takes 0x11. -/
def State.ackAt (s : State) (k : Nat) (o : OutReq) (m : CohMsg) : State :=
  let b := blockNo o.loc
  if o.kind = .active then s.finishOut k o m.opnd
  else if o.isWb then s.wbDone k o
  else if !s.keyLive o.key then s.failReq k o 0x14
  else if m.grant = 0 then s.failReq k o 0x11
  else if s.isComm (s.draftAt o.loc) then
    let s := s.endReq k
    let (op, fmt) := s.commOf o.loc
    if o.size = 0 ∧ o.acckind ≠ .load then (s.startPartial o.core o.key o.loc).reissue o true
    else if o.op.contributes op fmt ∧ (s.contribReady o.core o.key o.loc ∨ !o.waits) then (s.contribute o.core o.key o.loc o.op).give o 0
    else s.reissue o true
  else match alGet (s.core o.core).dcache b with
    | none => s.again k o
    | some x =>
      if x.key ≠ o.key then s.again k o
      else if s.stdDraft (s.draftAt o.loc) then ((s.endReq k).grantLine o.core b o.key (bit m.grant 1)).performStd o
      else
        let x := { x with writable := bit m.grant 1 }
        ((s.endReq k).updCore o.core (fun c => { c with dcache := alSet c.dcache b x })).performLine o x

/-- `ACK_REPLY` (R364). -/
def execAckReply (msg : Nat) (s : State) : Host.Outcome State Fault Refusal :=
  .next (coreReply msg (fun m => m.type.toNat == tRecallack && m.kind == kAck) State.ackAt s)

/-- NACK to a request (R362): it is retried after 32 × 2^min(k, 5) cycles. -/
def State.nackAt (s : State) (k : Nat) (o : OutReq) : State :=
  let n := o.nacks + 1
  { s with outs := alSet s.outs k { o with nacks := n, retryAt := some (s.tick + 32 * 2 ^ min n 5) } }

/-- `NACK_REPLY` (R362, R364, R394). -/
def execNackReply (msg : Nat) (s : State) : Host.Outcome State Fault Refusal :=
  match alGet s.msgs msg with
  | none => .next s
  | some m =>
    match s.node m.dst with
    | some (.heddle _) => .next (replyAt tNack msg s)
    | _ => .next (coreReply msg (fun m => m.type.toNat == tNack && m.kind == kNack) (fun s k o _ => s.nackAt k o) s)

/-- `POISON_REPLY` (R364): the access takes 0x31; a write-back is acknowledged by it. -/
def execPoisonReply (msg : Nat) (s : State) : Host.Outcome State Fault Refusal :=
  .next (coreReply msg (fun m => m.type.toNat == tRecallack && m.kind == kPoison)
    (fun s k o _ => if o.isWb then s.wbDone k o else s.failReq k o 0x31) s)

/-- Send a write-back again (R362, R394). -/
def State.retryWb (s : State) (k : Nat) (o : OutReq) : State :=
  let b := blockNo o.loc
  match alGet (s.core o.core).wbuf b with
  | none => s.endReq k
  | some x =>
    let type := if s.isComm (s.draftAt (128 * b)) then tRed else tWb
    let m := mkMsg (s.heddleNode (s.homeHeddle (128 * b))) (s.coreNode o.core) (s.coreNode o.core) type false
      (BitVec.ofNat 7 o.slot) x.key (128 * b) 0 0 (some x.data)
    { s with outs := alSet s.outs k { o with retryAt := none } }.sendMsg { m with prio := decide (16 ≤ o.nacks) }

/-- Send a refused request again, translated afresh (R362): one that no longer needs the home is issued again or dropped. -/
def State.retryReq (s : State) (k : Nat) (o : OutReq) : State :=
  match s.checkGlobal o.core o.dom o.ea 1 false (o.acckind != .load) with
  | (.error e, s) => if o.unit.isSome then s.failReq k o e.cause else s.again k o
  | (.ok (_, l), s) =>
    let dr := s.draftAt l.pa
    let b := blockNo l.pa
    if l.loc ≠ 0 ∨ (s.stdDraft dr ∧ (dr = 1 ∨ dr = 5)) then s.again k o
    else
      let (op, fmt) := s.commOf l.pa
      match s.needType o.core b l.key (o.acckind != .load) (s.isComm dr) (o.op.contributes op fmt) with
      | none => s.again k o
      | some ty =>
        let o := { o with loc := l.pa, key := l.key, retryAt := none }
        let m := mkMsg (s.heddleNode (s.homeHeddle l.pa)) (s.coreNode o.core) (s.coreNode o.core) ty false (BitVec.ofNat 7 o.slot)
          l.key (128 * b) 0 0 none
        { s with outs := alSet s.outs k o }.sendMsg { m with prio := decide (16 ≤ o.nacks), opnd := o.opnd }

/-- `NACK_RETRY` (R362). -/
def execNackRetry (req : Nat) (s : State) : Host.Outcome State Fault Refusal :=
  match alGet s.outs req with
  | none => .next (s.retryFwd req)
  | some o =>
    match o.retryAt with
    | none => .next s
    | some n => .next (if s.tick < n ∨ o.kind ≠ .coherence then s else if o.isWb then s.retryWb req o else s.retryReq req o)

end Sys2Proof.Machine
end

