-- ==== Sys2Proof/Machine/Keys.lean ====
section
/-! DEFINITION. Sequence keys, major 0x2F (R233 to R235, R320), and the retirement of a key slot (R379 to R381). -/

namespace Sys2Proof.Machine

/-- Issue needs of a sequence instruction. -/
def seqNeed (uses : List Use) : Need := { plain true uses with cls := .noAccNoHeddle }

/-- The lowest-numbered free slot (R320); slot 0x000 is never free (R379). -/
def State.freeKeySlot (s : State) : Option Nat :=
  ((List.range 4095).map (· + 1)).find? (fun i => (s.key i).state == .free)

/-- Live slots of kinds 1 and 2 that a domain owns (R379). -/
def State.keysOf (s : State) (d : DomId) : Nat :=
  (s.keys.filter (fun k => k.2.state == .live && (k.2.kind == 1 || k.2.kind == 2) && k.2.owner == d)).length

/-- Open a slot of a kind for a domain (R233, R379): its next generation. -/
def State.openKey (s : State) (i : Nat) (kind : BitVec 2) (d : DomId) : State :=
  s.updKey i (fun k =>
    { KeySlot.init with state := .live, gen := if k.used then k.gen + 1 else k.gen, used := true, kind := kind, owner := d })

/-- A key reference in the layout of `%seqkey` (Table 1.6). -/
def State.keyRef (s : State) (i : Nat) : BitVec 32 := 1#1 ++ 0#11 ++ s.keyOf i

/-- `seq.open` (R233): a fresh sequence key of the issuing domain, or 0 where no slot is free or the quota is reached. -/
def execSeqOpen (d : BitVec 5) (s : State) : Host.Outcome State Fault Refusal :=
  issue (seqNeed [.sW d]) (do
    let t ← self
    let s ← get
    match s.freeKeySlot with
    | none => setS d 0
    | some i =>
      if (s.effKeyq t.dom).toNat ≤ s.keysOf t.dom then setS d 0
      else do
        let s := s.openKey i 2 t.dom
        set s
        setS d ((s.keyRef i).setWidth 64)
    pure .seq) s

/-- The key of a reference. -/
def refKey (a : Word) : KeyId := a.extractLsb' 0 20

/-- The checks of `seq.bind` on a key (R234): the cause of the trap, if any. -/
def State.seqKeyBad (s : State) (t : Thread) (k : KeyId) : Option Cause :=
  let slot := s.key (field k 11 0)
  if !s.keyLive k then some 0x14 else if slot.kind = 2 ∧ s.within t.dom slot.owner then none else some 0x11

/-- `seq.bind` (R234): binds a key reference to the thread, or unbinds it. -/
def execSeqBind (a : BitVec 5) (s : State) : Host.Outcome State Fault Refusal :=
  issue (seqNeed [.sR a]) (do
    let x ← getS a
    let t ← self
    if !bit x 31 then updSelf (fun t => { t with seqkey := 0 })
    else match (← get).seqKeyBad t (refKey x) with
      | some c => raise c 0 0
      | none => updSelf (fun t => { t with seqkey := x.extractLsb' 0 32 })
    pure .seq) s

/-- Discard a line of a standard draft that has been written and not written back: HBM keeps its sealed copy (R296). -/
def State.discardLine (s : State) (b : Nat) (x : DCLine) : State :=
  match x.old with
  | some (key, data) => (s.putBlock b data).updBlock b (fun m => { m with sealedUnder := key })
  | none => s

/-- Every private line of a key is invalidated on every shuttle, with no write-back (R235 step 2, R296). -/
def State.dropKeyLines (s : State) (k : KeyId) : State :=
  let s := s.cores.foldl (fun s e => e.2.dcache.foldl (fun s l => if l.2.key = k then s.discardLine l.1 l.2 else s) s) s
  { s with cores := s.cores.map (fun e =>
      let c := e.2
      (e.1, { c with icache := c.icache.filter (fun l => l.key != k), dcache := c.dcache.filter (fun l => l.2.key != k),
                     partials := c.partials.filter (fun l => l.2.1 != k),
                     partStamps := c.partStamps.filter (fun l => c.partials.any (fun x => x.1 == l.1 && x.2.1 != k)) })) }

/-- Lanes of a vector instruction that have met their checks are still to be performed (R161). -/
def State.laneBusy (s : State) : Bool := s.threads.any (fun t => t.2.exe.inLanes || t.2.acc.inLanes)

/-- Accesses under a key that have passed its check are on their way to their homes: the key's retirement comes after them (R296). -/
def State.keyBusy (s : State) (k : KeyId) : Bool :=
  s.laneBusy ||
  s.cores.any (fun c => c.2.ops.any (fun o => o.2.leaves.any (fun x => x.leaf.key == k))) ||
  s.outs.any (fun o => o.2.key == k && (o.2.kind == .home || o.2.kind == .host || (o.2.kind == .dieRead && o.2.answer.isNone) ||
      (o.2.kind == .coherence && !o.2.waits && o.2.unit.isNone && o.2.size != 0 && o.2.size != 128))) ||
    s.cores.any (fun c => c.2.remote.any (fun m => decide (m.loc < 2 ^ 52) && m.key == k)) ||
    [0, 1, 2, 3].any (fun d => [0, 1, 2, 3].any (fun e => (s.incoming d e).any (fun m => match m with
      | .write _ _ _ key _ _ _ => key == k
      | _ => false)))

/-- Retire a slot (R235 steps 1 and 2, R381): with copies at peers it is CLOSING until they have acknowledged. -/
def State.retireKey (s : State) (i : Nat) (closer : Option (Nat × Nat)) : State :=
  let k := s.key i
  let id := s.keyOf i
  let s := s.dropKeyLines id
  if k.exports.isEmpty then s.updKey i KeySlot.retired
  else
    let s := s.updKey i (fun k => { k with state := .closing, closer := closer })
    { s with mgmt := { s.mgmt with
        out := s.mgmt.out ++ k.exports.map (fun p => OutMsg.retire p (BitVec.ofNat 12 i) k.gen) } }

/-- Step 4 of R235: the issuing thread's `%seqkey` no longer names the key. -/
def forgetKey (x : Word) : Exec Unit :=
  updSelf (fun t => { t with seqkey := if t.seqkey = x.extractLsb' 0 32 then 0 else t.seqkey })

/-- `seq.close` (R235): retires the key everywhere, after the accesses under it that are on their way (R296); with copies at peers it
waits for their acknowledgements, and its slot is free when it completes (R320). -/
def execSeqClose (a : BitVec 5) (s : State) : Host.Outcome State Fault Refusal :=
  issue (seqNeed [.sR a]) (do
    let x ← getS a
    let g ← me
    let t ← self
    let c ← ctx
    match c.got, c.phase with
    | _ :: _, _ => do
      modify (fun s => if (s.key (field x 11 0)).state = .closing then s.updKey (field x 11 0) KeySlot.retired else s)
      forgetKey x
      pure .seq
    | [], .sent => stall .security
    | [], _ =>
      if !bit x 31 then raise 0x14 0 0
      else do
        let s ← get
        match s.seqKeyBad t (refKey x) with
        | some c => raise c 0 0
        | none =>
          let i := field x 11 0
          if s.keyBusy (refKey x) then stall .memory
          else if (s.key i).exports.isEmpty then do
            set (s.retireKey i none)
            forgetKey x
            pure .seq
          else stallKeep .security (fun s =>
            (s.retireKey i (some (g.tid, s.tick))).updThread g.tid (fun t =>
              t.updCtx g.acc (fun c => { c with phase := .sent })))) s

/-- A peer's copy of a closing key is gone (R381): with the last one the close can complete, which frees the slot (R320). -/
def State.peerRetired (s : State) (i : Nat) (peer : BitVec 15) : State :=
  let k := s.key i
  if k.state = .closing then
    let l := k.exports.erase peer
    if l.isEmpty then
      match k.closer with
      | some (tid, _) =>
        if (s.thread? tid).isSome then (s.updKey i (fun k => { k with exports := [] })).answer tid false none 0
        else s.updKey i KeySlot.retired
      | none => s.updKey i KeySlot.retired
    else s.updKey i (fun k => { k with exports := l })
  else s

end Sys2Proof.Machine
end

