-- ==== Sys2Proof/Machine/Regions.lean ====
section
/-! DEFINITION. The region table (R357, R358): the checks of a record, and its rebinding. -/

namespace Sys2Proof.Machine

/-- A region record's words (Table 18.7). -/
structure RegionRecord where
  w0 : Word
  w1 : Word
  w2 : Word

/-- The table index a record names. -/
def RegionRecord.index (r : RegionRecord) : Nat := field r.w1 11 0

/-- The entry a record describes. -/
def RegionRecord.region (r : RegionRecord) : Region :=
  { base := field r.w0 51 12 * 4096, log2 := field r.w0 5 0, cop := r.w1.extractLsb' 30 2, cfmt := r.w1.extractLsb' 28 2,
    fixhm := r.w1.extractLsb' 24 3, hpol := r.w1.extractLsb' 20 2, draft := r.w1.extractLsb' 16 4 }

/-- A physical address lies in a region. -/
def Region.has (r : Region) (pa : Nat) : Bool := decide (r.base ≤ pa) && decide (pa < r.base + 2 ^ r.log2)

/-- Two regions overlap. -/
def Region.overlaps (a b : Region) : Bool := decide (a.base < b.base + 2 ^ b.log2) && decide (b.base < a.base + 2 ^ a.log2)

/-- The range is wholly within one die's mappable HBM (R348): within one stack, below its directory store. -/
def Region.mappable (r : Region) : Bool :=
  decide (r.log2 ≤ 36) && hbmBacked r.base && hbmBacked (r.base + 2 ^ r.log2 - 1)

/-- Why a record is refused (Table 18.7). -/
def State.regionBad (s : State) (r : RegionRecord) : Option Nat :=
  let x := r.region
  let late : Option Nat := if r.w2 != 0 then some 5 else none
  if !bit r.w0 63 then late
  else if x.log2 < 12 ∨ 37 < x.log2 ∨ x.base % 2 ^ x.log2 ≠ 0 ∨ !x.mappable
      ∨ s.regions.any (fun y => y.1 != r.index && y.2.overlaps x) then some 1
  else match alGet s.drafts x.draft.toNat with
    | none => some 2
    | some d =>
      if x.cfmt = 3 ∨ x.cop = 3 ∨ (!d.comm ∧ (x.cfmt ≠ 0 ∨ x.cop ≠ 0)) then some 3
      else if 2 ≤ x.hpol.toNat ∨ 5 < x.fixhm.toNat then some 4
      else late

/-- Bring a data cache's line home: a writable line's data is written there under its key (R358 step 2, R393). Under a standard draft the
home's memory holds it already. -/
def State.recallLine (s : State) (b : Nat) (x : DCLine) : State :=
  if s.stdDraft (s.draftAt (128 * b)) then s
  else if x.writable ∧ !x.void ∧ s.readable b x.key then s.homeStore x.key (128 * b) (leBytes 128 x.data.toNat) else s

/-- Recall every cached copy of the blocks of a range and fold every partial (R358 step 2, R355 step 1). -/
def State.recallRange (s : State) (inside : Nat → Bool) : State :=
  let inB (b : Nat) : Bool := inside (128 * b)
  let s := s.cores.foldl (fun s e => (e.2.dcache ++ e.2.wbuf).foldl (fun s l => if inB l.1 then s.recallLine l.1 l.2 else s) s) s
  let s := s.heddles.foldl (fun s e => e.2.contributors.foldl (fun s c => if inB c.1 then s.foldAll e.1 c.1 else s) s) s
  let drop {α : Type} (l : AList α) : AList α := l.filter (fun x => !inB x.1)
  { s with cores := s.cores.map (fun e => (e.1, { e.2 with dcache := drop e.2.dcache, wbuf := drop e.2.wbuf,
                                                           partials := drop e.2.partials })),
           dies := s.dies.map (fun d => { d with copies := drop d.copies, homeLines := drop d.homeLines }) }

/-- Handlers run, or replies, write-backs, partials or forwards are under way, for a block of a range: its homes wait for them first. -/
def State.rangeBusy (s : State) (inside : Nat → Bool) : Bool :=
  s.threads.any (fun t => match t.2.heddle with
    | some h => inside h.haddr.toNat
    | none => false) ||
  s.msgs.any (fun m => inside m.2.pa && (m.2.reply || m.2.type.toNat == tWb || m.2.type.toNat == tRed)) || s.heddles.any (fun h => h.2.fwds.any (fun f => inside (128 * f.1)))

/-- Give every block of a range its draft's first access state and clear its directory entry (R358 step 4), in the heddles' caches and in the
directory stores (R348). Frames of the range that were old ones are in use again (R355). -/
def State.resetTags (s : State) (inside : Nat → Bool) : State :=
  let entry (a : Nat) : Bool := decide (a < 2 ^ 40) && (match dirOwner a with
    | some b => inside (128 * b)
    | none => false)
  { s with
    mem := s.mem.filter (fun c => !entry c.1)
    blocks := s.blocks.map (fun e =>
      if inside (128 * e.1) then (e.1, { e.2 with access := s.tagInitAt (128 * e.1), dir := 0, written := false }) else e)
    mgmt := { s.mgmt with vacated := s.mgmt.vacated.filter (fun v => !inside v.1) } }

/-- Firmware takes a frame that a page has left into use again (R355): its blocks have their region's first access state. -/
def State.reuseFrame (s : State) (pa : Nat) : State :=
  match s.mgmt.vacated.find? (inRange pa) with
  | none => s
  | some v => if s.rangeBusy (fun a => inRange a v) then s else s.resetTags (fun a => inRange a v)

/-- The ranges a record touches: the old one of its index and its own. -/
def State.rebound (s : State) (r : RegionRecord) (pa : Nat) : Bool :=
  (match alGet s.regions r.index with
    | some y => y.has pa
    | none => false) || (bit r.w0 63 && r.region.has pa)

/-- Rebind a table entry (R358 steps 2 to 4). -/
def State.rebind (s : State) (r : RegionRecord) : State :=
  let inside := s.rebound r
  let s := s.recallRange inside
  let s := { s with regions := if bit r.w0 63 then alSet s.regions r.index r.region else alErase s.regions r.index }
  let s := s.resetTags inside
  { s with mgmt := { s.mgmt with binding := [] } }

/-- The ranges of a record as its blocks become busy (R358 step 2). -/
def State.boundRanges (s : State) (r : RegionRecord) : List (Nat × Nat) :=
  (match alGet s.regions r.index with
    | some y => [(y.base, y.log2)]
    | none => []) ++ (if bit r.w0 63 then [(r.region.base, r.region.log2)] else [])

/-- A rebinding begins: the blocks of its ranges are busy (R358 step 2). -/
def State.startBinding (s : State) (r : RegionRecord) : State := { s with mgmt := { s.mgmt with binding := s.boundRanges r } }

/-- Append to what the device sends out. -/
def State.sendOut (s : State) (m : OutMsg) : State := { s with mgmt := { s.mgmt with out := s.mgmt.out ++ [m] } }

/-- Perform a region record (R358): a rejected one goes to `REGSTAT` and raises the vector for region errors. -/
def State.bindRegion (s : State) (r : RegionRecord) : State :=
  match s.regionBad r with
  | some c =>
    ({ s with mgmt := { s.mgmt with regstat := BitVec.ofNat 64 (r.index * 2 ^ 32 + c) } }).sendOut (.msix s.mgmt.msixRegion.toNat)
  | none => s.rebind r

end Sys2Proof.Machine
end

