-- ==== Sys2Proof/Machine/Queues.lean ====
section
/-! DEFINITION. Queue control blocks, the slot table and packets as the command front end sees them (R325 to R339). -/

namespace Sys2Proof.Machine

/-- Where a queue control block's word lies in HBM, through die 0's page table, and its key (R325). -/
def State.qcbAt (s : State) (q off : Nat) : Option (Nat × KeyId) :=
  match s.walk 0 (fun _ => true) (BitVec.ofNat 56 (q + off)) with
  | .ok e =>
    let l := e.leaf (BitVec.ofNat 56 (q + off))
    if l.loc = 0 then some (l.pa, l.key) else none
  | .error _ => none

/-- A word of a queue control block; one that cannot be reached reads as zero. -/
def State.qcbRead (s : State) (q off : Nat) : Word :=
  match s.qcbAt q off with
  | some (a, k) => if s.readable (blockNo a) k then BitVec.ofNat 64 (s.mem.num a 8) else 0
  | none => 0

/-- Write a word of a queue control block. -/
def State.qcbWrite (s : State) (q off : Nat) (w : Word) : State :=
  match s.qcbAt q off with
  | some (a, k) => if s.writable k a 8 then s.homeStore k a (leBytes 8 w.toNat) else s
  | none => s

/-- A word with bits hi..lo replaced. -/
def putField (w : Word) (hi lo x : Nat) : Word :=
  let m : Word := BitVec.ofNat 64 ((2 ^ (hi + 1 - lo) - 1) * 2 ^ lo)
  (w &&& ~~~m) ||| (BitVec.ofNat 64 (x * 2 ^ lo) &&& m)

/-- A slot of the slot table. -/
def State.slot (s : State) (i : Nat) : Slot := vget s.slots i Slot.empty

/-- Update a slot of the slot table. -/
def State.updSlot (s : State) (i : Nat) (f : Slot → Slot) : State := { s with slots := vset s.slots i (f (s.slot i)) }

/-- Update the management registers. -/
def State.updMgmt (s : State) (f : Mgmt → Mgmt) : State := { s with mgmt := f s.mgmt }

/-- Unparsed bytes of the ring (R325). -/
def Slot.unparsed (x : Slot) : Nat := (x.wptr - x.rptr).toNat

/-- A queue's write pointer has passed its ring (R326). -/
def Slot.overrun (x : Slot) : Bool := decide (2 ^ x.rsize < x.unparsed)

/-- The queue has nothing to parse and no buffer open. -/
def Slot.idle (x : Slot) : Bool := x.rptr == x.wptr && x.ibd == 0

/-- The µs count as slots and control blocks hold it (Tables 17.2, 17.6). -/
def State.us32 (s : State) : BitVec 32 := BitVec.ofNat 32 s.us

/-- µs since a 32-bit count. -/
def State.usSince (s : State) (t : BitVec 32) : Nat := (s.us32 - t).toNat

/-- A word of a slot-table entry as the status window shows it (Table 17.6). -/
def Slot.word (x : Slot) (off : Nat) : Word :=
  match off with
  | 0 => BitVec.ofNat 64 (x.qcb / 128 % 2 ^ 49 * 128)
  | 8 =>
    let state : Nat := match x.state with
      | .empty => 0
      | .binding => 1
      | .bound => 2
      | .waiting => 3
      | .faulted => 4
      | .saving => 5
    BitVec.ofNat 64 (x.bprio.toNat * 2 ^ 40 + x.cprio.toNat * 2 ^ 36 + state * 2 ^ 32 + x.dom.toNat)
  | 16 => x.rptr ++ x.wptr
  | 24 => BitVec.ofNat 64 (x.ibd % 8 * 2 ^ 32 + (if x.klatch then 1 else 0))
  | 32 => x.boundAt ++ x.readyAt
  | 40 => x.slice.setWidth 64
  | _ => 0

/-- The slot-table status window (R335): the word at a byte offset, 64 bytes an entry. -/
def State.slotStatus (s : State) (off : Nat) : Word := (s.slot (off / 64 % 64)).word (off % 64)

/-- The number that stands for the core of an access to a peer device by the command front end; its unit then names the queue. -/
def frontUnit : Nat := 2 ^ 20

/-- An access to a peer device is one of a queue's. -/
def OutReq.ofQueue (o : OutReq) (q : Nat) : Bool :=
  match o.unit with
  | some (u, x, _, _) => u == frontUnit && x == q
  | none => false

/-- A queue's access of n bytes to a peer page, on its way or answered. -/
def State.asked (s : State) (q : Nat) (ea : Word) (n : Nat) : Option OutReq :=
  (s.outs.find? (fun o => o.2.ofQueue q && o.2.ea == ea && o.2.size == n)).map Prod.snd

/-- Forget a queue's accesses to peer devices, answered or no longer waited for. -/
def State.dropAsked (s : State) (q : Nat) : State := { s with outs := s.outs.filter (fun o => !o.2.ofQueue q) }

/-- Stop a queue with a command fault and raise the vector (R333). -/
def State.commandFault (s : State) (i fcode rcode faddr : Nat) : State :=
  let q := (s.slot i).qcb
  let s := (s.updSlot i (fun x =>
    { x with state := if x.state = .saving then .saving else .faulted, parsing := none, flawed := false, packet := none, rel := none,
             preempting := none })).dropAsked q
  let s := s.qcbWrite q 32 (putField (putField (s.qcbRead q 32) 15 8 fcode) 1 0 2)
  let s := s.qcbWrite q 40 (BitVec.ofNat 64 (rcode * 2 ^ 56 + faddr % 2 ^ 56))
  s.sendOut (.msix s.mgmt.msixCmd.toNat)

/-- Post the fault-ring entry of a failed fetch or packet access (R328, R332): SRC 3, naming the QCB. -/
def State.postQueueFault (s : State) (i : Nat) (b : Bad) (addr : Word) : State :=
  let x := s.slot i
  let p : Poster := { die := 0, col := 62, row := i / 4, tkind := 3, dom := x.dom, bobbin := 0, seqkey := 0 }
  ((s.countWalk 0 b).post 0 (mkEntry p 3 b.cause 0 addr (BitVec.ofNat 64 x.qcb) 0 s.tick)).noteIntegrity 0 b.cause addr none

/-- What a load of the command front end comes to: data, a failure, a word to ask a peer device for, or one that is on its way. -/
inductive Front where
  | data (w : Nat)
  | bad (b : Bad)
  | ask
  | wait

/-- What the parse core finds at a slot's parse point: no whole packet, a failed fetch, a packet whose bytes are still to come, with
the address to ask a peer device for, or a packet. -/
inductive Parsed where
  | none
  | failed (b : Bad) (addr : Word)
  | pending (ask : Option Word)
  | packet (p : Pkt)

/-- TYPE of a packet. -/
def Pkt.type (p : Pkt) : Nat := field p.hdr 31 24

/-- COUNT of a packet. -/
def Pkt.count (p : Pkt) : Nat := field p.hdr 23 16

/-- SPEC of a packet. -/
def Pkt.spec (p : Pkt) : BitVec 16 := p.hdr.extractLsb' 0 16

/-- Bytes of a packet (R327). -/
def Pkt.len (p : Pkt) : Nat := 4 * (1 + p.count)

/-- Word k of a packet, the header being word 0. -/
def Pkt.w (p : Pkt) (k : Nat) : BitVec 32 := if k = 0 then p.hdr else p.words.getD (k - 1) 0

/-- The 64-bit value in words k and k + 1, low word first (R327). -/
def Pkt.w64 (p : Pkt) (k : Nat) : Word := p.w (k + 1) ++ p.w k

/-- The address of byte `off` from a slot's parse point: in its top buffer, or in the ring, which wraps (R327, R331). -/
def Slot.parseAddr (x : Slot) (off : Nat) : Nat :=
  match x.stack with
  | (next, _) :: _ => next.toNat + off
  | [] => x.ring.toNat + (x.rptr.toNat + off) % 2 ^ x.rsize

/-- A load of n bytes for a queue's domain through die 0's table (R328): its own earlier stores to the block come first (R329), and a
peer device is asked for the data of its page (R194). -/
def State.frontLoad (s : State) (x : Slot) (ea : Word) (n : Nat) : Front :=
  match s.sysLeaf 0 x.dom ea n false with
  | .error b => .bad b
  | .ok l =>
    if s.homeWaits l then .wait
    else if l.loc = 2 then
      match s.asked x.qcb ea n with
      | none => .ask
      | some o => match o.answer with
        | some (.ok w) => .data (w.toNat % 2 ^ (8 * n))
        | some (.refused c) => .bad { cause := c, extra := 0 }
        | _ => .wait
    else if l.loc = 0 && s.deviceWrites (· == blockNo l.pa) then .wait
    else .data (ofLE (s.sysBytes l n))

/-- Data that a run of loads has found, or why it stops. -/
inductive Gathered where
  | words (l : List Nat)
  | failed (b : Bad) (addr : Word)
  | pending (ask : Option Word)

/-- Load words k up of n bytes each at addresses of a function, in order, save those already held (R328, R332). -/
def State.frontRead (s : State) (x : Slot) (n : Nat) (held : Word → Option Nat) (addr : Nat → Word) : Nat → Nat → Gathered
  | _, 0 => .words []
  | k, m + 1 =>
    match (match held (addr k) with
      | some w => Front.data w
      | none => s.frontLoad x (addr k) n) with
    | .bad b => .failed b (addr k)
    | .ask => .pending (some (addr k))
    | .wait => .pending none
    | .data w =>
      match s.frontRead x n held addr (k + 1) m with
      | .words l => .words (w :: l)
      | r => r

/-- The address of word k from a slot's parse point. -/
def Slot.wordAddr (x : Slot) (k : Nat) : Word := BitVec.ofNat 64 (x.parseAddr (4 * k) % 2 ^ 56)

/-- A word of the slot's prefetch window. -/
def Slot.ahead (x : Slot) (ea : Word) : Option Nat := (alGet x.window ea.toNat).map BitVec.toNat

/-- Fetch n words from a slot's parse point, from word k on (R332). -/
def State.fetchWords (s : State) (x : Slot) (k n : Nat) : Gathered := s.frontRead x 4 x.ahead x.wordAddr k n

/-- Bytes that may be parsed from a slot's parse point (R325, R331). -/
def Slot.room (x : Slot) : Nat :=
  match x.stack with
  | (next, stop) :: _ => stop.toNat - next.toNat
  | [] => x.unparsed

/-- The packet at a slot's parse point (R325, R331), or the one that holds the queue. -/
def State.parse (s : State) (x : Slot) : Parsed :=
  match x.packet with
  | some p => .packet p
  | none =>
    if x.room < 4 then .none
    else match s.fetchWords x 0 1 with
      | .failed b a => .failed b a
      | .pending a => .pending a
      | .words l =>
        let p : Pkt := { hdr := BitVec.ofNat 32 (l.headD 0), words := [],
                         at_ := if x.stack.isEmpty then x.rptr.toNat % 2 ^ x.rsize else x.parseAddr 0, past := false }
        if x.room < p.len then (if x.stack.isEmpty then .none else .packet { p with past := true })
        else match s.fetchWords x 1 p.count with
          | .failed b a => .failed b a
          | .pending a => .pending a
          | .words ws => .packet { p with words := ws.map (BitVec.ofNat 32) }

/-- The fetcher reads ahead of a slot's parse point (R332, Table 17.1): words it holds stay, and of the next 1,024 it reads as many as
it has come to; one that cannot be read is not remembered. -/
def State.readAhead (s : State) (i : Nat) : State :=
  let x := s.slot i
  let n := Config.readAhead s.freeCtr
  let span := match x.stack with
    | (next, stop) :: _ => min 1024 ((stop.toNat - next.toNat) / 4)
    | [] => 1024
  let win := (List.range span).foldl (fun w k =>
    let a := (x.wordAddr k).toNat
    match alGet x.window a with
    | some v => alSet w a v
    | none => if k < n then
        (match s.frontLoad x (x.wordAddr k) 4 with
         | .data v => alSet w a (BitVec.ofNat 32 v)
         | _ => w)
      else w) ([] : AList (BitVec 32))
  ({ s with freeCtr := s.freeCtr + 1 }).updSlot i (fun x => { x with window := win })

/-- COUNT is one its type allows (Table 17.3). -/
def Pkt.countOk (p : Pkt) : Bool :=
  match p.type with
  | 0 => true
  | 1 => p.count == 18
  | 2 => p.count == (if bit p.spec 4 then 17 else 19)
  | 3 => p.count == 3
  | 4 => p.count == 0
  | 5 => p.count == 4
  | 6 => p.count == 4
  | 7 => decide (3 ≤ p.count)
  | 8 => p.count == 0
  | 9 => p.count == 3
  | 10 => p.count == 6
  | _ => p.count == 1

/-- The bits of SPEC a type uses (Table 17.3). -/
def specMask (type : Nat) : BitVec 16 :=
  match type with
  | 0 => 0xFFFF
  | 1 => 0x0003
  | 2 => 0x0013
  | 5 => 0x0003
  | 6 => 0xFF03
  | 8 => 0x01F1
  | _ => 0

/-- SPEC holds a code its type allows (Table 17.3). -/
def Pkt.specOk (p : Pkt) : Bool :=
  let x := p.spec
  let scope := field x 6 4
  (x &&& ~~~specMask p.type) == 0 && !((p.type == 5 || p.type == 6) && field x 1 0 == 3) &&
    !(p.type == 8 && (bit x 7 || bit x 8) && (scope == 0 || decide (6 ≤ scope)))

/-- A CALL_IB's LEN is at least 4 and a multiple of 4 (Table 17.3). -/
def Pkt.callLenOk (p : Pkt) : Bool := p.type != 3 || p.past || (decide (4 ≤ (p.w 3).toNat) && (p.w 3).toNat % 4 == 0)

/-- An address of the packet is misaligned (Table 17.3; R250 for a kernel descriptor, R227 for a completion word). -/
def Pkt.misaligned (p : Pkt) : Bool :=
  let a (k n : Nat) : Bool := (p.w64 k).toNat % n != 0
  match p.type with
  | 1 => a 1 64 || a 5 8
  | 2 => a 4 8 || (if bit p.spec 4 then a 1 64 else a 18 64)
  | 3 => a 1 4
  | 5 => a 1 8
  | 6 => a 1 8
  | 7 => a 1 4
  | 9 => a 2 8
  | _ => false

/-- The lowest of FCODE 0x01 to 0x05 that a packet meets (Table 17.4). -/
def Pkt.bad (p : Pkt) (x : Slot) : Option Nat :=
  if 12 ≤ p.type then some 1
  else if !p.countOk || !p.specOk || !p.callLenOk then some 2
  else if 9 ≤ p.type ∧ !x.priv then some 3
  else if p.past ∨ (p.type = 3 ∧ 4 ≤ x.ibd) ∨ (p.type = 4 ∧ x.ibd = 0) then some 4
  else if p.misaligned then some 5
  else none

/-- What becomes of a packet that is well formed. `ask` sends an access to a peer page and holds the queue for the answer; `later`
leaves the packet with its parse core. -/
inductive PktRes where
  | commit (s : State)
  | call (s : State) (next stop : VAddr)
  | leave (s : State)
  | hold (s : State)
  | ask (s : State) (kind : AccKind) (ea : Word) (n : Nat) (data : Word)
  | refused (rcode : Nat)
  | access (b : Bad) (addr : Word)
  | later

/-- Pop the buffers that have been parsed to their end (R331). -/
def popEnded : List (VAddr × VAddr) → List (VAddr × VAddr)
  | [] => []
  | x :: l => if x.1 = x.2 then popEnded l else x :: l

/-- Move a slot's parse point past a packet. -/
def Slot.pass (x : Slot) (n : Nat) : Slot :=
  match x.stack with
  | (next, stop) :: l => { x with stack := (next + BitVec.ofNat 56 n, stop) :: l }
  | [] => { x with rptr := x.rptr + BitVec.ofNat 32 n }

/-- A slot after its packet is committed: its buffers' ends popped, its priority and READYAT set anew (R331, R338). An entry that is
being saved stays so (R336). -/
def Slot.served (x : Slot) (stack : List (VAddr × VAddr)) (tick : Nat) (us : BitVec 32) : Slot :=
  let st := popEnded stack
  { x with stack := st, ibd := st.length, state := if x.state = .saving then .saving else .bound, parsing := none, packet := none,
           rel := none, preempting := none, readyAt := us, idleAt := tick }

/-- Ask a peer device for an access of a queue (R194, R328). -/
def State.askPeer (s : State) (x : Slot) (kind : AccKind) (ea : Word) (n : Nat) (data : Word) : State :=
  match s.sysLeaf 0 x.dom ea n (kind != .load), s.asked x.qcb ea n with
  | .ok l, none =>
    let r : OutReq :=
      { peerPost 0 x.dom l.pa ea l.key [] with acckind := kind, size := n, data := data, unit := some (frontUnit, x.qcb, 0, 0) }
    { s with outs := alSet s.outs s.nextId r, nextId := s.nextId + 1 }
  | _, _ => s

/-- A slot that a packet holds (R329): STATE WAITING, unless it is being saved. -/
def Slot.held (x : Slot) (p : Pkt) : Slot :=
  { x with state := if x.state = .saving then .saving else .waiting, parsing := none, packet := some p }

/-- Commit a packet at a slot, or say what else becomes of it. -/
def State.settle (s : State) (i : Nat) (p : Pkt) : PktRes → State
  | .commit t =>
    let x := (t.slot i).pass p.len
    (t.updSlot i (fun _ => x.served x.stack t.tick t.us32)).dropAsked x.qcb
  | .call t next stop =>
    let x := (t.slot i).pass p.len
    (t.updSlot i (fun _ => x.served ((next, stop) :: x.stack) t.tick t.us32)).dropAsked x.qcb
  | .leave t =>
    let x := t.slot i
    (t.updSlot i (fun _ => x.served (x.stack.drop 1) t.tick t.us32)).dropAsked x.qcb
  | .hold t => t.updSlot i (fun x => x.held p)
  | .ask t kind ea n data => (t.askPeer (t.slot i) kind ea n data).updSlot i (fun x => x.held p)
  | .refused r => s.commandFault i 6 r p.at_
  | .access b addr => (s.commandFault i 0x81 0 p.at_).postQueueFault i b addr
  | .later => s

/-- A slot's packet may be performed: its parse core has it, or it holds the queue (R324, R329); one that a save waits for too. -/
def Slot.open (x : Slot) : Bool :=
  (x.state == .bound && x.parsing.isSome) || x.state == .waiting || (x.state == .saving && x.packet.isSome)

/-- A parse core is reset and parses its packet again from its first word (R324, R402). -/
def State.resetParse (s : State) (i : Nat) : State := s.updSlot i (fun x => { x with parsing := some s.tick, flawed := false })

/-- Perform the packet of a type at a slot: the dispatch hardware decodes it again and accepts what agrees (R402); then its checks
(Table 17.4), then its effect. -/
def packetEvent (type : Nat) (slot : BitVec 6) (body : Slot → Pkt → State → PktRes) (s : State) :
    Host.Outcome State Fault Refusal :=
  let i := slot.toNat
  let x := s.slot i
  if !x.open then .next s
  else match s.parse x with
    | .packet p =>
      if p.type ≠ type then .next s
      else if x.flawed then .next (s.resetParse i)
      else match p.bad x with
        | some c => .next (s.commandFault i c 0 p.at_)
        | none => .next (s.settle i p (body x p s))
    | .pending (some ea) => .next (s.askPeer x .load ea 4 0)
    | _ => .next s

/-- Every launch of a queue has completed (R328). -/
def State.launchesDone (s : State) (q : Nat) : Bool := !s.gangs.any (fun g => g.2.qcb == some q)

/-- Queue priority as it has aged for some µs (R338, R339). -/
def agedPrio (base us age : Nat) : Nat := min 7 (base + us / max age 1)

/-- A queue waits for a slot: PEND is 1 and no slot holds it (R339). -/
def State.queueWaits (s : State) (q : Nat) : Bool :=
  bit (s.qcbRead q 32) 2 && !s.slots.toList.any (fun x => x.state != .empty && x.qcb == q)

/-- CPRIO and WAITSINCE of a waiting queue (R339). -/
def State.queueRank (s : State) (q : Nat) : Nat × Nat :=
  let since := field (s.qcbRead q 32) 63 32
  (agedPrio (field (s.qcbRead q 8) 10 8) (s.usSince (BitVec.ofNat 32 since)) s.mgmt.age.toNat, since)

/-- The best waiting queue: highest CPRIO, then earliest WAITSINCE (R339). -/
def State.bestQueue (s : State) : Option Nat :=
  ((s.mgmt.waitq ++ s.mgmt.pendring ++ (if s.mgmt.pendovf then s.mgmt.known else [])).filter s.queueWaits).foldl (fun a q =>
    match a with
    | none => some q
    | some x =>
      let p := s.queueRank x
      let r := s.queueRank q
      if p.1 < r.1 ∨ (p.1 = r.1 ∧ r.2 < p.2) then some q else some x) none

/-- The stack of buffers a control block holds, top first (R336 step 2). -/
def State.qcbStack (s : State) (q ibd : Nat) : List (VAddr × VAddr) :=
  ((List.range (min ibd 4)).map (fun k =>
    ((s.qcbRead q (64 + 16 * k)).extractLsb' 0 56, (s.qcbRead q (72 + 16 * k)).extractLsb' 0 56))).reverse

/-- Begin to bind a queue to an empty slot (R336 OP 1, steps 1 and 2). -/
def State.bind (s : State) (i q : Nat) (slice : BitVec 32) : State :=
  let w1 := s.qcbRead q 8
  let ibd := field (s.qcbRead q 32) 6 4
  let prio := w1.extractLsb' 8 3
  let stack := s.qcbStack q ibd
  let x : Slot :=
    { Slot.empty with
      qcb := q, bprio := prio, cprio := prio, state := .binding, dom := w1.extractLsb' 32 20, priv := bit w1 7,
      ring := (s.qcbRead q 0).extractLsb' 0 56, rsize := field w1 4 0, rptr := (s.qcbRead q 24).extractLsb' 0 32,
      wptr := (s.qcbRead q 16).extractLsb' 0 32, ibd := stack.length, stack := stack, slice := slice }
  (s.updSlot i (fun _ => x)).updMgmt (fun m =>
    { m with waitq := m.waitq.filter (· != q), pendring := m.pendring.filter (· != q),
             known := if m.known.contains q then m.known else m.known ++ [q] })

/-- Read a slot's WPTR from its control block. -/
def State.readWptr (s : State) (i : Nat) : State :=
  s.updSlot i (fun x => { x with wptr := (s.qcbRead x.qcb 16).extractLsb' 0 32 })

/-- An overrun stops the queue at RPTR (R326, Table 17.4). -/
def State.checkOverrun (s : State) (i : Nat) : State :=
  let x := s.slot i
  if x.overrun then s.commandFault i 7 0 (x.rptr.toNat % 2 ^ x.rsize) else s

/-- Finish a bind (R336 OP 1, steps 3 and 4): a kick that came meanwhile has WPTR read again, and the entry becomes BOUND. -/
def State.finishBind (s : State) (i : Nat) : State :=
  let s := if (s.slot i).klatch then (s.readWptr i).updSlot i (fun x => { x with klatch := false }) else s
  let x := s.slot i
  let w := putField (putField (putField (putField (s.qcbRead x.qcb 32) 26 24 x.cprio.toNat) 21 16 i) 2 2 0) 1 0 1
  let s := (s.qcbWrite x.qcb 32 w).updSlot i (fun x => { x with state := .bound, boundAt := s.us32, readyAt := s.us32, idleAt := s.tick })
  s.checkOverrun i

/-- Write a slot's buffer stack to its control block. -/
def State.saveStack (s : State) (q : Nat) (stack : List (VAddr × VAddr)) : State :=
  (stack.reverse.zipIdx).foldl (fun s e =>
    (s.qcbWrite q (64 + 16 * e.2) (e.1.1.setWidth 64)).qcbWrite q (72 + 16 * e.2) (e.1.2.setWidth 64)) s

/-- A queue's atomic access to a peer device is on its way: its packet is as good as committed. -/
def State.atomicAsked (s : State) (q : Nat) : Bool := s.outs.any (fun o => o.2.ofQueue q && o.2.acckind != .load)

/-- Begin to save a slot (R336 OP 2, step 1): the parse core stops, and a packet that holds the queue is abandoned, unless its update
has already been sent. -/
def State.unbind (s : State) (i : Nat) : State :=
  let x := s.slot i
  let sent := s.atomicAsked x.qcb
  let s := if sent then s else s.dropAsked x.qcb
  s.updSlot i (fun x => { x with state := .saving, parsing := none, flawed := false, preempting := none,
                                 packet := if sent then x.packet else none })

/-- Finish a save (R336 OP 2, steps 2 to 4): firmware keeps a queue with work left as waiting (R339). -/
def State.finishSave (s : State) (i : Nat) : State :=
  let x := s.slot i
  let q := x.qcb
  let s := s.qcbWrite q 24 (x.rptr.setWidth 64)
  let s := s.saveStack q x.stack
  let wptr : BitVec 32 := (s.qcbRead q 16).extractLsb' 0 32
  let pend : Bool := x.rptr != wptr || x.ibd != 0
  let w := putField (putField (s.qcbRead q 32) 26 24 x.cprio.toNat) 6 4 x.ibd
  let w := if field w 1 0 = 2 then w else putField w 1 0 0
  let w := if pend then putField (putField w 2 2 1) 63 32 s.us else w
  let s := s.qcbWrite q 32 w
  let s := if pend then s.updMgmt (fun m => { m with waitq := m.waitq ++ [q] }) else s
  s.updSlot i (fun _ => Slot.empty)

/-- A slot's bind or save can be finished now. -/
def Slot.due (x : Slot) : Bool := x.state == .binding || (x.state == .saving && x.packet.isNone)

/-- The slot firmware gives up for a waiting queue of some CPRIO (R339): the lowest below it, else the equal one longest bound past
its SLICE. -/
def State.slotToFree (s : State) (p : Nat) : Option Nat :=
  let bound := (List.range 64).filter (fun i =>
    (s.slot i).state == .bound || (s.slot i).state == .waiting)
  let low := bound.foldl (fun a i => match a with
    | none => some i
    | some j => if (s.slot i).cprio.toNat < (s.slot j).cprio.toNat then some i else some j) none
  match low with
  | none => none
  | some j =>
    if (s.slot j).cprio.toNat < p then some j
    else
      let due := bound.filter (fun i =>
        let x := s.slot i
        x.cprio.toNat == p && x.slice != 0 && decide (x.slice.toNat ≤ s.usSince x.boundAt))
      due.foldl (fun a i => match a with
        | none => some i
        | some j => if s.usSince (s.slot j).boundAt < s.usSince (s.slot i).boundAt then some i else some j) none

/-- Give a waiting queue a slot with the SLICE of its domain (log entry 18). -/
def State.bindWaiting (s : State) (i q : Nat) : State :=
  s.bind i q (s.effSlice ((s.qcbRead q 8).extractLsb' 32 20))

/-- A bind or save is under way: bind records are applied one at a time (R334). -/
def State.slotsBusy (s : State) : Bool := s.slots.toList.any (fun x => x.state == .binding || x.state == .saving)

/-- The shipped firmware re-evaluates the queues that wait (R339): the best takes a free slot, or a slot is freed for it. -/
def State.evaluate (s : State) : State :=
  if s.slotsBusy then s
  else
    let s := s.updMgmt (fun m => { m with treadleIrq := false })
    match s.bestQueue with
    | none => s
    | some q =>
      match (List.range 64).find? (fun i => (s.slot i).state == .empty) with
      | some i => s.bindWaiting i q
      | none => match s.slotToFree (s.queueRank q).1 with
        | some i => s.unbind i
        | none => s

/-- A kick of a queue that no slot holds (R326): PEND is set, and the pending ring takes the queue, with the interrupt of the treadle
pair, or overflows. -/
def State.pendQueue (s : State) (q : Nat) : State :=
  let w := s.qcbRead q 32
  if bit w 2 then s
  else
    let s := s.qcbWrite q 32 (putField (putField w 2 2 1) 63 32 s.us)
    let s := s.updMgmt (fun m => { m with known := if m.known.contains q then m.known else m.known ++ [q] })
    if 4096 ≤ s.mgmt.pendring.length then s.updMgmt (fun m => { m with pendovf := true })
    else
      let a := field s.mgmt.pendbase 51 3 * 8 + 8 * (s.mgmt.pendtail % 4096)
      (s.deviceWrite (s.keyOf 0) a (leBytes 8 q)).updMgmt (fun m =>
        { m with pendring := m.pendring ++ [q], pendtail := m.pendtail + 1, treadleIrq := true })

end Sys2Proof.Machine
end

