-- ==== Sys2Proof/Machine/QueueEvents.lean ====
section
/-! DEFINITION. Kicks (R326), packets (R327 to R333), parsing and arbitration (R324, R338), bind records (R334 to R336) and the shipped
firmware's care of queues (R339). -/

namespace Sys2Proof.Machine

/-- The events that the dies' homes have counted. -/
def State.allSeen (s : State) : Clock :=
  (Clock.join (s.die 0).vc (s.die 1).vc).join ((s.die 2).vc.join (s.die 3).vc)

/-- Stores that the front end has to wait for at a release: those on their way to a home, and at `.sys` those posted to peer devices
(R287, R329). -/
def State.frontBusy (s : State) (scope : Nat) : Bool :=
  s.deviceWrites (fun _ => true) ||
    (scope == 5 && s.outs.any (fun o => o.2.tid == goneTid && o.2.kind == .peer && o.2.acckind == .store))

/-- What the front end does from here on comes after every event counted so far (R282, R329, R330). -/
def State.frontSync (s : State) : State := { s with mgmt := { s.mgmt with fclk := s.mgmt.fclk.join s.allSeen } }

/-- An acquire by a queue: what its fetcher has read ahead is read again (R330). -/
def State.frontAcquire (s : State) (i : Nat) : State := s.frontSync.updSlot i (fun x => { x with window := [] })

/-- A slot is ready (R338): bound, with an unparsed packet that its parse core has not taken. -/
def State.slotReady (s : State) (x : Slot) : Bool :=
  x.state == .bound && x.parsing.isNone && (match s.parse x with
    | .none => false
    | _ => true)

/-- `KICK` (R326, R330, R337): a write of a queue control block's address to the kick register. -/
def execKick (qcb : BitVec 64) (s : State) : Host.Outcome State Fault Refusal :=
  if field qcb 6 0 ≠ 0 then .next (s.updMgmt (fun m => { m with badkick := satInc m.badkick }))
  else
    let q := field qcb 55 0
    match (List.range 64).find? (fun i => (s.slot i).qcb == q && (s.slot i).state != .empty && (s.slot i).state != .saving) with
    | none => .next (s.frontSync.pendQueue q)
    | some i =>
      let s := s.frontAcquire i
      if (s.slot i).state = .binding then .next (s.updSlot i (fun x => { x with klatch := true }))
      else
        let t := s.readWptr i
        let t := if s.slotReady (s.slot i) ∨ !t.slotReady (t.slot i) then t else t.updSlot i (fun x => { x with readyAt := s.us32 })
        .next (t.checkOverrun i)

/-- `NOP` (R327): skipped. -/
def execNopPacket (slot : BitVec 6) (s : State) : Host.Outcome State Fault Refusal :=
  packetEvent 0 slot (fun _ _ s => .commit s) s

/-- The six 64-bit values of a launch packet from word k on. -/
def Pkt.args (p : Pkt) (k : Nat) : Vector Word 6 := (Vector.range 6).map (fun i => p.w64 (k + 2 * i))

/-- The check of a nonzero CWORD, as a store of 8 bytes (R328). -/
def State.cwordBad (s : State) (d : DomId) (cword : Word) : Option Bad :=
  if cword = 0 then none
  else match s.sysLeaf 0 d cword 8 true with
    | .error b => some b
    | .ok _ => none

/-- The kernel descriptor that a launch packet names. -/
inductive KdRes where
  | desc (k : KDesc)
  | bad (b : Bad) (addr : Word)
  | pending (ask : Option Word)

/-- Read a packet's kernel descriptor, eight words (R328). -/
def State.frontKdesc (s : State) (x : Slot) (a : Word) : KdRes :=
  match s.frontRead x 8 (fun _ => none) (fun k => leaAdd a (8 * k)) 0 8 with
  | .words l => .desc (kdescOf (a.extractLsb' 0 56) (fun k => BitVec.ofNat 64 (l.getD k 0)))
  | .failed b addr => .bad b addr
  | .pending ask => .pending ask

/-- Commit an accepted launch whose completion word may be written (R328). -/
def launchDone (s t : State) (x : Slot) (cword : Word) : PktRes :=
  match s.cwordBad x.dom cword with
  | some b => .access b cword
  | none => .commit t

/-- A domain field of a packet: 0 names the queue's own. -/
def packetDom (x : Slot) (w : BitVec 32) : DomId := if field w 19 0 = 0 then x.dom else w.extractLsb' 0 20

/-- A descriptor of no kernel. -/
def KDesc.none : KDesc := kdescOf 0 (fun _ => 0)

/-- `LAUNCH_GANG` (R328, R258): launches on a die; what is refused is a command fault. -/
def execLaunchGangPacket (slot : BitVec 6) (s : State) : Host.Outcome State Fault Refusal :=
  packetEvent 1 slot (fun x p s =>
    let g := p.w 3
    let cword := p.w64 5
    let q : LaunchReq :=
      { die := field p.spec 1 0, ldom := x.dom, dom := packetDom x (p.w 4), col := field g 5 0, row := field g 12 8,
        width := field g 21 16, height := field g 28 24, args := p.args 7, cword := cword, token := none, qcb := some x.qcb,
        stamp := s.mgmt.fclk.join s.allSeen }
    if !s.mayLaunch q then .refused 1
    else if rectReserved (g.setWidth 64) || !q.onDie || !s.inBudget q then .refused 2
    else match s.frontKdesc x (p.w64 1) with
      | .bad b addr => if (s.takeMembers q.dom q.die KDesc.none 0 (q.gang KDesc.none []).cores).isNone then .refused 4 else .access b addr
      | .pending (some ea) => .ask s .load ea 8 0
      | .pending none => .later
      | .desc k =>
        if !k.ok || (k.image.floor && decide (64 < q.width * q.height)) then .refused 3
        else match s.acceptGang q k with
          | none => .refused 4
          | some t => if s.frontBusy 4 then .later else launchDone s t x cword) s

/-- A bobbin launch of one thread, as a launch of one shuttle asks for it. -/
def Pkt.bobbinReq (p : Pkt) (x : Slot) (stamp : Clock) : LaunchReq :=
  { die := field p.spec 1 0, ldom := x.dom, dom := packetDom x (p.w 3), col := 0, row := 0, width := 1, height := 1,
    args := p.args 6, cword := p.w64 4, token := none, qcb := some x.qcb, stamp := stamp }

/-- The die and, for a full thread, the number of shuttles are within the budget (R247). -/
def State.bobbinBudget (s : State) (q : LaunchReq) (full : Bool) : Bool :=
  (s.effDiemask q.dom).getLsbD q.die &&
    (!full || (s.lineage q.dom).all (fun a => decide (s.shutsOf a.1 + 1 ≤ (s.effMaxshut a.1).toNat)))

/-- Take a bobbin for a packet's thread and make it runnable (R328, R342). -/
def State.bobbinLaunch (s : State) (q : LaunchReq) (k : KDesc) (entry : VAddr) (full : Bool) : Option State :=
  match s.takeBobbin q.dom q.die full k.image with
  | none => none
  | some (tid, s) =>
    let (gid, s) := s.fresh
    let t : Thread :=
      if full then Thread.init .full (1152 * q.die) 0 q.dom k.image k.entry
      else
        let t := pickInit (1152 * q.die) 0 q.dom k.image entry .none
        { t with exe := t.exe.setRegs 8 q.args.toList }
    let s := s.setThread tid { t with status := .runnable, gang := some gid, clock := q.stamp }
    let s := { s with gangs := alSet s.gangs gid { q.gang k [tid] with single := true } }
    some (s.enqueue tid q.dom q.die)

/-- `LAUNCH_BOBBIN` (R328): makes a new pick or full-thread bobbin runnable. -/
def execLaunchBobbinPacket (slot : BitVec 6) (s : State) : Host.Outcome State Fault Refusal :=
  packetEvent 2 slot (fun x p s =>
    let full := bit p.spec 4
    let q := p.bobbinReq x (s.mgmt.fclk.join s.allSeen)
    if !s.mayLaunch q then .refused 1
    else if !s.bobbinBudget q full then .refused 2
    else match s.frontKdesc x (if full then p.w64 1 else p.w64 18) with
      | .bad b addr => if (s.takeBobbin q.dom q.die full Image.empty).isNone then .refused 4 else .access b addr
      | .pending (some ea) => .ask s .load ea 8 0
      | .pending none => .later
      | .desc k =>
        if !k.ok then .refused 3
        else match s.bobbinLaunch q k ((p.w64 1).extractLsb' 0 56) full with
          | none => .refused 4
          | some t => if s.frontBusy 4 then .later else launchDone s t x q.cword) s

/-- `CALL_IB` (R331): pushes a buffer level. -/
def execCallIbPacket (slot : BitVec 6) (s : State) : Host.Outcome State Fault Refusal :=
  packetEvent 3 slot (fun _ p s =>
    let a : VAddr := (p.w64 1).extractLsb' 0 56
    .call s a (a + (p.w 3).setWidth 56)) s

/-- `RETURN` (R331): pops the buffer level. -/
def execReturnPacket (slot : BitVec 6) (s : State) : Host.Outcome State Fault Refusal :=
  packetEvent 4 slot (fun _ _ s => .leave s) s

/-- COND of a WAIT_SEQ (Table 17.3). -/
def waitMet (cond : Nat) (w v : Word) : Bool :=
  match cond with
  | 0 => decide (v.toNat ≤ w.toNat)
  | 1 => w == v
  | _ => w != v

/-- Test a WAIT_SEQ's word (R328): a load of the queue's domain, and an acquire at `.sys` once it is met. -/
def waitSeqBody (i : Nat) (x : Slot) (p : Pkt) (s : State) : PktRes :=
  let ea := p.w64 1
  match s.frontLoad x ea 8 with
  | .bad b => .access b ea
  | .ask => .ask s .load ea 8 0
  | .wait => .hold s
  | .data w =>
    if waitMet (field p.spec 1 0) (BitVec.ofNat 64 w) (p.w64 3) then .commit ((s.hostSaw 0 x.dom ea).frontAcquire i)
    else .hold (s.dropAsked x.qcb)

/-- `WAIT_SEQ` (R328): holds the queue until a word meets a condition. -/
def execWaitSeqPacket (slot : BitVec 6) (s : State) : Host.Outcome State Fault Refusal := packetEvent 5 slot (waitSeqBody slot.toNat) s

/-- `WAIT_SEQ_RECHECK` (R328): the word of a WAIT_SEQ that holds its queue is read again. -/
def execWaitSeqRecheck (slot : BitVec 6) (s : State) : Host.Outcome State Fault Refusal :=
  if (s.slot slot.toNat).state = .waiting then packetEvent 5 slot (waitSeqBody slot.toNat) s else .next s

/-- A SIGNAL's value applied to the word it finds (Table 17.3). -/
def signalNew (op : Nat) (old v : Word) : Word := if op = 1 then old + v else v

/-- A SIGNAL that has its word updated: with OP 2 it raises its vector. -/
def signalDone (p : Pkt) (s : State) : PktRes :=
  .commit (if field p.spec 1 0 = 2 then s.sendOut (.msix (field p.spec 15 8)) else s)

/-- Update a SIGNAL's word (R328), which meets the checks of an atomic: at its home in one step once that has seen what the release
covers; in host memory an addition is an AtomicOp (R202); at a peer device by an access that holds the queue for its answer. -/
def signalWord (c : Clock) (x : Slot) (p : Pkt) (s : State) : PktRes :=
  let ea := p.w64 1
  let op := field p.spec 1 0
  match s.sysLeaf 0 x.dom ea 8 true with
  | .error b => .access b ea
  | .ok l =>
    if s.homeWaits l then .hold s
    else
    let new := leBytes 8 (signalNew op (BitVec.ofNat 64 (ofLE (s.sysBytes l 8))) (p.w64 3)).toNat
    if l.loc = 0 then
      if !c.leBut (s.die (paDie l.pa)).vc [] then .hold s
      else if !s.readable (blockNo l.pa) l.key then .access { cause := 0x15, extra := 0 } ea
      else signalDone p (s.deviceStore l.key l.pa new)
    else if l.loc = 1 then
      if op = 1 ∧ !s.mgmt.atomicReq then .access { cause := 0x17, extra := 3 } ea
      else signalDone p (s.plainWrite (hostLoc l.pa) new)
    else match s.asked x.qcb ea 8 with
      | none => .ask s (.atomic (if op = 1 then .add else .swap)) ea 8 (p.w64 3)
      | some o => match o.answer with
        | some (.ok _) => signalDone p s
        | some (.refused cause) => .access { cause := cause, extra := 0 } ea
        | _ => .hold s

/-- `SIGNAL` (R328): after every earlier launch and a release at `.sys`, updates a word in one step and may raise a vector. -/
def execSignalPacket (slot : BitVec 6) (s : State) : Host.Outcome State Fault Refusal :=
  packetEvent 6 slot (fun x p s =>
    match x.rel with
    | some c => signalWord c x p s
    | none =>
      if !s.launchesDone x.qcb || s.frontBusy 5 then .hold s
      else
        let c := s.mgmt.fclk.join s.allSeen
        signalWord c x p ({ s with mgmt := { s.mgmt with fclk := c } }.updSlot slot.toNat (fun x => { x with rel := some c }))) s

/-- The first word of a WRITE that may not be stored (R328). -/
def State.writeBad (s : State) (d : DomId) (ea : Word) : List (BitVec 32) → Option (Bad × Word)
  | [] => none
  | _ :: l =>
    match s.sysLeaf 0 d ea 4 true with
    | .error b => some (b, ea)
    | .ok _ => s.writeBad d (leaAdd ea 4) l

/-- A store of n bytes by the front end must wait at its home (R328, Table 7.2 row 9). -/
def State.storeWaits (s : State) (d : DomId) (ea : Word) (n : Nat) : Bool :=
  match s.sysLeaf 0 d ea n true with
  | .ok l => s.homeWaits l
  | .error _ => false

/-- A word of a WRITE must wait at its home. -/
def State.writeWaits (s : State) (d : DomId) (ea : Word) (n : Nat) : Bool :=
  (List.range n).any (fun k => s.storeWaits d (leaAdd ea (4 * k)) 4)

/-- Store the words of a WRITE. -/
def State.writeWords (s : State) (d : DomId) (ea : Word) : List (BitVec 32) → State
  | [] => s
  | w :: l =>
    match s.sysStore 0 s.mgmt.fclk d ea (leBytes 4 w.toNat) with
    | .error _ => s
    | .ok t => t.writeWords d (leaAdd ea 4) l

/-- `WRITE` (R328): stores its words, each checked before any is written. -/
def execWritePacket (slot : BitVec 6) (s : State) : Host.Outcome State Fault Refusal :=
  packetEvent 7 slot (fun x p s =>
    let ws := p.words.drop 2
    match s.writeBad x.dom (p.w64 1) ws with
    | some (b, addr) => .access b addr
    | none =>
      if s.writeWaits x.dom (p.w64 1) ws.length then .later
      else .commit ((s.writeWords x.dom (p.w64 1) ws).updSlot slot.toNat (fun x => { x with window := [] }))) s

/-- `FENCE` (R328): with WAITL waits for the queue's launches, with REL releases at SCOPE, with ACQ acquires. -/
def execFencePacket (slot : BitVec 6) (s : State) : Host.Outcome State Fault Refusal :=
  packetEvent 8 slot (fun x p s =>
    if bit p.spec 0 && !s.launchesDone x.qcb then .hold s
    else if bit p.spec 8 && s.frontBusy (field p.spec 6 4) then .later
    else
      let s := if bit p.spec 8 then s.frontSync else s
      .commit (if bit p.spec 7 then s.frontAcquire slot.toNat else s)) s

/-- Open an owner key slot for a domain (R328, R379): the reference, or 0 where none is free or the quota is reached. -/
def State.mapKey (s : State) (d : DomId) : Word × State :=
  match s.freeKeySlot with
  | none => (0, s)
  | some i =>
    if (s.effKeyq d).toNat ≤ s.keysOf d then (0, s)
    else
      let s := s.openKey i 1 d
      ((s.keyRef i).setWidth 64, s)

/-- `MAP_KEY` (R328): has the security core open an owner key and writes its reference. -/
def execMapKeyPacket (slot : BitVec 6) (s : State) : Host.Outcome State Fault Refusal :=
  packetEvent 9 slot (fun x p s =>
    if !s.mgmt.securityUp || s.storeWaits x.dom (p.w64 2) 8 then .later
    else
      let (w, t) := s.mapKey ((p.w 1).extractLsb' 0 20)
      match t.sysStore 0 t.mgmt.fclk x.dom (p.w64 2) (leBytes 8 w.toNat) with
      | .error b => .access b (p.w64 2)
      | .ok t => .commit (t.updSlot slot.toNat (fun x => { x with window := [] }))) s

/-- `BIND_REGION` (R358): the treadle pair rebinds a region-table entry: while requests of its ranges are still under way their blocks are
busy, and once the homes are quiet the entry is written. -/
def execBindRegionPacket (slot : BitVec 6) (s : State) : Host.Outcome State Fault Refusal :=
  packetEvent 10 slot (fun _ p s =>
    let r : RegionRecord := { w0 := p.w64 1, w1 := p.w64 3, w2 := p.w64 5 }
    if !s.firmware then .later
    else if (s.regionBad r).isNone && s.rangeBusy (s.rebound r) then .hold (s.startBinding r)
    else .commit (s.bindRegion r)) s

/-- The shuttles that run a full thread of a domain or of a descendant (R328). -/
def State.shuttlesOf (s : State) (d : DomId) : List Nat :=
  s.cores.filterMap (fun c => match c.2.full.bind s.thread? with
    | some t => if s.within t.dom d then some c.1 else none
    | none => none)

/-- `PREEMPT` (R328): the treadle pair pre-empts every shuttle that runs a full thread of a domain's subtree (R343); the packet completes
with their reports. -/
def execPreemptPacket (slot : BitVec 6) (s : State) : Host.Outcome State Fault Refusal :=
  packetEvent 11 slot (fun x p s =>
    let left := x.preempting.getD (s.shuttlesOf ((p.w 1).extractLsb' 0 20))
    if !s.firmware && x.preempting.isNone then .hold s
    else if left.isEmpty then .commit s
    else .hold (s.updSlot slot.toNat (fun x => { x with preempting := some left }))) s

/-- `UNASSIGNED_PACKET_TYPE` (R333): a packet of TYPE 0x0C or above faults its queue with FCODE 0x01. -/
def execUnassignedPacketType (slot : BitVec 6) (s : State) : Host.Outcome State Fault Refusal :=
  let i := slot.toNat
  let x := s.slot i
  if !x.open then .next s
  else match s.parse x with
    | .packet p => if p.type < 12 then .next s else if x.flawed then .next (s.resetParse i) else .next (s.commandFault i 1 0 p.at_)
    | _ => .next s

/-- `FETCH_FAULT` (R332): bytes the parse core needs for a packet not started cannot be fetched: the queue stops with FCODE 0x80. -/
def execFetchFault (slot : BitVec 6) (s : State) : Host.Outcome State Fault Refusal :=
  let i := slot.toNat
  let x := s.slot i
  if x.state ≠ .bound ∨ x.parsing.isNone then .next s
  else match s.parse x with
    | .failed b addr => .next ((s.commandFault i 0x80 0 addr.toNat).postQueueFault i b addr)
    | _ => .next s

/-- `PARSE_WATCHDOG` (R324): a parse core that has not committed within 20 µs is reset and parses the packet again. -/
def execParseWatchdog (slot : BitVec 6) (s : State) : Host.Outcome State Fault Refusal :=
  match (s.slot slot.toNat).parsing with
  | some t0 =>
    if t0 + 20 * usCycles ≤ s.tick then .next (s.resetParse slot.toNat) else .next s
  | none => .next s

/-- Finish the bind or save of a slot (R336); after a save the firmware, where it runs, re-evaluates (R339). -/
def State.finishSlot (s : State) (i : Nat) : State :=
  if (s.slot i).state = .binding then s.finishBind i
  else
    let s := s.finishSave i
    if s.firmware then s.evaluate else s

/-- `SLOT_ARBITRATION` (R334, R338): the dispatch hardware finishes a bind or save of a parse core's slots; with none to finish, the
parse core takes its ready slot of highest CPRIO, the lowest number on a tie, and the fetcher reads ahead. -/
def execSlotArbitration (parse : BitVec 2) (s : State) : Host.Outcome State Fault Refusal :=
  let mine := (List.range 16).map (fun k => 4 * k + parse.toNat)
  match mine.find? (fun i => (s.slot i).due) with
  | some i => .next (s.finishSlot i)
  | none =>
  if mine.any (fun i => (s.slot i).parsing.isSome) then .next s
  else
    let best := (mine.filter (fun i => s.slotReady (s.slot i))).foldl (fun a i => match a with
      | none => some i
      | some j => if (s.slot j).cprio.toNat < (s.slot i).cprio.toNat then some i else some j) none
    match best with
    | none => .next s
    | some i => .next ((s.updSlot i (fun x => { x with parsing := some s.tick, cprio := x.bprio, readyAt := s.us32 })).readAhead i)

/-- `CPRIO_AGEING` (R338): a ready slot's priority rises by one for every AGE µs since READYAT. -/
def execCprioAgeing (slot : BitVec 6) (s : State) : Host.Outcome State Fault Refusal :=
  let x := s.slot slot.toNat
  if s.slotReady x ∧ x.cprio.toNat < agedPrio x.bprio.toNat (s.usSince x.readyAt) s.mgmt.age.toNat then
    .next (s.updSlot slot.toNat (fun x => { x with cprio := x.cprio + 1 }))
  else .next s

/-- OP of a bind record (Table 17.5). -/
def recordOp (r : BindRecord) : Nat := field r.w1 1 0

/-- SLOT of a bind record. -/
def recordSlot (r : BindRecord) : Nat := field r.w1 13 8

/-- A bind record is ignored and sets the error bit. -/
def State.recordError (s : State) : State := s.updMgmt (fun m => { m with slotErr := true })

/-- A bind record is not one of an operation that can be performed now: firmware writes it no more than the pair runs, a record waits
for the bind or save before it (R334), and a record of OP 0 does nothing, with the error bit for a nonzero last word (Table 17.5). -/
def State.recordElse (s : State) (r : BindRecord) (op : Nat) : Option State :=
  if !s.firmware || s.slotsBusy then some s
  else if recordOp r = 0 then some (if r.w3 = 0 then s else s.recordError)
  else if recordOp r ≠ op then some s
  else none

/-- `BIND` (R336 OP 1, Table 17.5): begins to bind a queue to an empty slot; SLOT_ARBITRATION finishes it. -/
def execBindSlot (r : BindRecord) (s : State) : Host.Outcome State Fault Refusal :=
  let q := field r.w0 55 7 * 128
  let i := recordSlot r
  match s.recordElse r 1 with
  | some t => .next t
  | none =>
  if r.w3 ≠ 0 ∨ (s.slot i).state ≠ .empty ∨ s.slots.toList.any (fun x => x.state != .empty && x.qcb == q) then
    .next s.recordError
  else .next (s.bind i q (r.w2.extractLsb' 0 32))

/-- `UNBIND` (R336 OP 2): begins to save and unbind a queue; SLOT_ARBITRATION finishes it. -/
def execUnbindSlot (r : BindRecord) (s : State) : Host.Outcome State Fault Refusal :=
  let i := recordSlot r
  match s.recordElse r 2 with
  | some t => .next t
  | none =>
  if r.w3 ≠ 0 ∨ field r.w0 55 7 ≠ 0 ∨ (s.slot i).state = .empty then .next s.recordError
  else .next (s.unbind i)

/-- `CLEAR_FAULT` (R336 OP 3): the entry becomes BOUND, FCODE 0, and parsing resumes. -/
def execClearSlotFault (r : BindRecord) (s : State) : Host.Outcome State Fault Refusal :=
  let i := recordSlot r
  let q := (s.slot i).qcb
  match s.recordElse r 3 with
  | some t => .next t
  | none =>
  if r.w3 ≠ 0 ∨ field r.w0 55 7 ≠ 0 ∨ (s.slot i).state = .empty then .next s.recordError
  else
    let s := s.updSlot i (fun x => { x with state := .bound, window := [], readyAt := s.us32 })
    .next (s.qcbWrite q 32 (putField (putField (s.qcbRead q 32) 15 8 0) 1 0 1))

/-- `WAITING_QUEUE_AGEING` (R339): firmware re-evaluates while a queue waits for a slot. -/
def execWaitingQueueAgeing (qcb : BitVec 56) (s : State) : Host.Outcome State Fault Refusal :=
  if s.firmware && s.queueWaits qcb.toNat then .next s.evaluate else .next s

/-- `QUEUE_SLICE_EXPIRY` (R339): firmware re-evaluates when a bound queue has held its slot for its SLICE. -/
def execQueueSliceExpiry (slot : BitVec 6) (s : State) : Host.Outcome State Fault Refusal :=
  let x := s.slot slot.toNat
  if s.firmware && x.state == .bound && x.slice != 0 && decide (x.slice.toNat ≤ s.usSince x.boundAt) then .next s.evaluate else .next s

/-- `QUEUE_IDLE_TIMEOUT` (R339): a bound queue that has been idle for 10 µs is unbound. -/
def execQueueIdleTimeout (slot : BitVec 6) (s : State) : Host.Outcome State Fault Refusal :=
  let x := s.slot slot.toNat
  if s.firmware && x.state == .bound && x.parsing.isNone && x.idle && decide (x.idleAt + 10 * usCycles ≤ s.tick) then
    .next (if s.slotsBusy then s else s.unbind slot.toNat)
  else .next s

end Sys2Proof.Machine
end

