-- ==== Sys2Proof/Machine/Tables.lean ====
section
/-! DEFINITION. What firmware changes in page tables: leaves (R346, R349, R351), invalidation of translation caches (R350, R351) and the
migration of pages (R353 to R356). -/

namespace Sys2Proof.Machine

/-- The address of the leaf that maps `va` below a table at a level. -/
def State.leafFrom (s : State) (va : VAddr) : Nat → Nat → Option Nat
  | lvl, base =>
    let a := base + 16 * (va.toNat / 2 ^ (12 + 9 * lvl) % 512)
    let w0 := BitVec.ofNat 64 (s.mem.num a 8)
    if !bit w0 0 then none
    else if bit w0 1 then some a
    else match lvl with
      | 0 => none
      | n + 1 => s.leafFrom va n (field w0 51 13 * 8192)

/-- The leaf entries that map a page in a die's table: one, or the sixteen of a 64 KiB page (R346). -/
def State.leaves (s : State) (die : Nat) (va : VAddr) : List Nat :=
  let d := s.die die
  if !bit d.ptroot 0 then []
  else match s.leafFrom va 4 (field d.ptroot 51 12 * 4096) with
    | none => []
    | some a =>
      if bit (BitVec.ofNat 64 (s.mem.num a 8) : Word) 7 then (List.range 16).map (fun k => a / 256 * 256 + 16 * k) else [a]

/-- Rewrite word 0 of a page's leaves in all four tables. -/
def State.rewriteLeaves (s : State) (va : VAddr) (f : Nat → Word → Word) : State :=
  [0, 1, 2, 3].foldl (fun s die =>
    (s.leaves die va).foldl (fun s a =>
      let w := f (a / 16 % 16) (BitVec.ofNat 64 (s.mem.num a 8))
      s.deviceWrite ((s.die die).ptkey.setWidth 20) a (leBytes 8 w.toNat)) s) s

/-- A cached translation overlaps a range. -/
def TlbEntry.overlaps (e : TlbEntry) (base bits : Nat) : Bool :=
  decide (e.va.toNat < base + 2 ^ bits) && decide (base < e.va.toNat + 2 ^ e.bits)

/-- Drop the cached translations and table entries of some dies that a condition picks (R350, R351). -/
def State.dropTlb (s : State) (dies : Nat → Bool) (p : TlbEntry → Bool) : State :=
  { s with cores := s.cores.map (fun c =>
             if dies (coreDie c.1) then
               (c.1, { c.2 with dtlb := c.2.dtlb.filter (fun e => !p e), itlb := c.2.itlb.filter (fun e => !p e) })
             else c),
           dies := s.dies.mapIdx (fun d x => if dies d then { x with walks := x.walks.filter (fun e => !p e.2) } else x) }

/-- An access of some dies' cores that used a dropped translation is neither performed nor waiting for a retry (R351): one that has left its
core, a lane of a vector instruction, a unit of a copy, a store that a bridge or a causal buffer still holds. -/
def State.accessesIn (s : State) (dies : Nat → Bool) (base bits : Nat) : Bool :=
  let inside (ea : Word) : Bool := decide (base ≤ field ea 55 0) && decide (field ea 55 0 < base + 2 ^ bits)
  s.outs.any (fun o => dies (coreDie o.2.core) && o.2.retryAt.isNone && inside o.2.ea) ||
    s.cores.any (fun c => c.2.remote.any (fun m => inside m.ea) ||
      (dies (coreDie c.1) && c.2.ops.any (fun o => o.2.leaves.any (fun x => inside x.ea)))) ||
    s.threads.any (fun t => dies (coreDie t.2.core) && (t.2.exe.inLanes || t.2.acc.inLanes)) ||
    [0, 1, 2, 3].any (fun d => dies d && [0, 1, 2, 3].any (fun e => (s.incoming d e).any (fun m => match m with
      | .write _ _ _ _ _ _ _ => true
      | _ => false)))

/-- `TINV` (R351): a write of the register names a range and the dies whose caches must drop it. -/
def execTinv (die : BitVec 2) (val : BitVec 64) (s : State) : Host.Outcome State Fault Refusal :=
  let x : Nat × Nat × BitVec 4 := (field val 55 12 * 4096, field val 5 0, val.extractLsb' 8 4)
  if s.firmware then .next (s.updDie die.toNat (fun d => { d with tinvs := d.tinvs ++ [x] })) else .next s

/-- `TINV_COMPLETE` (R351): the oldest invalidation completes: its entries are dropped and DONE advances. -/
def execTinvComplete (die : BitVec 2) (s : State) : Host.Outcome State Fault Refusal :=
  match (s.die die.toNat).tinvs with
  | [] => .next s
  | (base, bits, dies) :: rest =>
    let named (d : Nat) : Bool := dies.getLsbD d
    if s.accessesIn named base bits then .next s
    else
      let s := s.dropTlb named (fun e => e.overlaps base bits)
      .next (s.updDie die.toNat (fun d => { d with tinvs := rest, tinvDone := d.tinvDone + 1 }))

/-- The regions of two pages agree in draft, format and operation (R355). -/
def State.samePolicy (s : State) (a b n : Nat) : Bool :=
  let policy (pa : Nat) : Nat × Nat × Nat := match s.regionAt pa with
    | some (_, r) => (r.draft.toNat, r.cfmt.toNat, r.cop.toNat)
    | none => (0, 0, 0)
  (List.range (n / 4096)).all (fun k => policy (a + 4096 * k) == policy (b + 4096 * k))

/-- Set or clear PIN in a page's leaves, and drop its translations (R356, R351). -/
def State.setPin (s : State) (va : VAddr) (pin : Bool) : State :=
  let s := s.rewriteLeaves va (fun _ w => putField w 6 6 (if pin then 1 else 0))
  s.dropTlb (fun _ => true) (fun e => e.covers va)

/-- Write bytes of a page's counter entry (Table 18.5). -/
def State.putCounter (s : State) (idx : BitVec 16) (off : Nat) (bs : List Byte) : State :=
  s.deviceWrite (s.keyOf 0) (s.migEntry idx + off) bs

/-- The size in bits of the page that maps an address, and whether it is pinned (R346). -/
def State.pageOf (s : State) (va : VAddr) : Nat × Bool :=
  match s.walk 0 (fun _ => true) va with
  | .ok e => (e.bits, bit e.w0 6)
  | .error _ => (12, false)

/-- A frame of a page is in use no more (R403). -/
def State.frameRetired (s : State) (pa bits : Nat) : Bool :=
  (vget (s.die (paDie pa)).hbmStacks (paStack pa) StackState.init).retiredFrames.any (fun f =>
    decide (pa ≤ 4096 * f) && decide (4096 * f < pa + 2 ^ bits))

/-- The page is pinned, so it does not move (R346), but for a page on a frame that is being retired (R403). -/
def State.pinRefuses (s : State) (va : VAddr) (old : Nat) : Bool :=
  let page := s.pageOf va
  page.2 && !s.frameRetired old page.1

/-- A migration command (R355): the page, its old and new physical address, and its counter entry. -/
structure MigReq where
  va : VAddr
  old : Nat
  new : Nat
  idx : BitVec 16

/-- MIGIDX of the page that maps an address (R346). -/
def State.pageIdx (s : State) (va : VAddr) : Nat :=
  match s.walk 0 (fun _ => true) va with
  | .ok e => field e.w1 35 20
  | .error _ => 0

/-- The command is refused with code 2 (R355, R346, R403; log entry 40): the page is not of 4 or 64 KiB or is not to be migrated, the new
frame is of another policy or is used no more. -/
def State.migBad (s : State) (r : MigReq) (retired : Bool) : Bool :=
  let bits := (s.pageOf r.va).1
  (bits != 12 && bits != 16) || !s.samePolicy r.old r.new (2 ^ bits) || s.frameRetired r.new bits ||
    ((r.idx == 0 || s.pageIdx r.va == 0) && !retired)

/-- Perform a migration command: the thrash detector, and the start of the move (R355, R356). A page that is pinned already stays; one on
a frame that is being retired moves all the same (R346, R403). -/
def State.migrate (s : State) (r : MigReq) : State :=
  let bits := (s.pageOf r.va).1
  let retired := s.frameRetired r.old bits
  let stays := s.pinRefuses r.va r.old
  let (job, s) := s.fresh
  let result (s : State) (code : Nat) : State := s.updMgmt (fun m => { m with migdone := alSet m.migdone job code })
  let a := s.migEntry r.idx
  let window := decide (s.mgmt.thrw.toNat < s.usSince (BitVec.ofNat 32 (s.mem.num (a + 8) 4)))
  let mcnt := if window then 0 else s.mem.num (a + 16) 1
  let flags := s.mem.get (a + 17)
  let counts := r.idx != 0
  let opened (s : State) : State := if window ∧ counts then (s.putCounter r.idx 8 (leBytes 4 s.us)).putCounter r.idx 16 [0] else s
  if !retired ∧ counts ∧ s.mgmt.thrn.toNat ≤ mcnt then
    let s := (opened s).setPin r.va true
    let s := s.putCounter r.idx 12 (leBytes 4 (s.us + s.mgmt.thrt.toNat))
    let s := s.putCounter r.idx 17 [(flags ||| 1) &&& ~~~2]
    result (s.updMgmt (fun m => { m with pinned := m.pinned ++ [(r.idx.toNat, r.va)] })) 1
  else if s.migBad r retired then result s 2
  else
    let s := if counts then (opened s).putCounter r.idx 16 [BitVec.ofNat 8 (mcnt + 1)] else s
    if stays then result s 1
    else
      let j : MigJob := { va := r.va, old := r.old, new := r.new, idx := r.idx, bits := bits, result := 0 }
      s.updMgmt (fun m => { m with migjobs := alSet m.migjobs job j })

/-- `MIGCMD` (R355, R356): the write of the command's fourth word submits it. Its words are the virtual address, the old and the new
physical address and MIGIDX (log entry 19). -/
def execMigcmd (val : BitVec 64) (s : State) : Host.Outcome State Fault Refusal :=
  if !s.firmware then .next s
  else
    let w (k : Nat) : Word := s.mgmt.migcmd.getD k 0
    .next ((s.updMgmt (fun m => { m with migcmd := [] })).migrate
      { va := (w 0).extractLsb' 0 56, old := field (w 1) 51 12 * 4096, new := field (w 2) 51 12 * 4096, idx := val.extractLsb' 0 16 })

/-- Accesses to a page are still on their way to its home. -/
def State.pageBusy (s : State) (inside : Nat → Bool) : Bool :=
  s.rangeBusy inside || s.outs.any (fun o => o.2.kind != .host && o.2.retryAt.isNone && inside o.2.loc) ||
    [0, 1, 2, 3].any (fun d => [0, 1, 2, 3].any (fun e => (s.incoming d e).any (fun m => match m with
      | .write _ _ _ _ pa _ _ => inside pa
      | _ => false))) ||
    s.cores.any (fun c => c.2.remote.any (fun m => inside m.loc))

/-- Copy a page's bytes and metadata to its new frame, resealed under the same keys; the old blocks stay busy, and their poison has gone with
the page (R355 steps 1, 2 and 4, R369). -/
def State.copyPage (s : State) (old new bits : Nat) : State :=
  let n := 2 ^ bits
  let s := { s with mem := s.mem.putBytes new (s.mem.bytes old n) }
  let s := (List.range (n / 128)).foldl (fun s k =>
    let m := s.block (blockNo old + k)
    (s.updBlock (blockNo new + k) (fun _ => m)).updBlock (blockNo old + k) (fun m => { m with access := 3, poison := false })) s
  s.updMgmt (fun m => { m with vacated := m.vacated.filter (fun v => !inRange new v) ++ [(old, bits)] })

/-- `MIGRATION_DONE` (R355): the page moves once every access under way has been performed: copies are recalled, its blocks are resealed
at the new frame, the leaves of all four tables name it, and the completion code is written. -/
def execMigrationDone (job : Nat) (s : State) : Host.Outcome State Fault Refusal :=
  match alGet s.mgmt.migjobs job with
  | none => .next s
  | some j =>
    let n := 2 ^ j.bits
    let inside (pa : Nat) : Bool := decide (j.old ≤ pa) && decide (pa < j.old + n)
    if s.pageBusy inside then .next s
    else
      let s := (s.recallRange inside).copyPage j.old j.new j.bits
      let s := s.rewriteLeaves j.va (fun k w =>
        putField w 51 12 (if j.bits = 16 then j.new / 65536 * 16 + k else j.new / 4096))
      let s := s.dropTlb (fun _ => true) (fun e => e.covers j.va)
      let flags := s.mem.get (s.migEntry j.idx + 17)
      let s := if j.idx = 0 then s else (s.putCounter j.idx 0 (leBytes 8 0)).putCounter j.idx 17 [flags &&& ~~~2]
      .next (s.updMgmt (fun m => { m with migjobs := alErase m.migjobs job, migdone := alSet m.migdone job j.result }))

/-- `THRASH_SCAN` (R356): at a whole millisecond, each page whose pin has run out is unpinned. -/
def execThrashScan (s : State) : Host.Outcome State Fault Refusal :=
  if s.us % 1000 ≠ 0 then .next s
  else
    let expired (p : Nat × VAddr) : Bool :=
      decide (s.usSince (BitVec.ofNat 32 (s.mem.num (s.migEntry (BitVec.ofNat 16 p.1) + 12) 4)) < 2 ^ 31)
    let t := (s.mgmt.pinned.filter expired).foldl (fun s p =>
      let idx := BitVec.ofNat 16 p.1
      let flags := s.mem.get (s.migEntry idx + 17)
      ((s.setPin p.2 false).putCounter idx 17 [flags &&& ~~~1]).putCounter idx 0 (leBytes 8 0)) s
    .next (t.updMgmt (fun m => { m with pinned := s.mgmt.pinned.filter (fun p => !expired p) }))

end Sys2Proof.Machine
end

