-- ==== Sys2Proof/Machine/FirmwareEvents.lean ====
section
/-! DEFINITION. Management registers (R344, Tables 18.1, 19.3, 21.3, 21.7, 21.8), domain control blocks (Table 10.1), the loading of
drafts (R359, R360), grants (R384) and the enrolment of selvedge cores (R189). -/

namespace Sys2Proof.Machine

/-- Clear the counter at an offset of a core's record (Table 21.7). -/
def CoreCounters.clear (c : CoreCounters) (off : Nat) : CoreCounters :=
  match off with
  | 0 => { c with iccorr := 0 }
  | 4 => { c with icunc := 0 }
  | 8 => { c with fadrop := 0 }
  | 12 => { c with dccorr := 0 }
  | 16 => { c with lscorr := 0 }
  | 20 => { c with rfcorr := 0 }
  | 24 => { c with dpretry := 0 }
  | 28 => { c with dpfail := 0 }
  | _ => c

/-- Clear the counter at an offset of a stack's record (Table 21.8). -/
def StackState.clear (x : StackState) (off : Nat) : StackState :=
  match off with
  | 0 => { x with corr := 0 }
  | 4 => { x with unc := 0 }
  | 8 => { x with tagmm := 0 }
  | 12 => { x with scrubpass := 0 }
  | 16 => { x with retired := 0 }
  | _ => x

/-- Clear the counter at a die-block offset (Table 21.8). -/
def Die.clear (d : Die) (off : Nat) : Die :=
  if 0x200 ≤ off ∧ off < 0x260 then
    let i := (off - 0x200) / 32
    { d with hbmStacks := vset d.hbmStacks i ((vget d.hbmStacks i StackState.init).clear ((off - 0x200) % 32)) }
  else if 0x280 ≤ off ∧ off < 0x2B0 then
    let b := (off - 0x280) / 16
    match (off - 0x280) % 16 with
    | 0 => { d with brCrc := vset d.brCrc b 0 }
    | 4 => { d with brSpared := vset d.brSpared b 0 }
    | _ => d
  else match off with
    | 0x260 => { d with scCorr := 0 }
    | 0x264 => { d with scUnc := 0 }
    | 0x268 => { d with creelCorr := 0 }
    | 0x26C => { d with creelUnc := 0 }
    | 0x2C0 => { d with abortsWatch := 0 }
    | 0x2C4 => { d with abortsOther := 0 }
    | 0x2C8 => { d with walksReason5 := 0 }
    | _ => d

/-- The core whose counter record lies at a die-block offset (R408). -/
def recordCore (die off : Nat) : Option Nat :=
  let i := (off - 0x1000) / 32
  if off < 0x1000 then none
  else if i < 1152 then some (die * 1152 + i)
  else if i < 1164 then some (4608 + die * 12 + (i - 1152)) else none

/-- A fault ring's consumer index, moved forward to the written one (Table 19.3). -/
def frAdvance (head idx : Nat) : Nat := (head + (idx + 4096 - head % 4096) % 4096) % 8192

/-- The treadle pair writes a register of a die's block. -/
def State.dieWrite (s : State) (die off : Nat) (w : Word) : State :=
  match off with
  | 0x000 => s.updDie die (fun d => { d with ptroot := w &&& 0x000F_FFFF_FFFF_F001 })
  | 0x008 => s.updDie die (fun d => { d with ptkey := w &&& 0xFFFFF })
  | 0x080 => s.updDie die (fun d => { d with frbase := w &&& 0x000F_FFFF_FFFF_F001 })
  | 0x090 => s.updDie die (fun d => { d with frhead := frAdvance d.frhead (field w 11 0) })
  | 0x098 => s.updDie die (fun d => { d with frovf := d.frovf && !bit w 63 })
  | _ =>
    if w ≠ 0 then s
    else match recordCore die off with
      | some c => s.updCore c (fun k => { k with cnt := k.cnt.clear ((off - 0x1000) % 32) })
      | none => s.updDie die (fun d => d.clear off)

/-- Clear a counter of a fabric port (Table 21.8). -/
def FabricPort.clear (x : FabricPort) (off : Nat) : FabricPort :=
  match off with
  | 0 => { x with crcretry := 0 }
  | 8 => { x with refused := 0 }
  | 12 => { x with downs := 0 }
  | _ => x

/-- The treadle pair writes a register of the device block. -/
def Mgmt.write (m : Mgmt) (off : Nat) (w : Word) : Mgmt :=
  match off with
  | 0x000 => { m with migtab := w &&& 0x000F_FFFF_FFFF_F000 }
  | 0x008 => { m with migring := w &&& 0x000F_FFFF_FFFF_F00F }
  | 0x010 => { m with mighead := field w 63 32 }
  | 0x018 => { m with migthr := w.setWidth 16 }
  | 0x020 => { m with thrn := w.setWidth 8 }
  | 0x028 => { m with thrw := w.setWidth 32 }
  | 0x030 => { m with thrt := w.setWidth 32 }
  | 0x038 => { m with regstat := w &&& 0x0000_0FFF_0000_00FF }
  | 0x040 => { m with migcmd := [w] }
  | 0x048 => { m with migcmd := m.migcmd.take 1 ++ [w] }
  | 0x050 => { m with migcmd := m.migcmd.take 2 ++ [w] }
  | _ =>
    if w ≠ 0 then m
    else if 0x200 ≤ off ∧ off < 0x500 then
      let k := (off - 0x200) / 32
      { m with ports := vset m.ports k ((vget m.ports k FabricPort.init).clear ((off - 0x200) % 32)) }
    else match off with
      | 0x500 => { m with replay := 0 }
      | 0x504 => { m with linkdown := 0 }
      | 0x508 => { m with atomicUr := 0 }
      | 0x50C => { m with badkick := 0 }
      | _ => m

/-- Firmware sets what the manual gives no register offset (log entry 20): the ageing period, the pending ring's base, BAR2's base and
key, the two MSI-X vectors and the AtomicOp requester enable. -/
def Mgmt.set (m : Mgmt) (off : Nat) (w : Word) : Mgmt :=
  match off with
  | 0x00 => if field w 15 0 = 0 then m else { m with age := w.setWidth 16 }
  | 0x08 => { m with pendbase := w }
  | 0x10 => { m with bar2base := w }
  | 0x18 => { m with bar2key := w.setWidth 20 }
  | 0x20 => { m with msixCmd := w.setWidth 16 }
  | 0x28 => { m with msixRegion := w.setWidth 16 }
  | 0x30 => { m with atomicReq := bit w 0 }
  | 0x38 => { m with dcbSel := w.setWidth 20 }
  | 0x40 => { m with pendovf := m.pendovf && bit w 0 }
  | 0x48 => { m with slotErr := m.slotErr && bit w 0 }
  | _ => m

/-- Write the word at an offset of a domain control block (Table 10.1); reserved fields are ignored (R10). -/
def Domain.setWord (r : Domain) (off : Nat) (w : Word) : Domain :=
  match off with
  | 0 => { r with parent := w.setWidth 56 }
  | 8 =>
    let rot := if r.state = 0 then Vector.replicate 4 0 else r.rot
    { r with ovr := w.extractLsb' 32 16, prio := w.extractLsb' 28 3, state := w.extractLsb' 24 2, depth := w.extractLsb' 20 3, rot := rot }
  | 16 => { r with maxshut := w.extractLsb' 32 13, diemask := w.extractLsb' 16 4, maxh := w.extractLsb' 8 5, maxw := w.extractLsb' 0 6 }
  | 24 => { r with memq := w.setWidth 40 }
  | 32 => { r with keyq := w.extractLsb' 32 16, slice := w.setWidth 32 }
  | 40 => { r with supv := w.extractLsb' 32 16, fdom := w.setWidth 20 }
  | 48 => { r with ownkey := w.setWidth 20 }
  | 56 => { r with grant := w.setWidth 56 }
  | 64 => { r with spillq := w.setWidth 56 }
  | 72 => { r with spsize := w.extractLsb' 56 5, sptail := w.extractLsb' 24 24, sphead := w.setWidth 24 }
  | 80 => { r with spdrop := w }
  | 88 => { r with evtep := w }
  | 128 => { r with bobpool := w.setWidth 56 }
  | 136 => { r with bobcnt := w.setWidth 32 }
  | 144 => { r with ctxpool := w.setWidth 56 }
  | 152 => { r with ctxcnt := w.setWidth 32 }
  | 192 => { r with bobimg := w.setWidth 56 }
  | _ =>
    if 96 ≤ off ∧ off < 128 then { r with runqAt := vset r.runqAt ((off - 96) / 8) (w.setWidth 56 &&& ~~~127#56) }
    else if 160 ≤ off ∧ off < 192 then { r with creel := vset r.creel ((off - 160) / 8) (w.extractLsb' 32 11, w.extractLsb' 0 10) }
    else r

/-- Firmware writes a word of a domain's control block. One more domain than 65,536 does not become live (R246). A domain
that closes has its owner key retired, after the accesses under it that are on their way (R379, R235, R296). -/
def State.writeDcb (s : State) (d : DomId) (off : Nat) (w : Word) : State :=
  let birth := off == 8 && field w 25 24 == 1 && (s.dom d).state != 1
  let close := off == 8 && field w 25 24 != 1 && (s.dom d).state == 1
  if birth ∧ 65536 ≤ (s.doms.filter (fun x => x.2.state == 1)).length then s
  else
    let owned := (s.keys.filter (fun k => close && k.2.state == .live && k.2.kind == 1 && k.2.owner == d)).map Prod.fst
    if owned.any (fun i => s.keyBusy (s.keyOf i)) then s
    else ((owned.foldl (fun s i => s.retireKey i none) s).updDom d (fun r => r.setWord off w)).putDcb d off

/-- `REGISTER_WRITE` (R344, R405): a write of a management register. The host writes only `RASLOG` and `RASHEAD`; the treadle pair
writes the rest. An offset that names no register is ignored. -/
def execRegisterWrite (who : RegWriter) (off : BitVec 24) (val : BitVec 64) (s : State) : Host.Outcome State Fault Refusal :=
  let o := off.toNat
  match who with
  | .host =>
    if o = 0xF0100 then .next (s.updMgmt (fun m => { m with raslog := val &&& 0xFFFF_FFFF_FFFF_F00F }))
    else if o = 0xF0110 then .next (s.updMgmt (fun m => { m with rashead := val.setWidth 24 })).rasFlush
    else .next s
  | .treadle =>
    if !s.firmware then .next s
    else if 0x210000 ≤ o ∧ o < 0x210100 then .next (s.writeDcb s.mgmt.dcbSel (o - 0x210000) val)
    else if o = 0x210100 then .next (s.updDom s.mgmt.dcbSel (fun r => { r with addr := val.setWidth 56 &&& ~~~255#56 }))
    else if 0x200000 ≤ o then .next (s.updMgmt (fun m => m.set (o - 0x200000) val))
    else if 0x140000 ≤ o then .next s
    else if 0x100000 ≤ o then .next (s.dieWrite ((o - 0x100000) / 0x10000) (o % 0x10000) val)
    else if 0xF0000 ≤ o then .next (s.updMgmt (fun m => m.write (o - 0xF0000) val))
    else .next s

/-- The value of a 4-byte counter of a die (Table 21.8). -/
def Die.counter (d : Die) (off : Nat) : BitVec 32 :=
  if 0x200 ≤ off ∧ off < 0x260 then
    let x := vget d.hbmStacks ((off - 0x200) / 32) StackState.init
    match (off - 0x200) % 32 with
    | 0 => x.corr
    | 4 => x.unc
    | 8 => x.tagmm
    | 12 => x.scrubpass
    | 16 => x.retired
    | _ => 0
  else if 0x280 ≤ off ∧ off < 0x2B0 then
    match (off - 0x280) % 16 with
    | 0 => vget d.brCrc ((off - 0x280) / 16) 0
    | 4 => vget d.brSpared ((off - 0x280) / 16) 0
    | _ => 0
  else match off with
    | 0x260 => d.scCorr
    | 0x264 => d.scUnc
    | 0x268 => d.creelCorr
    | 0x26C => d.creelUnc
    | 0x2C0 => d.abortsWatch
    | 0x2C4 => d.abortsOther
    | 0x2C8 => d.walksReason5
    | _ => 0

/-- A counter of a core's record (Table 21.7). -/
def CoreCounters.read (c : CoreCounters) (off : Nat) : BitVec 32 :=
  match off with
  | 0 => c.iccorr
  | 4 => c.icunc
  | 8 => c.fadrop
  | 12 => c.dccorr
  | 16 => c.lscorr
  | 20 => c.rfcorr
  | 24 => c.dpretry
  | 28 => c.dpfail
  | _ => 0

/-- A word of a die's block of registers (Tables 18.1, 19.3, 21.7, 21.8). -/
def State.dieWord (s : State) (die off : Nat) : Word :=
  let d := s.die die
  match off with
  | 0x000 => d.ptroot
  | 0x008 => d.ptkey
  | 0x018 => d.tinvDone ++ (if d.tinvs.isEmpty then 0#32 else 1#32)
  | 0x080 => d.frbase
  | 0x088 => BitVec.ofNat 64 (d.frtail % 4096)
  | 0x090 => BitVec.ofNat 64 (d.frhead % 4096)
  | 0x098 => BitVec.ofBool d.frovf ++ 0#15 ++ BitVec.ofNat 16 d.postersHeld ++ d.frovcount
  | _ =>
    match recordCore die off with
    | some c => (s.core c).cnt.read ((off + 4 - 0x1000) % 32) ++ (s.core c).cnt.read ((off - 0x1000) % 32)
    | none => d.counter (off + 4) ++ d.counter off

/-- A 4-byte item of the device block (Table 21.8). -/
def Mgmt.counter (m : Mgmt) (off : Nat) : BitVec 32 :=
  if 0x200 ≤ off ∧ off < 0x500 then
    let x := vget m.ports ((off - 0x200) / 32) FabricPort.init
    match (off - 0x200) % 32 with
    | 0 => x.crcretry
    | 4 => x.lanes.setWidth 32
    | 8 => x.refused
    | 12 => x.downs
    | _ => 0
  else match off with
    | 0x500 => m.replay
    | 0x504 => m.linkdown
    | 0x508 => m.atomicUr
    | 0x50C => m.badkick
    | 0x600 => m.power
    | 0x60C => m.inlet
    | _ => 0

/-- TJ0 to TJ3 and THROT (Table 21.8). -/
def State.thermal (s : State) : Word :=
  let t (d : Nat) : Nat := (s.die d).temp % 256 * 2 ^ (8 * d)
  let h (d : Nat) : Nat := if (s.die d).throt then 2 ^ (32 + d) else 0
  BitVec.ofNat 64 (t 0 + t 1 + t 2 + t 3 + h 0 + h 1 + h 2 + h 3)

/-- A word of the device block (Tables 18.1, 21.3, 21.8). -/
def State.deviceWord (s : State) (off : Nat) : Word :=
  let m := s.mgmt
  match off with
  | 0x000 => m.migtab
  | 0x008 => m.migring
  | 0x010 => BitVec.ofNat 64 (m.mighead % 2 ^ 32 * 2 ^ 32 + m.migtail % 2 ^ 32)
  | 0x018 => m.migthr.setWidth 64
  | 0x020 => m.thrn.setWidth 64
  | 0x028 => m.thrw.setWidth 64
  | 0x030 => m.thrt.setWidth 64
  | 0x038 => m.regstat
  | 0x100 => m.raslog
  | 0x108 => m.rastail.setWidth 64
  | 0x110 => m.rashead.setWidth 64
  | 0x118 => BitVec.ofNat 64 (m.rasheld.length % 65536 * 2 ^ 32 + m.rasdrop0.toNat)
  | _ => m.counter (off + 4) ++ m.counter off

/-- The word that a host read of BAR0 returns (R344, R390, R391): READY, the device block, the die blocks, and 0 elsewhere. The items of
Table 21.8 at device offset 0x600 follow one another in its order (log entry 34). -/
def State.bar0 (s : State) (off : Nat) : Word :=
  let o := off / 8 * 8
  if o = 0 then s.mgmt.ready
  else if o = 0xF0600 then (s.thermal.extractLsb' 0 32) ++ s.mgmt.power
  else if o = 0xF0608 then s.mgmt.inlet ++ (s.thermal.extractLsb' 32 32)
  else if 0xF0000 ≤ o ∧ o < 0x100000 then s.deviceWord (o - 0xF0000)
  else if 0x100000 ≤ o ∧ o < 0x140000 then s.dieWord ((o - 0x100000) / 0x10000) (o % 0x10000)
  else 0

/-- 32 bits of an image. -/
def imageWord (image : List Byte) (off : Nat) : BitVec 32 := BitVec.ofNat 32 (ofLE ((image.drop off).take 4))

/-- Bytes of an image from `off` that are all zero. -/
def imageZero (image : List Byte) (off n : Nat) : Bool := ((image.drop off).take n).all (· == 0)

/-- Why a draft image is refused (Table 18.9, R359): 6 for its form or the request, 7 for its signature. -/
def State.draftBad (s : State) (id : BitVec 4) (image : List Byte) : Option Nat :=
  let w := imageWord image 4
  let size := (imageWord image 8).toNat
  if id = 0 ∨ s.regions.any (fun r => r.2.draft == id) then some 6
  else if image.length < 1280 ∨ imageWord image 0 ≠ 0x0DF71A01 ∨ field w 17 16 = 3 ∨ field w 3 0 ≠ id.toNat ∨ size % 128 ≠ 0
      ∨ 16384 < size ∨ !imageZero image 12 4 ∨ !imageZero image 176 80 ∨ image.length < 1280 + size then some 6
  else if !Config.signatureOk image then some 7
  else none

/-- The draft of an image (Table 18.9). -/
def draftOf (image : List Byte) : Draft :=
  let w := imageWord image 4
  { std := false, tagInit := w.extractLsb' 16 2, comm := bit w 8, table := (List.range 40).map (fun k => imageWord image (16 + 4 * k)),
    smap := (image.drop 256).take 1024, text := (image.drop 1280).take (imageWord image 8).toNat, digest := Config.sha384 image,
    lms := Config.lmsOf image }

/-- `DRAFT_LOAD` (R360): verifies a draft image and copies it into every heddle; a refusal goes to `REGSTAT`. -/
def execDraftLoad (id : BitVec 4) (image : List (BitVec 8)) (s : State) : Host.Outcome State Fault Refusal :=
  if !s.firmware then .next s
  else match s.draftBad id image with
    | some c => .next (s.updMgmt (fun m => { m with regstat := BitVec.ofNat 64 (id.toNat * 2 ^ 32 + c) }))
    | none => .next { s with drafts := alSet s.drafts id.toNat (draftOf image) }

/-- A handle of this device names an endpoint that has an owner, by its present CHECK (R263). -/
def State.grantable (s : State) (h : Word) : Bool :=
  (h.extractLsb' 49 15 : BitVec 15) != s.mgmt.device || (match handleCore h with
    | some c => (match (s.record c (field h 35 32) (h.extractLsb' 0 32)).map Prod.snd with
      | some e => e.owner.isSome
      | none => false)
    | none => false)

/-- `GRANT_TABLE_CHANGE` (R384, R263): the security core changes an entry of a domain's grant table. -/
def execGrantTableChange (dom : BitVec 20) (index : BitVec 12) (handle : BitVec 64) (send : Bool) (s : State) :
    Host.Outcome State Fault Refusal :=
  if !s.mgmt.securityUp ∨ index = 4095 ∨ (send ∧ !s.grantable handle) then .next s
  else
    let a := (s.dom dom).grant.toNat
    let s := if a = 0 ∨ !hbmBacked a then s
      else
        let count := max (s.mem.num a 2 % 4096) (index.toNat + 1)
        (s.deviceWrite (s.keyOf 0) (a + 16 + 16 * index.toNat) (leBytes 8 handle.toNat ++ leBytes 8 (if send then 1 else 0))).deviceWrite
          (s.keyOf 0) a (leBytes 16 count)
    .next (s.updDom dom (fun r => { r with grants := alSet r.grants index.toNat { handle := handle, send := send } }))

/-- A core leaves the flows of its die. -/
def State.leaveFlows (s : State) (core : Nat) : State :=
  s.updDie (coreDie core) (fun d => { d with flows := d.flows.map (fun f => (f.1, { f.2 with cores := f.2.cores.erase core })) })

/-- `SELVEDGE_ENROLMENT` (R189, R263): firmware enrols a selvedge core for a domain and a reduction flow, or releases it. -/
def execSelvedgeEnrolment (core : Nat) (dom : Option (BitVec 20)) (flow : Option (BitVec 16)) (s : State) :
    Host.Outcome State Fault Refusal :=
  if !s.firmware ∨ core < 4608 ∨ 4656 ≤ core then .next s
  else
    let s := s.leaveFlows core
    let s := if (s.core core).selvedge = dom then s
      else match dom with
        | none => (s.closeEps core).updCore core (fun k => { k with selvedge := none })
        | some d => (s.openEps core d).updCore core (fun k => { k with selvedge := some d })
    match flow, dom with
    | some f, some _ =>
      .next (s.updDie (coreDie core) (fun d =>
        let x := alGetD d.flows f.toNat { cores := [], next := 0 }
        { d with flows := alSet d.flows f.toNat { x with cores := x.cores ++ [core] } }))
    | _, _ => .next s

end Sys2Proof.Machine
end

