-- ==== Sys2Proof/Machine/Groups.lean ====
section
/-! DEFINITION. Vector groups, major 0x2E, and the forwarding of their words (R230 to R232, R261). -/

namespace Sys2Proof.Machine

/-- The members of a gang in a rectangle relative to its origin, in row-major order; none where it leaves the gang (R230). -/
def Gang.part (g : Gang) (a : Word) : Option (List Nat) :=
  let col := field a 5 0
  let row := field a 12 8
  let w := field a 17 16 + 1
  let h := field a 25 24 + 1
  if g.width < col + w ∨ g.height < row + h then none
  else some ((List.range (w * h)).map (fun i => g.members.getD ((row + i / w) * g.width + col + i % w) 0))

/-- Issue needs of a group instruction. -/
def grpNeed (uses : List Use) : Need := { plain true uses with cls := .exeOnly }

/-- Trap group misuse, keeping a change of the state before the instruction (R230). -/
def groupMisuse {α : Type} (keep : State → State) : Exec α :=
  stop (.trap { cause := 0x23, addr := 0, extra := 0, pc := none } keep)

/-- A forming group's rectangle takes in any of some threads. -/
def Forming.meets (f : Forming) (g : Gang) (ts : List Nat) : Bool :=
  match g.part f.arg with
  | some ms => ms.any (fun m => ts.contains m)
  | none => false

/-- Every `grp.form` that waits for one of some threads fails (R230). -/
def State.failForming (s : State) (gid : Nat) (g : Gang) (ts : List Nat) : State :=
  { s with forming := s.forming.map (fun e =>
      if e.2.gang = gid ∧ e.2.formed = none ∧ e.2.meets g ts then (e.1, { e.2 with failed := true }) else e) }

/-- A member leaves a `grp.form` in progress; the record goes with its last member. -/
def State.leaveForming (s : State) (k tid : Nat) : State :=
  match alGet s.forming k with
  | none => s
  | some f =>
    let l := f.issued.erase tid
    { s with forming := if l.isEmpty then alErase s.forming k else alSet s.forming k { f with issued := l } }

/-- The `grp.form` in progress that a thread has issued. -/
def State.formingOf (s : State) (tid : Nat) : Option (Nat × Forming) :=
  s.forming.find? (fun e => e.2.issued.contains tid)

/-- A member that has issued `grp.form` (R230): its index once the group is formed, at the place it has reserved if it waited (R129). -/
def formed (d : BitVec 5) (k : Nat) (f : Forming) : Exec Next := do
  let a ← me
  let s ← get
  let held := alGet f.dests a.tid
  if f.failed then
    groupMisuse (fun s => ((s.leaveForming k a.tid).cancel a.tid (held.getD .none)).updThread a.tid (fun t => t.updCtx a.acc Ctx.unissue))
  else match f.formed with
    | none => stall .group
    | some gid =>
      let i := match alGet s.groups gid with
        | some g => (g.members.map (fun m => m.1)).idxOf a.tid
        | none => 0
      set (s.leaveForming k a.tid)
      (match held with
      | some to_ => modify (fun s => s.arriveAt a.tid to_ (BitVec.ofNat 64 i))
      | none => setS d (BitVec.ofNat 64 i))
      pure .seq

/-- A member that has issued `grp.form` waits, its destination reserved (R129, R230). -/
def State.holdForm (s : State) (a : Agent) (d : BitVec 5) (x : Word) : State :=
  match s.formingOf a.tid with
  | none => s
  | some (k, f) =>
    match laterS d { s with cur := a } with
    | .ok (to_, s) =>
      { s with forming := alSet s.forming k { f with dests := alSet f.dests a.tid to_ } }.updThread a.tid (fun t =>
        t.updCtx a.acc (fun c => { c with got := [x] }))
    | .error _ => s

/-- A member's arrival at `grp.form` (R230): the last one forms the group. -/
def State.arriveForm (s : State) (gid : Nat) (tid : Nat) (arg : Word) (ms : List Nat) : State :=
  let waiting := s.forming.find? (fun e => e.2.gang == gid && e.2.arg == arg && e.2.formed.isNone && !e.2.failed &&
    e.2.issued.any (fun m => ms.contains m))
  let (k, s, issued, dests) : Nat × State × List Nat × AList Dest := match waiting with
    | some e => (e.1, s, e.2.issued ++ [tid], e.2.dests)
    | none => (s.nextId, { s with nextId := s.nextId + 1 }, [tid], [])
  if ms.all (fun m => issued.contains m) then
    let grp : VGroup := { gang := gid, members := ms.map (fun m => (m, true, false)), words := [], armed := [], joining := [] }
    { s with groups := alSet s.groups k grp,
             forming := alSet s.forming k { gang := gid, arg := arg, issued := issued, formed := some k, failed := false, dests := dests } }
  else { s with forming := alSet s.forming k { gang := gid, arg := arg, issued := issued, formed := none, failed := false, dests := dests } }

/-- `grp.form` (R230): forms a vector group once every member of the rectangle has issued it. -/
def execGrpForm (d a : BitVec 5) (s : State) : Host.Outcome State Fault Refusal :=
  issue (grpNeed [.sR a, .sW d]) (do
    let before ← get
    let x ← getS a
    let g ← me
    let t ← self
    let s ← get
    match s.formingOf g.tid with
    | some (k, f) => formed d k f
    | none =>
      let gang := t.gang.bind (fun k => (alGet s.gangs k).map (fun r => (k, r)))
      match gang with
      | none => groupMisuse id
      | some (gid, r) =>
        if (s.groupRegs t).gsize = 0 then groupMisuse id
        else match r.part x with
          | none => groupMisuse (fun s => s.failForming gid r [g.tid])
          | some ms =>
            if !ms.contains g.tid then groupMisuse (fun s => s.failForming gid r [g.tid])
            else if (s.groupOf g.tid).isSome then groupMisuse (fun s => s.failForming gid r [g.tid])
            else if s.forming.any (fun e => e.2.gang == gid && e.2.arg != x && e.2.formed.isNone &&
                (e.2.meets r [g.tid] || e.2.issued.any (fun m => ms.contains m))) then
              groupMisuse (fun s =>
                { s with forming := s.forming.map (fun e =>
                    if e.2.gang = gid ∧ e.2.arg ≠ x ∧ e.2.formed = none ∧
                        (e.2.meets r [g.tid] ∨ e.2.issued.any (fun m => ms.contains m)) then (e.1, { e.2 with failed := true })
                    else e) })
            else match (s.arriveForm gid g.tid x ms).formingOf g.tid with
              | some (k, f) =>
                if f.formed.isSome then do
                  set (s.arriveForm gid g.tid x ms)
                  formed d k f
                else do
                  set before
                  stallKeep .group (fun s => (s.arriveForm gid g.tid x ms).holdForm g d x)
              | none => stall .group) s

/-- Every detached follower that has not left waits at an address (R232). -/
def VGroup.gathered (g : VGroup) (pc : VAddr) : Bool :=
  g.members.all (fun m => m.2.1 || m.2.2 || g.joining.contains (m.1, pc))

/-- Attach every follower that has not left (R232). -/
def VGroup.reunite (g : VGroup) : VGroup :=
  { g with members := g.members.map (fun m => if m.2.2 then m else (m.1, true, false)), joining := [] }

/-- `grp.join` (R232): reunites the leader with its detached followers. -/
def execGrpJoin (s : State) : Host.Outcome State Fault Refusal :=
  issue (grpNeed []) (do
    let a ← me
    let c ← ctx
    let s ← get
    match s.groupOf a.tid with
    | none => pure .seq
    | some (gid, g) =>
      if g.leader = a.tid then
        if g.gathered c.pc then do
          set { s with groups := alSet s.groups gid g.reunite }
          pure .seq
        else stall .group
      else if s.attached a.tid then pure .seq
      else do
        let g := { g with joining := g.joining.filter (fun j => j.1 != a.tid) ++ [(a.tid, c.pc)] }
        stallKeep .group (fun s => { s with groups := alSet s.groups gid g })) s

/-- `grp.leave` (R232): a follower leaves its group for good, the leader dissolves it. -/
def execGrpLeave (s : State) : Host.Outcome State Fault Refusal :=
  issue (grpNeed []) (do
    let a ← me
    modify (fun s => s.detach a.tid true)
    pure .seq) s

/-- `FORWARDED_WORD` (R231): an attached follower executes the oldest word forwarded to it: its next turn runs it. -/
def execForwardedWord (tid : Nat) (s : State) : Host.Outcome State Fault Refusal :=
  match s.groupOf tid with
  | none => .next s
  | some (gid, g) =>
    match alGetD g.words tid [] with
    | [] => .next s
    | w :: _ =>
      if !s.attached tid ∨ g.armed.contains tid ∨ (s.formingOf tid).isSome then .next s
      else
        let g := { g with armed := tid :: g.armed }
        let s := { s with groups := alSet s.groups gid g, cur := { tid := tid, acc := false } }
        .next (s.updThread tid (fun t => t.updCtx false (fun c => { c with pc := w.pc })))

end Sys2Proof.Machine
end

