-- ==== Sys2Proof/Machine/Modifier.lean ====
section
/-! DEFINITION. Instructions preceded by a modifier word (R57, R58, Table 2.3). -/

namespace Sys2Proof.Machine

/-- The eligible instruction `i` with the modifier `m` (Table 2.3): the operation of its plain form, 8 bytes long. -/
def modified (m : Mod) (i : Instr) (s : State) : Host.Outcome State Fault Refusal :=
  match i with
  | .fadd d a b g => fpRR .add (some m) 8 d a b g s
  | .fsub d a b g => fpRR .sub (some m) 8 d a b g s
  | .fmul d a b g => fpRR .mul (some m) 8 d a b g s
  | .fdiv d a b g => fpRR .div (some m) 8 d a b g s
  | .fsqrt d b g => fpR .sqrt (some m) 8 d b g s
  | .fmin d a b g => fpRR .min (some m) 8 d a b g s
  | .fmax d a b g => fpRR .max (some m) 8 d a b g s
  | .ffma d a b g => fpFma (some m) 8 d a b g s
  | .fabs d b g => fpR .abs (some m) 8 d b g s
  | .fneg d b g => fpR .neg (some m) 8 d b g s
  | .fcvtF32S64 d b g => fpFromInt true (some m) 8 d b g s
  | .fcvtS64F32 d b g => fpToInt true (some m) 8 d b g s
  | .fcvtF32N64 d b g => fpFromInt false (some m) 8 d b g s
  | .fcvtN64F32 d b g => fpToInt false (some m) 8 d b g s
  | .fcmppEq d a b g => fpCmp .eq (some m) 8 d a b g s
  | .fcmppLt d a b g => fpCmp .lt (some m) 8 d a b g s
  | .fcmppLe d a b g => fpCmp .le (some m) 8 d a b g s
  | .fcmppUn d a b g => fpCmp .un (some m) 8 d a b g s
  | .vaddS32 d a b g => vintRR .add false (some m) 8 d a b g s
  | .vsubS32 d a b g => vintRR .sub false (some m) 8 d a b g s
  | .vmulS32 d a b g => vintRR .mul false (some m) 8 d a b g s
  | .vmulhS32 d a b g => vintRR .mulh false (some m) 8 d a b g s
  | .vminS32 d a b g => vintRR .minS false (some m) 8 d a b g s
  | .vmaxS32 d a b g => vintRR .maxS false (some m) 8 d a b g s
  | .vminN32 d a b g => vintRR .minN false (some m) 8 d a b g s
  | .vmaxN32 d a b g => vintRR .maxN false (some m) 8 d a b g s
  | .vaddS32ScalarB d a b g => vintRR .add true (some m) 8 d a b g s
  | .vsubS32ScalarB d a b g => vintRR .sub true (some m) 8 d a b g s
  | .vmulS32ScalarB d a b g => vintRR .mul true (some m) 8 d a b g s
  | .vmulhS32ScalarB d a b g => vintRR .mulh true (some m) 8 d a b g s
  | .vminS32ScalarB d a b g => vintRR .minS true (some m) 8 d a b g s
  | .vmaxS32ScalarB d a b g => vintRR .maxS true (some m) 8 d a b g s
  | .vminN32ScalarB d a b g => vintRR .minN true (some m) 8 d a b g s
  | .vmaxN32ScalarB d a b g => vintRR .maxN true (some m) 8 d a b g s
  | .vaddF32 d a b g => vfpRR .add false (some m) 8 d a b g s
  | .vsubF32 d a b g => vfpRR .sub false (some m) 8 d a b g s
  | .vmulF32 d a b g => vfpRR .mul false (some m) 8 d a b g s
  | .vdivF32 d a b g => vfpRR .div false (some m) 8 d a b g s
  | .vminF32 d a b g => vfpRR .min false (some m) 8 d a b g s
  | .vmaxF32 d a b g => vfpRR .max false (some m) 8 d a b g s
  | .vaddF32ScalarB d a b g => vfpRR .add true (some m) 8 d a b g s
  | .vsubF32ScalarB d a b g => vfpRR .sub true (some m) 8 d a b g s
  | .vmulF32ScalarB d a b g => vfpRR .mul true (some m) 8 d a b g s
  | .vdivF32ScalarB d a b g => vfpRR .div true (some m) 8 d a b g s
  | .vminF32ScalarB d a b g => vfpRR .min true (some m) 8 d a b g s
  | .vmaxF32ScalarB d a b g => vfpRR .max true (some m) 8 d a b g s
  | .vsqrtF32 d b g => vfpR .sqrt (some m) 8 d b g s
  | .vabsF32 d b g => vfpR .abs (some m) 8 d b g s
  | .vnegF32 d b g => vfpR .neg (some m) 8 d b g s
  | .vrcpF32 d b g => vapprox .rcp (some m) 8 d b g s
  | .vrsqrtF32 d b g => vapprox .rsqrt (some m) 8 d b g s
  | .vexp2F32 d b g => vapprox .exp2 (some m) 8 d b g s
  | .vlog2F32 d b g => vapprox .log2 (some m) 8 d b g s
  | .vtanhF32 d b g => vapprox .tanh (some m) 8 d b g s
  | .vrintF32 d b g => vfpR .rint (some m) 8 d b g s
  | .vfmaF32 d a b g => vfused (fop .fma) false (some m) 8 d a b g s
  | .vfmsF32 d a b g => vfused (fop .fms) false (some m) 8 d a b g s
  | .vfnmaF32 d a b g => vfused (fop .fnma) false (some m) 8 d a b g s
  | .vfnmsF32 d a b g => vfused (fop .fnms) false (some m) 8 d a b g s
  | .vdotBf16 d a b g => vfused dotBf16 false (some m) 8 d a b g s
  | .vdotS8 d a b g => vfused dotS8 false (some m) 8 d a b g s
  | .vfmaF32ScalarB d a b g => vfused (fop .fma) true (some m) 8 d a b g s
  | .vfmsF32ScalarB d a b g => vfused (fop .fms) true (some m) 8 d a b g s
  | .vfnmaF32ScalarB d a b g => vfused (fop .fnma) true (some m) 8 d a b g s
  | .vfnmsF32ScalarB d a b g => vfused (fop .fnms) true (some m) 8 d a b g s
  | .vcvtF32S32 d a g => vconv (fun m rm _ x => intToFloat m rm (negA m) (absA m) x.toInt) true (some m) 8 d a g s
  | .vcvtS32F32 d a g => vconv toS32 true (some m) 8 d a g s
  | .vcvtBf16F32 d a g => vnarrow .bf16 16 (some m) 8 d a g s
  | .vcvtF32Bf16 d a b g => vconv (widen .bf16 16 b.toNat) (decide (b.toNat ≤ 1)) (some m) 8 d a g s
  | .vcvtF16F32 d a g => vnarrow .f16 16 (some m) 8 d a g s
  | .vcvtF32F16 d a b g => vconv (widen .f16 16 b.toNat) (decide (b.toNat ≤ 1)) (some m) 8 d a g s
  | .vcvtE4m3F32 d a g => vnarrow .e4m3 8 (some m) 8 d a g s
  | .vcvtF32E4m3 d a b g => vconv (widen .e4m3 8 b.toNat) (decide (b.toNat ≤ 3)) (some m) 8 d a g s
  | .vcvtE5m2F32 d a g => vnarrow .e5m2 8 (some m) 8 d a g s
  | .vcvtF32E5m2 d a b g => vconv (widen .e5m2 8 b.toNat) (decide (b.toNat ≤ 3)) (some m) 8 d a g s
  | .vqntBx4 d a g => vquant bx4Rule (some m) 8 d a g s
  | .vdqntBx4 d a g => vdequant true (some m) 8 d a g s
  | .vqntBx8i d a g => vquant bx8iRule (some m) 8 d a g s
  | .vdqntBx8i d a g => vdequant false (some m) 8 d a g s
  | _ => illegal s

/-- A modifier word and the instruction it modifies (R57): both are illegal together where the instruction is not eligible or a
field it sets is not used. -/
def execModifierWord (m : Mod) (i : Instr) (s : State) : Host.Outcome State Fault Refusal :=
  if i.eligible m then modified m i s else illegal s

end Sys2Proof.Machine
end

