-- ==== Sys2Proof/Machine/Protocol.lean ====
section
/-! DEFINITION. The protocol class, majors 0x31 to 0x33: directory and tag, transfers and the end of a handler (R238 to R240, R395,
R396). -/

namespace Sys2Proof.Machine

/-- Issue needs of a protocol instruction. -/
def protoNeed (uses : List Use) : Need := { legal := true, cls := .heddleOnly, uses := uses, len := 4 }

/-- The heddle context of the thread that issues. -/
def heddleCtx : Exec HeddleCtx := do
  let t ← self
  match t.heddle with
  | some x => pure x
  | none => raise 0x01 0 0

/-- Update the heddle context of the thread that issues. -/
def updHeddleCtx (f : HeddleCtx → HeddleCtx) : Exec Unit := updSelf (fun t => { t with heddle := t.heddle.map f })

/-- The block address A names, homed at this heddle (R238). -/
def homeBlock (a : Word) : Exec Nat := do
  let x ← heddleCtx
  let pa := a.toNat
  if pa % 128 = 0 ∧ hbmBacked pa ∧ (← get).homeHeddle pa = x.heddle then pure pa else raise 0x04 a a

/-- The block's directory entry is brought into the heddle's cache (R238, R363); one whose place in the directory store cannot be read
is consumed as poison (R348, R382). -/
def cacheEntry (pa : Nat) : Exec Unit := do
  let h ← heddleCtx
  modify (fun s => s.cacheDir h.heddle (blockNo pa))
  if !(← get).dirCached h.heddle (blockNo pa) then raise 0x15 (BitVec.ofNat 64 pa) 0

/-- `dir.ld` (R238): reads the block's directory entry. -/
def execDirLd (d a : BitVec 5) (s : State) : Host.Outcome State Fault Refusal :=
  issue (protoNeed [.sR a, .sW d]) (do
    let pa ← homeBlock (← getS a)
    cacheEntry pa
    setS d ((← get).block (blockNo pa)).dir
    pure .seq) s

/-- `dir.st` (R238): writes the block's directory entry. -/
def execDirSt (a b : BitVec 5) (s : State) : Host.Outcome State Fault Refusal :=
  issue (protoNeed [.sR a, .sR b]) (do
    let x ← getS a
    let y ← getS b
    let pa ← homeBlock x
    cacheEntry pa
    modify (fun s => s.updBlock (blockNo pa) (fun m => { m with dir := y }))
    pure .seq) s

/-- `tag.get` (R238): reads the block's metadata byte. -/
def execTagGet (d a : BitVec 5) (s : State) : Host.Outcome State Fault Refusal :=
  issue (protoNeed [.sR a, .sW d]) (do
    let pa ← homeBlock (← getS a)
    setS d (((← get).block (blockNo pa)).byte.setWidth 64)
    pure .seq) s

/-- `tag.set` (R238): sets the access state and, with B<8>, the colour. -/
def execTagSet (a b : BitVec 5) (s : State) : Host.Outcome State Fault Refusal :=
  issue (protoNeed [.sR a, .sR b]) (do
    let x ← getS a
    let y ← getS b
    let pa ← homeBlock x
    if field y 7 6 ≠ 0 ∨ field y 63 9 ≠ 0 then raise 0x01 0 0
    else modify (fun s => s.updBlock (blockNo pa) (fun m =>
      { m with access := y.extractLsb' 0 2, colour := if bit y 8 then y.extractLsb' 2 4 else m.colour }))
    pure .seq) s

/-- The block of home memory is poisoned or is not sealed under a key. -/
def State.badUnder (s : State) (b : Nat) (k : KeyId) : Bool := !s.readable b k

/-- Load a block of home memory into the data buffer (R239, R396). -/
def loadBuffer (pa : Nat) : Exec Unit := do
  let s ← get
  updHeddleCtx (fun x => { x with buffer := some (s.blockData (blockNo pa)), bufBad := s.badUnder (blockNo pa) x.hkey })

/-- `bxfer` (R239): writes the data buffer to home memory, or loads the block into it; the transfer is done at once. -/
def execBxfer (t a b : BitVec 5) (s : State) : Host.Outcome State Fault Refusal :=
  issue (protoNeed [.sR a, .sR b, .tok t]) (do
    let x ← getS a
    let y ← getS b
    let pa ← homeBlock x
    let h ← heddleCtx
    if field y 63 1 ≠ 0 then raise 0x01 0 0
    else if bit y 0 then loadBuffer pa
    else match h.buffer with
      | none => raise 0x01 0 0
      | some d =>
        modify (fun s =>
          let s := s.homeStore h.hkey pa (leBytes 128 d.toNat)
          if h.bufBad then s.updBlock (blockNo pa) (fun m => { m with poison := true }) else s)
    setT t 0
    pure .seq) s

/-- The node in B<62:32>, which must exist (R239). -/
def nodeOf (b : Word) : Exec (BitVec 31) := do
  let n : BitVec 31 := b.extractLsb' 32 31
  match (← get).node n with
  | some _ => pure n
  | none => raise 0x01 0 0

/-- The slot a `reply` to a node carries: the recorded one for the recorded ORIG (R395). -/
def State.replySlot (s : State) (x : HeddleCtx) (pa : Nat) (n : BitVec 31) : BitVec 7 :=
  match alGet (s.heddle x.heddle).fwds (blockNo pa) with
  | some r => if n = r.orig then r.slot else x.inSlot
  | none => x.inSlot

/-- `reply` (R239): sends an ACK or the data buffer to a node on the reply lane. -/
def execReply (a b : BitVec 5) (s : State) : Host.Outcome State Fault Refusal :=
  issue (protoNeed [.sR a, .sR b]) (do
    let x ← getS a
    let y ← getS b
    let pa ← homeBlock x
    let kind := field y 1 0
    let grant := field y 5 4
    if bit y 63 ∨ field y 31 6 ≠ 0 ∨ field y 3 2 ≠ 0 ∨ 2 ≤ kind ∨ (kind = 1 ∧ (grant = 0 ∨ grant = 3)) then raise 0x01 0 0
    else do
      let n ← nodeOf y
      let h ← heddleCtx
      if kind = 1 ∧ h.buffer = none then loadBuffer pa
      let h ← heddleCtx
      modify (fun s =>
        let m := mkMsg n (s.heddleNode h.heddle) h.horig tRecallack true (s.replySlot h pa n) h.hkey pa (BitVec.ofNat 2 kind)
          (BitVec.ofNat 2 grant) (if kind = 1 then h.buffer else none)
        s.sendMsg { m with bad := kind == 1 && h.bufBad })
    pure .seq) s

/-- `nack` (R239): sends NACK for the block to the sender of the dispatching message. -/
def execNack (a : BitVec 5) (s : State) : Host.Outcome State Fault Refusal :=
  issue (protoNeed [.sR a]) (do
    let pa ← homeBlock (← getS a)
    let h ← heddleCtx
    modify (fun s =>
      s.sendMsg (mkMsg h.hsrc (s.heddleNode h.heddle) h.horig tNack true (s.replySlot h pa h.hsrc) h.hkey pa kNack 0 none))
    pure .seq) s

/-- The slot a forward records: that of the requester (R395). -/
def State.requestSlot (s : State) (x : HeddleCtx) : BitVec 7 :=
  match alGet (s.heddle x.heddle).fwds (blockNo x.haddr.toNat) with
  | some r => if x.answers then r.slot else x.inSlot
  | none => x.inSlot

/-- `fwd` (R239, R395): sends one request on the reserved slot and records the forward. -/
def execFwd (a b : BitVec 5) (s : State) : Host.Outcome State Fault Refusal :=
  issue (protoNeed [.sR a, .sR b]) (do
    let x ← getS a
    let y ← getS b
    let pa ← homeBlock x
    let h ← heddleCtx
    let type := field y 3 0
    if bit y 63 ∨ field y 31 5 ≠ 0 ∨ !(type == 3 || type == 6 || type == 7 || type == 8) ∨ h.fwdSent then raise 0x01 0 0
    else do
      let n ← nodeOf y
      let s ← get
      let slot := s.requestSlot h
      let m := mkMsg n (s.heddleNode h.heddle) h.horig type false h.hslot h.hkey pa 0 0 (if bit y 4 then h.buffer else none)
      let m := { m with bad := bit y 4 && h.bufBad }
      let s := s.sendMsg m
      let r : FwdRecord :=
        { node := n, orig := h.horig, slot := slot, hslot := h.hslot, answered := false, msg := m, nacks := 0, again := none }
      set (s.updHeddle h.heddle (fun k => { k with fwds := alSet k.fwds (blockNo pa) r }))
      updHeddleCtx (fun x => { x with fwdSent := true })
    pure .seq) s

/-- `hend` (R240): ends the handler and frees its thread and, unless a `fwd` uses it, its reply slot. -/
def execHend (s : State) : Host.Outcome State Fault Refusal :=
  issue (protoNeed []) (do
    let a ← me
    let h ← heddleCtx
    modify (fun s => s.heddleEnd a.tid h)
    pure .stay) s

end Sys2Proof.Machine
end

