-- ==== Sys2Proof/Machine/RasEvents.lean ====
section
/-! DEFINITION. Illegal words (R60), a handler's limits (R241), and what the device does when a part fails: scrubbing (R403), links and
ports (R392, R400), power and temperature (R410). -/

namespace Sys2Proof.Machine

/-- `ILLEGAL_INSTRUCTION` (R48, R60): issuing a word that stands for no instruction raises 0x01. -/
def execIllegalInstruction (_why : IllegalWhy) (s : State) : Host.Outcome State Fault Refusal := illegal s

/-- Abort a heddle thread that has passed a limit. -/
def State.handlerLimit (s : State) (tid : Nat) (past : HeddleCtx → Bool) : State :=
  match s.thread? tid with
  | some t => (match t.heddle with
    | some x => if past x then s.heddleAbort tid x 0x30 t.exe.pc true else s
    | none => s)
  | none => s

/-- `HANDLER_STEP_LIMIT` (R241): a handler that would issue its 513th instruction aborts, poisoning the block. -/
def execHandlerStepLimit (tid : Nat) (s : State) : Host.Outcome State Fault Refusal :=
  .next (s.handlerLimit tid (fun x => decide (512 ≤ x.hsteps)))

/-- `HANDLER_WATCHDOG` (R241): a handler that has run for 16,384 cycles aborts with cause 0x30. -/
def execHandlerWatchdog (tid : Nat) (s : State) : Host.Outcome State Fault Refusal :=
  .next (s.handlerLimit tid (fun x => decide (16384 ≤ s.tick - x.since)))

/-- Set or clear a bit of READY (Table 19.11). -/
def State.setReady (s : State) (k : Nat) (b : Bool) : State :=
  s.updMgmt (fun m => { m with ready := putField m.ready k k (if b then 1 else 0) })

/-- The device stops as fatal, its last entry logged first: while the log has no room for it and the host port is up, the device goes on
(R407, R410). -/
def State.stopDevice (s : State) (why : Dead) : State := { s with stopping := some (s.stopping.getD why) }.settleStop

/-- Cycles in 24 hours. -/
def dayCycles : Nat := 86400 * 1750000000

/-- Count a corrected error of a frame: the third within any 24 hours retires it (R403). -/
def StackState.correct (x : StackState) (frame tick : Nat) : Bool × StackState :=
  let x := { x with corr := satInc x.corr }
  let l := tick :: (alGetD x.frames frame []).filter (fun t => decide (tick - t ≤ dayCycles))
  if l.length < 3 ∨ x.retiredFrames.contains frame then (false, { x with frames := alSet x.frames frame l })
  else (true, { x with frames := alErase x.frames frame, retiredFrames := frame :: x.retiredFrames, retired := satInc x.retired })

/-- Blocks of a stack (R348). -/
def stackBlocks : Nat := 2 ^ 29

/-- The first page below a table that a leaf maps to a frame of HBM (R345, R346). -/
def State.mapsFrame (s : State) (frame : Nat) : Nat → Nat → Nat → Option Nat
  | lvl, base, va =>
    (List.range (if lvl = 4 then 256 else 512)).findSome? (fun i =>
      let w0 := BitVec.ofNat 64 (s.mem.num (base + 16 * i) 8)
      let va := va + i * 2 ^ (12 + 9 * lvl)
      if !bit w0 0 then none
      else if bit w0 1 then
        (if field w0 9 8 = 0 ∧ field w0 51 12 ≤ frame ∧ frame < field w0 51 12 + 2 ^ (9 * lvl) then some va else none)
      else match lvl with
        | 0 => none
        | n + 1 => s.mapsFrame frame n (field w0 51 13 * 8192) va)

/-- The treadle firmware migrates the page that holds a retired frame to another (R403, R355): a page with PIN set too. -/
def State.leaveFrame (s : State) (pa : Nat) : State :=
  let d := s.die (paDie pa)
  let new := Config.spareFrame (pa / 4096) s.freeCtr * 4096
  match (if s.firmware ∧ bit d.ptroot 0 then s.mapsFrame (pa / 4096) 4 (field d.ptroot 51 12 * 4096) 0 else none) with
  | none => s
  | some va => match s.walk (paDie pa) (fun _ => true) (BitVec.ofNat 56 va) with
    | .ok e => ({ s with freeCtr := s.freeCtr + 1 }).migrate
        { va := BitVec.ofNat 56 va, old := (e.leaf (BitVec.ofNat 56 va)).pa, new := new, idx := (e.leaf (BitVec.ofNat 56 va)).migidx }
    | .error _ => s

/-- A read of a block of HBM, by the scrubber or on demand, meets an ECC and tag outcome (R382, R403, R404): a corrected block is written
back, counted and logged once; a tag mismatch of the memory poisons the stored block (log entry 33). -/
def State.checkRead (s : State) (pa : Nat) (found : EccOutcome) : State :=
  let die := paDie pa
  let st := paStack pa
  let unit := rasUnit 2 die (paHeddle pa)
  let addr : Word := BitVec.ofNat 64 pa
  let poisoned (s : State) : State := s.updBlock (blockNo pa) (fun m => { m with poison := true })
  match found with
  | .clean => s
  | .corrected =>
    let r := (vget (s.die die).hbmStacks st StackState.init).correct (pa / 4096) s.tick
    let detail := Config.fresh s.freeCtr
    let s := ({ s with freeCtr := s.freeCtr + 1 }).updStack die st (fun _ => r.2)
    let s := s.logRas 0 1 unit 0 addr detail
    if r.1 then (s.logRas 1 13 unit 0 (BitVec.ofNat 64 (pa / 4096 * 4096)) 0).leaveFrame pa else s
  | .tagMismatch => s.postIntegrity pa
  | .uncorrectable =>
    let s := (poisoned s).updStack die st (fun x => { x with unc := satInc x.unc })
    let p : Poster := { die := die, col := 60, row := paHeddle pa, tkind := 3, dom := 0, bobbin := 0, seqkey := 0 }
    (s.post die (mkEntry p 6 0x15 0 addr 0 0 s.tick)).logRas 2 1 unit 0x15 addr 0

/-- `SCRUB_READ` (R403, R382): the patrol scrubber reads and checks the next block of a stack. -/
def execScrubRead (stack : BitVec 4) (found : EccOutcome) (s : State) : Host.Outcome State Fault Refusal :=
  let die := stack.toNat / 3
  let st := stack.toNat % 3
  if 12 ≤ stack.toNat then .next s
  else
    let x := vget (s.die die).hbmStacks st StackState.init
    let pa := die * 2 ^ 38 + st * 2 ^ 36 + 128 * x.pos
    let s := s.updStack die st (fun x =>
      if x.pos + 1 = stackBlocks then { x with pos := 0, scrubpass := satInc x.scrubpass } else { x with pos := x.pos + 1 })
    .next (s.checkRead pa found)

/-- `LOCKSTEP_MISMATCH` (R323, R400): the treadle cores disagree; both stop and the security core restarts them. -/
def execLockstepMismatch (s : State) : Host.Outcome State Fault Refusal :=
  if !s.firmware then .next s
  else .next ((s.updMgmt (fun m => { m with treadleDownAt := some s.tick })).logRas 1 7 (rasUnit 7 0 1) 0 0 0)

/-- `HEARTBEAT_MISS` (R400): the treadle pair misses the security core's heartbeat; that core restarts with its key table kept. -/
def execHeartbeatMiss (s : State) : Host.Outcome State Fault Refusal := .next (s.logRas 1 12 (rasUnit 7 0 0) 0 0 0)

/-- Update a fabric port; a change of its state raises EPOCH and shows in READY (R386, R391, R392). -/
def State.updPort (s : State) (k : Nat) (f : FabricPort → FabricPort) : State :=
  let old := s.port k
  let new := f old
  let s := s.updMgmt (fun m => { m with ports := vset m.ports k new, epoch := if new.state = old.state then m.epoch else m.epoch + 1 })
  s.setReady (24 + k) (new.state == 2)

/-- UNIT of a fabric port. -/
def portUnit (k : Nat) : BitVec 20 := rasUnit 3 (k / 6) (k % 6)

/-- A fabric port goes down, which is job-interrupting (R400). -/
def State.portLost (s : State) (k : Nat) : State :=
  (s.updPort k (fun x => { x with state := 0, downs := satInc x.downs })).logRas 3 6 (portUnit k) 0 0 0

/-- `PORT_DOWN` (R400, R392): a port with no flit or keepalive for 100 µs goes down. -/
def execPortDown (port : BitVec 5) (s : State) : Host.Outcome State Fault Refusal :=
  let k := port.toNat
  if 24 ≤ k ∨ (s.port k).state ≠ 2 then .next s else .next (s.portLost k)

/-- Cycles between a port's failure to train and its next attempt: 100 ms (R392). -/
def trainRetry : Nat := 100000 * usCycles

/-- A port fails to train: it reads STATE 3 (R392). -/
def State.trainFails (s : State) (k : Nat) : State :=
  if 24 ≤ k ∨ (s.port k).state ≠ 1 then s else s.updPort k (fun x => { x with state := 3, failedAt := s.tick })

/-- `PORT_TRAINING_RETRY` (R392): a port that is down trains again, and one that failed to train does so 100 ms later. -/
def execPortTrainingRetry (port : BitVec 5) (s : State) : Host.Outcome State Fault Refusal :=
  let k := port.toNat
  let x := s.port k
  if 24 ≤ k ∨ x.state = 2 ∨ x.state = 1 ∨ (x.state = 3 ∧ s.tick < x.failedAt + trainRetry) then .next s
  else .next (s.updPort k (fun x => { x with state := 1 }))

/-- `PORT_TRAINED_UP` (R392, R411): a port has trained; its plane authenticates, and else the port reads STATE 3. -/
def execPortTrainedUp (port : BitVec 5) (plane : PlaneReport) (s : State) : Host.Outcome State Fault Refusal :=
  let k := port.toNat
  if 24 ≤ k ∨ (s.port k).state = 2 then .next s
  else .next (s.updPort k (fun x =>
    if plane.authentic then
      { x with state := 2, peerDev := plane.peerDev, peerPort := plane.peerPort, peerId := plane.peerId, lanes := 4 }
    else { x with state := 3, failedAt := s.tick }))

/-- New readings of a die's temperature and the module's power (Table 21.8), and since when power has exceeded 2,800 W. -/
def State.sense (s : State) (die temp mw : Nat) : State :=
  (s.updDie die (fun d => { d with temp := temp })).updMgmt (fun m =>
    { m with power := BitVec.ofNat 32 mw, powerHigh := if mw ≤ 2800000 then none else some (m.powerHigh.getD s.tick) })

/-- Power has exceeded 2,800 W for 1 ms (R410). -/
def State.powerLong (s : State) : Bool :=
  match s.mgmt.powerHigh with
  | some t => decide (t + 1000 * usCycles ≤ s.tick)
  | none => false

/-- A die reaches 115 °C: the device logs SEV 4, CLASS 9, and stops (R410). -/
def State.tooHot (s : State) (d temp : Nat) : State := (s.logRas 4 9 (rasUnit 9 d d) 0 0 (BitVec.ofNat 64 temp)).stopDevice .thermal

/-- `THROTTLE` (R410): above 105 °C, or above 2,800 W for 1 ms, a die's arrays and vector units accept work in one cycle of two. -/
def execThrottle (die : BitVec 2) (temp : Nat) (mw : Nat) (s : State) : Host.Outcome State Fault Refusal :=
  let d := die.toNat
  let s := s.sense d temp mw
  if 115 ≤ temp then .next (s.tooHot d temp)
  else if (s.die d).throt ∨ (temp ≤ 105 ∧ !s.powerLong) then .next s
  else .next ((s.updDie d (fun x => { x with throt := true })).logRas 1 (if 105 < temp then 9 else 10) (rasUnit 9 d d) 0 0
    (BitVec.ofNat 64 temp))

/-- `THROTTLE_CLEAR` (R410): throttling ends below 100 °C and 2,700 W. -/
def execThrottleClear (die : BitVec 2) (temp : Nat) (mw : Nat) (s : State) : Host.Outcome State Fault Refusal :=
  let d := die.toNat
  let s := s.sense d temp mw
  if 115 ≤ temp then .next (s.tooHot d temp)
  else if (s.die d).throt ∧ temp < 100 ∧ mw < 2700000 then
    .next ((s.updDie d (fun x => { x with throt := false })).logRas 1 9 (rasUnit 9 d d) 0 0 (BitVec.ofNat 64 temp))
  else .next s

/-- `THERMAL_STOP` (R410): at 115 °C the device logs SEV 4, CLASS 9, and stops. -/
def execThermalStop (die : BitVec 2) (temp : Nat) (s : State) : Host.Outcome State Fault Refusal :=
  let d := die.toNat
  if temp < 115 then .next s
  else
    .next ((s.updDie d (fun x => { x with temp := temp })).tooHot d temp)

/-- `HOST_LINK_DOWN` (R400): the host port's link goes down, which is job-interrupting. -/
def execHostLinkDown (s : State) : Host.Outcome State Fault Refusal :=
  if !s.mgmt.hostUp then .next s
  else
    let s := s.updMgmt (fun m => { m with hostUp := false, linkdown := satInc m.linkdown })
    .next ((s.setReady 48 false).logRas 3 6 (rasUnit 8 0 0) 0 0 0).settleStop

/-- The dies a bridge joins, in the order of Table 19.11. -/
def bridgeDies (b : Nat) : Nat × Nat :=
  match b with
  | 0 => (0, 1)
  | 1 => (0, 2)
  | 2 => (0, 3)
  | 3 => (1, 2)
  | 4 => (1, 3)
  | _ => (2, 3)

/-- A bridge is lost beyond sparing: device fatal (R400). -/
def State.bridgeGone (s : State) (a b : Nat) : State :=
  let lo := min a b
  let hi := max a b
  let k := if lo = 0 then hi - 1 else lo + hi
  ((s.setReady (18 + k) false).logRas 4 6 (rasUnit 4 lo hi) 0 0 0).stopDevice .bridge

/-- `BRIDGE_LOST` (R400): a die bridge is lost beyond sparing, which is device fatal. -/
def execBridgeLost (bridge : BitVec 3) (s : State) : Host.Outcome State Fault Refusal :=
  if 6 ≤ bridge.toNat then .next s
  else
    let d := bridgeDies bridge.toNat
    .next (s.bridgeGone d.1 d.2)

/-- `RAIL_OR_PLL_FAULT` (R400): a power rail or PLL is out of limits, which is device fatal. -/
def execRailOrPllFault (clock : Bool) (rail : BitVec 8) (s : State) : Host.Outcome State Fault Refusal :=
  let s := s.logRas 4 (if clock then 11 else 10) (rasUnit 9 0 rail.toNat) 0 0 (rail.setWidth 64)
  .next (s.stopDevice (if clock then .clock else .power))

/-- `HBM_HEALTH_POLL` (R400): a stack that is lost is reported as job-interrupting. -/
def execHbmHealthPoll (stack : BitVec 4) (lost : Bool) (s : State) : Host.Outcome State Fault Refusal :=
  let die := stack.toNat / 3
  let st := stack.toNat % 3
  if 12 ≤ stack.toNat ∨ !lost ∨ (vget (s.die die).hbmStacks st StackState.init).lost then .next s
  else
    let s := s.updStack die st (fun x => { x with lost := true })
    .next ((s.setReady (6 + stack.toNat) false).logRas 3 1 (rasUnit 2 die (2 * st)) 0 0 0)

/-- The index of a die's bridge to another die among its three (Table 21.8). -/
def bridgeIndex (a b : Nat) : Nat := if b < a then b else b - 1

/-- Count at a bridge, in the records of both dies that it joins (Table 21.8). -/
def State.countBridge (s : State) (a b : Nat) (f : Die → Nat → Die) : State :=
  (s.updDie a (fun d => f d (bridgeIndex a b))).updDie b (fun d => f d (bridgeIndex b a))

/-- `LINK_FLIT_ERROR` (R400): a flit that fails CRC is retried and counted; Table 21.8 has no counter of the mesh. -/
def execLinkFlitError (link : LinkName) (s : State) : Host.Outcome State Fault Refusal :=
  match link with
  | .mesh d => .next (s.logRas 0 4 (rasUnit 0 d.toNat 0) 0 0 0)
  | .bridge a b =>
    if a = b then .next s
    else
      let s := s.countBridge a.toNat b.toNat (fun d i => { d with brCrc := vset d.brCrc i (satInc (vget d.brCrc i 0)) })
      .next (s.logRas 0 4 (rasUnit 4 a.toNat b.toNat) 0 0 0)
  | .port k =>
    if 24 ≤ k.toNat then .next s
    else .next ((s.updPort k.toNat (fun x => { x with crcretry := satInc x.crcretry })).logRas 0 4 (portUnit k.toNat) 0 0 0)

/-- `LANE_FAILURE` (R400): a bridge takes a spare lane, of which it has two; a fabric port goes from four lanes to two, and then down. DETAIL
names the lane (Table 21.4). -/
def execLaneFailure (link : LinkLane) (s : State) : Host.Outcome State Fault Refusal :=
  let detail : Word := link.lane.setWidth 64
  match link.name with
  | .mesh _ => .next s
  | .bridge a b =>
    if a = b then .next s
    else
      let i := bridgeIndex a.toNat b.toNat
      if 2 ≤ (vget (s.die a.toNat).brSpared i 0).toNat then .next (s.bridgeGone a.toNat b.toNat)
      else
        let s := s.countBridge a.toNat b.toNat (fun d i => { d with brSpared := vset d.brSpared i (vget d.brSpared i 0 + 1) })
        .next (s.logRas 1 5 (rasUnit 4 a.toNat b.toNat) 0 0 detail)
  | .port k =>
    let x := s.port k.toNat
    if 24 ≤ k.toNat ∨ x.state ≠ 2 then .next s
    else if x.lanes = 4 then .next ((s.updPort k.toNat (fun x => { x with lanes := 2 })).logRas 1 5 (portUnit k.toNat) 0 0 detail)
    else .next (s.portLost k.toNat)

end Sys2Proof.Machine
end

