-- ==== Sys2Proof/Machine/SecurityEvents.lean ====
section
/-! DEFINITION. The security core: keys at peers (R380, R381), the roster (R385), boot (R387, R391), SPDM (R386, R388, R411); and the host
port's window and AtomicOp completer (R390). -/

namespace Sys2Proof.Machine

/-- `KEY_EXPORT` (R381): a live key is sent to an admitted peer, which joins its EXPORTS. -/
def execKeyExport (index : BitVec 12) (peer : BitVec 15) (s : State) : Host.Outcome State Fault Refusal :=
  let k := s.key index.toNat
  if k.state ≠ .live ∨ !s.mgmt.admitted.contains peer ∨ k.exports.contains peer ∨ 511 ≤ k.exports.length ∨ !s.mgmt.securityUp then
    .next s
  else .next ((s.updKey index.toNat (fun k => { k with exports := k.exports ++ [peer] })).sendOut (.keySent peer index k.gen))

/-- The slot that holds a key imported from a peer. -/
def State.imported (s : State) (peer : BitVec 15) (index : BitVec 12) (gen : BitVec 8) : Option Nat :=
  (s.keys.find? (fun k => k.2.state == .live && k.2.kind == 3 && k.2.origin == some (peer, index, gen))).map (fun k => k.1)

/-- `PEER_KEY_RETIREMENT` (R381): a peer retires a key: one that this device imported from it is retired and acknowledged; for one of
this device's own, it is the peer's acknowledgement. Accesses under the key that are on their way come first (R296). -/
def execPeerKeyRetirement (peer : BitVec 15) (index : BitVec 12) (gen : BitVec 8) (s : State) : Host.Outcome State Fault Refusal :=
  match s.imported peer index gen with
  | some i => .next (if s.keyBusy (s.keyOf i) then s else (s.retireKey i none).sendOut (.retireAck peer index gen))
  | none =>
    let k := s.key index.toNat
    if k.state = .closing ∧ k.gen = gen ∧ k.exports.contains peer then .next (s.peerRetired index.toNat peer) else .next s

/-- A peer leaves the roster and is no longer admitted (R385). -/
def State.dropPeer (s : State) (peer : BitVec 15) : State :=
  s.updMgmt (fun m => { m with roster := m.roster.filter (· != peer), admitted := m.admitted.filter (· != peer) })

/-- `PEER_RETIREMENT_TIMEOUT` (R381): a peer that has not acknowledged within 1 ms leaves the roster, and the close goes on without it. -/
def execPeerRetirementTimeout (peer : BitVec 15) (index : BitVec 12) (s : State) : Host.Outcome State Fault Refusal :=
  let k := s.key index.toNat
  let due : Bool := match k.closer with
    | some (_, t) => decide (t + 1000 * usCycles ≤ s.tick)
    | none => true
  if k.state = .closing ∧ k.exports.contains peer ∧ due then .next ((s.dropPeer peer).peerRetired index.toNat peer) else .next s

/-- A key arrives from an admitted peer over its secured session (R381 step 2): it goes into a free slot of this device, as kind 3. -/
def State.peerKey (s : State) (peer : BitVec 15) (index : BitVec 12) (gen : BitVec 8) : State :=
  if !s.mgmt.admitted.contains peer ∨ !s.mgmt.securityUp ∨ (s.imported peer index gen).isSome then s
  else match s.freeKeySlot with
    | none => s
    | some i => (s.openKey i 3 0).updKey i (fun k => { k with origin := some (peer, index, gen) })

/-- This device has lost its session with a peer (R381): every key imported from the peer is retired, once the accesses under it that are on
their way are done (R296), and the peer is no longer admitted. None while they are not. -/
def State.loseSession (s : State) (peer : BitVec 15) : Option State :=
  let mine (k : KeySlot) : Bool := k.state == .live && k.kind == 3 && (match k.origin with
    | some (p, _, _) => p == peer
    | none => false)
  let keys := s.keys.filter (fun k => mine k.2)
  let t := keys.foldl (fun s k => s.retireKey k.1 none) s
  if keys.any (fun k => s.keyBusy (s.keyOf k.1)) then none
  else some (t.updMgmt (fun m => { m with admitted := m.admitted.filter (· != peer) }))

/-- `PEER_SESSION_LOSS` (R381): the session with a peer is lost. -/
def execPeerSessionLoss (peer : BitVec 15) (s : State) : Host.Outcome State Fault Refusal :=
  .next (match s.loseSession peer with
    | some t => t.updMgmt (fun m => { m with spdm := alErase m.spdm (1 + peer.toNat) })
    | none => s)

/-- Clear V in every leaf of a table, and below it, that names a key slot (R380 step 1). -/
def State.clearLeaves (s : State) (key : KeyId) (slot : Nat) : Nat → Nat → State
  | lvl, base =>
    (List.range (if lvl = 4 then 256 else 512)).foldl (fun s i =>
      let a := base + 16 * i
      let w0 := BitVec.ofNat 64 (s.mem.num a 8)
      if !bit w0 0 then s
      else if bit w0 1 then
        (if s.mem.num (a + 8) 8 % 4096 = slot then s.deviceWrite key a (leBytes 8 (putField w0 0 0 0).toNat) else s)
      else match lvl with
        | 0 => s
        | n + 1 => s.clearLeaves key slot n (field w0 51 13 * 8192)) s

/-- `SWEEP_DONE` (R380): the treadle pair has cleared and invalidated every leaf that names the slot, which becomes FREE. -/
def execSweepDone (index : BitVec 12) (s : State) : Host.Outcome State Fault Refusal :=
  let i := index.toNat
  let key := s.keyOf i
  if (s.key i).state ≠ .sweep ∨ !s.firmware ∨ s.outs.any (fun o => o.2.key == key && o.2.retryAt.isNone) then .next s
  else
    let t := [0, 1, 2, 3].foldl (fun s die =>
      let d := s.die die
      if bit d.ptroot 0 then s.clearLeaves (d.ptkey.setWidth 20) i 4 (field d.ptroot 51 12 * 4096) else s) s
    let t := t.dropTlb (fun _ => true) (fun e => field e.w1 11 0 == i)
    .next (t.updKey i (fun _ => KeySlot.init))

/-- `ROSTER_CHANGE` (R385): the driver sets the roster; a peer removed from it is no longer admitted. -/
def execRosterChange (roster : List (BitVec 15)) (s : State) : Host.Outcome State Fault Refusal :=
  if !s.mgmt.securityUp ∨ 512 < roster.length then .next s
  else .next (s.updMgmt (fun m => { m with roster := roster, admitted := m.admitted.filter (fun p => roster.contains p) }))

/-- A signed image passes the boot checks (R387). -/
def imageOk (b : BootImage) : Bool := b.ecdsaOk && b.lmsOk && b.svnOk

/-- A standard draft as it is loaded at boot (R359). -/
def bootDraft (b : BootImage) : Draft := { draftOf b.bytes with std := true }

/-- READY with functions set; a halt sets BOOTFAIL and BCODE (Table 19.11). Bridges, HBM and the host port train by themselves. -/
def bootReady (bcode : Nat) (up : Bool) : Word :=
  BitVec.ofNat 64 (0x1_0000_00FF_FFC0 + (if up then 0x2_0000_0000_003F else 0) +
    (if bcode = 0 then 0 else bcode * 2 ^ 56 + 2 ^ 63))

/-- The images of stage 1 that the security firmware verifies and measures: those before the first that fails (R387). -/
def bootVerified (b : BootInputs) : List BootImage := ([b.treadle, b.parse] ++ b.drafts.take 7).takeWhile imageOk

/-- The measurements of the boot stages (Table 19.9): the ROM, the firmware images in order, and the standard drafts together, each as far as
it has been verified. -/
def bootMeasured (b : BootInputs) : Vector (BitVec 384) 11 :=
  let h := Config.sha384
  let v := vset (vset (Vector.replicate 11 0) 1 (h b.rom)) 2 (h b.secfw.bytes)
  match bootVerified b with
  | [] => v
  | [t] => vset v 3 (h t.bytes)
  | [t, p] => vset (vset v 3 (h t.bytes)) 4 (h p.bytes)
  | t :: p :: ds => vset (vset (vset v 3 (h t.bytes)) 4 (h p.bytes)) 5 (h (ds.flatMap (fun d => d.bytes)))

/-- Why the boot halts: 1 at the security firmware, 2 at a later image, 0 for a boot that completes (R387). -/
def bootCode (b : BootInputs) : Nat :=
  if !(imageOk b.secfw) then 1
  else if !(imageOk b.treadle) || !(imageOk b.parse) || b.drafts.length != 7 || !b.drafts.all imageOk then 2 else 0

/-- The device after the boot stages. The inputs still to come, host memory and the device's number outlast a reset. -/
def State.boot (s : State) (b : BootInputs) : State :=
  let code := bootCode b
  let up := code == 0
  let r := State.reset
  let m : Mgmt := { r.mgmt with ready := bootReady code up, hostUp := true, device := s.mgmt.device }
  let m := if code = 1 then m
    else { m with measured := bootMeasured b, lms := (b.secfw :: bootVerified b).map (fun i => Config.lmsOf i.bytes) }
  let m := { m with treadleUp := up, securityUp := up }
  let host := s.mem.filter (fun c => decide (2 ^ 52 ≤ c.1) && decide (c.1 < 2 ^ 53))
  { r with agenda := s.agenda, mem := host, freeCtr := s.freeCtr, mgmt := m,
           keys := if up then [(0, { KeySlot.init with state := .live, used := true })] else [],
           drafts := if up then b.drafts.zipIdx.map (fun d => (d.2, bootDraft d.1)) else [] }

/-- `DEVICE_RESET` (R387, R391): reset, and the boot through its signed stages. -/
def execDeviceReset (boot : BootInputs) (s : State) : Host.Outcome State Fault Refusal := .next (s.boot boot)

/-- The parts of a write into each 128-byte block: address and bytes. -/
def hostParts : Nat → Nat → List Byte → List (Nat × List Byte)
  | 0, _, _ => []
  | n + 1, a, bs =>
    let k := 128 - a % 128
    if bs.length ≤ k then (if bs.isEmpty then [] else [(a, bs)]) else (a, bs.take k) :: hostParts n (a + k) (bs.drop k)

/-- Write a part of a block under the host window's key: a part of a block unseals the old block first (R390). -/
def State.hostPart (s : State) (key : KeyId) (pa : Nat) (bs : List Byte) : State :=
  if !hbmBacked pa then s
  else if s.writable key pa bs.length then (s.recallLines (blockNo pa)).homeStore key pa bs
  else if (s.block (blockNo pa)).sealedUnder = some key then s else s.postIntegrity pa

/-- `HOST_BAR2_WRITE` (R390): a host write through the BAR2 window reaches HBM, sealed under the window's key. -/
def execHostBar2Write (off : BitVec 36) (data : List (BitVec 8)) (s : State) : Host.Outcome State Fault Refusal :=
  let base := s.mgmt.bar2base.toNat + off.toNat
  .next ((hostParts (data.length + 1) base data).foldl (fun s p => s.hostPart s.mgmt.bar2key p.1 p.2) s)

/-- The host reads n bytes through the BAR2 window (R390, R291): plain loads under the window's key, at the homes of the blocks. Bytes that
cannot be read under it answer as a failed completion (log entry 49). -/
def State.hostLoad (s : State) (off n : Nat) : State :=
  let base := s.mgmt.bar2base.toNat + off
  let parts := hostParts (n + 1) base (List.replicate n 0)
  let ok (p : Nat × List Byte) : Bool := hbmBacked p.1 && s.readable (blockNo p.1) s.mgmt.bar2key
  if n ≤ 8 ∧ parts.all ok then
    let s := parts.foldl (fun s p => if s.isComm (s.draftAt p.1) then s.foldAll (s.homeHeddle p.1) (blockNo p.1) else s) s
    let bytes := parts.flatMap (fun p => ((leBytes 128 (s.latest (blockNo p.1)).toNat).drop (p.1 % 128)).take p.2.length)
    let saw (c : Clock) (p : Nat × List Byte) : Clock := c.join (s.die (paDie p.1)).vc
    { s with mgmt := { s.mgmt with fclk := parts.foldl saw s.mgmt.fclk } }.sendOut (.completion true (BitVec.ofNat 64 (ofLE bytes)))
  else
    let bad := parts.filter (fun p => hbmBacked p.1 && (s.block (blockNo p.1)).sealedUnder != some s.mgmt.bar2key)
    (bad.foldl (fun s p => s.postIntegrity p.1) s).sendOut (.completion false 0)

/-- The result of a host AtomicOp on n bytes (R390): 0 FetchAdd, 1 Swap, 2 CAS. -/
def hostAtomicNew (op : BitVec 2) (n old operand compare : Nat) : Nat :=
  match op with
  | 0 => (old + operand) % 2 ^ (8 * n)
  | 1 => operand % 2 ^ (8 * n)
  | _ => if old = compare % 2 ^ (8 * n) then operand % 2 ^ (8 * n) else old

/-- `HOST_ATOMICOP` (R390): the completer serves FetchAdd, Swap and CAS at 32 and 64 bits, and answers every other request with
Unsupported Request. -/
def execHostAtomicop (op : HostAtomic) (s : State) : Host.Outcome State Fault Refusal :=
  let pa := s.mgmt.bar2base.toNat + op.off.toNat
  let n := if op.width = 0 then 4 else 8
  if op.op = 3 ∨ 2 ≤ op.width.toNat ∨ pa % n ≠ 0 ∨ !hbmBacked pa then
    .next ((s.updMgmt (fun m => { m with atomicUr := satInc m.atomicUr })).sendOut (.completion false 0))
  else if s.readable (blockNo pa) s.mgmt.bar2key then
    let s := s.recallLines (blockNo pa)
    let old := s.mem.num pa n
    let new := hostAtomicNew op.op n old op.operand.toNat op.compare.toNat
    .next ((s.homeStore s.mgmt.bar2key pa (leBytes n new)).sendOut (.completion true (BitVec.ofNat 64 old)))
  else
    let t := if (s.block (blockNo pa)).sealedUnder = some s.mgmt.bar2key then s else s.postIntegrity pa
    .next (t.sendOut (.completion false 0))

end Sys2Proof.Machine
end

