-- ==== Sys2Proof/Machine/SpdmEvents.lean ====
section
/-! DEFINITION. The security core's SPDM responder (R388), with the measurement blocks of Table 19.9 and the topology block of Table 19.8
(R386). The request and response codes are those of the SPDM standard (log entry 24). -/

namespace Sys2Proof.Machine

/-- The connection of a requester: 0 for the host's mailbox, 1 + its number for a peer. -/
def connOf (peer : Option (BitVec 15)) : Nat :=
  match peer with
  | none => 0
  | some p => 1 + p.toNat

def SpdmConn.init : SpdmConn := { version := false, caps := false, algs := false, sessions := [], updates := 0 }

def State.conn (s : State) (peer : Option (BitVec 15)) : SpdmConn := (alGet s.mgmt.spdm (connOf peer)).getD SpdmConn.init

def State.setConn (s : State) (peer : Option (BitVec 15)) (c : SpdmConn) : State :=
  s.updMgmt (fun m => { m with spdm := alSet m.spdm (connOf peer) c })

/-- The responder listens: security firmware runs, and the requester is the host or an admitted device. A device of the roster that is still
to be admitted may send the requests by which it is (R385, R388; log entry 51). -/
def State.spdmOpen (s : State) (peer : Option (BitVec 15)) (joining : Bool) : Bool :=
  s.mgmt.securityUp && (match peer with
    | none => s.mgmt.hostUp
    | some p => s.mgmt.admitted.contains p || (joining && s.mgmt.roster.contains p))

/-- A response, which is signed (R388): the signature covers the requester's nonce and the answer's bytes. -/
def State.spdmAnswer (s : State) (req : SpdmRequest) (code : BitVec 8) (body : List Byte) : State :=
  s.sendOut (.spdm req.peer code body (some (Config.sign (Config.sha384 (leBytes 32 req.nonce.toNat ++ code :: body)))))

/-- ERROR with a code: 4 unexpected request, 6 a signature or proof that does not verify, 7 unsupported request. -/
def State.spdmError (s : State) (req : SpdmRequest) (code : Byte) : State := s.spdmAnswer req 0x7F [code, 0]

/-- Answer where the responder listens. -/
def State.spdmDo (s : State) (req : SpdmRequest) (joining : Bool) (f : SpdmConn → State) : Host.Outcome State Fault Refusal :=
  if s.spdmOpen req.peer joining then .next (f (s.conn req.peer)) else .next s

/-- Answer a request that needs negotiation done; otherwise it is unexpected. -/
def State.spdmReady (s : State) (req : SpdmRequest) (joining : Bool) (f : SpdmConn → State) : Host.Outcome State Fault Refusal :=
  s.spdmDo req joining (fun c => if c.algs then f c else s.spdmError req 4)

/-- Answer a request inside an open session; otherwise it is unexpected. -/
def State.spdmIn (s : State) (req : SpdmRequest) (f : SpdmConn → State) : Host.Outcome State Fault Refusal :=
  s.spdmDo req false (fun c => if alGet c.sessions req.session = some true then f c else s.spdmError req 4)

def digestBytes (d : BitVec 384) : List Byte := leBytes 48 d.toNat

/-- The topology block: 800 bytes (Table 19.8). -/
def State.topology (s : State) : List Byte :=
  leBytes 4 s.mgmt.device.toNat ++ leBytes 4 s.mgmt.epoch.toNat ++ List.replicate 24 0 ++
    (List.range 24).flatMap (fun k =>
      let p := s.port k
      leBytes 8 (p.state.toNat + k * 256) ++ leBytes 8 (p.peerDev.toNat + p.peerPort.toNat * 65536) ++ leBytes 16 p.peerId.toNat)

/-- The LMS signatures of measured images: those of the boot, then those of the loaded drafts (block 7). -/
def State.lmsBlock (s : State) : List Byte :=
  (s.mgmt.lms ++ (s.drafts.filter (fun d => decide (7 ≤ d.1))).map (fun d => d.2.lms)).flatMap digestBytes

/-- One digest per id of drafts 7 to 15, zero when free (block 6). -/
def State.draftBlock (s : State) : List Byte :=
  (List.range 9).flatMap (fun i => digestBytes (match alGet s.drafts (7 + i) with
    | some d => d.digest
    | none => 0))

/-- Live slots of each KIND (block 10). -/
def State.keyBlock (s : State) : List Byte :=
  (List.range 4).flatMap (fun k => leBytes 4 ((s.keys.filter (fun e => e.2.state == .live && e.2.kind == BitVec.ofNat 2 k)).length))

/-- A measurement block (Table 19.9). -/
def State.measurement (s : State) (i : Nat) : List Byte :=
  if 1 ≤ i ∧ i ≤ 5 then digestBytes (vget s.mgmt.measured i 0)
  else if i = 6 then s.draftBlock
  else if i = 7 then s.lmsBlock
  else if i = 8 then s.topology
  else if i = 9 then s.mgmt.roster.flatMap (fun d => leBytes 2 d.toNat)
  else if i = 10 then s.keyBlock
  else []

/-- One block with its index and length before it. -/
def State.measureRecord (s : State) (i : Nat) : List Byte :=
  let b := s.measurement i
  BitVec.ofNat 8 i :: leBytes 4 b.length ++ b

/-- `GET_VERSION`: SPDM 1.3. It restarts negotiation. -/
def execSpdmGetVersion (req : SpdmRequest) (s : State) : Host.Outcome State Fault Refusal :=
  s.spdmDo req true (fun _ => (s.setConn req.peer { SpdmConn.init with version := true }).spdmAnswer req 0x04 [1, 0x00, 0x13])

/-- `GET_CAPABILITIES`. -/
def execSpdmGetCapabilities (req : SpdmRequest) (s : State) : Host.Outcome State Fault Refusal :=
  s.spdmDo req true (fun c =>
    if c.version then (s.setConn req.peer { c with caps := true }).spdmAnswer req 0x61 (Config.spdmField 0x61) else s.spdmError req 4)

/-- The algorithms of ALGORITHMS (R388), by their bits in the SPDM standard (log entry 24): ECDSA P-384, SHA-384, ECDHE P-384, AES-256-GCM. -/
def spdmAlgorithms : List Byte := leBytes 4 0x80 ++ leBytes 4 0x02 ++ leBytes 2 0x10 ++ leBytes 2 0x02

/-- `NEGOTIATE_ALGORITHMS`: the four algorithms. -/
def execSpdmNegotiateAlgorithms (req : SpdmRequest) (s : State) : Host.Outcome State Fault Refusal :=
  s.spdmDo req true (fun c =>
    if c.caps then (s.setConn req.peer { c with algs := true }).spdmAnswer req 0x63 spdmAlgorithms else s.spdmError req 4)

/-- `GET_DIGESTS`: the digest of the certificate chain. -/
def execSpdmGetDigests (req : SpdmRequest) (s : State) : Host.Outcome State Fault Refusal :=
  s.spdmReady req true (fun _ => s.spdmAnswer req 0x01 (digestBytes (Config.sha384 Config.certChain)))

/-- `GET_CERTIFICATE`: the certificate chain. -/
def execSpdmGetCertificate (req : SpdmRequest) (s : State) : Host.Outcome State Fault Refusal :=
  s.spdmReady req true (fun _ => s.spdmAnswer req 0x02 Config.certChain)

/-- `CHALLENGE`: authentication of this device. -/
def execSpdmChallenge (req : SpdmRequest) (s : State) : Host.Outcome State Fault Refusal :=
  s.spdmReady req true (fun _ => s.spdmAnswer req 0x03 (digestBytes (Config.sha384 Config.certChain)))

/-- `GET_MEASUREMENTS`: param2 names one block, 0 asks how many there are, 0xFF asks for all. -/
def execSpdmGetMeasurements (req : SpdmRequest) (s : State) : Host.Outcome State Fault Refusal :=
  s.spdmReady req false (fun _ => s.spdmAnswer req 0x60 (
    if req.param2 = 0 then [10]
    else if req.param2 = 0xFF then (List.range 10).flatMap (fun i => s.measureRecord (i + 1))
    else s.measureRecord req.param2.toNat))

/-- `KEY_EXCHANGE` opens a session that FINISH completes. -/
def execSpdmKeyExchange (req : SpdmRequest) (s : State) : Host.Outcome State Fault Refusal :=
  s.spdmReady req true (fun c =>
    (s.setConn req.peer { c with sessions := alSet c.sessions req.session false }).spdmAnswer req 0x64 (Config.spdmField 0x64))

/-- A requester of FINISH has been authenticated: the host needs no proof, a device gives one (R385). -/
def finishOk (req : SpdmRequest) : Bool :=
  match req.peer with
  | none => true
  | some p => Config.finishOk p req.payload

/-- `FINISH` completes the session; a device of the roster that has given proof of its identity is admitted from then on, this device's own
having come with KEY_EXCHANGE's answer (R385). -/
def execSpdmFinish (req : SpdmRequest) (s : State) : Host.Outcome State Fault Refusal :=
  s.spdmDo req true (fun c =>
    if alGet c.sessions req.session = some false then
      if !finishOk req then (s.setConn req.peer { c with sessions := alErase c.sessions req.session }).spdmError req 6
      else
        let t := s.setConn req.peer { c with sessions := alSet c.sessions req.session true }
        let t := match req.peer with
          | none => t
          | some p => t.updMgmt (fun m => { m with admitted := if m.admitted.contains p then m.admitted else m.admitted ++ [p] })
        t.spdmAnswer req 0x65 []
    else s.spdmError req 4)

/-- `HEARTBEAT` inside a session. -/
def execSpdmHeartbeat (req : SpdmRequest) (s : State) : Host.Outcome State Fault Refusal :=
  s.spdmIn req (fun _ => s.spdmAnswer req 0x68 [])

/-- `KEY_UPDATE` inside a session. -/
def execSpdmKeyUpdate (req : SpdmRequest) (s : State) : Host.Outcome State Fault Refusal :=
  s.spdmIn req (fun c => (s.setConn req.peer { c with updates := c.updates + 1 }).spdmAnswer req 0x69 [req.param1, req.param2])

/-- `END_SESSION`: a peer left without a session is no longer admitted, and the keys imported from it are retired (R381, R385), once the
accesses under them that are on their way are done. -/
def execSpdmEndSession (req : SpdmRequest) (s : State) : Host.Outcome State Fault Refusal :=
  s.spdmIn req (fun c =>
    let rest := alErase c.sessions req.session
    let t := s.setConn req.peer { c with sessions := rest }
    match req.peer with
    | none => t.spdmAnswer req 0x6C []
    | some p =>
      if rest.any (fun e => e.2) then t.spdmAnswer req 0x6C []
      else match t.loseSession p with
        | some t => t.spdmAnswer req 0x6C []
        | none => s)

/-- Any other request: ERROR UnsupportedRequest (R388). -/
def execSpdmUnsupported (req : SpdmRequest) (s : State) : Host.Outcome State Fault Refusal :=
  s.spdmDo req false (fun _ => s.spdmError req 7)

end Sys2Proof.Machine
end

