-- ==== Sys2Proof/Machine/Streams.lean ====
section
/-! DEFINITION. Control of the access stream, the queues and the branch-outcome queue, majors 0x0C and 0x0D (R124 to R130). -/

namespace Sys2Proof.Machine

/-- Stop the access stream (R126): an access in flight completes first, what has not issued is abandoned, and the
branch-outcome queue is emptied. -/
def stopAccess : Exec Unit := do
  let t ← self
  if !t.acc.running then pure ()
  else if t.acc.midway then stall .memory
  else updSelf (fun t => { t with acc := { t.acc with running := false, wait := .none }, boq := [] })

/-- `astart` (R125): starts the access stream at A with its s1 from B; a token or loaded value that is still due there comes first
(R30). -/
def execAstart (a b : BitVec 5) (s : State) : Host.Outcome State Fault Refusal :=
  issue { plain true [.sR a, .sR b] with cls := .exeOnly } (do
    let x ← getS a
    let y ← getS b
    let t ← checkTarget x
    stopAccess
    let th ← self
    if th.acc.pend.getLsbD 1 then stall (.token 1)
    updSelf (fun r =>
      { r with acc := { r.acc.setReg 1 y with pc := t, atTarget := true, running := true, wait := .none } })
    pure .seq) s

/-- `astop` (R126). -/
def execAstop (s : State) : Host.Outcome State Fault Refusal :=
  issue { plain true [] with cls := .exeOnly } (do
    stopAccess
    pure .seq) s

/-- `pushb` (R127): pushes the bit A ≠ 0, tagged with the stream; it stalls at 32 entries. -/
def execPushb (a : BitVec 5) (s : State) : Host.Outcome State Fault Refusal :=
  issue { plain true [.sR a] with cls := .noPick } (do
    let x ← getS a
    let t ← self
    let g ← me
    if 32 ≤ t.boq.length then stall .boqWrite
    else updSelf (fun t => { t with boq := t.boq ++ [(g.acc, x != 0)] })
    pure .seq) s

/-- `qclr` (R128): discards every filled and reserved entry of a queue; what the other stream's instruction has popped is not in it. -/
def execQclr (b : BitVec 5) (s : State) : Host.Outcome State Fault Refusal :=
  issue { plain (queueField b) [] with cls := .noPick } (do
    updSelf (fun t =>
      let k := b.toNat - 24
      { t with q := vset t.q k ((vget t.q k []).take (t.exe.held.count k + t.acc.held.count k)) })
    pure .seq) s

/-- `qlen` (R128): D <- the filled and reserved entries of a queue. -/
def execQlen (d b : BitVec 5) (s : State) : Host.Outcome State Fault Refusal :=
  issue { plain (queueField b) [.sW d] with cls := .noPick } (do
    let t ← self
    setS d (BitVec.ofNat 64 (t.qLen (b.toNat - 24)))
    pure .seq) s

/-- The oldest entry of the other stream in a branch-outcome queue, and the queue without it (R127). -/
def boqTake (acc : Bool) : List (Bool × Bool) → Option (Bool × List (Bool × Bool))
  | [] => none
  | (t, x) :: l =>
    if t != acc then some (x, l)
    else match boqTake acc l with
      | some (y, m) => some (y, (t, x) :: m)
      | none => none

/-- Pops the other stream's oldest outcome and branches when it equals `want` (R127). -/
def branchOutcome (want : Bool) (o : BitVec 15) (s : State) : Host.Outcome State Fault Refusal :=
  issue { plain true [] with cls := .noPick } (do
    let t ← self
    let g ← me
    match boqTake g.acc t.boq with
    | none => stall .boqRead
    | some (x, l) =>
      updSelf (fun t => { t with boq := l })
      branchTo (x == want) o) s

/-- `brq` (R127). -/
def execBrq (o : BitVec 15) (_h : BitVec 2) (s : State) : Host.Outcome State Fault Refusal := branchOutcome true o s

/-- `brqn` (R127). -/
def execBrqn (o : BitVec 15) (_h : BitVec 2) (s : State) : Host.Outcome State Fault Refusal := branchOutcome false o s

end Sys2Proof.Machine
end

