-- ==== Sys2Proof/Machine/VectorMem.lean ====
section
/-! DEFINITION. Vector memory, majors 0x20 and 0x21 (R159 to R163). Every lane is checked before any lane is performed; lanes on
their way are performed in any order, and a load waits for all of its own. -/

namespace Sys2Proof.Machine

/-- One active lane's access: its lane, address and data. -/
structure LaneReq where
  lane : Nat
  ea : Word
  data : Word
  deriving DecidableEq, Repr

/-- What a lane's check on a state finds: a cause with its extra word, or a page the issuing pick migrates to. -/
inductive LaneCheck where
  | ok
  | bad (b : Bad)
  | migrate (l : Leaf)
  deriving DecidableEq, Repr

/-- A cause without an extra word of its own. -/
def LaneCheck.cause (c : Cause) : LaneCheck := .bad { cause := c, extra := 0 }

/-- Check a lane's access to HBM after rows 2 to 8 of Table 7.2. -/
def State.laneHbm (s : State) (t : Thread) (o : MemOp) (l : Leaf) : LaneCheck :=
  let dr := s.draftAt l.pa
  if s.mustMigrate t l then .migrate l
  else if !s.stdDraft dr then
    let (op, fmt) := s.commOf l.pa
    if s.isComm dr && o.writes && !o.contributes op fmt then .cause 0x11 else .ok
  else if s.onceRefused dr l.pa o.writes then .cause 0x11
  else if dr = 6 ∧ o.writes then
    let (op, fmt) := s.commOf l.pa
    if o.contributes op fmt then .ok else .cause 0x11
  else .ok

/-- The HBM translation of a lane's global address. -/
def State.laneLeaf (s : State) (t : Thread) (o : MemOp) (r : LaneReq) : Option Leaf :=
  match route t.core r.ea with
  | .ok .global =>
    match s.checkGlobal t.core t.dom r.ea o.size true o.writes with
    | (.ok (_, l), _) => if l.loc = 0 then some l else none
    | _ => none
  | _ => none

/-- The block that a store's lanes write whole together with this one, which is then never read (R275): its lanes of 4 bytes cover the
block, which is not one of a commutative region. -/
def State.laneBlock (s : State) (t : Thread) (o : MemOp) (lanes : List LaneReq) (r : LaneReq) : Option Leaf :=
  if o.kind != .store || decide (lanes.length < 32) then none
  else
    let base := r.ea.toNat / 128 * 128
    if !(List.range 32).all (fun k => lanes.any (fun q => q.ea.toNat == base + 4 * k)) then none
    else match s.laneLeaf t o r with
      | some l => if s.draftAt l.pa == 6 || s.isComm (s.draftAt l.pa) then none else some l
      | none => none

/-- The block behind a checked lane can be read under its page's key (row 10 of Table 7.2); a lane served elsewhere, one that only
contributes and one of a block that is written whole are not read here. -/
def State.laneSealed (s : State) (t : Thread) (o : MemOp) (lanes : List LaneReq) (r : LaneReq) : Bool :=
  match s.laneLeaf t o r with
  | some l =>
    !s.stdDraft (s.draftAt l.pa) || (s.draftAt l.pa == 6 && o.writes) || s.readable (blockNo l.pa) l.key ||
      (s.laneBlock t o lanes r).isSome
  | none => true

/-- Check one lane (R160): routing, alignment, windows, translation and permissions. -/
def State.laneCheck (s : State) (t : Thread) (o : MemOp) (r : LaneReq) : LaneCheck × State :=
  match route t.core r.ea with
  | .error b => (.bad b, s)
  | .ok .global =>
    match s.checkGlobal t.core t.dom r.ea o.size true o.writes with
    | (.error b, s) => (.bad b, s)
    | (.ok (_, l), s) => (if l.loc = 0 then s.laneHbm t o l else .ok, s)
  | .ok (.own off) =>
    (if r.ea.toNat % o.size ≠ 0 then .cause 0x03
     else if windowOk (s.core t.core) off o.size o.writes false then .ok else .cause 0x11, s)
  | .ok (.loom c off) =>
    (if r.ea.toNat % o.size ≠ 0 then .cause 0x03
     else if windowOk (s.core c) off o.size o.writes true then .ok else .cause 0x11, s)
  | .ok (.creel d off) =>
    (if r.ea.toNat % o.size ≠ 0 then .cause 0x03
     else if s.creelOk t.dom d off o.size then .ok else .cause 0x11, s)

/-- Raise a lane's trap (R161). -/
def raiseLane {α : Type} (b : Bad) (r : LaneReq) : Exec α :=
  stop (.trap { cause := b.cause, addr := r.ea, extra := b.extra, pc := none, lane := some r.lane } id)

/-- Check every lane, in ascending order: the lowest failing lane traps with its address and index (R161), and a pick migrates
for the lowest lane that asks for it (R267). -/
def checkLanes (o : MemOp) : List LaneReq → Exec (Option Leaf)
  | [] => pure none
  | r :: rest => do
    let t ← self
    let (x, s) := (← get).laneCheck t o r
    set s
    match x with
    | .bad b => raiseLane b r
    | .migrate l => do
      let _ ← checkLanes o rest
      pure (some l)
    | .ok => checkLanes o rest

/-- Once every lane has passed its checks, the lowest lane whose block fails integrity traps (R161). -/
def checkSeals (o : MemOp) (lanes : List LaneReq) : Exec Unit := do
  let t ← self
  let s ← get
  match lanes.find? (fun r => !s.laneSealed t o lanes r) with
  | some r => raiseLane { cause := 0x15, extra := 0 } r
  | none => pure ()

/-- The request that a lane under a loaded draft needs before it is performed: its translation, type, and whether its block is
written whole. -/
def State.lineNeed (s : State) (t : Thread) (o : MemOp) (lanes : List LaneReq) (r : LaneReq) : Option (Leaf × Nat × Bool) :=
  match s.laneLeaf t o r with
  | none => none
  | some l =>
    let dr := s.draftAt l.pa
    let b := blockNo l.pa
    let (op, fmt) := s.commOf l.pa
    if s.stdDraft dr then none
    else if s.isComm dr && !o.writes then none
    else
      let whole := (s.laneBlock t o lanes r).isSome
      match alGet (s.core t.core).dcache b with
      | some x =>
        if whole && x.key == l.key && x.writable then none
        else (s.needType t.core b l.key o.writes (s.isComm dr) (o.contributes op fmt)).map (fun ty => (l, ty, whole))
      | none => (s.needType t.core b l.key o.writes (s.isComm dr) (o.contributes op fmt)).map (fun ty => (l, ty, whole))

/-- Reserve the port entry that a load into a mesh port waits for, once (R20, R129): its number. -/
def reserveLoad (d : Option (BitVec 5)) : Exec Unit := do
  let c ← ctx
  match d with
  | some d =>
    if 28 ≤ d.toNat ∧ c.got.isEmpty then
      match ← laterS d with
      | .port _ _ id => updCtx (fun c => { c with got := [BitVec.ofNat 64 id] })
      | _ => pure ()
  | none => pure ()

/-- Wait, keeping what the instruction has done so far. -/
def waitHere {α : Type} (w : Wait) : Exec α := fun s => .error (.stall w (fun _ => s))

/-- Ask for the lines that the lanes under a loaded draft need, one at a time, before any lane is performed (R161): each is had once, since
they may not all find room at once. -/
def takeLines (o : MemOp) (lanes : List LaneReq) (d : Option (BitVec 5)) : Exec Unit := do
  let a ← me
  let t ← self
  let c ← ctx
  let s ← get
  match lanes.findSome? (fun r => match s.lineNeed t o lanes r with
      | some x => if c.seen.contains (blockNo x.1.pa) then none else some (r, x)
      | none => none) with
  | none => pure ()
  | some (r, l, ty, whole) =>
    if s.shut l.pa || (alGet (s.core t.core).wbuf (blockNo l.pa)).isSome then waitHere .memory
    else match s.coreSlot t.core with
      | none => waitHere .memory
      | some slot => do
        reserveLoad d
        modify (fun s => s.sendRequest { outOf .coherence a t { o with size := 0 } l.pa r.ea l.key .none with
          waits := true, lane := some r.lane, whole := whole } slot ty false)
        updCtx (fun c => { c with phase := .sent })
        waitHere .memory

/-- Write a block whole for the lanes that cover it (R275). -/
def blockStore (l : Leaf) (bs : List Byte) : Exec Unit := do
  let a ← me
  let t ← self
  let s ← get
  let pa := l.pa / 128 * 128
  let b := blockNo pa
  let dr := s.draftAt pa
  let o : MemOp := { kind := .store, signed := false, size := 128, data := 0, compare := 0 }
  if s.shut pa ∨ s.ownAt a t pa l.key o = .wait then stall .memory
  else if !s.stdDraft dr then
    let x : DCLine := { key := l.key, data := blockOf bs, writable := true }
    set ((s.updCore t.core (fun k => { k with dcache := alSet k.dcache b x })).wakeAddr pa)
  else if paDie pa = coreDie t.core then
    set ((s.homeStore l.key pa bs).afterWrite dr t.core l.key pa)
  else
    let u := s.sendWrite a (coreDie t.core) (paDie pa) l.key pa bs none (s.missOf t.core l)
    set (if dr = 4 then u.firstWrite t.core l.key pa else u)

/-- Bytes of the block that lanes cover: each word is that of the highest lane that writes it (R163). -/
def coveredBytes (lanes : List LaneReq) (base : Nat) : List Byte :=
  (List.range 32).flatMap (fun k =>
    match (lanes.filter (fun q => q.ea.toNat == base + 4 * k)).getLast? with
    | some q => leBytes 4 q.data.toNat
    | none => leBytes 4 0)

/-- Perform lanes (R162, R163): `all` are the lanes of the instruction, `done` those performed so far with their values, `sent` that one is
on its way. A lane that must wait is left for later, as is one whose block another lane has asked for; once lanes have been performed in an
earlier turn (`begun`), a store's lane comes before what its checks would meet now (R161, R278). -/
def laneLoop (o : MemOp) (all : List LaneReq) (begun : Bool) : List LaneReq → AList Word → Bool → Exec (AList Word × Bool)
  | [], done, sent => pure (done, sent)
  | r :: rest, done, sent => do
    let a ← me
    let t ← self
    let s ← get
    let asked := match s.laneLeaf t o r with
      | some l => s.outs.any (fun x => x.2.kind == .coherence && x.2.tid == a.tid && x.2.acc == a.acc && x.2.lane.isSome &&
          blockNo x.2.loc == blockNo l.pa)
      | none => false
    match s.laneBlock t o all r with
    | some l =>
      let whole : Exec Unit :=
        if done.any (fun d => all.any (fun q => q.lane == d.1 && q.ea.toNat / 128 == r.ea.toNat / 128)) then pure ()
        else blockStore l (coveredBytes all (r.ea.toNat / 128 * 128))
      match whole s with
      | .ok (_, s) =>
        set s
        laneLoop o all begun rest (alSet done r.lane 0) sent
      | .error _ => laneLoop o all begun rest done sent
    | none =>
      if asked && !s.stdDraft ((s.laneLeaf t o r).map (fun l => s.draftAt l.pa) |>.getD 0) then laneLoop o all begun rest done sent
      else match accessNow { Taker.none with lane := some r.lane } { o with data := r.data } r.ea s with
      | .ok (.value w, s) =>
        set s
        laneLoop o all begun rest (alSet done r.lane w) sent
      | .ok (.sent, s) =>
        set s
        laneLoop o all begun rest done true
      | .ok (_, s) =>
        set s
        laneLoop o all begun rest (alSet done r.lane 0) sent
      | .error (.trap t keep) =>
        if begun ∧ o.kind = .store then laneLoop o all begun rest (alSet done r.lane 0) sent
        else stop (.trap { t with addr := r.ea, lane := some r.lane } keep)
      | .error (.stall _ _) => laneLoop o all begun rest done sent
      | .error e => stop e

/-- The lanes that a turn performs: all that are left, or, in a turn whose accesses are performed later, one that the implementation picks
(R162); of two lanes of a store that write the same address the lower comes first (R163). -/
def pickLanes (s : State) (o : MemOp) (left : List LaneReq) : List LaneReq :=
  if !s.slow then left
  else
    let free := left.filter (fun r => o.kind != .store || !left.any (fun q => decide (q.lane < r.lane) && q.ea == r.ea))
    ((free[Config.victim s.freeCtr % (max 1 free.length)]?).map (fun r => [r])).getD []

/-- The inbound port and number of the entry that a vector load waiting for its lanes has reserved (R20, R129). -/
def Thread.portHeld (t : Thread) (d : BitVec 5) (c : Ctx) : Option (Nat × BitVec 2 × Nat) :=
  if d.toNat < 28 then none
  else match neighbour t.core (d.toNat - 28), c.got with
    | some n, [id] => some (n, BitVec.ofNat 2 (opposite (d.toNat - 28)), id.toNat)
    | _, _ => none

/-- Raise the trap of the lowest lane that was refused elsewhere, giving up the port entry reserved for its values (R161). -/
def raiseRefused {α : Type} (d : Option (BitVec 5)) (i : Nat) (x : Cause) (addr : Word) : Exec α := do
  let a ← me
  let t ← self
  let c ← ctx
  let held := d.bind (fun d => t.portHeld d c)
  stop (.trap { cause := x, addr := addr, extra := 0, pc := none, lane := some i } (fun s =>
    let s := match held with
      | some (n, dir, id) => s.cancel a.tid (.port n dir id)
      | none => s
    s.updThread a.tid (fun t => t.updCtx a.acc Ctx.unissue)))

/-- Perform lanes of a vector instruction that are left: its values when all are performed, else it waits (R161, R162). -/
def performLanes (o : MemOp) (lanes : List LaneReq) (d : Option (BitVec 5)) : Exec (Option (AList Word)) := do
  let c ← ctx
  let s ← get
  let left := lanes.filter (fun r => (alGet c.lanes r.lane).isNone)
  let now := pickLanes s o left
  let slow := s.slow
  let twice := now.any (fun r => (lanes.filter (fun q => q.ea == r.ea)).length != 1)
  modify (fun s => { s with slow := s.slow && !twice, freeCtr := if slow then s.freeCtr + 1 else s.freeCtr })
  let (done, sent) ← laneLoop o lanes c.inLanes now c.lanes false
  if lanes.all (fun r => (alGet done r.lane).isSome) then
    clearMoved
    pure (some done)
  else do
    if sent ∨ done ≠ [] then reserveLoad d
    updCtx (fun c => { c with phase := if sent then .sent else .idle, lanes := done })
    waitHere .memory

/-- Perform the accesses of a vector instruction: the values of its lanes, or the pick has migrated (none). Every lane is checked and
the lines that lanes need have been had before any lane is performed (R161). A load into a mesh port `d` whose lanes are waited for
reserves its entry. -/
def vaccess (o : MemOp) (lanes : List LaneReq) (d : Option (BitVec 5)) : Exec (Option (AList Word)) := do
  let a ← me
  let c ← ctx
  match c.phase with
  | .failed x addr extra => raiseRefused d extra.toNat x addr
  | .sent =>
    if (← get).laneOut a.tid a.acc then stall .memory
    else match c.refused with
      | some (i, x, addr) => raiseRefused d i x addr
      | none => do
        updCtx (fun c => { c with phase := .idle })
        takeLines o lanes d
        performLanes o lanes d
  | .idle =>
    if c.inLanes then do
      takeLines o lanes d
      performLanes o lanes d
    else match ← checkLanes o lanes with
      | some l =>
        let _ ← migrate l
        pure none
      | none =>
        checkSeals o lanes
        takeLines o lanes d
        performLanes o lanes d

/-- How the lane addresses are formed (Table 5.7). -/
inductive VAddrForm where
  | unit | strided | indexed
  deriving DecidableEq, Repr

/-- Lane i's address from the base and the B operand. -/
def vbase (f : VAddrForm) (n : Nat) (base : Word) (stride : Word) (idx : VWord) (i : Nat) : Word :=
  match f with
  | .unit => leaAdd base (BitVec.ofNat 64 (n * i))
  | .strided => leaAdd base (BitVec.ofNat 64 i * stride)
  | .indexed => leaAdd base ((lane idx i).signExtend 64)

/-- Read the address operands as their uses name them. -/
def vaddrOperands (uses : List Use) : Exec (Word × Word × VWord) := do
  match uses with
  | [.sR a, .sR b] =>
    let x ← getS a
    let y ← getS b
    pure (x, y, 0)
  | [.sR a, .vR b] =>
    let x ← getS a
    let y ← getV b
    pure (x, 0, y)
  | .sR a :: _ =>
    let x ← getS a
    pure (x, 0, 0)
  | _ => pure (0, 0, 0)

/-- Write a loaded vector: into D, or into the port entry reserved for it (R20, R23). -/
def putLoaded (d : BitVec 5) (on : BitVec 64) (held : Option (Nat × BitVec 2 × Nat)) (f : Nat → W32) : Exec Unit :=
  match held with
  | none => putLanes d on f
  | some (n, dir, id) => modify (fun s => s.updCore n (fun k =>
      let l := (vget k.ports dir.toNat []).map (fun e => if e = .reserved id then .vector (mergeV on 0 f) else e)
      { k with ports := vset k.ports dir.toNat l }))

/-- A vector load into D (R159). -/
def vload (signed : Bool) (n : Nat) (addr : Word → Word → VWord → Nat → Word) (uses : List Use) (d : BitVec 5) (g : Gov)
    (s : State) : Host.Outcome State Fault Refusal :=
  vecIssue g (vecNeed g.legal (uses ++ [.vW d]) 4) (do
    let before ← get
    let t ← self
    let c ← ctx
    let on ← activeLanes g
    let x ← vaddrOperands uses
    if on ≠ 0 ∧ field x.1 59 56 ≠ 0 then raise 0x04 x.1 x.1
    else
      let lanes : List LaneReq := ((List.range 64).filter (fun i => on.getLsbD i)).map (fun i =>
        { lane := i, ea := addr x.1 x.2.1 x.2.2 i, data := 0 })
      set before
      match ← vaccess { kind := .load, signed := signed, size := n, data := 0, compare := 0 } lanes (some d) with
      | none => pure .stay
      | some ws =>
        let _ ← vaddrOperands uses
        putLoaded d on (t.portHeld d c) (fun i => (alGetD ws i 0).setWidth 32)
        pure .seq) s

/-- A vector store of D (R159). -/
def vstore (addr : Word → Word → VWord → Nat → Word) (uses : List Use) (d : BitVec 5) (g : Gov) (s : State) :
    Host.Outcome State Fault Refusal :=
  vecIssue g (vecNeed g.legal (uses ++ [.vR d]) 4) (do
    let before ← get
    let on ← activeLanes g
    let x ← vaddrOperands uses
    let v ← getV d
    if on ≠ 0 ∧ field x.1 59 56 ≠ 0 then raise 0x04 x.1 x.1
    else
      let lanes : List LaneReq := ((List.range 64).filter (fun i => on.getLsbD i)).map (fun i =>
        { lane := i, ea := addr x.1 x.2.1 x.2.2 i, data := (lane v i).setWidth 64 })
      set before
      match ← vaccess { kind := .store, signed := false, size := 4, data := 0, compare := 0 } lanes none with
      | none => pure .stay
      | some _ =>
        let _ ← vaddrOperands uses
        let _ ← getV d
        pure .seq) s

/-- `vldB32` (R159): loads 4 byte(s) per active lane from A + 4i. -/
def execVldB32 (d a : BitVec 5) (g : Gov) (s : State) : Host.Outcome State Fault Refusal :=
  vload false 4 (vbase .unit 4) [.sR a] d g s

/-- `vldS16` (R159): loads 2 byte(s) per active lane from A + 2i. -/
def execVldS16 (d a : BitVec 5) (g : Gov) (s : State) : Host.Outcome State Fault Refusal :=
  vload true 2 (vbase .unit 2) [.sR a] d g s

/-- `vldS8` (R159): loads 1 byte(s) per active lane from A + 1i. -/
def execVldS8 (d a : BitVec 5) (g : Gov) (s : State) : Host.Outcome State Fault Refusal :=
  vload true 1 (vbase .unit 1) [.sR a] d g s

/-- `vldsB32` (R159): loads 4 bytes per active lane with signed stride B. -/
def execVldsB32 (d a b : BitVec 5) (g : Gov) (s : State) : Host.Outcome State Fault Refusal :=
  vload false 4 (vbase .strided 4) [.sR a, .sR b] d g s

/-- `vgatherB32` (R159): loads 4 bytes per active lane from A plus its offset in B. -/
def execVgatherB32 (d a b : BitVec 5) (g : Gov) (s : State) : Host.Outcome State Fault Refusal :=
  vload false 4 (vbase .indexed 4) [.sR a, .vR b] d g s

/-- `vstB32` (R159): stores each active lane to A + 4i. -/
def execVstB32 (d a : BitVec 5) (g : Gov) (s : State) : Host.Outcome State Fault Refusal :=
  vstore (vbase .unit 4) [.sR a] d g s

/-- `vstsB32` (R159): stores each active lane with signed stride B. -/
def execVstsB32 (d a b : BitVec 5) (g : Gov) (s : State) : Host.Outcome State Fault Refusal :=
  vstore (vbase .strided 4) [.sR a, .sR b] d g s

/-- `vscatterB32` (R159): stores each active lane to A plus its offset in B. -/
def execVscatterB32 (d a b : BitVec 5) (g : Gov) (s : State) : Host.Outcome State Fault Refusal :=
  vstore (vbase .indexed 4) [.sR a, .vR b] d g s

end Sys2Proof.Machine
end

