-- ==== Sys2Proof/Machine/VectorPerm.lean ====
section
/-! DEFINITION. Permutes, major 0x1E (R155, R156), compares and predicate logic, major 0x1F (R157, R158). -/

namespace Sys2Proof.Machine

/-- Lane j of a source, 0 at or above VL (R155). -/
def laneBelow (vl : Nat) (x : VWord) (j : Nat) : W32 := if j < vl then lane x j else 0

/-- D <- A's lanes moved by a scalar B in the active lanes (R155). -/
def permScalar (f : Nat → VWord → Nat → Nat → W32) (d a b : BitVec 5) (g : Gov) (s : State) : Host.Outcome State Fault Refusal :=
  vecIssue g (vecNeed g.legal [.vR a, .sR b, .vW d] 4) (do
    let t ← self
    let on ← activeLanes g
    let x ← getV a
    let n ← getS b
    putLanes d on (f t.vl x n.toNat)
    pure .seq) s

/-- D <- the lanes of A and B moved in the active lanes (R155). -/
def permVector (f : Nat → VWord → VWord → Nat → W32) (d a b : BitVec 5) (g : Gov) (s : State) :
    Host.Outcome State Fault Refusal :=
  vecIssue g (vecNeed g.legal [.vR a, .vR b, .vW d] 4) (do
    let t ← self
    let on ← activeLanes g
    let x ← getV a
    let y ← getV b
    putLanes d on (f t.vl x y)
    pure .seq) s

/-- `vperm` (R155): d <- A lane (B lane i mod 64). -/
def execVperm (d a b : BitVec 5) (g : Gov) (s : State) : Host.Outcome State Fault Refusal :=
  permVector (fun vl x y i => laneBelow vl x ((lane y i).toNat % 64)) d a b g s

/-- `vslup` (R155): d <- A lane i - n when i >= n, else 0. -/
def execVslup (d a b : BitVec 5) (g : Gov) (s : State) : Host.Outcome State Fault Refusal :=
  permScalar (fun vl x n i => if n ≤ i then laneBelow vl x (i - n) else 0) d a b g s

/-- `vsldn` (R155): d <- A lane i + n. -/
def execVsldn (d a b : BitVec 5) (g : Gov) (s : State) : Host.Outcome State Fault Refusal :=
  permScalar (fun vl x n i => laneBelow vl x (i + n)) d a b g s

/-- `vbcast` (R155): d <- A lane (n mod 64). -/
def execVbcast (d a b : BitVec 5) (g : Gov) (s : State) : Host.Outcome State Fault Refusal :=
  permScalar (fun vl x n _ => laneBelow vl x (n % 64)) d a b g s

/-- `vzip` (R155): d <- A lane i / 2 when i is even, B lane (i - 1) / 2 when i is odd. -/
def execVzip (d a b : BitVec 5) (g : Gov) (s : State) : Host.Outcome State Fault Refusal :=
  permVector (fun vl x y i => laneBelow vl (if i % 2 = 0 then x else y) (i / 2)) d a b g s

/-- `vunzip` (R155): d <- lane 2i of A's lanes below VL followed by B's. -/
def execVunzip (d a b : BitVec 5) (g : Gov) (s : State) : Host.Outcome State Fault Refusal :=
  permVector (fun vl x y i => if 2 * i < vl then lane x (2 * i) else laneBelow vl y (2 * i - vl)) d a b g s

/-- The active lanes below n, ascending. -/
def lanesUpTo (on : BitVec 64) (n : Nat) : List Nat := (List.range n).filter (fun i => on.getLsbD i)

/-- `vcomp` (R156): A's active lanes in ascending order, then 0, in the lanes below VL. -/
def execVcomp (d a : BitVec 5) (g : Gov) (s : State) : Host.Outcome State Fault Refusal :=
  vecIssue g (vecNeed g.legal [.vR a, .vW d] 4) (do
    let t ← self
    let on ← activeLanes g
    let x ← getV a
    let l := lanesUpTo on 64
    putLanes d (BitVec.ofNat 64 (2 ^ t.vl - 1)) (fun i => match l[i]? with
      | some j => lane x j
      | none => 0)
    pure .seq) s

/-- `vexpd` (R156): successive lanes of A into the active lanes of D. -/
def execVexpd (d a : BitVec 5) (g : Gov) (s : State) : Host.Outcome State Fault Refusal :=
  vecIssue g (vecNeed g.legal [.vR a, .vW d] 4) (do
    let on ← activeLanes g
    let x ← getV a
    putLanes d on (fun i => lane x (lanesUpTo on i).length)
    pure .seq) s

/-- The integer conditions of a vector compare. -/
inductive VC where
  | eqS | neS | ltS | leS | ltN | leN
  deriving DecidableEq, Repr

/-- One lane of an integer compare (R157). -/
def VC.lane (c : VC) (x y : W32) : Bool :=
  match c with
  | .eqS => x == y
  | .neS => x != y
  | .ltS => x.slt y
  | .leS => x.sle y
  | .ltN => x.ult y
  | .leN => x.ule y

/-- A word whose bit i is f i, for i below n. -/
def bitsOf (f : Nat → Bool) : Nat → Word
  | 0 => 0
  | n + 1 => bitsOf f n ||| (if f n then 1#64 <<< n else 0)

/-- Active bits of predicate D <- the condition on the lanes (R157). -/
def vcompare (f : W32 → W32 → Bool × FF) (scalar : Bool) (d a b : BitVec 5) (g : Gov) (s : State) :
    Host.Outcome State Fault Refusal :=
  vecIssue g (vecNeed (g.legal && predField d) [.vR a, useB scalar b] 4) (do
    let on ← activeLanes g
    let x ← getV a
    let y ← getB scalar b
    mergeFlags (orFlags on (fun i => (f (lane x i) (y i)).2) 64)
    setPLanes d.toNat on (bitsOf (fun i => (f (lane x i) (y i)).1) 64)
    pure .seq) s

/-- Active bits of predicate D <- an operation on predicates A and B (R158). -/
def predOp (f : Word → Word → Word) (legal : Bool) (d a b : BitVec 5) (g : Gov) (s : State) : Host.Outcome State Fault Refusal :=
  vecIssue g (vecNeed (g.legal && legal) [] 4) (do
    let on ← activeLanes g
    let x ← getP a.toNat
    let y ← getP b.toNat
    setPLanes d.toNat on (f x y)
    pure .seq) s

/-- `pcnt` (R158): scalar D <- the number of active lanes whose bit of B is set. -/
def execPcnt (d b : BitVec 5) (g : Gov) (s : State) : Host.Outcome State Fault Refusal :=
  vecIssue g (vecNeed (g.legal && predField b) [.sW d] 4) (do
    let on ← activeLanes g
    let y ← getP b.toNat
    setS d (BitVec.ofNat 64 (popcount (on &&& y) 64))
    pure .seq) s

/-- `pfirst` (R158): scalar D <- the lowest active lane whose bit of B is set, or all ones. -/
def execPfirst (d b : BitVec 5) (g : Gov) (s : State) : Host.Outcome State Fault Refusal :=
  vecIssue g (vecNeed (g.legal && predField b) [.sW d] 4) (do
    let on ← activeLanes g
    let y ← getP b.toNat
    setS d (if on &&& y = 0 then BitVec.allOnes 64 else BitVec.ofNat 64 (trailingZeros (on &&& y) 0 64))
    pure .seq) s

/-- `vcmpEqS32` (R157): predicate D <- a = b. -/
def execVcmpEqS32 (d a b : BitVec 5) (g : Gov) (s : State) : Host.Outcome State Fault Refusal :=
  vcompare (fun x y => (VC.eqS.lane x y, FF.none)) false d a b g s

/-- `vcmpNeS32` (R157): predicate D <- a differs from b. -/
def execVcmpNeS32 (d a b : BitVec 5) (g : Gov) (s : State) : Host.Outcome State Fault Refusal :=
  vcompare (fun x y => (VC.neS.lane x y, FF.none)) false d a b g s

/-- `vcmpLtS32` (R157): predicate D <- a < b, signed. -/
def execVcmpLtS32 (d a b : BitVec 5) (g : Gov) (s : State) : Host.Outcome State Fault Refusal :=
  vcompare (fun x y => (VC.ltS.lane x y, FF.none)) false d a b g s

/-- `vcmpLeS32` (R157): predicate D <- a <= b, signed. -/
def execVcmpLeS32 (d a b : BitVec 5) (g : Gov) (s : State) : Host.Outcome State Fault Refusal :=
  vcompare (fun x y => (VC.leS.lane x y, FF.none)) false d a b g s

/-- `vcmpLtN32` (R157): predicate D <- a < b, unsigned. -/
def execVcmpLtN32 (d a b : BitVec 5) (g : Gov) (s : State) : Host.Outcome State Fault Refusal :=
  vcompare (fun x y => (VC.ltN.lane x y, FF.none)) false d a b g s

/-- `vcmpLeN32` (R157): predicate D <- a <= b, unsigned. -/
def execVcmpLeN32 (d a b : BitVec 5) (g : Gov) (s : State) : Host.Outcome State Fault Refusal :=
  vcompare (fun x y => (VC.leN.lane x y, FF.none)) false d a b g s

/-- `vcmpEqF32` (R157): predicate D <- a = b. -/
def execVcmpEqF32 (d a b : BitVec 5) (g : Gov) (s : State) : Host.Outcome State Fault Refusal :=
  vcompare (fun x y => fcmp .eq (f32Val x) (f32Val y)) false d a b g s

/-- `vcmpLtF32` (R157): predicate D <- a < b. -/
def execVcmpLtF32 (d a b : BitVec 5) (g : Gov) (s : State) : Host.Outcome State Fault Refusal :=
  vcompare (fun x y => fcmp .lt (f32Val x) (f32Val y)) false d a b g s

/-- `vcmpLeF32` (R157): predicate D <- a <= b. -/
def execVcmpLeF32 (d a b : BitVec 5) (g : Gov) (s : State) : Host.Outcome State Fault Refusal :=
  vcompare (fun x y => fcmp .le (f32Val x) (f32Val y)) false d a b g s

/-- `vcmpUnF32` (R157): predicate D <- unordered. -/
def execVcmpUnF32 (d a b : BitVec 5) (g : Gov) (s : State) : Host.Outcome State Fault Refusal :=
  vcompare (fun x y => fcmp .un (f32Val x) (f32Val y)) false d a b g s

/-- `vcmpEqS32ScalarB` (R157): predicate D <- a = b, with b the scalar B. -/
def execVcmpEqS32ScalarB (d a b : BitVec 5) (g : Gov) (s : State) : Host.Outcome State Fault Refusal :=
  vcompare (fun x y => (VC.eqS.lane x y, FF.none)) true d a b g s

/-- `vcmpNeS32ScalarB` (R157): predicate D <- a differs from b, with b the scalar B. -/
def execVcmpNeS32ScalarB (d a b : BitVec 5) (g : Gov) (s : State) : Host.Outcome State Fault Refusal :=
  vcompare (fun x y => (VC.neS.lane x y, FF.none)) true d a b g s

/-- `vcmpLtS32ScalarB` (R157): predicate D <- a < b, signed, with b the scalar B. -/
def execVcmpLtS32ScalarB (d a b : BitVec 5) (g : Gov) (s : State) : Host.Outcome State Fault Refusal :=
  vcompare (fun x y => (VC.ltS.lane x y, FF.none)) true d a b g s

/-- `vcmpLeS32ScalarB` (R157): predicate D <- a <= b, signed, with b the scalar B. -/
def execVcmpLeS32ScalarB (d a b : BitVec 5) (g : Gov) (s : State) : Host.Outcome State Fault Refusal :=
  vcompare (fun x y => (VC.leS.lane x y, FF.none)) true d a b g s

/-- `vcmpLtN32ScalarB` (R157): predicate D <- a < b, unsigned, with b the scalar B. -/
def execVcmpLtN32ScalarB (d a b : BitVec 5) (g : Gov) (s : State) : Host.Outcome State Fault Refusal :=
  vcompare (fun x y => (VC.ltN.lane x y, FF.none)) true d a b g s

/-- `vcmpLeN32ScalarB` (R157): predicate D <- a <= b, unsigned, with b the scalar B. -/
def execVcmpLeN32ScalarB (d a b : BitVec 5) (g : Gov) (s : State) : Host.Outcome State Fault Refusal :=
  vcompare (fun x y => (VC.leN.lane x y, FF.none)) true d a b g s

/-- `vcmpEqF32ScalarB` (R157): predicate D <- a = b, with b the scalar B. -/
def execVcmpEqF32ScalarB (d a b : BitVec 5) (g : Gov) (s : State) : Host.Outcome State Fault Refusal :=
  vcompare (fun x y => fcmp .eq (f32Val x) (f32Val y)) true d a b g s

/-- `vcmpLtF32ScalarB` (R157): predicate D <- a < b, with b the scalar B. -/
def execVcmpLtF32ScalarB (d a b : BitVec 5) (g : Gov) (s : State) : Host.Outcome State Fault Refusal :=
  vcompare (fun x y => fcmp .lt (f32Val x) (f32Val y)) true d a b g s

/-- `vcmpLeF32ScalarB` (R157): predicate D <- a <= b, with b the scalar B. -/
def execVcmpLeF32ScalarB (d a b : BitVec 5) (g : Gov) (s : State) : Host.Outcome State Fault Refusal :=
  vcompare (fun x y => fcmp .le (f32Val x) (f32Val y)) true d a b g s

/-- `vcmpUnF32ScalarB` (R157): predicate D <- unordered, with b the scalar B. -/
def execVcmpUnF32ScalarB (d a b : BitVec 5) (g : Gov) (s : State) : Host.Outcome State Fault Refusal :=
  vcompare (fun x y => fcmp .un (f32Val x) (f32Val y)) true d a b g s

/-- `pand` (R158): predicate D <- A AND B. -/
def execPand (d a b : BitVec 5) (g : Gov) (s : State) : Host.Outcome State Fault Refusal :=
  predOp (fun x y => x &&& y) (predField d && predField a && predField b) d a b g s

/-- `por` (R158): predicate D <- A OR B. -/
def execPor (d a b : BitVec 5) (g : Gov) (s : State) : Host.Outcome State Fault Refusal :=
  predOp (fun x y => x ||| y) (predField d && predField a && predField b) d a b g s

/-- `pxor` (R158): predicate D <- A XOR B. -/
def execPxor (d a b : BitVec 5) (g : Gov) (s : State) : Host.Outcome State Fault Refusal :=
  predOp (fun x y => x ^^^ y) (predField d && predField a && predField b) d a b g s

/-- `pnot` (R158): predicate D <- NOT B. -/
def execPnot (d b : BitVec 5) (g : Gov) (s : State) : Host.Outcome State Fault Refusal :=
  predOp (fun _ y => ~~~y) (predField d && predField b) d 0 b g s

end Sys2Proof.Machine
end

