-- ==== Sys2Proof/Machine/Dispatch.lean ====
section
/-! DEFINITION. The meaning of every instruction and event: one arm per constructor. -/

namespace Sys2Proof.Machine

/-- Execute an instruction or let an event take place. -/
def exec (i : Instr) (s : State) : Host.Outcome State Fault Refusal :=
  match i with
  | .add d a b g => Sys2Proof.Machine.execAdd d a b g s
  | .sub d a b g => Sys2Proof.Machine.execSub d a b g s
  | .and d a b g => Sys2Proof.Machine.execAnd d a b g s
  | .or d a b g => Sys2Proof.Machine.execOr d a b g s
  | .xor d a b g => Sys2Proof.Machine.execXor d a b g s
  | .andn d a b g => Sys2Proof.Machine.execAndn d a b g s
  | .orn d a b g => Sys2Proof.Machine.execOrn d a b g s
  | .xnor d a b g => Sys2Proof.Machine.execXnor d a b g s
  | .shl d a b g => Sys2Proof.Machine.execShl d a b g s
  | .shr d a b g => Sys2Proof.Machine.execShr d a b g s
  | .sar d a b g => Sys2Proof.Machine.execSar d a b g s
  | .rol d a b g => Sys2Proof.Machine.execRol d a b g s
  | .ror d a b g => Sys2Proof.Machine.execRor d a b g s
  | .minS64 d a b g => Sys2Proof.Machine.execMinS64 d a b g s
  | .maxS64 d a b g => Sys2Proof.Machine.execMaxS64 d a b g s
  | .minN64 d a b g => Sys2Proof.Machine.execMinN64 d a b g s
  | .maxN64 d a b g => Sys2Proof.Machine.execMaxN64 d a b g s
  | .sltS64 d a b g => Sys2Proof.Machine.execSltS64 d a b g s
  | .sltN64 d a b g => Sys2Proof.Machine.execSltN64 d a b g s
  | .seq d a b g => Sys2Proof.Machine.execSeq d a b g s
  | .sne d a b g => Sys2Proof.Machine.execSne d a b g s
  | .clz d b g => Sys2Proof.Machine.execClz d b g s
  | .ctz d b g => Sys2Proof.Machine.execCtz d b g s
  | .popc d b g => Sys2Proof.Machine.execPopc d b g s
  | .sextS8 d b g => Sys2Proof.Machine.execSextS8 d b g s
  | .sextS16 d b g => Sys2Proof.Machine.execSextS16 d b g s
  | .sextS32 d b g => Sys2Proof.Machine.execSextS32 d b g s
  | .zextN32 d b g => Sys2Proof.Machine.execZextN32 d b g s
  | .cmppEq d a b g => Sys2Proof.Machine.execCmppEq d a b g s
  | .cmppNe d a b g => Sys2Proof.Machine.execCmppNe d a b g s
  | .cmppLtS64 d a b g => Sys2Proof.Machine.execCmppLtS64 d a b g s
  | .cmppGeS64 d a b g => Sys2Proof.Machine.execCmppGeS64 d a b g s
  | .cmppLtN64 d a b g => Sys2Proof.Machine.execCmppLtN64 d a b g s
  | .cmppGeN64 d a b g => Sys2Proof.Machine.execCmppGeN64 d a b g s
  | .sel d a b g => Sys2Proof.Machine.execSel d a b g s
  | .addi d a imm => Sys2Proof.Machine.execAddi d a imm s
  | .andi d a imm => Sys2Proof.Machine.execAndi d a imm s
  | .ori d a imm => Sys2Proof.Machine.execOri d a imm s
  | .xori d a imm => Sys2Proof.Machine.execXori d a imm s
  | .shli d a k => Sys2Proof.Machine.execShli d a k s
  | .shri d a k => Sys2Proof.Machine.execShri d a k s
  | .sari d a k => Sys2Proof.Machine.execSari d a k s
  | .slti d a imm => Sys2Proof.Machine.execSlti d a imm s
  | .lih d imm => Sys2Proof.Machine.execLih d imm s
  | .mul d a b g => Sys2Proof.Machine.execMul d a b g s
  | .mulhS64 d a b g => Sys2Proof.Machine.execMulhS64 d a b g s
  | .mulhN64 d a b g => Sys2Proof.Machine.execMulhN64 d a b g s
  | .divS64 d a b g => Sys2Proof.Machine.execDivS64 d a b g s
  | .divN64 d a b g => Sys2Proof.Machine.execDivN64 d a b g s
  | .remS64 d a b g => Sys2Proof.Machine.execRemS64 d a b g s
  | .remN64 d a b g => Sys2Proof.Machine.execRemN64 d a b g s
  | .lea d a b k => Sys2Proof.Machine.execLea d a b k s
  | .ptag d a b => Sys2Proof.Machine.execPtag d a b s
  | .pchk d a => Sys2Proof.Machine.execPchk d a s
  | .bdesc d a b => Sys2Proof.Machine.execBdesc d a b s
  | .beq a b o h => Sys2Proof.Machine.execBeq a b o h s
  | .bne a b o h => Sys2Proof.Machine.execBne a b o h s
  | .blt a b o h => Sys2Proof.Machine.execBlt a b o h s
  | .bge a b o h => Sys2Proof.Machine.execBge a b o h s
  | .bltn a b o h => Sys2Proof.Machine.execBltn a b o h s
  | .bgen a b o h => Sys2Proof.Machine.execBgen a b o h s
  | .beqz a o h => Sys2Proof.Machine.execBeqz a o h s
  | .bnez a o h => Sys2Proof.Machine.execBnez a o h s
  | .bltz a o h => Sys2Proof.Machine.execBltz a o h s
  | .bgez a o h => Sys2Proof.Machine.execBgez a o h s
  | .bgtz a o h => Sys2Proof.Machine.execBgtz a o h s
  | .blez a o h => Sys2Proof.Machine.execBlez a o h s
  | .bqe a o h => Sys2Proof.Machine.execBqe a o h s
  | .bqf a o h => Sys2Proof.Machine.execBqf a o h s
  | .j o => Sys2Proof.Machine.execJ o s
  | .jal o => Sys2Proof.Machine.execJal o s
  | .jr a imm => Sys2Proof.Machine.execJr a imm s
  | .jalr d a imm => Sys2Proof.Machine.execJalr d a imm s
  | .ret imm => Sys2Proof.Machine.execRet imm s
  | .loop a o h => Sys2Proof.Machine.execLoop a o h s
  | .astart a b => Sys2Proof.Machine.execAstart a b s
  | .astop => Sys2Proof.Machine.execAstop s
  | .pushb a => Sys2Proof.Machine.execPushb a s
  | .qclr b => Sys2Proof.Machine.execQclr b s
  | .qlen d b => Sys2Proof.Machine.execQlen d b s
  | .brq o h => Sys2Proof.Machine.execBrq o h s
  | .brqn o h => Sys2Proof.Machine.execBrqn o h s
  | .mfs d imm => Sys2Proof.Machine.execMfs d imm s
  | .mts a imm => Sys2Proof.Machine.execMts a imm s
  | .fadd d a b g => Sys2Proof.Machine.execFadd d a b g s
  | .fsub d a b g => Sys2Proof.Machine.execFsub d a b g s
  | .fmul d a b g => Sys2Proof.Machine.execFmul d a b g s
  | .fdiv d a b g => Sys2Proof.Machine.execFdiv d a b g s
  | .fsqrt d b g => Sys2Proof.Machine.execFsqrt d b g s
  | .fmin d a b g => Sys2Proof.Machine.execFmin d a b g s
  | .fmax d a b g => Sys2Proof.Machine.execFmax d a b g s
  | .ffma d a b g => Sys2Proof.Machine.execFfma d a b g s
  | .fabs d b g => Sys2Proof.Machine.execFabs d b g s
  | .fneg d b g => Sys2Proof.Machine.execFneg d b g s
  | .fcvtF32S64 d b g => Sys2Proof.Machine.execFcvtF32S64 d b g s
  | .fcvtS64F32 d b g => Sys2Proof.Machine.execFcvtS64F32 d b g s
  | .fcvtF32N64 d b g => Sys2Proof.Machine.execFcvtF32N64 d b g s
  | .fcvtN64F32 d b g => Sys2Proof.Machine.execFcvtN64F32 d b g s
  | .fcmppEq d a b g => Sys2Proof.Machine.execFcmppEq d a b g s
  | .fcmppLt d a b g => Sys2Proof.Machine.execFcmppLt d a b g s
  | .fcmppLe d a b g => Sys2Proof.Machine.execFcmppLe d a b g s
  | .fcmppUn d a b g => Sys2Proof.Machine.execFcmppUn d a b g s
  | .modifierWord m imm => Sys2Proof.Machine.execModifierWord m imm s
  | .ldS8 d a imm => Sys2Proof.Machine.execLdS8 d a imm s
  | .ldN8 d a imm => Sys2Proof.Machine.execLdN8 d a imm s
  | .ldS16 d a imm => Sys2Proof.Machine.execLdS16 d a imm s
  | .ldN16 d a imm => Sys2Proof.Machine.execLdN16 d a imm s
  | .ldS32 d a imm => Sys2Proof.Machine.execLdS32 d a imm s
  | .ldN32 d a imm => Sys2Proof.Machine.execLdN32 d a imm s
  | .ldB64 d a imm => Sys2Proof.Machine.execLdB64 d a imm s
  | .stB8 d a imm => Sys2Proof.Machine.execStB8 d a imm s
  | .stB16 d a imm => Sys2Proof.Machine.execStB16 d a imm s
  | .stB32 d a imm => Sys2Proof.Machine.execStB32 d a imm s
  | .stB64 d a imm => Sys2Proof.Machine.execStB64 d a imm s
  | .ldIndexed d a b k sx sz g => Sys2Proof.Machine.execLdIndexed d a b k sx sz g s
  | .stIndexed d a b k sz g => Sys2Proof.Machine.execStIndexed d a b k sz g s
  | .ldb d a b sx sz g => Sys2Proof.Machine.execLdb d a b sx sz g s
  | .stb d a b sz g => Sys2Proof.Machine.execStb d a b sz g s
  | .amoSwap t a b w32 ord => Sys2Proof.Machine.execAmoSwap t a b w32 ord s
  | .amoAdd t a b w32 ord => Sys2Proof.Machine.execAmoAdd t a b w32 ord s
  | .amoAnd t a b w32 ord => Sys2Proof.Machine.execAmoAnd t a b w32 ord s
  | .amoOr t a b w32 ord => Sys2Proof.Machine.execAmoOr t a b w32 ord s
  | .amoXor t a b w32 ord => Sys2Proof.Machine.execAmoXor t a b w32 ord s
  | .amoMaxS t a b w32 ord => Sys2Proof.Machine.execAmoMaxS t a b w32 ord s
  | .amoMinS t a b w32 ord => Sys2Proof.Machine.execAmoMinS t a b w32 ord s
  | .amoMaxN t a b w32 ord => Sys2Proof.Machine.execAmoMaxN t a b w32 ord s
  | .amoMinN t a b w32 ord => Sys2Proof.Machine.execAmoMinN t a b w32 ord s
  | .amoCas t a b w32 ord => Sys2Proof.Machine.execAmoCas t a b w32 ord s
  | .amoFaddF32 t a b ord => Sys2Proof.Machine.execAmoFaddF32 t a b ord s
  | .fenceAcq scope => Sys2Proof.Machine.execFenceAcq scope s
  | .fenceRel scope => Sys2Proof.Machine.execFenceRel scope s
  | .fenceAr scope => Sys2Proof.Machine.execFenceAr scope s
  | .pref a imm => Sys2Proof.Machine.execPref a imm s
  | .prefw a imm => Sys2Proof.Machine.execPrefw a imm s
  | .ipref a imm => Sys2Proof.Machine.execIpref a imm s
  | .prefSc a imm => Sys2Proof.Machine.execPrefSc a imm s
  | .barInit a imm => Sys2Proof.Machine.execBarInit a imm s
  | .barArv imm => Sys2Proof.Machine.execBarArv imm s
  | .barWait imm => Sys2Proof.Machine.execBarWait imm s
  | .barSync imm => Sys2Proof.Machine.execBarSync imm s
  | .barTest d imm => Sys2Proof.Machine.execBarTest d imm s
  | .barrierPhaseComplete gang bar => Sys2Proof.Machine.execBarrierPhaseComplete gang bar s
  | .send t a b ord => Sys2Proof.Machine.execSend t a b ord s
  | .recv t a b => Sys2Proof.Machine.execRecv t a b s
  | .rbind a b => Sys2Proof.Machine.execRbind a b s
  | .vaddS32 d a b g => Sys2Proof.Machine.execVaddS32 d a b g s
  | .vsubS32 d a b g => Sys2Proof.Machine.execVsubS32 d a b g s
  | .vmulS32 d a b g => Sys2Proof.Machine.execVmulS32 d a b g s
  | .vmulhS32 d a b g => Sys2Proof.Machine.execVmulhS32 d a b g s
  | .vminS32 d a b g => Sys2Proof.Machine.execVminS32 d a b g s
  | .vmaxS32 d a b g => Sys2Proof.Machine.execVmaxS32 d a b g s
  | .vminN32 d a b g => Sys2Proof.Machine.execVminN32 d a b g s
  | .vmaxN32 d a b g => Sys2Proof.Machine.execVmaxN32 d a b g s
  | .vand d a b g => Sys2Proof.Machine.execVand d a b g s
  | .vor d a b g => Sys2Proof.Machine.execVor d a b g s
  | .vxor d a b g => Sys2Proof.Machine.execVxor d a b g s
  | .vshl d a b g => Sys2Proof.Machine.execVshl d a b g s
  | .vshr d a b g => Sys2Proof.Machine.execVshr d a b g s
  | .vsar d a b g => Sys2Proof.Machine.execVsar d a b g s
  | .vabsS32 d b g => Sys2Proof.Machine.execVabsS32 d b g s
  | .vmov d b g => Sys2Proof.Machine.execVmov d b g s
  | .vsplat d b g => Sys2Proof.Machine.execVsplat d b g s
  | .vid d g => Sys2Proof.Machine.execVid d g s
  | .vaddS32ScalarB d a b g => Sys2Proof.Machine.execVaddS32ScalarB d a b g s
  | .vsubS32ScalarB d a b g => Sys2Proof.Machine.execVsubS32ScalarB d a b g s
  | .vmulS32ScalarB d a b g => Sys2Proof.Machine.execVmulS32ScalarB d a b g s
  | .vmulhS32ScalarB d a b g => Sys2Proof.Machine.execVmulhS32ScalarB d a b g s
  | .vminS32ScalarB d a b g => Sys2Proof.Machine.execVminS32ScalarB d a b g s
  | .vmaxS32ScalarB d a b g => Sys2Proof.Machine.execVmaxS32ScalarB d a b g s
  | .vminN32ScalarB d a b g => Sys2Proof.Machine.execVminN32ScalarB d a b g s
  | .vmaxN32ScalarB d a b g => Sys2Proof.Machine.execVmaxN32ScalarB d a b g s
  | .vandScalarB d a b g => Sys2Proof.Machine.execVandScalarB d a b g s
  | .vorScalarB d a b g => Sys2Proof.Machine.execVorScalarB d a b g s
  | .vxorScalarB d a b g => Sys2Proof.Machine.execVxorScalarB d a b g s
  | .vshlScalarB d a b g => Sys2Proof.Machine.execVshlScalarB d a b g s
  | .vshrScalarB d a b g => Sys2Proof.Machine.execVshrScalarB d a b g s
  | .vsarScalarB d a b g => Sys2Proof.Machine.execVsarScalarB d a b g s
  | .vaddF32 d a b g => Sys2Proof.Machine.execVaddF32 d a b g s
  | .vsubF32 d a b g => Sys2Proof.Machine.execVsubF32 d a b g s
  | .vmulF32 d a b g => Sys2Proof.Machine.execVmulF32 d a b g s
  | .vdivF32 d a b g => Sys2Proof.Machine.execVdivF32 d a b g s
  | .vminF32 d a b g => Sys2Proof.Machine.execVminF32 d a b g s
  | .vmaxF32 d a b g => Sys2Proof.Machine.execVmaxF32 d a b g s
  | .vsqrtF32 d b g => Sys2Proof.Machine.execVsqrtF32 d b g s
  | .vabsF32 d b g => Sys2Proof.Machine.execVabsF32 d b g s
  | .vnegF32 d b g => Sys2Proof.Machine.execVnegF32 d b g s
  | .vrcpF32 d b g => Sys2Proof.Machine.execVrcpF32 d b g s
  | .vrsqrtF32 d b g => Sys2Proof.Machine.execVrsqrtF32 d b g s
  | .vexp2F32 d b g => Sys2Proof.Machine.execVexp2F32 d b g s
  | .vlog2F32 d b g => Sys2Proof.Machine.execVlog2F32 d b g s
  | .vtanhF32 d b g => Sys2Proof.Machine.execVtanhF32 d b g s
  | .vrintF32 d b g => Sys2Proof.Machine.execVrintF32 d b g s
  | .vaddF32ScalarB d a b g => Sys2Proof.Machine.execVaddF32ScalarB d a b g s
  | .vsubF32ScalarB d a b g => Sys2Proof.Machine.execVsubF32ScalarB d a b g s
  | .vmulF32ScalarB d a b g => Sys2Proof.Machine.execVmulF32ScalarB d a b g s
  | .vdivF32ScalarB d a b g => Sys2Proof.Machine.execVdivF32ScalarB d a b g s
  | .vminF32ScalarB d a b g => Sys2Proof.Machine.execVminF32ScalarB d a b g s
  | .vmaxF32ScalarB d a b g => Sys2Proof.Machine.execVmaxF32ScalarB d a b g s
  | .vfmaF32 d a b g => Sys2Proof.Machine.execVfmaF32 d a b g s
  | .vfmsF32 d a b g => Sys2Proof.Machine.execVfmsF32 d a b g s
  | .vfnmaF32 d a b g => Sys2Proof.Machine.execVfnmaF32 d a b g s
  | .vfnmsF32 d a b g => Sys2Proof.Machine.execVfnmsF32 d a b g s
  | .vdotBf16 d a b g => Sys2Proof.Machine.execVdotBf16 d a b g s
  | .vdotS8 d a b g => Sys2Proof.Machine.execVdotS8 d a b g s
  | .vfmaF32ScalarB d a b g => Sys2Proof.Machine.execVfmaF32ScalarB d a b g s
  | .vfmsF32ScalarB d a b g => Sys2Proof.Machine.execVfmsF32ScalarB d a b g s
  | .vfnmaF32ScalarB d a b g => Sys2Proof.Machine.execVfnmaF32ScalarB d a b g s
  | .vfnmsF32ScalarB d a b g => Sys2Proof.Machine.execVfnmsF32ScalarB d a b g s
  | .vcvtF32S32 d a g => Sys2Proof.Machine.execVcvtF32S32 d a g s
  | .vcvtS32F32 d a g => Sys2Proof.Machine.execVcvtS32F32 d a g s
  | .vcvtBf16F32 d a g => Sys2Proof.Machine.execVcvtBf16F32 d a g s
  | .vcvtF32Bf16 d a b g => Sys2Proof.Machine.execVcvtF32Bf16 d a b g s
  | .vcvtF16F32 d a g => Sys2Proof.Machine.execVcvtF16F32 d a g s
  | .vcvtF32F16 d a b g => Sys2Proof.Machine.execVcvtF32F16 d a b g s
  | .vcvtE4m3F32 d a g => Sys2Proof.Machine.execVcvtE4m3F32 d a g s
  | .vcvtF32E4m3 d a b g => Sys2Proof.Machine.execVcvtF32E4m3 d a b g s
  | .vcvtE5m2F32 d a g => Sys2Proof.Machine.execVcvtE5m2F32 d a g s
  | .vcvtF32E5m2 d a b g => Sys2Proof.Machine.execVcvtF32E5m2 d a b g s
  | .vqntBx4 d a g => Sys2Proof.Machine.execVqntBx4 d a g s
  | .vdqntBx4 d a g => Sys2Proof.Machine.execVdqntBx4 d a g s
  | .vqntBx8i d a g => Sys2Proof.Machine.execVqntBx8i d a g s
  | .vdqntBx8i d a g => Sys2Proof.Machine.execVdqntBx8i d a g s
  | .vredsumF32 d a g => Sys2Proof.Machine.execVredsumF32 d a g s
  | .vredmaxF32 d a g => Sys2Proof.Machine.execVredmaxF32 d a g s
  | .vredminF32 d a g => Sys2Proof.Machine.execVredminF32 d a g s
  | .vredsumS32 d a g => Sys2Proof.Machine.execVredsumS32 d a g s
  | .vredmaxS32 d a g => Sys2Proof.Machine.execVredmaxS32 d a g s
  | .vredminS32 d a g => Sys2Proof.Machine.execVredminS32 d a g s
  | .vredand d a g => Sys2Proof.Machine.execVredand d a g s
  | .vredor d a g => Sys2Proof.Machine.execVredor d a g s
  | .vperm d a b g => Sys2Proof.Machine.execVperm d a b g s
  | .vslup d a b g => Sys2Proof.Machine.execVslup d a b g s
  | .vsldn d a b g => Sys2Proof.Machine.execVsldn d a b g s
  | .vbcast d a b g => Sys2Proof.Machine.execVbcast d a b g s
  | .vcomp d a g => Sys2Proof.Machine.execVcomp d a g s
  | .vexpd d a g => Sys2Proof.Machine.execVexpd d a g s
  | .vzip d a b g => Sys2Proof.Machine.execVzip d a b g s
  | .vunzip d a b g => Sys2Proof.Machine.execVunzip d a b g s
  | .vcmpEqS32 d a b g => Sys2Proof.Machine.execVcmpEqS32 d a b g s
  | .vcmpNeS32 d a b g => Sys2Proof.Machine.execVcmpNeS32 d a b g s
  | .vcmpLtS32 d a b g => Sys2Proof.Machine.execVcmpLtS32 d a b g s
  | .vcmpLeS32 d a b g => Sys2Proof.Machine.execVcmpLeS32 d a b g s
  | .vcmpLtN32 d a b g => Sys2Proof.Machine.execVcmpLtN32 d a b g s
  | .vcmpLeN32 d a b g => Sys2Proof.Machine.execVcmpLeN32 d a b g s
  | .vcmpEqF32 d a b g => Sys2Proof.Machine.execVcmpEqF32 d a b g s
  | .vcmpLtF32 d a b g => Sys2Proof.Machine.execVcmpLtF32 d a b g s
  | .vcmpLeF32 d a b g => Sys2Proof.Machine.execVcmpLeF32 d a b g s
  | .vcmpUnF32 d a b g => Sys2Proof.Machine.execVcmpUnF32 d a b g s
  | .pand d a b g => Sys2Proof.Machine.execPand d a b g s
  | .por d a b g => Sys2Proof.Machine.execPor d a b g s
  | .pxor d a b g => Sys2Proof.Machine.execPxor d a b g s
  | .pnot d b g => Sys2Proof.Machine.execPnot d b g s
  | .pcnt d b g => Sys2Proof.Machine.execPcnt d b g s
  | .pfirst d b g => Sys2Proof.Machine.execPfirst d b g s
  | .vcmpEqS32ScalarB d a b g => Sys2Proof.Machine.execVcmpEqS32ScalarB d a b g s
  | .vcmpNeS32ScalarB d a b g => Sys2Proof.Machine.execVcmpNeS32ScalarB d a b g s
  | .vcmpLtS32ScalarB d a b g => Sys2Proof.Machine.execVcmpLtS32ScalarB d a b g s
  | .vcmpLeS32ScalarB d a b g => Sys2Proof.Machine.execVcmpLeS32ScalarB d a b g s
  | .vcmpLtN32ScalarB d a b g => Sys2Proof.Machine.execVcmpLtN32ScalarB d a b g s
  | .vcmpLeN32ScalarB d a b g => Sys2Proof.Machine.execVcmpLeN32ScalarB d a b g s
  | .vcmpEqF32ScalarB d a b g => Sys2Proof.Machine.execVcmpEqF32ScalarB d a b g s
  | .vcmpLtF32ScalarB d a b g => Sys2Proof.Machine.execVcmpLtF32ScalarB d a b g s
  | .vcmpLeF32ScalarB d a b g => Sys2Proof.Machine.execVcmpLeF32ScalarB d a b g s
  | .vcmpUnF32ScalarB d a b g => Sys2Proof.Machine.execVcmpUnF32ScalarB d a b g s
  | .vldB32 d a g => Sys2Proof.Machine.execVldB32 d a g s
  | .vstB32 d a g => Sys2Proof.Machine.execVstB32 d a g s
  | .vldsB32 d a b g => Sys2Proof.Machine.execVldsB32 d a b g s
  | .vstsB32 d a b g => Sys2Proof.Machine.execVstsB32 d a b g s
  | .vldS16 d a g => Sys2Proof.Machine.execVldS16 d a g s
  | .vldS8 d a g => Sys2Proof.Machine.execVldS8 d a g s
  | .vgatherB32 d a b g => Sys2Proof.Machine.execVgatherB32 d a b g s
  | .vscatterB32 d a b g => Sys2Proof.Machine.execVscatterB32 d a b g s
  | .vsetl d a => Sys2Proof.Machine.execVsetl d a s
  | .lsld d a g => Sys2Proof.Machine.execLsld d a g s
  | .lsst d a g => Sys2Proof.Machine.execLsst d a g s
  | .lsldx d b g => Sys2Proof.Machine.execLsldx d b g s
  | .lsstx d b g => Sys2Proof.Machine.execLsstx d b g s
  | .vaddF32Compact d b p1 => Sys2Proof.Machine.execVaddF32Compact d b p1 s
  | .vsubF32Compact d b p1 => Sys2Proof.Machine.execVsubF32Compact d b p1 s
  | .vmulF32Compact d b p1 => Sys2Proof.Machine.execVmulF32Compact d b p1 s
  | .vmaxF32Compact d b p1 => Sys2Proof.Machine.execVmaxF32Compact d b p1 s
  | .vminF32Compact d b p1 => Sys2Proof.Machine.execVminF32Compact d b p1 s
  | .vaddS32Compact d b p1 => Sys2Proof.Machine.execVaddS32Compact d b p1 s
  | .vsubS32Compact d b p1 => Sys2Proof.Machine.execVsubS32Compact d b p1 s
  | .vmulS32Compact d b p1 => Sys2Proof.Machine.execVmulS32Compact d b p1 s
  | .vandCompact d b p1 => Sys2Proof.Machine.execVandCompact d b p1 s
  | .vorCompact d b p1 => Sys2Proof.Machine.execVorCompact d b p1 s
  | .vxorCompact d b p1 => Sys2Proof.Machine.execVxorCompact d b p1 s
  | .vshlCompact d b p1 => Sys2Proof.Machine.execVshlCompact d b p1 s
  | .vshrCompact d b p1 => Sys2Proof.Machine.execVshrCompact d b p1 s
  | .vsarCompact d b p1 => Sys2Proof.Machine.execVsarCompact d b p1 s
  | .vmovCompact d b p1 => Sys2Proof.Machine.execVmovCompact d b p1 s
  | .vnegF32Compact d b p1 => Sys2Proof.Machine.execVnegF32Compact d b p1 s
  | .mstream t a b ord => Sys2Proof.Machine.execMstream t a b ord s
  | .mstreamz t a b ord => Sys2Proof.Machine.execMstreamz t a b ord s
  | .mdrain t a b ord => Sys2Proof.Machine.execMdrain t a b ord s
  | .mwait => Sys2Proof.Machine.execMwait s
  | .mfmt a => Sys2Proof.Machine.execMfmt a s
  | .mlatch a b => Sys2Proof.Machine.execMlatch a b s
  | .mgeom d a b => Sys2Proof.Machine.execMgeom d a b s
  | .mspar a => Sys2Proof.Machine.execMspar a s
  | .mzero => Sys2Proof.Machine.execMzero s
  | .mscale a => Sys2Proof.Machine.execMscale a s
  | .mrow d a => Sys2Proof.Machine.execMrow d a s
  | .mrowst d a => Sys2Proof.Machine.execMrowst d a s
  | .baddqBx4 d a b => Sys2Proof.Machine.execBaddqBx4 d a b s
  | .baddqBx8i d a b => Sys2Proof.Machine.execBaddqBx8i d a b s
  | .mfmtCommand core => Sys2Proof.Machine.execMfmtCommand core s
  | .mlatchCommand core => Sys2Proof.Machine.execMlatchCommand core s
  | .msparCommand core => Sys2Proof.Machine.execMsparCommand core s
  | .mscaleCommand core => Sys2Proof.Machine.execMscaleCommand core s
  | .mzeroCommand core => Sys2Proof.Machine.execMzeroCommand core s
  | .mrowstCommand core => Sys2Proof.Machine.execMrowstCommand core s
  | .mstreamCommand core => Sys2Proof.Machine.execMstreamCommand core s
  | .mstreamzCommand core => Sys2Proof.Machine.execMstreamzCommand core s
  | .mdrainCommand core => Sys2Proof.Machine.execMdrainCommand core s
  | .rowPickBirth core => Sys2Proof.Machine.execRowPickBirth core s
  | .followOnEntry core op => Sys2Proof.Machine.execFollowOnEntry core op s
  | .copy t a ord => Sys2Proof.Machine.execCopy t a ord s
  | .copyl t a ord => Sys2Proof.Machine.execCopyl t a ord s
  | .halo t a ord => Sys2Proof.Machine.execHalo t a ord s
  | .weft t a ord => Sys2Proof.Machine.execWeft t a ord s
  | .seal d => Sys2Proof.Machine.execSeal d s
  | .bwait imm => Sys2Proof.Machine.execBwait imm s
  | .cseq d e => Sys2Proof.Machine.execCseq d e s
  | .chain a b => Sys2Proof.Machine.execChain a b s
  | .launch t a b => Sys2Proof.Machine.execLaunch t a b s
  | .spawn t a => Sys2Proof.Machine.execSpawn t a s
  | .suspend a => Sys2Proof.Machine.execSuspend a s
  | .yield => Sys2Proof.Machine.execYield s
  | .exit => Sys2Proof.Machine.execExit s
  | .grpForm d a => Sys2Proof.Machine.execGrpForm d a s
  | .grpJoin => Sys2Proof.Machine.execGrpJoin s
  | .grpLeave => Sys2Proof.Machine.execGrpLeave s
  | .forwardedWord tid => Sys2Proof.Machine.execForwardedWord tid s
  | .seqOpen d => Sys2Proof.Machine.execSeqOpen d s
  | .seqClose a => Sys2Proof.Machine.execSeqClose a s
  | .seqBind a => Sys2Proof.Machine.execSeqBind a s
  | .trap imm => Sys2Proof.Machine.execTrap imm s
  | .rfe => Sys2Proof.Machine.execRfe s
  | .wfm => Sys2Proof.Machine.execWfm s
  | .mfsp d imm => Sys2Proof.Machine.execMfsp d imm s
  | .mtsp a imm => Sys2Proof.Machine.execMtsp a imm s
  | .dirLd d a => Sys2Proof.Machine.execDirLd d a s
  | .dirSt a b => Sys2Proof.Machine.execDirSt a b s
  | .tagGet d a => Sys2Proof.Machine.execTagGet d a s
  | .tagSet a b => Sys2Proof.Machine.execTagSet a b s
  | .bxfer t a b => Sys2Proof.Machine.execBxfer t a b s
  | .reply a b => Sys2Proof.Machine.execReply a b s
  | .nack a => Sys2Proof.Machine.execNack a s
  | .fwd a b => Sys2Proof.Machine.execFwd a b s
  | .hend => Sys2Proof.Machine.execHend s
  | .handlerStepLimit tid => Sys2Proof.Machine.execHandlerStepLimit tid s
  | .handlerWatchdog tid => Sys2Proof.Machine.execHandlerWatchdog tid s
  | .rdmiss msg => Sys2Proof.Machine.execRdmiss msg s
  | .wrmiss msg => Sys2Proof.Machine.execWrmiss msg s
  | .upgrade msg => Sys2Proof.Machine.execUpgrade msg s
  | .wb msg => Sys2Proof.Machine.execWb msg s
  | .recallack msg => Sys2Proof.Machine.execRecallack msg s
  | .recall msg => Sys2Proof.Machine.execRecall msg s
  | .fwdRequest msg => Sys2Proof.Machine.execFwdRequest msg s
  | .push msg => Sys2Proof.Machine.execPush msg s
  | .red msg => Sys2Proof.Machine.execRed msg s
  | .dataReply msg => Sys2Proof.Machine.execDataReply msg s
  | .ackReply msg => Sys2Proof.Machine.execAckReply msg s
  | .nackReply msg => Sys2Proof.Machine.execNackReply msg s
  | .poisonReply msg => Sys2Proof.Machine.execPoisonReply msg s
  | .nackRetry req => Sys2Proof.Machine.execNackRetry req s
  | .causalUpdate src dst => Sys2Proof.Machine.execCausalUpdate src dst s
  | .causalBeat src dst => Sys2Proof.Machine.execCausalBeat src dst s
  | .writeRequestDelivery src dst => Sys2Proof.Machine.execWriteRequestDelivery src dst s
  | .readReplyDelivery src dst => Sys2Proof.Machine.execReadReplyDelivery src dst s
  | .announceTimer die => Sys2Proof.Machine.execAnnounceTimer die s
  | .memoryResponse req ans => Sys2Proof.Machine.execMemoryResponse req ans s
  | .peerStoreRefusal req cause => Sys2Proof.Machine.execPeerStoreRefusal req cause s
  | .peerAccessArrival acc => Sys2Proof.Machine.execPeerAccessArrival acc s
  | .engineUnitIssue core op => Sys2Proof.Machine.execEngineUnitIssue core op s
  | .engineUnitComplete core op => Sys2Proof.Machine.execEngineUnitComplete core op s
  | .engineOperationComplete core op => Sys2Proof.Machine.execEngineOperationComplete core op s
  | .weftBurstBirth core => Sys2Proof.Machine.execWeftBurstBirth core s
  | .stripArrival core dir => Sys2Proof.Machine.execStripArrival core dir s
  | .chainEntryStart core eng => Sys2Proof.Machine.execChainEntryStart core eng s
  | .chainNextPoll core eng => Sys2Proof.Machine.execChainNextPoll core eng s
  | .chainEntryComplete core eng => Sys2Proof.Machine.execChainEntryComplete core eng s
  | .gangRelease launch => Sys2Proof.Machine.execGangRelease launch s
  | .bobbinClaim core slot => Sys2Proof.Machine.execBobbinClaim core slot s
  | .runQueueRetry tid => Sys2Proof.Machine.execRunQueueRetry tid s
  | .pendingBirth birth => Sys2Proof.Machine.execPendingBirth birth s
  | .migrationRecordStart core slot => Sys2Proof.Machine.execMigrationRecordStart core slot s
  | .meshInterrupt core => Sys2Proof.Machine.execMeshInterrupt core s
  | .pickPreemptDeadline core => Sys2Proof.Machine.execPickPreemptDeadline core s
  | .eventEntry core => Sys2Proof.Machine.execEventEntry core s
  | .resumePacket msg => Sys2Proof.Machine.execResumePacket msg s
  | .abortPacket msg => Sys2Proof.Machine.execAbortPacket msg s
  | .discardPacket msg => Sys2Proof.Machine.execDiscardPacket msg s
  | .faultRingRetry die k => Sys2Proof.Machine.execFaultRingRetry die k s
  | .messageArrival msg => Sys2Proof.Machine.execMessageArrival msg s
  | .channelPickBirth core port => Sys2Proof.Machine.execChannelPickBirth core port s
  | .sendRetry msg => Sys2Proof.Machine.execSendRetry msg s
  | .blockQueueHandout die flow => Sys2Proof.Machine.execBlockQueueHandout die flow s
  | .wakeTableTimeout tid => Sys2Proof.Machine.execWakeTableTimeout tid s
  | .wfmTimeout tid => Sys2Proof.Machine.execWfmTimeout tid s
  | .kick qcb => Sys2Proof.Machine.execKick qcb s
  | .nopPacket slot => Sys2Proof.Machine.execNopPacket slot s
  | .launchGangPacket slot => Sys2Proof.Machine.execLaunchGangPacket slot s
  | .launchBobbinPacket slot => Sys2Proof.Machine.execLaunchBobbinPacket slot s
  | .callIbPacket slot => Sys2Proof.Machine.execCallIbPacket slot s
  | .returnPacket slot => Sys2Proof.Machine.execReturnPacket slot s
  | .waitSeqPacket slot => Sys2Proof.Machine.execWaitSeqPacket slot s
  | .waitSeqRecheck slot => Sys2Proof.Machine.execWaitSeqRecheck slot s
  | .signalPacket slot => Sys2Proof.Machine.execSignalPacket slot s
  | .writePacket slot => Sys2Proof.Machine.execWritePacket slot s
  | .fencePacket slot => Sys2Proof.Machine.execFencePacket slot s
  | .mapKeyPacket slot => Sys2Proof.Machine.execMapKeyPacket slot s
  | .bindRegionPacket slot => Sys2Proof.Machine.execBindRegionPacket slot s
  | .preemptPacket slot => Sys2Proof.Machine.execPreemptPacket slot s
  | .fetchFault slot => Sys2Proof.Machine.execFetchFault slot s
  | .parseWatchdog slot => Sys2Proof.Machine.execParseWatchdog slot s
  | .slotArbitration parse => Sys2Proof.Machine.execSlotArbitration parse s
  | .cprioAgeing slot => Sys2Proof.Machine.execCprioAgeing slot s
  | .bindSlot r => Sys2Proof.Machine.execBindSlot r s
  | .unbindSlot r => Sys2Proof.Machine.execUnbindSlot r s
  | .clearSlotFault r => Sys2Proof.Machine.execClearSlotFault r s
  | .waitingQueueAgeing qcb => Sys2Proof.Machine.execWaitingQueueAgeing qcb s
  | .queueSliceExpiry slot => Sys2Proof.Machine.execQueueSliceExpiry slot s
  | .queueIdleTimeout slot => Sys2Proof.Machine.execQueueIdleTimeout slot s
  | .timeSliceExpiry core => Sys2Proof.Machine.execTimeSliceExpiry core s
  | .tinv die val => Sys2Proof.Machine.execTinv die val s
  | .tinvComplete die => Sys2Proof.Machine.execTinvComplete die s
  | .migcmd val => Sys2Proof.Machine.execMigcmd val s
  | .migrationDone job => Sys2Proof.Machine.execMigrationDone job s
  | .thrashScan => Sys2Proof.Machine.execThrashScan s
  | .registerWrite who off val => Sys2Proof.Machine.execRegisterWrite who off val s
  | .draftLoad id image => Sys2Proof.Machine.execDraftLoad id image s
  | .keyExport index peer => Sys2Proof.Machine.execKeyExport index peer s
  | .peerKeyRetirement peer index gen => Sys2Proof.Machine.execPeerKeyRetirement peer index gen s
  | .peerRetirementTimeout peer index => Sys2Proof.Machine.execPeerRetirementTimeout peer index s
  | .sweepDone index => Sys2Proof.Machine.execSweepDone index s
  | .scrubRead stack found => Sys2Proof.Machine.execScrubRead stack found s
  | .lockstepMismatch => Sys2Proof.Machine.execLockstepMismatch s
  | .heartbeatMiss => Sys2Proof.Machine.execHeartbeatMiss s
  | .portDown port => Sys2Proof.Machine.execPortDown port s
  | .portTrainingRetry port => Sys2Proof.Machine.execPortTrainingRetry port s
  | .throttle die temp mw => Sys2Proof.Machine.execThrottle die temp mw s
  | .throttleClear die temp mw => Sys2Proof.Machine.execThrottleClear die temp mw s
  | .thermalStop die temp => Sys2Proof.Machine.execThermalStop die temp s
  | .deviceReset boot => Sys2Proof.Machine.execDeviceReset boot s
  | .hostBar2Write off data => Sys2Proof.Machine.execHostBar2Write off data s
  | .hostAtomicop op => Sys2Proof.Machine.execHostAtomicop op s
  | .spdmGetVersion req => Sys2Proof.Machine.execSpdmGetVersion req s
  | .spdmGetCapabilities req => Sys2Proof.Machine.execSpdmGetCapabilities req s
  | .spdmNegotiateAlgorithms req => Sys2Proof.Machine.execSpdmNegotiateAlgorithms req s
  | .spdmGetDigests req => Sys2Proof.Machine.execSpdmGetDigests req s
  | .spdmGetCertificate req => Sys2Proof.Machine.execSpdmGetCertificate req s
  | .spdmChallenge req => Sys2Proof.Machine.execSpdmChallenge req s
  | .spdmGetMeasurements req => Sys2Proof.Machine.execSpdmGetMeasurements req s
  | .spdmKeyExchange req => Sys2Proof.Machine.execSpdmKeyExchange req s
  | .spdmFinish req => Sys2Proof.Machine.execSpdmFinish req s
  | .spdmHeartbeat req => Sys2Proof.Machine.execSpdmHeartbeat req s
  | .spdmKeyUpdate req => Sys2Proof.Machine.execSpdmKeyUpdate req s
  | .spdmEndSession req => Sys2Proof.Machine.execSpdmEndSession req s
  | .spdmUnsupported req => Sys2Proof.Machine.execSpdmUnsupported req s
  | .illegalInstruction why => Sys2Proof.Machine.execIllegalInstruction why s
  | .unassignedPacketType slot => Sys2Proof.Machine.execUnassignedPacketType slot s
  | .activeMessageArrival core => Sys2Proof.Machine.execActiveMessageArrival core s
  | .fetchAhead core line => Sys2Proof.Machine.execFetchAhead core line s
  | .spuriousWake tid => Sys2Proof.Machine.execSpuriousWake tid s
  | .preemptClaimWindow core => Sys2Proof.Machine.execPreemptClaimWindow core s
  | .portTrainedUp port plane => Sys2Proof.Machine.execPortTrainedUp port plane s
  | .hostLinkDown => Sys2Proof.Machine.execHostLinkDown s
  | .bridgeLost bridge => Sys2Proof.Machine.execBridgeLost bridge s
  | .railOrPllFault clock rail => Sys2Proof.Machine.execRailOrPllFault clock rail s
  | .hbmHealthPoll stack lost => Sys2Proof.Machine.execHbmHealthPoll stack lost s
  | .linkFlitError link => Sys2Proof.Machine.execLinkFlitError link s
  | .laneFailure link => Sys2Proof.Machine.execLaneFailure link s
  | .peerSessionLoss peer => Sys2Proof.Machine.execPeerSessionLoss peer s
  | .rosterChange roster => Sys2Proof.Machine.execRosterChange roster s
  | .grantTableChange dom index handle send => Sys2Proof.Machine.execGrantTableChange dom index handle send s
  | .selvedgeEnrolment core dom flow => Sys2Proof.Machine.execSelvedgeEnrolment core dom flow s

end Sys2Proof.Machine
end

