-- ==== Sys2Proof/Machine/Upsets.lean ====
section
/-! DEFINITION. Errors of the device's own circuits that it masks or reports (R66, R400 to R402), and entries that caches give up of
themselves (R274, R293). -/

namespace Sys2Proof.Machine

/-- UNIT of a core in the RAS log (Table 21.5). -/
def coreUnit (core : Nat) : BitVec 20 :=
  if isSelvedge core then rasUnit 1 (coreDie core) ((core - 4608) % 12) else rasUnit 0 (coreDie core) (core % 1152)

/-- Count at a core. -/
def State.count (s : State) (core : Nat) (f : CoreCounters → CoreCounters) : State :=
  s.updCore core (fun k => { k with cnt := f k.cnt })

/-- A resident line of an instruction cache reads with an error (R66): corrected and counted, or the line is dropped and counted, so
that the next fetch gets it from memory again. -/
def State.icacheError (s : State) (core pa : Nat) (corrected : Bool) : State :=
  match (s.core core).icache.find? (fun x => x.pa / 128 == pa / 128) with
  | none => s
  | some x =>
    if corrected then
      (s.count core (fun c => { c with iccorr := satInc c.iccorr })).logRas 0 0 (coreUnit core) 0 (BitVec.ofNat 64 pa) 0
    else
      (s.updCore core (fun k => { k with icache := k.icache.erase x })).count core (fun c => { c with icunc := satInc c.icunc })

/-- UNIT of an SRAM (Table 21.5). -/
def Sram.unit (r : Sram) : BitVec 20 :=
  match r with
  | .dataCache c | .localStore c | .registers c => coreUnit c
  | .sharedCache d n => rasUnit 5 d (n % 32)
  | .creel d => rasUnit 6 d 0
  | .directory h => rasUnit 2 (h / 8) (h % 8)

/-- A single-bit error of an SRAM is corrected in place, counted (Tables 21.7, 21.8) and logged (R400, R405). -/
def State.correct (s : State) (r : Sram) : State :=
  let counted : State := match r with
    | .dataCache c => s.count c (fun x => { x with dccorr := satInc x.dccorr })
    | .localStore c => s.count c (fun x => { x with lscorr := satInc x.lscorr })
    | .registers c => s.count c (fun x => { x with rfcorr := satInc x.rfcorr })
    | .sharedCache d _ => s.updDie d (fun x => { x with scCorr := satInc x.scCorr })
    | .creel d => s.updDie d (fun x => { x with creelCorr := satInc x.creelCorr })
    | .directory _ => s
  counted.logRas 0 0 r.unit 0 0 0

/-- Count a double-bit error of an SRAM, where Table 21.8 has a counter of it. -/
def State.countLost (s : State) (r : Sram) : State :=
  match r with
  | .sharedCache d _ => s.updDie d (fun x => { x with scUnc := satInc x.scUnc })
  | .creel d => s.updDie d (fun x => { x with creelUnc := satInc x.creelUnc })
  | _ => s

/-- A double-bit error of an SRAM reaches an agent's next instruction as poison (R400): it consumes it, and traps with 0x15. A handler
aborts (R241; log entry 30). -/
def State.lost (s : State) (r : Sram) (a : Agent) : State :=
  match s.thread? a.tid with
  | none => s
  | some t =>
    if !s.canIssue a t ∨ (t.ctx a.acc).midway then s
    else
      let s := s.countLost r
      let unit := r.unit
      match t.heddle with
      | some x => (s.logRas 2 0 unit 0x15 0 0).heddleAbort a.tid x 0x15 t.exe.pc false
      | none =>
        let e := mkEntry (t.poster a.tid a.acc) 0 0x15 (t.ctx a.acc).pc 0 0 0 s.tick
        (s.logRasWith 2 0 unit 0x15 0 0 (some e.record)).takeTrap a { cause := 0x15, addr := 0, extra := 0, pc := none }

/-- A heddle thread's state fails its parity (R400): the handler aborts, and its block is poisoned (R241; log entry 30 on its cause). -/
def State.parity (s : State) (tid : Nat) : State :=
  match s.thread? tid with
  | some t => (match t.heddle with
    | some x => s.heddleAbort tid x 0x15 t.exe.pc false
    | none => s)
  | none => s

/-- EXTRA of a residue trap (R401): bit 60, and the unit that failed. -/
def residueExtra (unit : BitVec 8) : Word := BitVec.ofNat 64 (2 ^ 60 + unit.toNat)

/-- Count a reissue after a residue mismatch (R401, Table 21.7), and log it. -/
def State.residueRetry (s : State) (core : Nat) : State :=
  (s.count core (fun c => { c with dpretry := satInc c.dpretry })).logRas 0 3 (coreUnit core) 0 0 0

/-- Count a second mismatch of one instruction (R401, Table 21.7). -/
def State.residueFail (s : State) (core : Nat) : State :=
  (s.residueRetry core).count core (fun c => { c with dpfail := satInc c.dpfail })

/-- The unit whose arithmetic an instruction's bytes name (R401): 0 scalar, 1 vector; none for an instruction without an arithmetic
result (log entry 30). -/
def arithUnit (bs : List Byte) : Option (BitVec 8) :=
  let m := majorOf bs
  if wholeLength bs = 2 then some 1
  else if (1 ≤ m ∧ m ≤ 5) ∨ m = 0x0F then some 0
  else if (0x19 ≤ m ∧ m ≤ 0x1D) ∨ m = 0x1F ∨ m = 0x25 then some 1
  else none

/-- The bytes of the instruction that an agent issues next. -/
def State.nextBytes (s : State) (a : Agent) (t : Thread) : List Byte :=
  match (s.fetch a t).1 with
  | .bytes bs => bs
  | _ => []

/-- A residue disagrees at an instruction of an agent that `s` issues and `t` has completed (R401): it is issued once more, with the
result of `t`, or disagrees again and traps with 0x15 without a result. -/
def State.residue (s t : State) (a : Agent) (unit : BitVec 8) (persists : Bool) : State :=
  match s.thread? a.tid, t.thread? a.tid with
  | some x, some y =>
    let bs := s.nextBytes a x
    let core := x.core
    let pc := (x.ctx a.acc).pc
    let done := decide ((y.ctx a.acc).pc = pc + BitVec.ofNat 56 (wholeLength bs)) && y.status == .running
    if !done ∨ arithUnit bs ≠ some unit then t
    else if !persists then t.residueRetry core
    else
      let e := mkEntry (x.poster a.tid a.acc) 0 0x15 pc 0 (residueExtra unit) 0 s.tick
      ((s.residueFail core).logRasWith 2 3 (coreUnit core) 0x15 0 0 (some e.record)).takeTrap a
        { cause := 0x15, addr := 0, extra := residueExtra unit, pc := none }
  | _, _ => t

/-- An operation's array command is at the head of its queue, or a unit of its copy is in flight. -/
def State.opAtWork (s : State) (core op : Nat) (x : EngineOp) : Bool :=
  x.state == .active && (if x.kind = .mstream then (s.queueHead core).any (fun q => q.streams == some op)
    else x.kind.engine == 0 && !x.inflight.isEmpty)

/-- A residue disagrees at an array command or a copy (R401): an `mstream` runs again from its start, on the accumulator as it stood, and
a copy's unit is made again; a second mismatch stops the operation with 0x15. -/
def State.residueCommand (s : State) (core op : Nat) (persists : Bool) : State :=
  match s.op? core op with
  | none => s
  | some x =>
    let unit : BitVec 8 := if x.kind.engine = 1 then 2 else 3
    if !s.opAtWork core op x then s
    else if persists then
      ((s.residueFail core).logRas 2 3 (coreUnit core) 0x15 0 0).faultOp core op x { cause := 0x15, extra := residueExtra unit } 0
    else s.residueRetry core

/-- An array command or a copy reads an SRAM's double-bit error (R400): its operation consumes poison, a fault found at its unit. -/
def State.lostCommand (s : State) (r : Sram) (core op : Nat) : State :=
  match s.op? core op with
  | none => s
  | some x =>
    if s.opAtWork core op x then ((s.countLost r).logRas 2 0 r.unit 0x15 0 0).faultOp core op x { cause := 0x15, extra := 0 } 0 else s

/-- The restart of the treadle pair or of the security core fails, which nothing masks (R400): it runs no more until the device is reset. -/
def State.restartFails (s : State) (treadle : Bool) : State :=
  if treadle then
    if s.mgmt.treadleDownAt.isNone then s
    else ((s.updMgmt (fun m => { m with treadleUp := false })).setReady 1 false).logRas 3 7 (rasUnit 7 0 1) 0 0 0
  else ((s.updMgmt (fun m => { m with securityUp := false })).setReady 0 false).logRas 3 12 (rasUnit 7 0 0) 0 0 0

/-- A die's mesh is lost, which is device fatal (R400). -/
def State.meshLost (s : State) (die : Nat) : State := (s.logRas 4 6 (rasUnit 0 die 0) 0 0 0).stopDevice .mesh

/-- A core gives up its partial of a block, where it has a reply slot: it goes home in a RED, where it is folded and answered with ACK, and
stays in the core's write-back buffer until then (R293, R366, R367). -/
def State.evictPartial (s : State) (core b : Nat) : State :=
  match alGet (s.core core).partials b, s.coreSlot core with
  | some (key, x), some slot =>
    let s := s.dropPartial core b
    let s := s.updCore core (fun k => { k with wbuf := alSet k.wbuf b { key := key, data := x, writable := true } })
    let m := mkMsg (s.heddleNode (s.homeHeddle (128 * b))) (s.coreNode core) (s.coreNode core) tRed false (BitVec.ofNat 7 slot) key
      (128 * b) 0 0 (some x)
    (s.addOut (wbReq core b slot key)).sendMsg m
  | _, _ => s

/-- Take an upset: a residue mismatch at an instruction is the issuing agent's turn, which Step makes. -/
def State.upset (s : State) (u : Upset) : State :=
  match u with
  | .icache core pa corrected => s.icacheError core pa corrected
  | .corrected r => s.correct r
  | .lost r a => s.lost r a
  | .hbm pa found => if hbmBacked pa then s.checkRead (128 * blockNo pa) found else s
  | .parity tid => s.parity tid
  | .residue _ _ _ => s
  | .residueCommand core op persists => s.residueCommand core op persists
  | .decode slot => s.updSlot slot.toNat (fun x => { x with flawed := x.flawed || x.parsing.isSome })
  | .evictPartial core b => s.evictPartial core b
  | .evictShared die b => s.updDie die (fun d => d.dropShared b)
  | .lostCommand r core op => s.lostCommand r core op
  | .restartFails treadle => s.restartFails treadle
  | .meshLost die => s.meshLost die.toNat
  | .hostReplay => s.updMgmt (fun m => { m with replay := satInc m.replay })
  | .trainFails port => s.trainFails port.toNat
  | .inlet tenths => s.updMgmt (fun m => { m with inlet := tenths })

/-- The host writes its own memory (R277, R291); what the host's side has seen orders it. -/
def State.hostWrite (s : State) (addr : Nat) (bs : List Byte) : State := s.plainWrite (hostLoc addr) bs

end Sys2Proof.Machine
end

