-- ==== Sys2Proof/Machine/Step.lean ====
section
/-! DEFINITION. One step of the device: the next input of the agenda, or the current agent's next instruction (log entry 1). -/

namespace Sys2Proof.Machine

/-- What follows an instruction's outcome at its agent: forwarding in a vector group (R231) and the path of its fetch unit (R63). -/
def afterOutcome (a : Agent) (word : Option FwdWord) (pc : VAddr) (bs : List Byte) (old : State)
    (o : Host.Outcome State Fault Refusal) : Host.Outcome State Fault Refusal :=
  match o with
  | .next s => .next (s.afterIssue old a word pc bs)
  | o => o

/-- An agent's vector or matrix instruction, which has not issued, finds its unit throttled (R410). -/
def State.throttles (s : State) (a : Agent) (bs : List Byte) : Bool :=
  match s.thread? a.tid with
  | some t => s.throttled (coreDie t.core) && weavesOrVector bs && !(t.ctx a.acc).midway
  | none => false

/-- Decode the fetched bytes and execute the instruction (R46, R60), which may wait for a throttled unit (R410). -/
noncomputable def runBytes (a : Agent) (word : Option FwdWord) (pc : VAddr) (bs : List Byte) (s : State) :
    Host.Outcome State Fault Refusal :=
  match decode bs with
  | .ok (i, n) => if s.throttles a bs then .next (s.setWait a .throttle) else afterOutcome a word pc (bs.take n) s (exec i s)
  | .error (.illegal why) => exec (.illegalInstruction why) s
  | .error .short => exec (.illegalInstruction .zeroHalfword) s

/-- Fetch at an agent's PC and run what was fetched (R65, R48). The trap of a failed fetch waits as any other (R134). -/
noncomputable def runFetched (a : Agent) (t : Thread) (s : State) : Host.Outcome State Fault Refusal :=
  match s.fetch a t with
  | (.fail f, s) =>
    .next (if s.trapWaits a then s else s.takeTrap a { cause := f.bad.cause, addr := f.addr.setWidth 64, extra := f.bad.extra, pc := none })
  | (.notStart, s) => exec (.illegalInstruction .startMap) s
  | (.bytes bs, s') => runBytes a (s.armedWord a) (t.ctx a.acc).pc bs s'

/-- An agent's turn. A handler that has issued 512 instructions or run 16,384 cycles aborts (R241). -/
noncomputable def issueTurn (a : Agent) (s : State) : Host.Outcome State Fault Refusal :=
  let s := { s with cur := a }
  match s.thread? a.tid with
  | none => .next s
  | some t =>
    if !s.canIssue a t then .next s
    else match t.heddle with
      | none => runFetched a t s
      | some x =>
        if 512 ≤ x.hsteps then exec (.handlerStepLimit a.tid) s
        else if 16384 ≤ s.tick - x.since then exec (.handlerWatchdog a.tid) s
        else runFetched a t s

/-- A turn in which the accesses of the instruction leave the core now and are performed later (R279, log entry 22). -/
noncomputable def laterTurn (a : Agent) (s : State) : Host.Outcome State Fault Refusal :=
  match issueTurn a { s with slow := true } with
  | .next t => .next { t with slow := false }
  | o => o

/-- A turn in which an arithmetic unit's residue disagrees (R401). -/
noncomputable def residueTurn (a : Agent) (unit : BitVec 8) (persists : Bool) (s : State) : Host.Outcome State Fault Refusal :=
  match issueTurn a s with
  | .next t => .next (({ s with cur := a } : State).residue t a unit persists)
  | o => o

/-- A turn of the agenda. -/
noncomputable def runTurn (t : Turn) (s : State) : Host.Outcome State Fault Refusal :=
  match t.act with
  | .issue a => issueTurn a s
  | .later a => laterTurn a s
  | .event i => if isEvent i then exec i s else .fault .malformedTurn
  | .hostWrite addr bs => .next (s.hostWrite addr bs)
  | .hostRead off => .next (s.sendOut (.completion true (s.bar0 off)))
  | .hostLoad off n => .next (s.hostLoad off n)
  | .reuseFrame pa => .next (if s.firmware then s.reuseFrame pa else s)
  | .peerKey peer index gen => .next (s.peerKey peer index gen)
  | .repairFor die k data => .next (s.repairFor die.toNat k data)
  | .upset u => (match u with
    | .residue a unit persists => residueTurn a unit persists s
    | _ => .next (s.upset u))
  | .park tid => .next (s.park tid)

/-- One step. -/
noncomputable def step (s : State) : Host.Outcome State Fault Refusal :=
  match s.agenda with
  | t :: rest =>
    match s.dead with
    | some w => if revives t then runTurn t { s with agenda := rest } else .fault (.deviceStopped w)
    | none => runTurn t { s with agenda := rest, tick := s.tick + t.dt }
  | [] =>
    match s.dead with
    | some w => .fault (.deviceStopped w)
    | none => issueTurn s.cur { s with tick := s.tick + 1 }

/-- s with an instruction placed where step fetches next: the execute stream of full thread 1 on core 0, in the root domain,
issues it at virtual address 0x10000. Die 0 gets a page table that maps the low 1 GiB to itself, under key slot 0 (log
entry 16). -/
def State.withFetchWord (s : State) (nbits w : Nat) : State :=
  let word (x : Nat) : List Byte := leBytes 8 x
  let m := s.mem.putBytes 0x2000 (word 0x4001 ++ word 0)
  let m := m.putBytes 0x4000 (word 0x6001 ++ word 0)
  let m := m.putBytes 0x6000 (word 0xF ++ word 0)
  let m := m.putBytes 0x10000 (tableBytes 8 (w % 2 ^ nbits))
  let m := m.putBytes 0x20000 (word (2 ^ 64 - 1))
  let im : Image := { kdesc := 0, text := 0x10000, tsize := 128, smap := 0x20000, floor := false }
  let t := Thread.init .full 0 0 0 im 0x10000
  let sealIt (bs : AList BlockMeta) (b : Nat) : AList BlockMeta := alSet bs b { BlockMeta.init with sealedUnder := some 0 }
  { s with mem := m, cur := { tid := 1, acc := false }, agenda := [], dead := none, groups := [], forming := [],
           blocks := sealIt (sealIt (sealIt (sealIt (sealIt s.blocks 64) 128) 192) 512) 1024,
           threads := alSet s.threads 1 t,
           cores := alSet s.cores 0 { Core.init with full := some 1 },
           dies := vset s.dies 0 { s.die 0 with ptroot := 0x2001, ptkey := 0 },
           keys := alSet s.keys 0 { KeySlot.init with state := .live, gen := 0 } }

end Sys2Proof.Machine
end

