-- ==== Sys2Proof/Safety.lean ====
section
/-! DEFINITION. What statements about the machine are stated in: when an instruction may issue and complete, and which states are
well formed. Each condition is one on the state and the operands alone. -/

namespace Sys2Proof.Machine

/-- The issuing agent of s runs thread t, and an instruction with the needs n passes every check made before its own
conditions: Table 2.8 rows 3 to 7, its governing predicate, and the operand waits (R67, R101, R130). -/
structure CanIssue (n : Need) (s : State) (t : Thread) : Prop where
  self : s.thread? s.cur.tid = some t
  legal : n.legal = true
  cls : n.cls.bad t s.cur.acc = none
  view : n.uses.all (fun u => u.inView t s.cur.acc) = true
  gov : govOn (t.ctx s.cur.acc) n.gov = true
  row6 : row6 n.uses t s.cur.acc = none
  noFault : (if anyLane t s.cur.acc n.lanes then tokenFault n.uses t s.cur.acc else none) = none
  ready : operandWait n.uses s t s.cur.acc = none

/-- The instruction of needs n is switched off by its governing predicate (R101). -/
structure PredicatedOff (n : Need) (s : State) (t : Thread) : Prop where
  self : s.thread? s.cur.tid = some t
  legal : n.legal = true
  cls : n.cls.bad t s.cur.acc = none
  view : n.uses.all (fun u => u.inView t s.cur.acc) = true
  gov : govOn (t.ctx s.cur.acc) n.gov = false
  first : (t.ctx s.cur.acc).midway = false

/-- Instruction i, of len bytes, completes from s: the next state is u with the issuing stream past the instruction. -/
def Retires (i : Instr) (len : Nat) (s u : State) : Prop := exec i s = .next (u.advance len .seq)

/-- Instruction i takes a trap from s (R371, R372), once an access of the thread's other stream that has issued is complete (R134). -/
def Traps (i : Instr) (s : State) (x : Trap) : Prop :=
  exec i s = .next (if s.trapWaits s.cur then s else s.takeTrap s.cur x)

/-- A scalar field that names a register, not a queue or a mesh port (Table 1.2). -/
def isReg (c : BitVec 5) : Prop := c.toNat < 24

/-- Every byte of memory reads the same in two states. -/
def SameMemory (s u : State) : Prop := ∀ a : Nat, u.mem.get a = s.mem.get a

/-- Memory is in its canonical form. -/
def State.MemoryWf (s : State) : Prop := s.mem.wf = true

/-- The position of the first set bit of a list of bits, or the list's length. -/
def firstSet (l : List Bool) : Nat := (l.takeWhile (fun b => !b)).length

/-- Table 4.2 and R109: the results of the two-source integer instructions for A = x and B = y. -/
def integerResults (d a b : BitVec 5) (g : Gov) (x y : Word) : List (Instr × Word) :=
  let k := y.toNat % 64
  [(.add d a b g, BitVec.ofNat 64 (x.toNat + y.toNat)), (.sub d a b g, BitVec.ofInt 64 (x.toInt - y.toInt)),
   (.and d a b g, x &&& y), (.or d a b g, x ||| y), (.xor d a b g, x ^^^ y), (.andn d a b g, x &&& ~~~y),
   (.orn d a b g, x ||| ~~~y), (.xnor d a b g, ~~~(x ^^^ y)),
   (.shl d a b g, BitVec.ofNat 64 (x.toNat * 2 ^ k)), (.shr d a b g, BitVec.ofNat 64 (x.toNat / 2 ^ k)),
   (.sar d a b g, BitVec.ofInt 64 (x.toInt / 2 ^ k)), (.rol d a b g, x.rotateLeft k), (.ror d a b g, x.rotateRight k),
   (.minS64 d a b g, if x.toInt ≤ y.toInt then x else y), (.maxS64 d a b g, if x.toInt ≤ y.toInt then y else x),
   (.minN64 d a b g, if x.toNat ≤ y.toNat then x else y), (.maxN64 d a b g, if x.toNat ≤ y.toNat then y else x),
   (.sltS64 d a b g, if x.toInt < y.toInt then 1 else 0), (.sltN64 d a b g, if x.toNat < y.toNat then 1 else 0),
   (.seq d a b g, if x = y then 1 else 0), (.sne d a b g, if x = y then 0 else 1),
   (.mul d a b g, BitVec.ofNat 64 (x.toNat * y.toNat)),
   (.mulhS64 d a b g, BitVec.ofInt 64 (x.toInt * y.toInt / 2 ^ 64)),
   (.mulhN64 d a b g, BitVec.ofNat 64 (x.toNat * y.toNat / 2 ^ 64)),
   (.divS64 d a b g, if y = 0 then BitVec.allOnes 64 else BitVec.ofInt 64 (x.toInt.tdiv y.toInt)),
   (.divN64 d a b g, if y = 0 then BitVec.allOnes 64 else BitVec.ofNat 64 (x.toNat / y.toNat)),
   (.remS64 d a b g, if y = 0 then x else BitVec.ofInt 64 (x.toInt.tmod y.toInt)),
   (.remN64 d a b g, if y = 0 then x else BitVec.ofNat 64 (x.toNat % y.toNat))]

/-- Table 4.2: the results of the one-source instructions for B = y. -/
def unaryResults (d b : BitVec 5) (g : Gov) (y : Word) : List (Instr × Word) :=
  let up := (List.range 64).map (fun i => y.getLsbD i)
  [(.clz d b g, BitVec.ofNat 64 (firstSet up.reverse)), (.ctz d b g, BitVec.ofNat 64 (firstSet up)),
   (.popc d b g, BitVec.ofNat 64 (up.count true)), (.sextS8 d b g, (y.setWidth 8).signExtend 64),
   (.sextS16 d b g, (y.setWidth 16).signExtend 64), (.sextS32 d b g, (y.setWidth 32).signExtend 64),
   (.zextN32 d b g, (y.setWidth 32).setWidth 64)]

/-- Table 4.3: the results of the immediate instructions for A = x, with `i` the 12-bit and `k` the 6-bit immediate. -/
def immediateResults (d a : BitVec 5) (i : BitVec 12) (k : BitVec 6) (x : Word) : List (Instr × Word) :=
  let m := i.signExtend 64
  [(.addi d a i, x + m), (.andi d a i, x &&& m), (.ori d a i, x ||| m), (.xori d a i, x ^^^ m),
   (.slti d a i, if x.toInt < i.toInt then 1 else 0), (.shli d a k, BitVec.ofNat 64 (x.toNat * 2 ^ k.toNat)),
   (.shri d a k, BitVec.ofNat 64 (x.toNat / 2 ^ k.toNat)), (.sari d a k, BitVec.ofInt 64 (x.toInt / 2 ^ k.toNat))]

/-- Table 4.2: the conditions of the integer compares that write a predicate. -/
def compareConditions (d a b : BitVec 5) (g : Gov) (x y : Word) : List (Instr × Bool) :=
  [(.cmppEq d a b g, x == y), (.cmppNe d a b g, x != y), (.cmppLtS64 d a b g, decide (x.toInt < y.toInt)),
   (.cmppGeS64 d a b g, decide (y.toInt ≤ x.toInt)), (.cmppLtN64 d a b g, decide (x.toNat < y.toNat)),
   (.cmppGeN64 d a b g, decide (y.toNat ≤ x.toNat))]

/-- Table 4.7: when each compare-branch is taken. -/
def branchConditions (a b : BitVec 5) (o : BitVec 10) (h : BitVec 2) (x y : Word) : List (Instr × Bool) :=
  [(.beq a b o h, x == y), (.bne a b o h, x != y), (.blt a b o h, decide (x.toInt < y.toInt)),
   (.bge a b o h, decide (y.toInt ≤ x.toInt)), (.bltn a b o h, decide (x.toNat < y.toNat)),
   (.bgen a b o h, decide (y.toNat ≤ x.toNat))]

/-- R119: when each zero-branch is taken. -/
def zeroConditions (a : BitVec 5) (o : BitVec 15) (h : BitVec 2) (x : Word) : List (Instr × Bool) :=
  [(.beqz a o h, x == 0), (.bnez a o h, x != 0), (.bltz a o h, decide (x.toInt < 0)), (.bgez a o h, decide (0 ≤ x.toInt)),
   (.bgtz a o h, decide (0 < x.toInt)), (.blez a o h, decide (x.toInt ≤ 0))]

/-- A PC-relative target (R50): `o` halfwords, signed, from the instruction. -/
def halfwords {n : Nat} (pc : VAddr) (o : BitVec n) : VAddr := BitVec.ofInt 56 (pc.toNat + 2 * o.toInt)

/-- Instruction i, of len bytes, completes from s and writes w to its scalar field d, its sources read from s up to s1. -/
def Writes (i : Instr) (len : Nat) (d : BitVec 5) (w : Word) (s s1 : State) : Prop :=
  ∃ u, setS d w s1 = .ok ((), u) ∧ Retires i len s u

/-- Instruction i completes from s and writes a bit to every lane position of predicate d. -/
def WritesPred (i : Instr) (len : Nat) (d : BitVec 5) (c : Bool) (s s1 : State) : Prop :=
  ∃ u, setP d.toNat (if c then BitVec.allOnes 64 else 0) s1 = .ok ((), u) ∧ Retires i len s u

/-- Instruction i completes from s, merges flags into `%fstat` and writes an f32 zero-extended to its scalar field d. -/
def WritesF32 (i : Instr) (len : Nat) (d : BitVec 5) (r : W32 × FF) (s s1 : State) : Prop :=
  ∃ v u, mergeFlags r.2 s1 = .ok ((), v) ∧ setS d (r.1.setWidth 64) v = .ok ((), u) ∧ Retires i len s u

/-- Instruction i completes from s, merges flags into `%fstat` and writes an integer to its scalar field d. -/
def WritesInt (i : Instr) (len : Nat) (d : BitVec 5) (r : Int × FF) (s s1 : State) : Prop :=
  ∃ v u, mergeFlags r.2 s1 = .ok ((), v) ∧ setS d (BitVec.ofInt 64 r.1) v = .ok ((), u) ∧ Retires i len s u

/-- Instruction i completes from s, goes to its target when taken, else to the next instruction, and leaves u otherwise. -/
def Branches (i : Instr) (taken : Bool) (target : VAddr) (s u : State) : Prop :=
  exec i s = .next (u.advance 4 (if taken then .jump target else .seq))

/-- A computed target passes the checks of R121. -/
def GoodTarget (x : Word) : Prop := field x 59 56 = 0 ∧ bit x 0 = false

/-- Table 4.10: the scalar FP32 instructions of two sources and their operations. -/
def fpBinary (d a b : BitVec 5) (g : Gov) : List (Instr × FOp) :=
  [(.fadd d a b g, .add), (.fsub d a b g, .sub), (.fmul d a b g, .mul), (.fdiv d a b g, .div), (.fmin d a b g, .min),
   (.fmax d a b g, .max)]

/-- Table 4.10: the scalar FP32 instructions of one source and their operations. -/
def fpUnary (d b : BitVec 5) (g : Gov) : List (Instr × FOp) :=
  [(.fsqrt d b g, .sqrt), (.fabs d b g, .abs), (.fneg d b g, .neg)]

/-- Table 4.10: the scalar FP32 comparisons. -/
def fpCompares (d a b : BitVec 5) (g : Gov) : List (Instr × FCmp) :=
  [(.fcmppEq d a b g, .eq), (.fcmppLt d a b g, .lt), (.fcmppLe d a b g, .le), (.fcmppUn d a b g, .un)]

/-- No access of the instruction at the PC is in flight: it has not issued before, and its pick has not just migrated (R196, R268). -/
structure Fresh (s : State) (t : Thread) : Prop where
  idle : (t.ctx s.cur.acc).phase = .idle
  none : (t.ctx s.cur.acc).got = []
  lanes : (t.ctx s.cur.acc).lanes = []
  seen : (t.ctx s.cur.acc).seen = []
  still : t.moved = false

/-- No launch that has ended waits for the delivery of message k (R227). -/
def State.Unawaited (s : State) (k : Nat) : Prop := ∀ g ∈ s.gangs, k ∉ g.2.sends

/-- No access of the thread is outstanding and no store fault is deferred: a release finds nothing to wait for (R196, R281, R287). -/
structure Drained (s : State) (t : Thread) : Prop where
  writes : t.writes = []
  faults : t.storeFaults = []
  posted : s.peerStorePending s.cur.tid = false
  outs : ∀ acc, s.unperformed s.cur.tid acc false = false

/-- An acquire of the issuing stream finds nothing to wait for: its earlier reads have been performed (R281). -/
def Acquired (s : State) : Prop := s.unperformed s.cur.tid s.cur.acc true = false

/-- No thread waits, so a store wakes none (R253). -/
def NoSleeper (s : State) : Prop := ∀ p ∈ s.threads, ∀ k, p.2.status ≠ .waiting k

/-- No record that the device keeps in memory has a place there: bobbins, context blocks, run queues and domain control blocks are
not written (Tables 10.1 to 10.10). -/
def NoRecords (s : State) : Prop := ∀ die d va, s.recordLeaf die d va = none

/-- An aligned access of n bytes at ea goes to the issuing core's own local store, at byte `off`, and a window permits it (R40,
R192, R193). -/
structure OwnLocal (s : State) (t : Thread) (ea : Word) (n : Nat) (write : Bool) (off : Nat) : Prop where
  route : route t.core ea = .ok (.own off)
  aligned : ea.toNat % n = 0
  window : windowOk (s.core t.core) off n write false = true

/-- An access of n bytes at ea passes rows 1 to 8 of Table 7.2 by leaf l, is served by HBM of the issuing core's own die under a draft
whose blocks core and home share plainly (Table 18.8: not commutative, reduction, loaded or written-once), and nothing keeps it
from being performed at once: the page neither moves nor is being rebound, and the access is not one of those that are performed later. -/
structure AtHome (s : State) (t : Thread) (ea : Word) (n : Nat) (write : Bool) (l : Leaf) (u : State) : Prop where
  route : route t.core ea = .ok .global
  checked : ∃ e, s.checkGlobal t.core t.dom ea n true write = (.ok (e, l), u)
  hbm : l.loc = 0
  still : s.moving l.pa = false
  bound : s.mgmt.binding.any (inRange l.pa) = false
  draft : s.stdDraft (s.draftAt l.pa) = true ∧ s.draftAt l.pa ∉ [4, 5, 6]
  home : paDie l.pa = coreDie t.core
  sealed_ : s.readable (blockNo l.pa) l.key = true
  now : s.slow = false
  own : ∀ o : MemOp, o.size = n → u.ownAt s.cur t l.pa l.key o = .free

/-- The state after a load at home by a core: unchanged where its data cache holds the block, else with the line of a core that held it
writable taken back, and the reader's loom registered under the producer-push draft (Table 18.8). -/
def State.homeRead (s : State) (core : Nat) (l : Leaf) : State :=
  let b := blockNo l.pa
  if s.hit core b l.key false then s
  else
    let v := s.demote b l.key
    if s.draftAt l.pa = 3 then v.registerReader (s.homeHeddle l.pa) b core else v

/-- The state after a store at home by a core: on its own line where it holds the block writable, else at the home, which then does
what the draft says (Table 18.8). -/
def State.homeWritten (s : State) (core : Nat) (l : Leaf) (bs : List Byte) : State :=
  if s.hit core (blockNo l.pa) l.key true then s.lineStore core l.key l.pa bs
  else (s.homeStore l.key l.pa bs).afterWrite (s.draftAt l.pa) core l.key l.pa

/-- The thread is a member of gang g and may name barrier b (R206, R208). -/
structure InGang (s : State) (t : Thread) (b : BitVec 11) (gid : Nat) (g : Gang) : Prop where
  grouped : (s.groupRegs t).gsize ≠ 0
  low : t.image.floor = true → b.toNat ≤ 511
  gang : ∃ f m, (s.core t.core).full = some f ∧ s.thread? f = some m ∧ m.gang = some gid
  live : alGet s.gangs gid = some g

/-- Table 7.3: the base-plus-offset loads, whether each sign-extends, and its size in bytes. -/
def loadForms (d a : BitVec 5) (imm : BitVec 12) : List (Instr × Bool × Nat) :=
  [(.ldS8 d a imm, true, 1), (.ldN8 d a imm, false, 1), (.ldS16 d a imm, true, 2), (.ldN16 d a imm, false, 2),
   (.ldS32 d a imm, true, 4), (.ldN32 d a imm, false, 4), (.ldB64 d a imm, false, 8)]

/-- Table 7.3: the base-plus-offset stores and their sizes in bytes. -/
def storeForms (d a : BitVec 5) (imm : BitVec 12) : List (Instr × Nat) :=
  [(.stB8 d a imm, 1), (.stB16 d a imm, 2), (.stB32 d a imm, 4), (.stB64 d a imm, 8)]

/-- R197: n bytes of value m in a register, sign-extended or zero-extended. -/
def loaded (signed : Bool) (n m : Nat) : Word :=
  BitVec.ofInt 64 (if signed ∧ 2 ^ (8 * n - 1) ≤ m then (m : Int) - 2 ^ (8 * n) else m)

/-- Table 7.6: the atomics of 4 (`w32`) or 8 bytes, with the new value each writes for an old value m, an operand b and an expected
value c, and what T receives. -/
def atomicForms (t a b : BitVec 5) (w32 : Bool) (ord : Ord) (m y c : Nat) : List (Instr × Nat × Word) :=
  let n := if w32 then 4 else 8
  let z : Word := BitVec.ofNat 64 m
  let big := decide ((BitVec.ofNat (8 * n) y).toInt ≤ (BitVec.ofNat (8 * n) m).toInt)
  [(.amoSwap t a b w32 ord, y, z), (.amoAdd t a b w32 ord, (m + y) % 2 ^ (8 * n), z), (.amoAnd t a b w32 ord, m &&& y, z),
   (.amoOr t a b w32 ord, m ||| y, z), (.amoXor t a b w32 ord, m ^^^ y, z),
   (.amoMaxS t a b w32 ord, if big then m else y, loaded w32 n m),
   (.amoMinS t a b w32 ord, if (BitVec.ofNat (8 * n) m).toInt ≤ (BitVec.ofNat (8 * n) y).toInt then m else y, loaded w32 n m),
   (.amoMaxN t a b w32 ord, max m y, z), (.amoMinN t a b w32 ord, min m y, z)] ++
  (if t = 0 then [(.amoCas t a b w32 ord, if m = c then y else m, z)] else []) ++
  (if w32 then [(.amoFaddF32 t a b ord, (addRne .f32 m y).1, z)] else [])

/-- The next state of an instruction that stalls before issue: its wait is recorded, and one at which a full thread may suspend takes
it out of its vector group (R256, R261). -/
def Waits (i : Instr) (w : Wait) (s : State) : Prop :=
  exec i s = .next (((s.setWait s.cur w).reachWait s.cur w).deadlock s.cur)

/-- The privileged status registers of Table 1.8 and the bits of each that exist. -/
def sprMask (n : Nat) : Word :=
  if n = 0x802 then 0xFF else if n = 0x805 then 3 else if n < 0x810 then BitVec.allOnes 64
  else if n < 0x818 then 0x7FFFF else 0x7_0007_FFFF

/-- Vector instruction i, of len bytes, completes from s and writes f to the active lanes of its vector field d. The other lanes keep the
register's old value; a mesh port's entry holds zero there (R23, R24). -/
def WritesLanes (i : Instr) (len : Nat) (d : BitVec 5) (on : Nat → Bool) (f : Nat → W32) (t : Thread) (s s1 : State) : Prop :=
  ∃ x u, (∀ k, k < 64 → lane x k = if on k then f k else if d.toNat < 28 then lane (vget t.v d.toNat 0) k else 0) ∧
    setV d x s1 = .ok ((), u) ∧ Retires i len s u

/-- The flags that any active lane raises (R138). -/
def laneFlags (on : Nat → Bool) (f : Nat → FF) : FF :=
  let some_ (p : FF → Bool) : Bool := (List.range 64).any (fun k => on k && p (f k))
  { nx := some_ FF.nx, uf := some_ FF.uf, of := some_ FF.of, dz := some_ FF.dz, nv := some_ FF.nv }

/-- As `WritesLanes`, merging the flags of the active lanes into `%fstat` first. -/
def WritesLanesF (i : Instr) (len : Nat) (d : BitVec 5) (on : Nat → Bool) (f : Nat → W32 × FF) (t : Thread) (s s1 : State) : Prop :=
  ∃ v, mergeFlags (laneFlags on (fun k => (f k).2)) s1 = .ok ((), v) ∧
    ∃ x u, (∀ k, k < 64 → lane x k = if on k then (f k).1 else if d.toNat < 28 then lane (vget t.v d.toNat 0) k else 0) ∧
      setV d x v = .ok ((), u) ∧ Retires i len s u

/-- Vector instruction i completes from s and writes the active bits of predicate d, the others keeping their value (R157, R158); it merges the
flags of the active lanes. -/
def WritesPredLanes (i : Instr) (d : BitVec 5) (on : Nat → Bool) (f : Nat → Bool × FF) (t : Thread) (s s1 : State) : Prop :=
  ∃ v w u, mergeFlags (laneFlags on (fun k => (f k).2)) s1 = .ok ((), v) ∧
    (∀ k, k < 64 → w.getLsbD k = if on k then (f k).1 else bit ((t.ctx s.cur.acc).pred d.toNat) k) ∧
    setP d.toNat w v = .ok ((), u) ∧
    Retires i 4 s (u.updThread s.cur.tid (fun r => { r with vdirty := r.vdirty || d.toNat != 0 }))

/-- Table 5.2: the lane operations on integers, with the instruction of a vector B and that of a scalar B. -/
def vectorIntegerOps (d a b : BitVec 5) (g : Gov) : List (Instr × Instr × (W32 → W32 → W32)) :=
  [(.vaddS32 d a b g, .vaddS32ScalarB d a b g, fun x y => BitVec.ofInt 32 (x.toInt + y.toInt)),
   (.vsubS32 d a b g, .vsubS32ScalarB d a b g, fun x y => BitVec.ofInt 32 (x.toInt - y.toInt)),
   (.vmulS32 d a b g, .vmulS32ScalarB d a b g, fun x y => BitVec.ofInt 32 (x.toInt * y.toInt)),
   (.vmulhS32 d a b g, .vmulhS32ScalarB d a b g, fun x y => BitVec.ofInt 32 (x.toInt * y.toInt / 2 ^ 32)),
   (.vminS32 d a b g, .vminS32ScalarB d a b g, fun x y => BitVec.ofInt 32 (min x.toInt y.toInt)),
   (.vmaxS32 d a b g, .vmaxS32ScalarB d a b g, fun x y => BitVec.ofInt 32 (max x.toInt y.toInt)),
   (.vminN32 d a b g, .vminN32ScalarB d a b g, fun x y => BitVec.ofNat 32 (min x.toNat y.toNat)),
   (.vmaxN32 d a b g, .vmaxN32ScalarB d a b g, fun x y => BitVec.ofNat 32 (max x.toNat y.toNat)),
   (.vand d a b g, .vandScalarB d a b g, fun x y => x &&& y), (.vor d a b g, .vorScalarB d a b g, fun x y => x ||| y),
   (.vxor d a b g, .vxorScalarB d a b g, fun x y => x ^^^ y),
   (.vshl d a b g, .vshlScalarB d a b g, fun x y => BitVec.ofNat 32 (x.toNat * 2 ^ (y.toNat % 32))),
   (.vshr d a b g, .vshrScalarB d a b g, fun x y => BitVec.ofNat 32 (x.toNat / 2 ^ (y.toNat % 32))),
   (.vsar d a b g, .vsarScalarB d a b g, fun x y => BitVec.ofInt 32 (x.toInt / 2 ^ (y.toNat % 32)))]

/-- R56, Table 5.2: the compact integer lane operations, whose A is D. -/
noncomputable def compactIntegerOps (d b : BitVec 5) (p1 : Bool) : List (Instr × (W32 → W32 → W32)) :=
  [(.vaddS32Compact d b p1, fun x y => BitVec.ofInt 32 (x.toInt + y.toInt)),
   (.vsubS32Compact d b p1, fun x y => BitVec.ofInt 32 (x.toInt - y.toInt)),
   (.vmulS32Compact d b p1, fun x y => BitVec.ofInt 32 (x.toInt * y.toInt)), (.vandCompact d b p1, fun x y => x &&& y),
   (.vorCompact d b p1, fun x y => x ||| y), (.vxorCompact d b p1, fun x y => x ^^^ y),
   (.vshlCompact d b p1, fun x y => BitVec.ofNat 32 (x.toNat * 2 ^ (y.toNat % 32))),
   (.vshrCompact d b p1, fun x y => BitVec.ofNat 32 (x.toNat / 2 ^ (y.toNat % 32))),
   (.vsarCompact d b p1, fun x y => BitVec.ofInt 32 (x.toInt / 2 ^ (y.toNat % 32)))]

/-- Table 5.2, R145: the integer lane operations that a modifier word may precede, their forms with a scalar B, and their exact results. -/
def integerExact (d a b : BitVec 5) (g : Gov) : List (Instr × Instr × (W32 → W32 → Int)) :=
  [(.vaddS32 d a b g, .vaddS32ScalarB d a b g, fun x y => x.toInt + y.toInt),
   (.vsubS32 d a b g, .vsubS32ScalarB d a b g, fun x y => x.toInt - y.toInt),
   (.vmulS32 d a b g, .vmulS32ScalarB d a b g, fun x y => x.toInt * y.toInt),
   (.vmulhS32 d a b g, .vmulhS32ScalarB d a b g, fun x y => x.toInt * y.toInt / 2 ^ 32),
   (.vminS32 d a b g, .vminS32ScalarB d a b g, fun x y => min x.toInt y.toInt),
   (.vmaxS32 d a b g, .vmaxS32ScalarB d a b g, fun x y => max x.toInt y.toInt),
   (.vminN32 d a b g, .vminN32ScalarB d a b g, fun x y => (BitVec.ofNat 32 (min x.toNat y.toNat)).toInt),
   (.vmaxN32 d a b g, .vmaxN32ScalarB d a b g, fun x y => (BitVec.ofNat 32 (max x.toNat y.toNat)).toInt)]

/-- R145: an exact integer as an s32 lane: SAT or CLAMP 11 takes it to the nearer end of the range, else it wraps. -/
def saturated (m : Mod) (i : Int) : W32 :=
  BitVec.ofInt 32 (if m.sat = true ∨ m.clamp = 3 then (if i < -2 ^ 31 then -2 ^ 31 else if 2 ^ 31 - 1 < i then 2 ^ 31 - 1 else i) else i)

/-- Table 5.3: the FP32 lane operations of two sources, with the instruction of a vector B and that of a scalar B. -/
def vectorFpOps (d a b : BitVec 5) (g : Gov) : List (Instr × Instr × FOp) :=
  [(.vaddF32 d a b g, .vaddF32ScalarB d a b g, .add), (.vsubF32 d a b g, .vsubF32ScalarB d a b g, .sub),
   (.vmulF32 d a b g, .vmulF32ScalarB d a b g, .mul), (.vdivF32 d a b g, .vdivF32ScalarB d a b g, .div),
   (.vminF32 d a b g, .vminF32ScalarB d a b g, .min), (.vmaxF32 d a b g, .vmaxF32ScalarB d a b g, .max)]

/-- R56: the compact FP32 lane operations of two sources. -/
noncomputable def compactFpOps (d b : BitVec 5) (p1 : Bool) : List (Instr × FOp) :=
  [(.vaddF32Compact d b p1, .add), (.vsubF32Compact d b p1, .sub), (.vmulF32Compact d b p1, .mul),
   (.vmaxF32Compact d b p1, .max), (.vminF32Compact d b p1, .min)]

/-- Table 5.3: the FP32 lane operations of one source. -/
def vectorFpUnary (d b : BitVec 5) (g : Gov) : List (Instr × FOp) :=
  [(.vsqrtF32 d b g, .sqrt), (.vabsF32 d b g, .abs), (.vnegF32 d b g, .neg), (.vrintF32 d b g, .rint)]

/-- R147: the approximating lane operations. -/
def approxOps (d b : BitVec 5) (g : Gov) : List (Instr × Approx) :=
  [(.vrcpF32 d b g, .rcp), (.vrsqrtF32 d b g, .rsqrt), (.vexp2F32 d b g, .exp2), (.vlog2F32 d b g, .log2),
   (.vtanhF32 d b g, .tanh)]

/-- R148: the fused lane operations, with the instruction of a vector B and that of a scalar B. -/
def fusedOps (d a b : BitVec 5) (g : Gov) : List (Instr × Instr × FOp) :=
  [(.vfmaF32 d a b g, .vfmaF32ScalarB d a b g, .fma), (.vfmsF32 d a b g, .vfmsF32ScalarB d a b g, .fms),
   (.vfnmaF32 d a b g, .vfnmaF32ScalarB d a b g, .fnma), (.vfnmsF32 d a b g, .vfnmsF32ScalarB d a b g, .fnms)]

/-- R150: the conversions that do not read D, whether element k exists, and one lane of each. -/
def wideningForms (m : Option Mod) (d a k : BitVec 5) (g : Gov) : List (Instr × Bool × (RM → W32 → W32 × FF)) :=
  let one (f : Fmt) (w : Nat) (rm : RM) (x : W32) : W32 × FF :=
    let r := fconv f .f32 m rm (negA m) (absA m) (x.toNat / 2 ^ (w * k.toNat) % 2 ^ w)
    (BitVec.ofNat 32 r.1, r.2)
  [(.vcvtF32S32 d a g, true, fun rm x => intToFloat m rm (negA m) (absA m) x.toInt),
   (.vcvtS32F32 d a g, true, fun rm x =>
     let r := floatToInt (-2 ^ 31) (2 ^ 31 - 1) m rm (negA m) (absA m) x
     (BitVec.ofInt 32 r.1, r.2)),
   (.vcvtF32Bf16 d a k g, decide (k.toNat ≤ 1), one .bf16 16), (.vcvtF32F16 d a k g, decide (k.toNat ≤ 1), one .f16 16),
   (.vcvtF32E4m3 d a k g, decide (k.toNat ≤ 3), one .e4m3 8), (.vcvtF32E5m2 d a k g, decide (k.toNat ≤ 3), one .e5m2 8)]

/-- R151: the narrowing conversions, their formats and widths. -/
def narrowingForms (d a : BitVec 5) (g : Gov) : List (Instr × Fmt × Nat) :=
  [(.vcvtBf16F32 d a g, .bf16, 16), (.vcvtF16F32 d a g, .f16, 16), (.vcvtE4m3F32 d a g, .e4m3, 8), (.vcvtE5m2F32 d a g, .e5m2, 8)]

/-- R154: the integer reductions of a list of lanes, each from its identity, extended as the instruction says. -/
def integerReductions (d a : BitVec 5) (g : Gov) (l : List W32) : List (Instr × Word) :=
  [(.vredsumS32 d a g, (l.foldl (· + ·) 0).signExtend 64),
   (.vredmaxS32 d a g, BitVec.ofInt 64 ((l.map BitVec.toInt).foldl max (-2 ^ 31))),
   (.vredminS32 d a g, BitVec.ofInt 64 ((l.map BitVec.toInt).foldl min (2 ^ 31 - 1))),
   (.vredand d a g, (l.foldl (· &&& ·) (BitVec.allOnes 32)).setWidth 64), (.vredor d a g, (l.foldl (· ||| ·) 0).setWidth 64)]

/-- R154: the FP32 reductions, their operations and identities. -/
def fpReductions (d a : BitVec 5) (g : Gov) : List (Instr × FOp × W32) :=
  [(.vredsumF32 d a g, .add, 0), (.vredmaxF32 d a g, .max, 0xFF800000), (.vredminF32 d a g, .min, 0x7F800000)]

/-- R155: the permutes by a vector B: what lane i receives from A = x and B = y under VL. -/
def vectorPermutes (d a b : BitVec 5) (g : Gov) (vl : Nat) (x y : VWord) : List (Instr × (Nat → W32)) :=
  let at_ (v : VWord) (j : Nat) : W32 := if j < vl then lane v j else 0
  [(.vperm d a b g, fun i => at_ x ((lane y i).toNat % 64)), (.vzip d a b g, fun i => at_ (if i % 2 = 0 then x else y) (i / 2)),
   (.vunzip d a b g, fun i => if 2 * i < vl then lane x (2 * i) else at_ y (2 * i - vl))]

/-- R155: the permutes by a scalar B = n. -/
def scalarPermutes (d a b : BitVec 5) (g : Gov) (vl : Nat) (x : VWord) (n : Nat) : List (Instr × (Nat → W32)) :=
  let at_ (j : Nat) : W32 := if j < vl then lane x j else 0
  [(.vslup d a b g, fun i => if n ≤ i then at_ (i - n) else 0), (.vsldn d a b g, fun i => at_ (i + n)),
   (.vbcast d a b g, fun _ => at_ (n % 64))]

/-- R157: the vector compares, with the instruction of a vector B and that of a scalar B. -/
noncomputable def vectorCompares (d a b : BitVec 5) (g : Gov) : List (Instr × Instr × (W32 → W32 → Bool × FF)) :=
  let int (c : Bool) : Bool × FF := (c, FF.none)
  [(.vcmpEqS32 d a b g, .vcmpEqS32ScalarB d a b g, fun x y => int (x == y)),
   (.vcmpNeS32 d a b g, .vcmpNeS32ScalarB d a b g, fun x y => int (x != y)),
   (.vcmpLtS32 d a b g, .vcmpLtS32ScalarB d a b g, fun x y => int (decide (x.toInt < y.toInt))),
   (.vcmpLeS32 d a b g, .vcmpLeS32ScalarB d a b g, fun x y => int (decide (x.toInt ≤ y.toInt))),
   (.vcmpLtN32 d a b g, .vcmpLtN32ScalarB d a b g, fun x y => int (decide (x.toNat < y.toNat))),
   (.vcmpLeN32 d a b g, .vcmpLeN32ScalarB d a b g, fun x y => int (decide (x.toNat ≤ y.toNat))),
   (.vcmpEqF32 d a b g, .vcmpEqF32ScalarB d a b g, fun x y => fcmp .eq (f32Val x) (f32Val y)),
   (.vcmpLtF32 d a b g, .vcmpLtF32ScalarB d a b g, fun x y => fcmp .lt (f32Val x) (f32Val y)),
   (.vcmpLeF32 d a b g, .vcmpLeF32ScalarB d a b g, fun x y => fcmp .le (f32Val x) (f32Val y)),
   (.vcmpUnF32 d a b g, .vcmpUnF32ScalarB d a b g, fun x y => fcmp .un (f32Val x) (f32Val y))]

/-- Every active lane's access lies in the issuing core's own local store, at byte `off k`, aligned and within a window. -/
def LanesLocal (s : State) (t : Thread) (g : Gov) (ea : Nat → Word) (n : Nat) (write : Bool) (off : Nat → Nat) : Prop :=
  ∀ k, k < 64 → laneOn t s.cur.acc g k = true → OwnLocal s t (ea k) n write (off k)

/-- The state after each active lane has stored 4 bytes into local store, in ascending order (R163). -/
def laneStores (s : State) (t : Thread) (g : Gov) (off : Nat → Nat) (v : VWord) : State :=
  ((List.range 64).filter (laneOn t s.cur.acc g)).foldl
    (fun u k => u.plainWrite (lsLoc t.core (off k)) (leBytes 4 (lane v k).toNat)) s

/-- Memory after each active lane has stored 4 bytes into its own slice (R143). -/
def sliceStored (s : State) (t : Thread) (g : Gov) (off : Nat → Nat) (v : VWord) : Memory :=
  ((List.range 64).filter (laneOn t s.cur.acc g)).foldl
    (fun m k => m.putNum (sliceLoc t.core k (off k)) 4 (lane v k).toNat) s.mem

/-- R159: lane k's address: `n` bytes apart, at a signed stride, or at the base plus the lane's signed offset. -/
def unitAddr (n : Nat) (base : Word) (k : Nat) : Word := leaAdd base (BitVec.ofNat 64 (n * k))
def stridedAddr (base stride : Word) (k : Nat) : Word := leaAdd base (BitVec.ofInt 64 (k * stride.toInt))
def indexedAddr (base : Word) (idx : VWord) (k : Nat) : Word := leaAdd base ((lane idx k).signExtend 64)

/-- Who may use the array (R167): a full thread, or a pick on a shuttle whose full thread shares its domain. -/
def UsesArray (s : State) (t : Thread) : Prop :=
  t.kind = .full ∨ (t.kind = .pick ∧ ∃ f m, (s.core t.core).full = some f ∧ s.thread? f = some m ∧ m.dom = t.dom)

/-- The array command queue of t's core has room (R168). -/
def ArrayRoom (s : State) (t : Thread) : Prop := (s.core t.core).array.queue.length < 8

/-- Instruction i completes from s and enters command c, its sources read from s up to s1 (R168). -/
def Enqueues (i : Instr) (c : ArrCmd) (t : Thread) (s s1 : State) : Prop :=
  Retires i 4 s (State.enterCmd { s1 with nextId := s1.nextId + 1 } t.core s.cur.tid none s1.nextId c)

/-- n bytes from a are an operand of t's array: aligned, in a readable window (R169). -/
def ArrayBytes (s : State) (t : Thread) (a : Word) (n : Nat) : Prop :=
  a.toNat % 128 = 0 ∧ windowOk (s.core t.core) a.toNat n false false = true

/-- The commands that an `mwait` or `mrow` waits for have completed: those it noted when it issued, or the whole queue if it issues
now; `drains` counts the row picks of drains too (R183, R184). -/
def CommandsDone (s : State) (t : Thread) (drains : Bool) : Prop :=
  let k := s.core t.core
  let ids := (t.ctx s.cur.acc).got
  (ids = [] ∧ k.array.queue = [] ∧ (drains = true → ∀ o ∈ k.ops, s.drainLive t.core o.1 = false)) ∨
  (ids ≠ [] ∧ ∀ i ∈ ids, (∀ q ∈ k.array.queue, BitVec.ofNat 64 q.id ≠ i) ∧ s.drainLive t.core i.toNat = false)

/-- MV of a stream or drain: its word's, or `%emask.MV`, or 32 (R178, R180). -/
def rowsFor (mv : Nat) (e : BitVec 24) : Nat := if mv ≠ 0 then mv else if field e 5 0 ≠ 0 then field e 5 0 else 32

/-- NV of a drain: its word's, or `%emask.NV`, or 128 (R180). -/
def colsFor (nv : Nat) (e : BitVec 24) : Nat := if nv ≠ 0 then nv else if field e 15 8 ≠ 0 then field e 15 8 else 128

/-- The command at the head of a core's queue takes its turn: it leaves the queue and the array becomes a, whose queue is the rest;
the copy whose follow-on command it is, if any, is told, else a thread that its engine work alone held there is let go (R168, R186,
R257). -/
def TakesTurn (i : Instr) (core : Nat) (q : QueuedCmd) (a : ArrayState) (s : State) : Prop :=
  ∃ u, exec i s = .next u ∧ u = (match q.follow with
    | some op => (s.updArray core (fun _ => a)).updOp core op (fun x => { x with follow := .done })
    | none => (s.updArray core (fun _ => a)).unhold q.tid)

/-- A handler's address names a block homed at its heddle (R238). -/
structure HomeBlock (s : State) (h : HeddleCtx) (a : Word) : Prop where
  aligned : a.toNat % 128 = 0
  backed : hbmBacked a.toNat = true
  home : s.homeHeddle a.toNat = h.heddle

/-- A handler dispatched at heddle h for message m as type `type` (R237, Table 8.13): what the new heddle thread holds. -/
structure Dispatched (s u : State) (h i slot : Nat) (m : CohMsg) (type : Nat) (pc : VAddr) : Prop where
  thread : ∃ t x, u.thread? (heddleTid h i) = some t ∧ t.kind = .heddle ∧ t.mode = 2 ∧ t.exe.pc = pc ∧ t.heddle = some x ∧
    x.heddle = h ∧ x.hmsg = BitVec.ofNat 8 (type + (if m.data.isSome then 16 else 0)) ∧ x.haddr = BitVec.ofNat 52 m.pa ∧
    x.hsrc = m.src ∧ x.horig = (if m.reply then m.src else origOf type m.src m.orig) ∧ x.hkey = m.key ∧ x.hslot = BitVec.ofNat 7 slot ∧ x.buffer = m.data ∧ x.hsteps = 0 ∧
    t.exe.reg 1 = BitVec.ofNat 64 m.pa ∧ t.exe.reg 2 = m.src.setWidth 64 ∧
    t.exe.reg 3 = BitVec.ofNat 64 (4 * (s.block (blockNo m.pa)).colour.toNat + (s.block (blockNo m.pa)).access.toNat) ∧
    t.exe.reg 4 = ((s.cacheDir h (blockNo m.pa)).block (blockNo m.pa)).dir
  held : vget (u.heddle h).threads i none = some (heddleTid h i) ∧ slot ∈ (u.heddle h).slots
  memory : u.mem = s.mem

/-- Nothing keeps a message that has reached its heddle h from being dispatched there, on thread i with reply slot `slot`, to pc (R237,
R358, R360, R362, R394, R395): no older message for its block waits, the block is not busy and no handler or forward holds it, its draft is a
loaded one, and its directory entry is cached or can be read. -/
structure CanDispatch (s : State) (h i slot : Nat) (m : CohMsg) (pc : VAddr) : Prop where
  node : s.node m.dst = some (.heddle h)
  memoryHeddle : h < 64
  noHandler : s.handlerOn h m.pa = false
  first : s.queuedFor h m.pa = false
  still : s.moving m.pa = false
  idle : s.busy m.pa = false
  loaded : s.stdDraft (s.draftAt m.pa) = false
  noForward : alGet (s.heddle h).fwds (blockNo m.pa) = none
  expected : (m.src, 128 * blockNo m.pa + m.slot.toNat) ∉ (s.heddle h).discards
  thread : freeHThread (s.heddle h) = some i
  slot : freeHSlot (s.heddle h) = some slot
  target : ∃ d, alGet s.drafts (s.draftAt m.pa) = some d ∧
    dispatchTarget d m.type.toNat (s.block (blockNo m.pa)).access.toNat = some pc
  dirs : blockNo m.pa ∈ (s.heddle h).dirs ∨ (s.storedDir h (blockNo m.pa)).isSome = true ∧
    ((s.heddle h).dirs.filter (fun x => x % 2048 == blockNo m.pa % 2048)).length < 8

/-- The keys of a map rise strictly. -/
def Rising {α : Type} (l : AList α) : Prop := l.Pairwise (fun a b => a.1 < b.1)

/-- A core answers message m on the reply lane: DATA with a line, or ACK (R393). -/
def CoreAnswers (s u : State) (core : Nat) (m : CohMsg) (x : Option (KeyId × Block)) : Prop :=
  ∃ r, alGet u.msgs s.nextId = some r ∧ r.dst = m.src ∧ r.src = s.coreNode core ∧ r.type = 4 ∧ r.reply = true ∧ r.slot = m.slot ∧
    r.pa = m.pa ∧ r.kind = (if x.isSome then kData else kAck) ∧ r.data = x.map Prod.snd ∧ r.key = (x.map Prod.fst).getD m.key

/-- The packet p of a type stands at a slot's parse point, its parse core has it or it holds the queue (R324, R329), its second decode
agrees with the first (R402), and it passes the checks of Table 17.4 (FCODE 0x01 to 0x05). -/
structure PacketReady (s : State) (slot : BitVec 6) (type : Nat) (p : Pkt) : Prop where
  open_ : (s.slot slot.toNat).open = true
  found : s.parse (s.slot slot.toNat) = .packet p
  type : p.type = type
  agrees : (s.slot slot.toNat).flawed = false
  good : p.bad (s.slot slot.toNat) = none

/-- The packet p of a slot commits: the parse point passes it, buffers parsed to their end are popped, the slot is bound with its priority
counted anew, and all else is as in t (R324, R331, R338). -/
def Commits (i : Instr) (slot : BitVec 6) (p : Pkt) (s t : State) : Prop :=
  let x := (t.slot slot.toNat).pass p.len
  exec i s = .next ((t.updSlot slot.toNat (fun _ => x.served x.stack t.tick t.us32)).dropAsked x.qcb)

/-- A packet holds its queue (R329): its slot waits with its parse point unmoved; one that is being saved stays so (R336). -/
def HoldsQueue (i : Instr) (slot : BitVec 6) (p : Pkt) (s t : State) : Prop :=
  exec i s = .next (t.updSlot slot.toNat (fun x =>
    { x with state := if x.state = .saving then .saving else .waiting, parsing := none, packet := some p }))

/-- A packet waits for an access to a page of a peer device that its queue now makes (R194, R328). -/
def AsksPeer (i : Instr) (slot : BitVec 6) (p : Pkt) (s v : State) (kind : AccKind) (ea : Word) (n : Nat) (data : Word) : Prop :=
  HoldsQueue i slot p s (v.askPeer (v.slot slot.toNat) kind ea n data)

/-- An access of a packet fails a check: its queue stops with FCODE 0x81, and the fault ring has the entry (R328, R333). -/
def FailsAccess (i : Instr) (slot : BitVec 6) (p : Pkt) (b : Bad) (addr : Word) (s : State) : Prop :=
  exec i s = .next ((s.commandFault slot.toNat 0x81 0 p.at_).postQueueFault slot.toNat b addr)

/-- The events that what a queue does now comes after (R282, R329). -/
def frontStamp (s : State) : Clock := s.mgmt.fclk.join s.allSeen

/-- A SIGNAL whose release is complete (R328): the events it covers, and the state in which it updates its word. -/
def SignalReady (s : State) (x : Slot) (i : Nat) (c : Clock) (v : State) : Prop :=
  (x.rel = some c ∧ v = s) ∨
  (x.rel = none ∧ s.launchesDone x.qcb = true ∧ s.frontBusy 5 = false ∧ c = frontStamp s ∧
    v = ({ s with mgmt := { s.mgmt with fclk := c } } : State).updSlot i (fun y => { y with rel := some c }))

/-- The packet events by TYPE (Table 17.3). -/
noncomputable def packetEvents (slot : BitVec 6) : List (Instr × Nat) :=
  [(.nopPacket slot, 0), (.launchGangPacket slot, 1), (.launchBobbinPacket slot, 2), (.callIbPacket slot, 3),
   (.returnPacket slot, 4), (.waitSeqPacket slot, 5), (.signalPacket slot, 6), (.writePacket slot, 7),
   (.fencePacket slot, 8), (.mapKeyPacket slot, 9), (.bindRegionPacket slot, 10), (.preemptPacket slot, 11)]

/-- A packet is refused: its queue stops with FCODE 0x06 and an RCODE (Table 17.4). -/
def RefusesPacket (i : Instr) (slot : BitVec 6) (p : Pkt) (rcode : Nat) (s : State) : Prop :=
  exec i s = .next (s.commandFault slot.toNat 6 rcode p.at_)

/-- What a LAUNCH_GANG packet asks for (Table 17.3). -/
def gangReq (x : Slot) (p : Pkt) (stamp : Clock) : LaunchReq :=
  { die := field p.spec 1 0, ldom := x.dom, dom := packetDom x (p.w 4), col := field (p.w 3) 5 0, row := field (p.w 3) 12 8,
    width := field (p.w 3) 21 16, height := field (p.w 3) 28 24, args := p.args 7, cword := p.w64 5, token := none,
    qcb := some x.qcb, stamp := stamp }

/-- No cached translation of the cores of some dies, nor of those dies' walkers, meets a condition (R350, R351). -/
def NoTlb (s : State) (dies : Nat → Bool) (p : TlbEntry → Bool) : Prop :=
  (∀ c, dies (coreDie c) = true → ∀ e, e ∈ (s.core c).dtlb ∨ e ∈ (s.core c).itlb → p e = false) ∧
  ∀ d, dies d = true → ∀ x ∈ (s.die d).walks, p x.2 = false

/-- R152: a block quantisation with its modifier completes. With VL below 32 it writes no register; else every lane below VL of D receives
the coded blocks, whatever the predicate. -/
def Quantises (m : Option Mod) (i : Instr) (rule : List FVal → Coded) (per len : Nat) (d : BitVec 5) (g : Gov) (x : VWord) (t : Thread)
    (s s1 : State) : Prop :=
  let bs := (List.range (t.vl / 32)).map (fun k => rule ((List.range 32).map (fun n =>
    quantSource m (laneOn t s.cur.acc g (32 * k + n)) (lane x (32 * k + n)))))
  (t.vl < 32 → d.toNat < 28 → Retires i len s s1) ∧
  (32 ≤ t.vl → t.vl ≤ 64 →
    ∃ v w u, (bs.foldl (fun e c => do
        e
        mergeFlags c.flags) (pure ()) : Exec Unit) s1 = .ok ((), v) ∧
      (∀ k, k < 64 → lane w k = if k < t.vl then blockLanes bs per k
        else if d.toNat < 28 then lane (vget t.v d.toNat 0) k else 0) ∧
      setV d w v = .ok ((), u) ∧ Retires i len s u)

/-- R153: a dequantisation with its modifier completes: it writes the active lanes of the whole blocks below VL. -/
def Dequantises (m : Option Mod) (rm : RM) (i : Instr) (bx4 : Bool) (len : Nat) (d : BitVec 5) (g : Gov) (x : VWord) (t : Thread)
    (s s1 : State) : Prop :=
  WritesLanesF i len d (fun k => laneOn t s.cur.acc g k && decide (k < t.vl / 32 * 32)) (fun k =>
    let c := codedOf bx4 (t.vl / 32) (k / 32) x
    let v := (if bx4 then c.bx4 (k % 32) else c.bx8i (k % 32)).mod (negA m) (absA m)
    let r := Fmt.f32.deliver rm (tailOf m) v.exact
    (BitVec.ofNat 32 r.1, r.2)) t s s1

/-- A fatal event stops the device: at once unless its log entry waits for room, and then as soon as that is written (R400, R407). -/
structure StopsFor (s u : State) (why : Dead) : Prop where
  stops : u.dead = some why ∨ (u.dead = s.dead ∧ u.stopping = some why ∧ u.mgmt.lastWords = true)
  now : (s.mgmt.hostUp = false ∨ s.mgmt.raslog = 0 ∨ (s.mgmt.rasheld = [] ∧ rasRoom s.mgmt = true)) → u.dead = some why

/-- An SPDM request makes the responder send one response, signed over the requester's nonce and the answer (R388). -/
def Answers (i : Instr) (req : SpdmRequest) (s t : State) (code : BitVec 8) (body : List Byte) : Prop :=
  exec i s = .next (t.sendOut (.spdm req.peer code body
    (some (Config.sign (Config.sha384 (leBytes 32 req.nonce.toNat ++ code :: body))))))

/-- Instruction i completes from s and, of the whole state, changes only the issuing thread t: in the issuing stream only the scalar
registers of `regs`, the predicates of `preds` and, where `flags` says so, the sticky bits of `%fstat`; only the vector registers of
`vecs`; and where the stream stands. The other stream and everything else keep their values. -/
def ChangesOnly (i : Instr) (s : State) (t : Thread) (regs preds vecs : Nat → Bool) (flags : Bool) : Prop :=
  ∃ r, exec i s = .next (s.setThread s.cur.tid r) ∧
    (∀ k, k < 24 → regs k = false → r.getReg s.cur.acc k = t.getReg s.cur.acc k) ∧
    (∀ k, k < 8 → preds k = false → (r.ctx s.cur.acc).pred k = (t.ctx s.cur.acc).pred k) ∧
    (∀ k, k < 28 → vecs k = false → vget r.v k 0 = vget t.v k 0) ∧
    (flags = false → (r.ctx s.cur.acc).fstat = (t.ctx s.cur.acc).fstat) ∧
    field (r.ctx s.cur.acc).fstat 9 8 = field (t.ctx s.cur.acc).fstat 9 8 ∧
    r.ctx (!s.cur.acc) = t.ctx (!s.cur.acc) ∧ (r.ctx s.cur.acc).pend = (t.ctx s.cur.acc).pend ∧
    r = { t with exe := r.exe, acc := r.acc, v := r.v, vdirty := r.vdirty, heddle := r.heddle }

/-- No register. -/
def noneOf (_ : Nat) : Bool := false

/-- A step of agent a from v, whose tick and agenda have moved on, has the outcome o: the bytes at a's PC decode to an instruction that is
executed, its word is forwarded where a leads or follows a vector group (R231), and its fetch unit follows the path (R63). -/
def RunsDecoded (a : Agent) (v : State) (o : Host.Outcome State Fault Refusal) : Prop :=
  ∀ t u bs i n, v.thread? a.tid = some t → v.canIssue a t = true →
    (∀ x, t.heddle = some x → x.hsteps < 512 ∧ v.tick - x.since < 16384) →
    v.fetch a t = (.bytes bs, u) → decode bs = .ok (i, n) →
    (u.throttles a bs = true → o = .next (u.setWait a .throttle)) ∧
    (u.throttles a bs = false →
      o = afterOutcome a (v.armedWord a) (t.ctx a.acc).pc (bs.take n) u (exec i u) ∧
      ∀ w q, exec i u = .next w → w.groupOf a.tid = none → u.thread? a.tid = some q → (q.ctx a.acc).ahead = [] →
        (∀ r, w.thread? a.tid = some r → (r.ctx a.acc).midway = false) → o = .next w)

end Sys2Proof.Machine
end

