-- ==== Sys2Proof/Certificates/Slice0/Obligations.lean ====
section
/-! DEFINITION. The statements about the machine. Each docstring names the rules of the spec it formalises. -/

open Sys2Proof Sys2Proof.Machine

/-- R101, R104, R109, Table 4.2: each two-source integer instruction whose operands are ready completes. It reads A, then B, and
writes its result to D, for every form of the operands (register, queue, mesh port). -/
def Obligations.IntegerRegisterResults : Prop :=
  ∀ (s : State) (t : Thread) (d a b : BitVec 5) (g : Gov), CanIssue (governed true g [.sR a, .sR b, .sW d]) s t →
    ∃ x s1 y s2, getS a s = .ok (x, s1) ∧ getS b s1 = .ok (y, s2) ∧
      ∀ p ∈ integerResults d a b g x y, Writes p.1 4 d p.2 s s2

/-- R101, R104, Table 4.2: each one-source integer instruction whose operands are ready completes and writes its result to D. R106,
R107, Table 4.3: each immediate instruction whose operands are ready completes and writes its result to D; `lih` writes 4096 times its
signed immediate. -/
def Obligations.UnaryAndImmediateResults : Prop :=
  (∀ (s : State) (t : Thread) (d b : BitVec 5) (g : Gov), CanIssue (governed true g [.sR b, .sW d]) s t →
     ∃ y s1, getS b s = .ok (y, s1) ∧ ∀ p ∈ unaryResults d b g y, Writes p.1 4 d p.2 s s1) ∧
  ((∀ (s : State) (t : Thread) (d a : BitVec 5) (imm : BitVec 12) (k : BitVec 6), CanIssue (plain true [.sR a, .sW d]) s t →
     ∃ x s1, getS a s = .ok (x, s1) ∧ ∀ p ∈ immediateResults d a imm k x, Writes p.1 4 d p.2 s s1) ∧
   (∀ (s : State) (t : Thread) (d : BitVec 5) (imm : BitVec 20), CanIssue (plain true [.sW d]) s t →
     Writes (.lih d imm) 4 d (BitVec.ofInt 64 (4096 * imm.toInt)) s s))

/-- R102, R104, R105, Table 4.2: each integer compare writes its condition into every lane position of predicate D (a write of p0 is
discarded), and `sel` writes A or B to D as its P and PN fields choose. -/
def Obligations.CompareAndSelectResults : Prop :=
  (∀ (s : State) (t : Thread) (d a b : BitVec 5) (g : Gov), CanIssue (governed (predField d) g [.sR a, .sR b]) s t →
    ∃ x s1 y s2, getS a s = .ok (x, s1) ∧ getS b s1 = .ok (y, s2) ∧
      ∀ p ∈ compareConditions d a b g x y, WritesPred p.1 4 d p.2 s s2) ∧
  (∀ (s : State) (t : Thread) (d a b : BitVec 5) (g : Gov), CanIssue (plain g.legal [.sR a, .sR b, .sW d]) s t →
    ∃ x s1 y s2, getS a s = .ok (x, s1) ∧ getS b s1 = .ok (y, s2) ∧
      Writes (.sel d a b g) 4 d (if bit ((t.ctx s.cur.acc).pred g.p.toNat) 0 = !g.n then x else y) s s2)

/-- R111 to R113, R115: the pointer and descriptor instructions complete. `lea` adds within 56 bits and keeps the upper byte of A,
`ptag` sets the colour and clears bits 59 to 56, `bdesc` builds a bound word, and `pchk` writes 0 for a window address, an address
with nonzero bits 59 to 56 and an address without a translation, else the word of Table 4.5. -/
def Obligations.PointerResults : Prop :=
  (∀ (s : State) (t : Thread) (d a b : BitVec 5) (k : BitVec 3), CanIssue (plain true [.sR a, .sR b, .sW d]) s t →
    ∃ x s1 y s2, getS a s = .ok (x, s1) ∧ getS b s1 = .ok (y, s2) ∧
      Writes (.lea d a b k) 4 d
        (BitVec.ofNat 64 (x.toNat / 2 ^ 56 * 2 ^ 56 + (x.toNat + y.toNat * 2 ^ k.toNat) % 2 ^ 56)) s s2 ∧
      Writes (.ptag d a b) 4 d (BitVec.ofNat 64 (y.toNat % 16 * 2 ^ 60 + x.toNat % 2 ^ 56)) s s2 ∧
      Writes (.bdesc d a b) 4 d
        (if x.toNat < 2 ^ 40 then BitVec.ofNat 64 (y.toNat / 2 % 2 * 2 ^ 63 + y.toNat % 2 * 2 ^ 62 + x.toNat) else 0) s s2) ∧
  (∀ (s : State) (t : Thread) (d a : BitVec 5), CanIssue (plain true [.sR a, .sW d]) s t →
    ∃ x s1, getS a s = .ok (x, s1) ∧
      ((field x 59 56 ≠ 0 ∨ field x 55 32 = 0xFFFFFF) → Writes (.pchk d a) 4 d 0 s s1) ∧
      (field x 59 56 = 0 → field x 55 32 ≠ 0xFFFFFF →
        ∃ r s2, s1.lookup t (x.extractLsb' 0 56) = (r, s2) ∧
          Writes (.pchk d a) 4 d (match r with
            | .error _ => 0
            | .ok e => s2.pchkWord t.dom x (e.leaf (x.extractLsb' 0 56))) s s2))

/-- R117 to R119: each compare-branch and zero-branch completes, popping its operands whether or not it is taken. Its target lies the
offset's halfwords from the instruction; a hint changes nothing. -/
def Obligations.ConditionalBranches : Prop :=
  (∀ (s : State) (t : Thread) (a b : BitVec 5) (o : BitVec 10) (h : BitVec 2), CanIssue (plain true [.sR a, .sR b]) s t →
    ∃ x s1 y s2, getS a s = .ok (x, s1) ∧ getS b s1 = .ok (y, s2) ∧
      ∀ p ∈ branchConditions a b o h x y, Branches p.1 p.2 (halfwords (t.ctx s.cur.acc).pc o) s s2) ∧
  (∀ (s : State) (t : Thread) (a : BitVec 5) (o : BitVec 15) (h : BitVec 2), CanIssue (plain true [.sR a]) s t →
    ∃ x s1, getS a s = .ok (x, s1) ∧
      ∀ p ∈ zeroConditions a o h x, Branches p.1 p.2 (halfwords (t.ctx s.cur.acc).pc o) s s1)

/-- R119, R122, R127: the branches on a queue's state and on the branch-outcome queue, and `loop`, complete. `bqe` is taken when the
queue holds no filled entry and `bqf` when it holds 16 entries; `brq` and `brqn` pop the oldest outcome that the other stream pushed;
`loop` decrements A and is taken while the result is not zero. R19, R127, R130: with the access stream stopped, an execute stream that
reads an empty branch-outcome queue takes the queue deadlock 0x20, and so does one that pops a queue too short for its fields. What an
instruction that has issued and waits has popped is in no queue (R128). -/
def Obligations.QueueBranchesAndLoop : Prop :=
  ((∀ (s : State) (t : Thread) (a : BitVec 5) (o : BitVec 15) (h : BitVec 2),
     CanIssue { plain (queueField a) [] with cls := .noPick } s t →
     let q := t.qRest (a.toNat - 24)
     Branches (.bqe a o h) (q.all (fun e => e matches .reserved _)) (halfwords (t.ctx s.cur.acc).pc o) s s ∧
     Branches (.bqf a o h) (decide (16 ≤ q.length)) (halfwords (t.ctx s.cur.acc).pc o) s s) ∧
   (∀ (s : State) (t : Thread) (o : BitVec 15) (h : BitVec 2) (l m : List (Bool × Bool)) (x : Bool),
     CanIssue { plain true [] with cls := .noPick } s t →
     t.boq = l ++ (!s.cur.acc, x) :: m → (∀ e ∈ l, e.1 = s.cur.acc) →
     let u := s.setThread s.cur.tid { t with boq := l ++ m }
     Branches (.brq o h) x (halfwords (t.ctx s.cur.acc).pc o) s u ∧
     Branches (.brqn o h) (!x) (halfwords (t.ctx s.cur.acc).pc o) s u) ∧
   (∀ (s : State) (t : Thread) (a : BitVec 5) (o : BitVec 15) (h : BitVec 2),
     CanIssue (plain (loopField a) [.sR a, .sW a]) s t →
     ∃ x s1 u, getS a s = .ok (x, s1) ∧ setS a (x - 1) s1 = .ok ((), u) ∧
       Branches (.loop a o h) (decide (x ≠ 1)) (halfwords (t.ctx s.cur.acc).pc o) s u)) ∧
  ((∀ (s : State) (t : Thread) (o : BitVec 15) (h : BitVec 2), CanIssue { plain true [] with cls := .noPick } s t →
     s.cur.acc = false → t.exe.running = true → t.acc.running = false → t.boq = [] →
     exec (.brq o h) s = .next ((s.setWait s.cur .boqRead).takeTrap s.cur
       { cause := 0x20, addr := 0, extra := 0, pc := some t.exe.pc })) ∧
   (∀ (s : State) (t : Thread) (d a b : BitVec 5), s.thread? s.cur.tid = some t → t.kind = .full → s.cur.acc = false →
     t.exe.midway = false → t.acc.running = false → isReg b → isReg d → a = 24 ∨ a = 25 → vget t.q (a.toNat - 24) [] = [] →
     Traps (.add d a b { p := 0, n := false }) s { cause := 0x20, addr := 0, extra := 0, pc := none }))

/-- R120, R121: the jumps, calls and returns complete. The link register and the D of `jalr` receive PC + 4; an indirect target is the
base plus the immediate, and bits 59 to 56 and 0 of it are zero. -/
def Obligations.JumpsAndCalls : Prop :=
  (∀ (s : State) (t : Thread) (o : BitVec 25), CanIssue (plain true []) s t →
    exec (.j o) s = .next (s.advance 4 (.jump (halfwords (t.ctx s.cur.acc).pc o)))) ∧
  (∀ (s : State) (t : Thread) (o : BitVec 25), CanIssue (plain true [.link true]) s t →
    let pc := (t.ctx s.cur.acc).pc
    exec (.jal o) s = .next ((s.putScalar (if t.kind = .full then 23 else 15) ((pc + 4).setWidth 64)).advance 4
      (.jump (halfwords pc o)))) ∧
  (∀ (s : State) (t : Thread) (a : BitVec 5) (imm : BitVec 12), CanIssue (plain true [.sR a]) s t →
    ∃ x s1, getS a s = .ok (x, s1) ∧
      (GoodTarget (x + imm.signExtend 64) →
        exec (.jr a imm) s = .next (s1.advance 4 (.jump ((x + imm.signExtend 64).extractLsb' 0 56))))) ∧
  (∀ (s : State) (t : Thread) (d a : BitVec 5) (imm : BitVec 12), CanIssue (plain true [.sR a, .sW d]) s t →
    ∃ x s1 u, getS a s = .ok (x, s1) ∧ setS d (((t.ctx s.cur.acc).pc + 4).setWidth 64) s1 = .ok ((), u) ∧
      (GoodTarget (x + imm.signExtend 64) →
        exec (.jalr d a imm) s = .next (u.advance 4 (.jump ((x + imm.signExtend 64).extractLsb' 0 56))))) ∧
  (∀ (s : State) (t : Thread) (imm : BitVec 12), CanIssue (plain true [.link false]) s t →
    let x := t.getReg s.cur.acc (if t.kind = .full then 23 else 15) + imm.signExtend 64
    GoodTarget x → exec (.ret imm) s = .next (s.advance 4 (.jump (x.extractLsb' 0 56))))

/-- R121: an indirect transfer to an address with nonzero bits 59 to 56 raises 0x04 at the transfer, and one to an odd address 0x03;
`jalr` then writes no D. R236, Table 8.12: `rfe` raises 0x02 in user mode, 0x01 with a PMODE above 1 (the extra word holds it), 0x04
or 0x03 for a bad `%epc`; a status register above 0x800 raises 0x02 in user mode, and every number below 0x800 is illegal. -/
def Obligations.TransferAndPrivilegeTraps : Prop :=
  (∀ (s : State) (t : Thread) (d a : BitVec 5) (imm : BitVec 12), ∀ i ∈ [Instr.jr a imm, .jalr d a imm],
     CanIssue (plain true (if i = .jr a imm then [.sR a] else [.sR a, .sW d])) s t →
     ∃ w s1, getS a s = .ok (w, s1) ∧
       let x := w + imm.signExtend 64
       (field x 59 56 ≠ 0 → Traps i s { cause := 0x04, addr := x, extra := x, pc := none }) ∧
       (field x 59 56 = 0 → bit x 0 = true → Traps i s { cause := 0x03, addr := x, extra := 0, pc := none })) ∧
  ((∀ (s : State) (t : Thread), s.thread? s.cur.tid = some t → (t.ctx s.cur.acc).midway = false → t.kind ≠ .heddle → t.mode = 0 →
     Traps .rfe s { cause := 0x02, addr := 0, extra := 0, pc := none } ∧
     ∀ (r : BitVec 5) (n : BitVec 12), ∀ i ∈ [Instr.mfsp r n, .mtsp r n],
       Traps i s { cause := if n.toNat < 0x800 then 0x01 else 0x02, addr := 0, extra := 0, pc := none }) ∧
   (∀ (s : State) (t : Thread), CanIssue { plain true [] with cls := .supervisor } s t →
     let k := s.core t.core
     let m := field k.estat 1 0
     (2 ≤ m → Traps .rfe s { cause := 0x01, addr := 0, extra := BitVec.ofNat 64 m, pc := none }) ∧
     (m < 2 → field k.epc 59 56 ≠ 0 → Traps .rfe s { cause := 0x04, addr := k.epc, extra := k.epc, pc := none }) ∧
     (m < 2 → field k.epc 59 56 = 0 → bit k.epc 0 = true →
       Traps .rfe s { cause := 0x03, addr := k.epc, extra := 0, pc := none })))

/-- R125 to R128: the stream and queue instructions complete. `astart` starts the access stream at A with its s1 from B, first
stopping one that runs, once its access in flight is complete and nothing is still due to its s1 (R30); `astop` stops it likewise and
empties the branch-outcome queue; `pushb` appends the bit A ≠ 0 with its stream; `qclr` empties a queue and `qlen` writes the number of
its filled and reserved entries, those apart that an instruction which has issued and waits has popped. -/
def Obligations.StreamControl : Prop :=
  (∀ (s : State) (t : Thread) (a b : BitVec 5), CanIssue { plain true [.sR a, .sR b] with cls := .exeOnly } s t →
    (t.acc.running = true → t.acc.midway = false) → t.acc.pend.getLsbD 1 = false →
    ∃ x s1 y s2, getS a s = .ok (x, s1) ∧ getS b s1 = .ok (y, s2) ∧
      (GoodTarget x → Retires (.astart a b) 4 s (s2.updThread s.cur.tid (fun r =>
        { r with boq := if t.acc.running then [] else t.boq,
                 acc := { t.acc.setReg 1 y with pc := x.extractLsb' 0 56, atTarget := true, running := true, wait := .none } })))) ∧
  (∀ (s : State) (t : Thread), CanIssue { plain true [] with cls := .exeOnly } s t →
    (t.acc.running = false → Retires .astop 4 s s) ∧
    (t.acc.running = true → t.acc.midway = true → Waits .astop .memory s) ∧
    (t.acc.running = true → t.acc.midway = false →
      Retires .astop 4 s (s.setThread s.cur.tid { t with acc := { t.acc with running := false, wait := .none }, boq := [] }))) ∧
  (∀ (s : State) (t : Thread) (a : BitVec 5), CanIssue { plain true [.sR a] with cls := .noPick } s t → t.boq.length < 32 →
    ∃ x s1, getS a s = .ok (x, s1) ∧
      Retires (.pushb a) 4 s (s1.updThread s.cur.tid (fun r => { r with boq := t.boq ++ [(s.cur.acc, decide (x ≠ 0))] }))) ∧
  (∀ (s : State) (t : Thread) (b : BitVec 5), CanIssue { plain (queueField b) [] with cls := .noPick } s t →
    let k := b.toNat - 24
    Retires (.qclr b) 4 s (s.setThread s.cur.tid
      { t with q := vset t.q k ((vget t.q k []).take (t.exe.held.count k + t.acc.held.count k)) })) ∧
  (∀ (s : State) (t : Thread) (d b : BitVec 5), CanIssue { plain (queueField b) [.sW d] with cls := .noPick } s t →
    Writes (.qlen d b) 4 d (BitVec.ofNat 64 (t.qLen (b.toNat - 24))) s s)

/-- R32, R131, R237: `mfs` writes an assigned status register zero-extended to D, and a heddle thread reads the tick, its `%fstat`, or
0; `mts` writes the low bits of A to `%fstat`, the sticky bits of `%mstat`, or a mailbox counter. R35: a sticky bit that the array has
set in the same cycle stays set, and an arrival of the same cycle adds to the counter's written value. R32, Table 1.5a: outside heddle mode
a read or write of a number at or above 0x800 by `mfs` or `mts` raises 0x02, a write of a read-only status register 0x02, and a read
or write of an unassigned number 0x01. -/
def Obligations.StatusMoves : Prop :=
  ((∀ (s : State) (t : Thread) (d : BitVec 5) (n : BitVec 12) (w : Word), CanIssue (plain true [.sW d]) s t →
     t.heddle = none → n.toNat < 0x800 → s.statusRead t s.cur.acc n.toNat = some w → Writes (.mfs d n) 4 d w s s) ∧
   (∀ (s : State) (t : Thread) (d : BitVec 5) (n : BitVec 12), CanIssue (plain true [.sW d]) s t → t.heddle.isSome = true →
     n.toNat < 0x80 → Writes (.mfs d n) 4 d (if n = 0x051 then BitVec.ofNat 64 s.tick else if n = 0x050 then
       t.exe.fstat.setWidth 64 else 0) s s) ∧
   (∀ (s : State) (t : Thread) (a : BitVec 5), CanIssue (plain true [.sR a]) s t →
     ∃ x s1, getS a s = .ok (x, s1) ∧
       Retires (.mts a 0x050) 4 s (s1.updThread s.cur.tid (fun r =>
         r.updCtx s.cur.acc (fun c => { c with fstat := BitVec.ofNat 10 (x.toNat / 256 % 4 * 256 + x.toNat % 32) }))) ∧
       (t.heddle = none → Retires (.mts a 0x033) 4 s (s1.updCore t.core (fun k =>
         let k0 := s.core t.core
         { k with array := { k.array with
             spx := x.getLsbD 0 || (k0.array.spx && decide (k0.flagged.1 = some s.tick)),
             ainf := x.getLsbD 1 || (k0.array.ainf && decide (k0.flagged.2 = some s.tick)) } }))) ∧
       (t.heddle = none → ∀ dir : BitVec 2, Retires (.mts a (0x060 + dir.setWidth 12)) 4 s
         ((s1.updCore t.core (fun k => { k with
            mb := vset k.mb dir.toNat (x.setWidth 32 + BitVec.ofNat 32 ((s.core t.core).countedNow s.tick dir.toNat)) })).wakeMailbox
              t.core)))) ∧
  (∀ (s : State) (t : Thread) (r : BitVec 5) (n : BitVec 12) (c : Cause),
     s.thread? s.cur.tid = some t → t.heddle = none →
     let x : Trap := { cause := c, addr := 0, extra := 0, pc := none }
     (CanIssue (plain true [.sW r]) s t → c = (if 0x800 ≤ n.toNat then 0x02 else 0x01) →
       (0x800 ≤ n.toNat ∨ s.statusRead t s.cur.acc n.toNat = none) → Traps (.mfs r n) s x) ∧
     (CanIssue (plain true [.sR r]) s t → isReg r →
       c = (if 0x800 ≤ n.toNat ∨ (s.statusRead t s.cur.acc n.toNat).isSome then 0x02 else 0x01) →
       n ∉ [0x033, 0x050, 0x060, 0x061, 0x062, 0x063] → Traps (.mts r n) s x))

/-- R132, Tables 3.4 and 4.10: each scalar FP32 instruction completes. It merges the flags of its operation into `%fstat` and writes
the f32 result zero-extended to D; a fused one reads D as the addend. R87, R88, R102, R132: the scalar conversions and comparisons
complete. An integer becomes the f32 that its exact value rounds to; an f32 becomes its rounded value within the integer's range; a
comparison goes to every lane position of predicate D. -/
def Obligations.ScalarFpResults : Prop :=
  ((∀ (s : State) (t : Thread) (d a b : BitVec 5) (g : Gov), CanIssue (fpNeed true g [.sR a, .sR b, .sW d] 4) s t →
     ∃ x s1 y s2, getS a s = .ok (x, s1) ∧ getS b s1 = .ok (y, s2) ∧ ∀ p ∈ fpBinary d a b g,
       WritesF32 p.1 4 d (fop p.2 none (rmOf (t.ctx s.cur.acc).fstat) (x.setWidth 32) (y.setWidth 32) 0) s s2) ∧
   (∀ (s : State) (t : Thread) (d b : BitVec 5) (g : Gov), CanIssue (fpNeed true g [.sR b, .sW d] 4) s t →
     ∃ y s1, getS b s = .ok (y, s1) ∧ ∀ p ∈ fpUnary d b g,
       WritesF32 p.1 4 d (fop p.2 none (rmOf (t.ctx s.cur.acc).fstat) 0 (y.setWidth 32) 0) s s1) ∧
   (∀ (s : State) (t : Thread) (d a b : BitVec 5) (g : Gov), CanIssue (fpNeed true g [.sR a, .sR b, .sR d, .sW d] 4) s t →
     ∃ x s1 y s2 z s3, getS a s = .ok (x, s1) ∧ getS b s1 = .ok (y, s2) ∧ getS d s2 = .ok (z, s3) ∧
       WritesF32 (.ffma d a b g) 4 d
         (fop .fma none (rmOf (t.ctx s.cur.acc).fstat) (x.setWidth 32) (y.setWidth 32) (z.setWidth 32)) s s3)) ∧
  ((∀ (s : State) (t : Thread) (d b : BitVec 5) (g : Gov), CanIssue (fpNeed true g [.sR b, .sW d] 4) s t →
     ∃ y s1, getS b s = .ok (y, s1) ∧
       let rm := rmOf (t.ctx s.cur.acc).fstat
       WritesF32 (.fcvtF32S64 d b g) 4 d (intToFloat none rm false false y.toInt) s s1 ∧
       WritesF32 (.fcvtF32N64 d b g) 4 d (intToFloat none rm false false y.toNat) s s1 ∧
       WritesInt (.fcvtS64F32 d b g) 4 d (floatToInt (-2 ^ 63) (2 ^ 63 - 1) none rm false false (y.setWidth 32)) s s1 ∧
       WritesInt (.fcvtN64F32 d b g) 4 d (floatToInt 0 (2 ^ 64 - 1) none rm false false (y.setWidth 32)) s s1) ∧
   (∀ (s : State) (t : Thread) (d a b : BitVec 5) (g : Gov), CanIssue (fpNeed (predField d) g [.sR a, .sR b] 4) s t →
     ∃ x s1 y s2, getS a s = .ok (x, s1) ∧ getS b s1 = .ok (y, s2) ∧ ∀ p ∈ fpCompares d a b g,
       let r := fcmp p.2 (f32Val (x.setWidth 32)) (f32Val (y.setWidth 32))
       ∃ v u, mergeFlags r.2 s2 = .ok ((), v) ∧ setP d.toNat (if r.1 then BitVec.allOnes 64 else 0) v = .ok ((), u) ∧
         Retires p.1 4 s u))

/-- R197 to R199: each load from the issuing core's own local store completes, for every operand form. It writes the bytes at its
address, sign- or zero-extended, to D; an indexed one shifts B, and `ldb` adds an offset that its bound word admits. R197 to R199:
each store into the issuing core's own local store completes, for every operand form, and stores the low bytes of D at its address. -/
def Obligations.LocalStoreAccesses : Prop :=
  ((∀ (s : State) (t : Thread) (d a : BitVec 5) (imm : BitVec 12), CanIssue (memNeed true [.sR a, .sW d]) s t → Fresh s t →
     ∃ x s1, getS a s = .ok (x, s1) ∧ ∀ p ∈ loadForms d a imm, ∀ off,
       OwnLocal s t (leaAdd x (imm.signExtend 64)) p.2.2 false off →
       Writes p.1 4 d (loaded p.2.1 p.2.2 (s.mem.num (lsLoc t.core off) p.2.2)) s s1) ∧
   (∀ (s : State) (t : Thread) (d a b : BitVec 5) (k : BitVec 2) (sx : Bool) (sz : BitVec 2) (g : Gov),
     CanIssue { memNeed (g.legal && !(sx && sz == 3)) [.sR a, .sR b, .sW d] with gov := some g } s t → Fresh s t →
     ∃ x s1 y s2, getS a s = .ok (x, s1) ∧ getS b s1 = .ok (y, s2) ∧ ∀ off,
       OwnLocal s t (leaAdd x (y <<< k.toNat)) (2 ^ sz.toNat) false off →
       Writes (.ldIndexed d a b k sx sz g) 4 d (loaded sx (2 ^ sz.toNat) (s.mem.num (lsLoc t.core off) (2 ^ sz.toNat))) s s2) ∧
   (∀ (s : State) (t : Thread) (d a b : BitVec 5) (sx : Bool) (sz : BitVec 2) (g : Gov),
     CanIssue { memNeed (g.legal && pairField a && !(sx && sz == 3)) [.sR a, .sR (a + 1), .sR b, .sW d] with gov := some g } s t →
     Fresh s t →
     ∃ x bw y s3, x = t.getReg s.cur.acc a.toNat ∧ bw = t.getReg s.cur.acc (a.toNat + 1) ∧ getS b s = .ok (y, s3) ∧ ∀ off,
       bit bw 62 = true → y.toNat + 2 ^ sz.toNat ≤ field bw 39 0 → OwnLocal s t (leaAdd x y) (2 ^ sz.toNat) false off →
       Writes (.ldb d a b sx sz g) 4 d (loaded sx (2 ^ sz.toNat) (s.mem.num (lsLoc t.core off) (2 ^ sz.toNat))) s s3)) ∧
  ((∀ (s : State) (t : Thread) (d a : BitVec 5) (imm : BitVec 12), CanIssue (memNeed true [.sR a, .sR d]) s t → Fresh s t →
     ∃ x s1 w s2, getS a s = .ok (x, s1) ∧ getS d s1 = .ok (w, s2) ∧ ∀ p ∈ storeForms d a imm, ∀ off,
       OwnLocal s t (leaAdd x (imm.signExtend 64)) p.2 true off →
       Retires p.1 4 s (s2.plainWrite (lsLoc t.core off) (leBytes p.2 w.toNat))) ∧
   (∀ (s : State) (t : Thread) (d a b : BitVec 5) (k sz : BitVec 2) (g : Gov),
     CanIssue { memNeed g.legal [.sR a, .sR b, .sR d] with gov := some g } s t → Fresh s t →
     ∃ x s1 y s2 w s3, getS a s = .ok (x, s1) ∧ getS b s1 = .ok (y, s2) ∧ getS d s2 = .ok (w, s3) ∧ ∀ off,
       OwnLocal s t (leaAdd x (y <<< k.toNat)) (2 ^ sz.toNat) true off →
       Retires (.stIndexed d a b k sz g) 4 s (s3.plainWrite (lsLoc t.core off) (leBytes (2 ^ sz.toNat) w.toNat))) ∧
   (∀ (s : State) (t : Thread) (d a b : BitVec 5) (sz : BitVec 2) (g : Gov),
     CanIssue { memNeed (g.legal && pairField a) [.sR a, .sR (a + 1), .sR b, .sR d] with gov := some g } s t → Fresh s t →
     ∃ x bw y s3 w s4, x = t.getReg s.cur.acc a.toNat ∧ bw = t.getReg s.cur.acc (a.toNat + 1) ∧ getS b s = .ok (y, s3) ∧
       getS d s3 = .ok (w, s4) ∧ ∀ off,
       bit bw 63 = true → y.toNat + 2 ^ sz.toNat ≤ field bw 39 0 → OwnLocal s t (leaAdd x y) (2 ^ sz.toNat) true off →
       Retires (.stb d a b sz g) 4 s (s4.plainWrite (lsLoc t.core off) (leBytes (2 ^ sz.toNat) w.toNat))))

/-- R199: a bounded access whose bound word does not permit it, or whose offset and size exceed SIZE, raises 0x13 with the address and
the offset; a bounds failure comes before the other checks. R192, R194, Table 7.2: the checks of a load or store come in the table's
order: nonzero bits 59 to 56 of the address raise 0x04, then a misaligned global address 0x03, then the failures of translation,
permission, key and colour, each with the address. -/
def Obligations.AccessTraps : Prop :=
  (∀ (s : State) (t : Thread) (d a b : BitVec 5) (sx : Bool) (sz : BitVec 2) (g : Gov),
     isReg b → isReg d →
     let x := t.getReg s.cur.acc a.toNat
     let bw := t.getReg s.cur.acc (a.toNat + 1)
     let y := t.getReg s.cur.acc b.toNat
     let trap : Trap := { cause := 0x13, addr := ((x + y).extractLsb' 0 56).setWidth 64, extra := y, pc := none }
     (CanIssue { memNeed (g.legal && pairField a && !(sx && sz == 3)) [.sR a, .sR (a + 1), .sR b, .sW d] with gov := some g } s t →
       (bit bw 62 = false ∨ field bw 39 0 < y.toNat + 2 ^ sz.toNat) → Traps (.ldb d a b sx sz g) s trap) ∧
     (CanIssue { memNeed (g.legal && pairField a) [.sR a, .sR (a + 1), .sR b, .sR d] with gov := some g } s t →
       (bit bw 63 = false ∨ field bw 39 0 < y.toNat + 2 ^ sz.toNat) → Traps (.stb d a b sz g) s trap)) ∧
  (∀ (s : State) (t : Thread) (d a : BitVec 5) (imm : BitVec 12), Fresh s t → isReg a → isReg d →
     let ea := leaAdd (t.getReg s.cur.acc a.toNat) (imm.signExtend 64)
     ∀ p ∈ (loadForms d a imm).map (fun p => (p.1, p.2.2, false)) ++ (storeForms d a imm).map (fun p => (p.1, p.2, true)),
       CanIssue (memNeed true (if p.2.2 then [.sR a, .sR d] else [.sR a, .sW d])) s t →
       (field ea 59 56 ≠ 0 → Traps p.1 s { cause := 0x04, addr := ea, extra := ea, pc := none }) ∧
       (field ea 59 56 = 0 → inWindow ea = false → ea.toNat % p.2.1 ≠ 0 →
         Traps p.1 s { cause := 0x03, addr := ea, extra := 0, pc := none }) ∧
       (field ea 59 56 = 0 → inWindow ea = false → ea.toNat % p.2.1 = 0 → ∀ r lvl u,
         s.translate t.core t.dom false (ea.extractLsb' 0 56) = (.error (.reason r lvl), u) →
         Traps p.1 s { cause := 0x10, addr := ea, extra := BitVec.ofNat 64 (r + 16 * lvl), pc := none }) ∧
       (field ea 59 56 = 0 → inWindow ea = false → ea.toNat % p.2.1 = 0 → ∀ e u c,
         s.translate t.core t.dom false (ea.extractLsb' 0 56) = (.ok e, u) →
         u.leafChecks t.dom ea p.2.2 (e.leaf (ea.extractLsb' 0 56)) = some c →
         Traps p.1 s { cause := c, addr := ea, extra := 0, pc := none }))

/-- R194, R197, Table 7.2: loads and stores of global memory homed on the issuing core's own die, under the plain drafts, complete: a
load gives the newest bytes of the block at the translated address, and a store writes them, on the core's own line where it holds the
block writable, else at the home under the page's key. -/
def Obligations.HomeLoadsAndStores : Prop :=
  (∀ (s : State) (t : Thread) (d a : BitVec 5) (imm : BitVec 12), CanIssue (memNeed true [.sR a, .sW d]) s t → Fresh s t →
    ∃ x s1, getS a s = .ok (x, s1) ∧ ∀ p ∈ loadForms d a imm, ∀ l u,
      AtHome s1 t (leaAdd x (imm.signExtend 64)) p.2.2 false l u →
      Writes p.1 4 d (loaded p.2.1 p.2.2 (s.mem.num l.pa p.2.2)) s (u.homeRead t.core l)) ∧
  (∀ (s : State) (t : Thread) (d a : BitVec 5) (imm : BitVec 12), CanIssue (memNeed true [.sR a, .sR d]) s t → Fresh s t →
    ∃ x s1 w s2, getS a s = .ok (x, s1) ∧ getS d s1 = .ok (w, s2) ∧ ∀ p ∈ storeForms d a imm, ∀ l u,
      AtHome s2 t (leaAdd x (imm.signExtend 64)) p.2 true l u →
      Retires p.1 4 s (u.homeWritten t.core l (leBytes p.2 w.toNat)))

/-- R200, R201, Table 7.6: each atomic on the issuing core's own local store completes. It replaces the location with its new value
and gives T the old one, extended as the table says; with REL nothing of the thread may still be outstanding, with ACQ no read of the
stream (R201, R281). -/
def Obligations.LocalStoreAtomics : Prop :=
  (∀ (s : State) (th : Thread) (t a b : BitVec 5) (w32 : Bool) (ord : Ord),
    CanIssue (memNeed ord.legal [.sR a, .sR b, .tok t]) s th → Fresh s th → (ord.rel = true → Drained s th) →
    (ord.acq = true → Acquired s) →
    ∃ x s1 y s2, getS a s = .ok (x, s1) ∧ getS b s1 = .ok (y, s2) ∧ ∀ off,
      let n := if w32 then 4 else 8
      let loc := lsLoc th.core off
      OwnLocal s th x n true off →
      ∀ p ∈ atomicForms t a b w32 ord (s.mem.num loc n) (y.toNat % 2 ^ (8 * n)) 0,
        ∃ u, setT t p.2.2 (s2.plainWrite loc (leBytes n p.2.1)) = .ok ((), u) ∧ Retires p.1 4 s u) ∧
  (∀ (s : State) (th : Thread) (t a b : BitVec 5) (w32 : Bool) (ord : Ord), t ≠ 0 →
    CanIssue (memNeed ord.legal ([.sR a, .sR b, .tok t] ++ [.sR t])) s th → Fresh s th → (ord.rel = true → Drained s th) →
    (ord.acq = true → Acquired s) →
    ∃ x s1 y s2 c s3, getS a s = .ok (x, s1) ∧ getS b s1 = .ok (y, s2) ∧ getS t s2 = .ok (c, s3) ∧ ∀ off,
      let n := if w32 then 4 else 8
      let loc := lsLoc th.core off
      OwnLocal s th x n true off →
      ∃ u, setT t (BitVec.ofNat 64 (s.mem.num loc n))
          (s3.plainWrite loc (leBytes n (if s.mem.num loc n = c.toNat % 2 ^ (8 * n) then y.toNat else s.mem.num loc n))) =
            .ok ((), u) ∧
        Retires (.amoCas t a b w32 ord) 4 s u)

/-- R204, R205, R281: the fences complete once nothing of the thread is outstanding, an acquire once its stream's reads are performed,
and a prefetch always completes; neither changes a register or a byte of memory. R204, R281, R287: a releasing fence waits while an
access of its stream is not performed, while a write of it to a home on another die is not acknowledged, and while the event of an
acknowledged one is not delivered at its own die, where the scope is `.dev` or wider or the die holds a copy. -/
def Obligations.FencesAndReleases : Prop :=
  ((∀ (s : State) (t : Thread) (scope : BitVec 3), CanIssue (memNeed (fenceScope scope) []) s t →
     (Acquired s → Retires (.fenceAcq scope) 4 s s) ∧ (¬ Acquired s → Waits (.fenceAcq scope) .memory s) ∧
     (Drained s t → ∀ i ∈ [Instr.fenceRel scope, .fenceAr scope], Retires i 4 s s)) ∧
   (∀ (s : State) (t : Thread) (a : BitVec 5) (imm : BitVec 12), CanIssue (memNeed true [.sR a]) s t →
     ∃ x s1, getS a s = .ok (x, s1) ∧ ∀ i ∈ [Instr.pref a imm, .prefw a imm, .prefSc a imm, .ipref a imm],
       ∃ u, Retires i 4 s u ∧ u.threads = s1.threads ∧ u.mem = s1.mem ∧ u.cur = s1.cur)) ∧
  (∀ (s : State) (t : Thread) (scope : BitVec 3), CanIssue (memNeed (fenceScope scope) []) s t →
     (scope = 5 → t.storeFaults = []) →
     (s.unperformed s.cur.tid s.cur.acc false = true ∨ ∃ w ∈ t.writes, w.acc = s.cur.acc ∧
       (w.acked = none ∨ ∃ n, w.acked = some n ∧ (s.die (coreDie t.core)).vc.at w.home.toNat < n.toNat ∧
         (4 ≤ scope.toNat ∨ s.holdsCopy w.home.toNat (coreDie t.core) (blockNo w.pa) = true))) →
     ∀ i ∈ [Instr.fenceRel scope, .fenceAr scope], Waits i .release s)

/-- R206, R207, Table 7.9: the barrier instructions complete in a gang. `bar.init` sets EXPECT, `bar.arv` adds an arrival and sets
PEND, `bar.wait` completes once PEND is clear and its stream's reads are performed (R281), `bar.test` writes 1 when it is clear, and
`bar.sync` arrives, then waits likewise. R207: when COUNT reaches EXPECT the phase completes at once: PHASE rises, COUNT becomes 0 and
every member's PEND clears; until then the event changes nothing. -/
def Obligations.Barriers : Prop :=
  (∀ (s : State) (t : Thread) (b : BitVec 11) (gid : Nat) (g : Gang), InGang s t b gid g →
     let x := g.barrier b.toNat
     let pend := (s.core t.core).pendBars.contains (pendKey gid b)
     (∀ a, CanIssue (barNeed [.sR a]) s t → isReg a →
       let n := t.getReg s.cur.acc a.toNat
       1 ≤ n.toNat → n.toNat ≤ 65535 → x.count = 0 →
       Retires (.barInit a b) 4 s (s.setBarrier gid b.toNat { x with expect := n.setWidth 16 })) ∧
     (CanIssue (barNeed []) s t → Drained s t → x.count ≠ x.expect → Retires (.barArv b) 4 s (s.arrive t.core gid g b)) ∧
     (CanIssue (barNeed []) s t →
       (pend = false → Acquired s → Retires (.barWait b) 4 s s) ∧ (pend = true → Waits (.barWait b) .barrier s)) ∧
     (∀ d, CanIssue (barNeed [.sW d]) s t → Writes (.barTest d b) 4 d (if pend then 0 else 1) s s) ∧
     (CanIssue (barNeed []) s t → (t.ctx s.cur.acc).got ≠ [] → pend = false → Acquired s → Retires (.barSync b) 4 s s) ∧
     (CanIssue (barNeed []) s t → (t.ctx s.cur.acc).midway = false → Drained s t → x.count ≠ x.expect →
       exec (.barSync b) s = .next ((((s.arrive t.core gid g b).updThread s.cur.tid (fun r =>
         r.updCtx s.cur.acc (fun c => { c with got := [1], held := [] }))).setWait s.cur .barrier).deadlock s.cur))) ∧
  (∀ (s : State) (gid : Nat) (b : BitVec 11) (g : Gang), alGet s.gangs gid = some g →
     let x := g.barrier b.toNat
     (x.count ≠ x.expect → exec (.barrierPhaseComplete gid b) s = .next s) ∧
     (x.count = x.expect → ∃ u, exec (.barrierPhaseComplete gid b) s = .next u ∧
       (∃ h, alGet u.gangs gid = some h ∧ h.barrier b.toNat = { x with phase := x.phase + 1, count := 0 }) ∧
       u.keys = s.keys ∧ (NoRecords s → u.mem = s.mem ∧ u.blocks = s.blocks) ∧
       ((∀ c, (s.core c).pendBars.Nodup) → ∀ c ∈ g.cores, (u.core c).pendBars.contains (pendKey gid b) = false)))

/-- R210, R212, R213, R392: the channel instructions complete. `send` reads the 64 bytes at A and puts a message in flight, its T pending,
to this device, or to an admitted one whose port is up;
`recv` takes the oldest message of an endpoint of the thread's domain once what its send released has come (R212), stores its bytes at
A and gives T the sender; `rbind` binds the
endpoint to a handler at A. -/
def Obligations.ChannelInstructions : Prop :=
  (∀ (s : State) (th : Thread) (t a b : BitVec 5) (ord : Ord), CanIssue (chanNeed ord.legal [.sR a, .sR b, .tok t]) s th →
    (ord.rel = true → Drained s th) → (s.chans.filter (fun m => m.2.stid == s.cur.tid)).length < 8 →
    ∃ x s1 h s2 dest v, getS a s = .ok (x, s1) ∧ getS b s1 = .ok (h, s2) ∧ laterT t s2 = .ok (dest, v) ∧
      (x.toNat % 64 = 0 → windowOk (s.core th.core) x.toNat 64 false false = true → s.maySend th h = true →
        h.extractLsb' 49 15 = s.mgmt.device ∨ h.extractLsb' 49 15 ∈ s.mgmt.admitted ∧ (s.port (portOf (h.extractLsb' 49 15))).state = 2 →
        Retires (.send t a b ord) 4 s { v with
          chans := alSet v.chans v.nextId { id := v.nextId, handle := h, sender := s.coreNode th.core, stid := s.cur.tid,
                                            sdom := th.dom, dest := dest, rel := ord.rel, scope := ord.scope,
                                            stamp := if ord.rel ∧ 4 ≤ ord.scope.toNat then (s.die (coreDie th.core)).vc else Clock.zero,
                                            data := BitVec.ofNat 512 (s.mem.num (lsLoc th.core x.toNat) 64) },
          nextId := v.nextId + 1 })) ∧
  (∀ (s : State) (th : Thread) (t a b : BitVec 5) (m : ChanMsg), CanIssue (chanNeed true [.sR a, .sR b, .tok t]) s th →
    ∃ x s1 y s2, getS a s = .ok (x, s1) ∧ getS b s1 = .ok (y, s2) ∧
      (x.toNat % 64 = 0 → windowOk (s.core th.core) x.toNat 64 true false = true → y.toNat ≤ 15 →
        (s.ep th.core y.toNat).owner = some th.dom → (s.ep th.core y.toNat).handler = 0 →
        s.epHead th.core y.toNat = some m → (m.rel = true → Acquired s) →
        m.stamp.leBut (s.die (coreDie th.core)).vc [] = true →
        ∃ u, setT t (m.sender.setWidth 64)
            ((s2.epTake th.core y.toNat).plainWrite (lsLoc th.core x.toNat) (leBytes 64 m.data.toNat)) = .ok ((), u) ∧
          Retires (.recv t a b) 4 s u)) ∧
  (∀ (s : State) (th : Thread) (a b : BitVec 5), CanIssue (chanNeed true [.sR a, .sR b]) s th →
    ∃ x s1 y s2, getS a s = .ok (x, s1) ∧ getS b s1 = .ok (y, s2) ∧
      (GoodTarget x → y.toNat ≤ 15 → (s.ep th.core y.toNat).owner = some th.dom →
        Retires (.rbind a b) 4 s
          (s2.updEp th.core y.toNat (fun e => { e with handler := x.extractLsb' 0 56, image := th.image }))))

/-- R236: the system instructions. `trap` raises the trap of its immediate with bit 61 of the extra word set; `rfe` in supervisor mode
returns to `%epc` in the mode of `%estat.PMODE`, where a mesh interrupt that has been held then takes effect (R378); `wfm` completes on a waiting message, an event in supervisor mode or after 65,536
cycles. -/
def Obligations.SystemInstructions : Prop :=
  (∀ (s : State) (t : Thread) (c : BitVec 8), CanIssue (sysNeed []) s t →
    Traps (.trap c) s { cause := c, addr := 0, extra := BitVec.ofNat 64 (2 ^ 61), pc := none }) ∧
  (∀ (s : State) (t : Thread), CanIssue { plain true [] with cls := .supervisor } s t →
    let k := s.core t.core
    field k.estat 1 0 < 2 → GoodTarget k.epc →
    let u := s.setThread s.cur.tid { t with mode := BitVec.ofNat 2 (field k.estat 1 0) }
    exec .rfe s = .next ((if k.intr = true ∧ field k.estat 1 0 = 0 then u.stopShuttle t.core else u).advance 4
      (.jump (k.epc.extractLsb' 0 56)))) ∧
  (∀ (s : State) (t : Thread), CanIssue (sysNeed []) s t →
    ((s.messageFor t.core t.dom = true ∨ (t.mode = 1 ∧ (s.eventWaiting t.core t.dom).isSome = true) ∨
        ∃ since, (t.ctx s.cur.acc).wait = .wfm since ∧ since + 65536 ≤ s.tick) → Retires .wfm 4 s s) ∧
    (s.messageFor t.core t.dom = false → (t.mode = 1 → s.eventWaiting t.core t.dom = none) →
      (∀ since, (t.ctx s.cur.acc).wait ≠ .wfm since) → Waits .wfm (.wfm s.tick) s))

/-- R236, Tables 1.8 and 8.13: in supervisor mode `mfsp` writes the privileged register to D and `mtsp` writes it; in heddle mode
`mfsp` reads the heddle registers. Table 1.8: what a privileged register reads after a write of w is w's bits that exist, and no other
privileged register changes. -/
def Obligations.SpecialRegisters : Prop :=
  ((∀ (s : State) (t : Thread) (d : BitVec 5) (n : BitVec 12),
     CanIssue { plain (decide (0x800 ≤ n.toNat)) [.sW d] with cls := .spr n.toNat false } s t →
     (t.heddle = none → Writes (.mfsp d n) 4 d ((s.core t.core).sprRead n.toNat) s s) ∧
     (∀ x, t.heddle = some x → Writes (.mfsp d n) 4 d (x.read n.toNat) s s)) ∧
   (∀ (s : State) (t : Thread) (a : BitVec 5) (n : BitVec 12),
     CanIssue { plain (decide (0x800 ≤ n.toNat)) [.sR a] with cls := .spr n.toNat true } s t →
     ∃ x s1, getS a s = .ok (x, s1) ∧
       Retires (.mtsp a n) 4 s (s1.updCore t.core (fun k => k.sprWrite n.toNat x)))) ∧
  (∀ (k : Core) (n m : Nat) (w : Word), sprNum n = true → sprNum m = true →
     (k.sprWrite n w).sprRead m = if m = n then w &&& sprMask n else k.sprRead m)

/-- R23, R24, R136, R137, R144, R145, Table 5.2: each integer lane operation completes and writes its result to the active lanes of D,
with a vector B, a scalar B in every lane, or in its compact form. -/
def Obligations.VectorIntegerResults : Prop :=
  (∀ (s : State) (t : Thread) (d a b : BitVec 5) (g : Gov), CanIssue (vecNeed g.legal [.vR a, .vR b, .vW d] 4) s t →
    ∃ x s1 y s2, getV a s = .ok (x, s1) ∧ getV b s1 = .ok (y, s2) ∧ ∀ p ∈ vectorIntegerOps d a b g,
      WritesLanes p.1 4 d (laneOn t s.cur.acc g) (fun k => p.2.2 (lane x k) (lane y k)) t s s2) ∧
  (∀ (s : State) (t : Thread) (d a b : BitVec 5) (g : Gov), CanIssue (vecNeed g.legal [.vR a, .sR b, .vW d] 4) s t →
    ∃ x s1 y s2, getV a s = .ok (x, s1) ∧ getS b s1 = .ok (y, s2) ∧ ∀ p ∈ vectorIntegerOps d a b g,
      WritesLanes p.2.1 4 d (laneOn t s.cur.acc g) (fun k => p.2.2 (lane x k) (y.setWidth 32)) t s s2) ∧
  (∀ (s : State) (t : Thread) (d b : BitVec 5) (p1 : Bool),
    CanIssue (vecNeed true [.vR d, .vR b, .vW d] 2) s t →
    ∃ x s1 y s2, getV d s = .ok (x, s1) ∧ getV b s1 = .ok (y, s2) ∧ ∀ p ∈ compactIntegerOps d b p1,
      WritesLanes p.1 2 d (laneOn t s.cur.acc { p := if p1 then 1 else 0, n := false })
        (fun k => p.2 (lane x k) (lane y k)) t s s2)

/-- R141, R144: `vmov` (and its compact form), `vabs.s32`, `vsplat` and `vid` complete, and `vsetl` gives D and VL the smaller of A
and 64, leaving VL as it is for a count of 0. -/
def Obligations.VectorMovesAndLength : Prop :=
  (∀ (s : State) (t : Thread) (d b : BitVec 5) (g : Gov), CanIssue (vecNeed g.legal [.vR b, .vW d] 4) s t →
    ∃ y s1, getV b s = .ok (y, s1) ∧
      WritesLanes (.vmov d b g) 4 d (laneOn t s.cur.acc g) (lane y) t s s1 ∧
      WritesLanes (.vabsS32 d b g) 4 d (laneOn t s.cur.acc g) (fun k => BitVec.ofInt 32 (lane y k).toInt.natAbs) t s s1) ∧
  (∀ (s : State) (t : Thread) (d b : BitVec 5) (p1 : Bool), CanIssue (vecNeed true [.vR b, .vW d] 2) s t →
    ∃ y s1, getV b s = .ok (y, s1) ∧
      WritesLanes (.vmovCompact d b p1) 2 d (laneOn t s.cur.acc { p := if p1 then 1 else 0, n := false }) (lane y) t s s1) ∧
  (∀ (s : State) (t : Thread) (d b : BitVec 5) (g : Gov), CanIssue (vecNeed g.legal [.sR b, .vW d] 4) s t →
    ∃ y s1, getS b s = .ok (y, s1) ∧
      WritesLanes (.vsplat d b g) 4 d (laneOn t s.cur.acc g) (fun _ => y.setWidth 32) t s s1) ∧
  (∀ (s : State) (t : Thread) (d : BitVec 5) (g : Gov), CanIssue (vecNeed g.legal [.vW d] 4) s t →
    WritesLanes (.vid d g) 4 d (laneOn t s.cur.acc g) (fun k => BitVec.ofNat 32 k) t s s) ∧
  (∀ (s : State) (t : Thread) (d a : BitVec 5), CanIssue (vecNeed true [.sR a, .sW d] 4) s t →
    ∃ n s1, getS a s = .ok (n, s1) ∧
      (n = 0 → Writes (.vsetl d a) 4 d 0 s s1) ∧
      (n ≠ 0 → Writes (.vsetl d a) 4 d (BitVec.ofNat 64 (min n.toNat 64)) s
        (s1.updThread s.cur.tid (fun r => { r with vl := min n.toNat 64 }))))

/-- R138, R146, Table 5.3: each FP32 lane operation of one or two sources completes: it rounds once in each active lane by the mode of
`%fstat`, merges the flags of the active lanes, and writes them to D; vector B, scalar B and compact forms. R147, R148, R149: the
approximating, fused and dot-product lane operations complete; the fused ones read D as the addend. The value of an approximation is
the implementation's (log entry 3). -/
def Obligations.VectorFpResults : Prop :=
  ((∀ (s : State) (t : Thread) (d a b : BitVec 5) (g : Gov), CanIssue (vecNeed g.legal [.vR a, .vR b, .vW d] 4) s t →
     ∃ x s1 y s2, getV a s = .ok (x, s1) ∧ getV b s1 = .ok (y, s2) ∧ ∀ p ∈ vectorFpOps d a b g,
       WritesLanesF p.1 4 d (laneOn t s.cur.acc g)
         (fun k => fop p.2.2 none (rmOf (t.ctx s.cur.acc).fstat) (lane x k) (lane y k) 0) t s s2) ∧
   (∀ (s : State) (t : Thread) (d a b : BitVec 5) (g : Gov), CanIssue (vecNeed g.legal [.vR a, .sR b, .vW d] 4) s t →
     ∃ x s1 y s2, getV a s = .ok (x, s1) ∧ getS b s1 = .ok (y, s2) ∧ ∀ p ∈ vectorFpOps d a b g,
       WritesLanesF p.2.1 4 d (laneOn t s.cur.acc g)
         (fun k => fop p.2.2 none (rmOf (t.ctx s.cur.acc).fstat) (lane x k) (y.setWidth 32) 0) t s s2) ∧
   (∀ (s : State) (t : Thread) (d b : BitVec 5) (g : Gov), CanIssue (vecNeed g.legal [.vR b, .vW d] 4) s t →
     ∃ y s1, getV b s = .ok (y, s1) ∧ ∀ p ∈ vectorFpUnary d b g,
       WritesLanesF p.1 4 d (laneOn t s.cur.acc g)
         (fun k => fop p.2 none (rmOf (t.ctx s.cur.acc).fstat) 0 (lane y k) 0) t s s1) ∧
   (∀ (s : State) (t : Thread) (d b : BitVec 5) (p1 : Bool), CanIssue (vecNeed true [.vR d, .vR b, .vW d] 2) s t →
     ¬(d = 0 ∧ b = 0 ∧ p1 = false) →
     ∃ x s1 y s2, getV d s = .ok (x, s1) ∧ getV b s1 = .ok (y, s2) ∧ ∀ p ∈ compactFpOps d b p1,
       WritesLanesF p.1 2 d (laneOn t s.cur.acc { p := if p1 then 1 else 0, n := false })
         (fun k => fop p.2 none (rmOf (t.ctx s.cur.acc).fstat) (lane x k) (lane y k) 0) t s s2) ∧
   (∀ (s : State) (t : Thread) (d b : BitVec 5) (p1 : Bool), CanIssue (vecNeed true [.vR b, .vW d] 2) s t →
     ∃ y s1, getV b s = .ok (y, s1) ∧
       WritesLanesF (.vnegF32Compact d b p1) 2 d (laneOn t s.cur.acc { p := if p1 then 1 else 0, n := false })
         (fun k => fop .neg none (rmOf (t.ctx s.cur.acc).fstat) 0 (lane y k) 0) t s s1)) ∧
  ((∀ (s : State) (t : Thread) (d b : BitVec 5) (g : Gov), CanIssue (vecNeed g.legal [.vR b, .vW d] 4) s t →
     ∃ y s1, getV b s = .ok (y, s1) ∧ ∀ p ∈ approxOps d b g,
       WritesLanesF p.1 4 d (laneOn t s.cur.acc g) (fun k => p.2.lane none (lane y k)) t s s1) ∧
   (∀ (s : State) (t : Thread) (d a b : BitVec 5) (g : Gov), CanIssue (vecNeed g.legal [.vR a, .vR b, .vR d, .vW d] 4) s t →
     ∃ x s1 y s2 z s3, getV a s = .ok (x, s1) ∧ getV b s1 = .ok (y, s2) ∧ getV d s2 = .ok (z, s3) ∧
       let rm := rmOf (t.ctx s.cur.acc).fstat
       (∀ p ∈ fusedOps d a b g, WritesLanesF p.1 4 d (laneOn t s.cur.acc g)
         (fun k => fop p.2.2 none rm (lane x k) (lane y k) (lane z k)) t s s3) ∧
       WritesLanesF (.vdotBf16 d a b g) 4 d (laneOn t s.cur.acc g)
         (fun k => dotBf16 none rm (lane x k) (lane y k) (lane z k)) t s s3 ∧
       WritesLanes (.vdotS8 d a b g) 4 d (laneOn t s.cur.acc g) (fun k => BitVec.ofInt 32
         (((List.range 4).map (fun j => ((lane x k).extractLsb' (8 * j) 8).toInt * ((lane y k).extractLsb' (8 * j) 8).toInt)).sum +
           (lane z k).toInt)) t s s3) ∧
   (∀ (s : State) (t : Thread) (d a b : BitVec 5) (g : Gov), CanIssue (vecNeed g.legal [.vR a, .sR b, .vR d, .vW d] 4) s t →
     ∃ x s1 y s2 z s3, getV a s = .ok (x, s1) ∧ getS b s1 = .ok (y, s2) ∧ getV d s2 = .ok (z, s3) ∧
       ∀ p ∈ fusedOps d a b g, WritesLanesF p.2.1 4 d (laneOn t s.cur.acc g)
         (fun k => fop p.2.2 none (rmOf (t.ctx s.cur.acc).fstat) (lane x k) (y.setWidth 32) (lane z k)) t s s3))

/-- R86 to R88, R150, R151: the lane conversions complete: widening ones convert the selected element, narrowing ones shift their
result into D from the right. -/
def Obligations.VectorConversions : Prop :=
  (∀ (s : State) (t : Thread) (d a k : BitVec 5) (g : Gov), CanIssue (vecNeed g.legal [.vR a, .vW d] 4) s t →
    ∃ x s1, getV a s = .ok (x, s1) ∧ ∀ p ∈ wideningForms none d a k g, p.2.1 = true →
      WritesLanesF p.1 4 d (laneOn t s.cur.acc g) (fun i => p.2.2 (rmOf (t.ctx s.cur.acc).fstat) (lane x i)) t s s1) ∧
  (∀ (s : State) (t : Thread) (d a : BitVec 5) (g : Gov), CanIssue (vecNeed g.legal [.vR a, .vR d, .vW d] 4) s t →
    ∃ x s1 c s2, getV a s = .ok (x, s1) ∧ getV d s1 = .ok (c, s2) ∧ ∀ p ∈ narrowingForms d a g,
      WritesLanesF p.1 4 d (laneOn t s.cur.acc g) (fun i =>
        let r := fconv .f32 p.2.1 none (rmOf (t.ctx s.cur.acc).fstat) false false (lane x i).toNat
        ((lane c i <<< p.2.2) ||| BitVec.ofNat 32 r.1, r.2)) t s s2)

/-- R152, R153: the block quantisations complete. With VL below 32 a quantisation writes no register; else every lane below VL of D
receives the coded blocks, whatever the predicate. A dequantisation writes the active lanes of the whole blocks below VL. -/
def Obligations.BlockQuantisation : Prop :=
  ∀ (s : State) (t : Thread) (d a : BitVec 5) (g : Gov), CanIssue (vecNeed g.legal [.vR a, .vW d] 4) s t →
    ∃ x s1, getV a s = .ok (x, s1) ∧
      Quantises none (.vqntBx4 d a g) bx4Rule 4 4 d g x t s s1 ∧ Quantises none (.vqntBx8i d a g) bx8iRule 8 4 d g x t s s1 ∧
      let rm := rmOf (t.ctx s.cur.acc).fstat
      Dequantises none rm (.vdqntBx4 d a g) true 4 d g x t s s1 ∧ Dequantises none rm (.vdqntBx8i d a g) false 4 d g x t s s1

/-- R98, R154: each reduction completes: it combines the active lanes of A and writes the result, or the identity when no lane is
active, to the scalar D; the FP32 ones combine by the fixed tree and merge its flags. -/
def Obligations.VectorReductions : Prop :=
  ∀ (s : State) (t : Thread) (d a : BitVec 5) (g : Gov), CanIssue (vecNeed g.legal [.vR a, .sW d] 4) s t →
    ∃ x s1, getV a s = .ok (x, s1) ∧
      (∀ p ∈ integerReductions d a g (((List.range 64).filter (laneOn t s.cur.acc g)).map (lane x)),
        Writes p.1 4 d p.2 s s1) ∧
      (∀ p ∈ fpReductions d a g,
        let r := redTree (fun x y => fop p.2.1 none (rmOf (t.ctx s.cur.acc).fstat) x y 0)
          (fun k => if laneOn t s.cur.acc g k then some (lane x k) else none) 6 0
        WritesF32 p.1 4 d (r.1.getD p.2.2, r.2) s s1)

/-- R155, R156: the permutes complete: lane i of D receives the lane of A (or B) that the instruction names, 0 for one at or above VL;
`vcomp` packs the active lanes of A at the bottom and `vexpd` spreads A's lanes over the active ones. -/
def Obligations.VectorPermutes : Prop :=
  (∀ (s : State) (t : Thread) (d a b : BitVec 5) (g : Gov), CanIssue (vecNeed g.legal [.vR a, .vR b, .vW d] 4) s t →
    ∃ x s1 y s2, getV a s = .ok (x, s1) ∧ getV b s1 = .ok (y, s2) ∧ ∀ p ∈ vectorPermutes d a b g t.vl x y,
      WritesLanes p.1 4 d (laneOn t s.cur.acc g) p.2 t s s2) ∧
  (∀ (s : State) (t : Thread) (d a b : BitVec 5) (g : Gov), CanIssue (vecNeed g.legal [.vR a, .sR b, .vW d] 4) s t →
    ∃ x s1 y s2, getV a s = .ok (x, s1) ∧ getS b s1 = .ok (y, s2) ∧ ∀ p ∈ scalarPermutes d a b g t.vl x y.toNat,
      WritesLanes p.1 4 d (laneOn t s.cur.acc g) p.2 t s s2) ∧
  (∀ (s : State) (t : Thread) (d a : BitVec 5) (g : Gov), CanIssue (vecNeed g.legal [.vR a, .vW d] 4) s t →
    ∃ x s1, getV a s = .ok (x, s1) ∧
      let on := laneOn t s.cur.acc g
      WritesLanes (.vcomp d a g) 4 d (fun k => decide (k < t.vl)) (fun k =>
        ((((List.range 64).filter on).map (lane x))[k]?).getD 0) t s s1 ∧
      WritesLanes (.vexpd d a g) 4 d on (fun k => lane x ((List.range k).filter on).length) t s s1)

/-- R102, R157, R158: the vector compares and predicate operations complete: they write the active bits of predicate D and keep the
others; `pcnt` counts the active set bits and `pfirst` finds the lowest one. -/
def Obligations.VectorComparesAndPredicates : Prop :=
  (∀ (s : State) (t : Thread) (d a b : BitVec 5) (g : Gov),
    (CanIssue (vecNeed (g.legal && predField d) [.vR a, .vR b] 4) s t →
      ∃ x s1 y s2, getV a s = .ok (x, s1) ∧ getV b s1 = .ok (y, s2) ∧ ∀ p ∈ vectorCompares d a b g,
        WritesPredLanes p.1 d (laneOn t s.cur.acc g) (fun k => p.2.2 (lane x k) (lane y k)) t s s2) ∧
    (CanIssue (vecNeed (g.legal && predField d) [.vR a, .sR b] 4) s t →
      ∃ x s1 y s2, getV a s = .ok (x, s1) ∧ getS b s1 = .ok (y, s2) ∧ ∀ p ∈ vectorCompares d a b g,
        WritesPredLanes p.2.1 d (laneOn t s.cur.acc g) (fun k => p.2.2 (lane x k) (y.setWidth 32)) t s s2)) ∧
  (∀ (s : State) (t : Thread) (d a b : BitVec 5) (g : Gov),
    predField d = true → predField a = true → predField b = true → CanIssue (vecNeed g.legal [] 4) s t →
    let x := (t.ctx s.cur.acc).pred a.toNat
    let y := (t.ctx s.cur.acc).pred b.toNat
    ∀ p ∈ [(Instr.pand d a b g, x &&& y), (.por d a b g, x ||| y), (.pxor d a b g, x ^^^ y), (.pnot d b g, ~~~y)],
      WritesPredLanes p.1 d (laneOn t s.cur.acc g) (fun k => (bit p.2 k, FF.none)) t s s) ∧
  (∀ (s : State) (t : Thread) (d b : BitVec 5) (g : Gov), predField b = true → CanIssue (vecNeed g.legal [.sW d] 4) s t →
    let l := (List.range 64).filter (fun k => laneOn t s.cur.acc g k && bit ((t.ctx s.cur.acc).pred b.toNat) k)
    Writes (.pcnt d b g) 4 d (BitVec.ofNat 64 l.length) s s ∧
    Writes (.pfirst d b g) 4 d (match l with
      | k :: _ => BitVec.ofNat 64 k
      | [] => BitVec.allOnes 64) s s)

/-- R142, R143: the lane-slice accesses complete when every active lane's offset is a multiple of 4 and at most 508: each active lane
loads or stores one word of its own slice. -/
def Obligations.LaneSliceAccesses : Prop :=
  (∀ (s : State) (t : Thread) (d a : BitVec 5) (g : Gov), CanIssue (vecNeed g.legal [.sR a, .vW d] 4) s t →
    ∃ x s1, getS a s = .ok (x, s1) ∧ (x.toNat % 4 = 0 → x.toNat ≤ 508 →
      WritesLanes (.lsld d a g) 4 d (laneOn t s.cur.acc g)
        (fun k => BitVec.ofNat 32 (s.mem.num (sliceLoc t.core k x.toNat) 4)) t s s1)) ∧
  (∀ (s : State) (t : Thread) (d b : BitVec 5) (g : Gov), CanIssue (vecNeed g.legal [.vR b, .vW d] 4) s t →
    ∃ y s1, getV b s = .ok (y, s1) ∧
      ((∀ k, k < 64 → laneOn t s.cur.acc g k = true → (lane y k).toNat % 4 = 0 ∧ (lane y k).toNat ≤ 508) →
      WritesLanes (.lsldx d b g) 4 d (laneOn t s.cur.acc g)
        (fun k => BitVec.ofNat 32 (s.mem.num (sliceLoc t.core k (lane y k).toNat) 4)) t s s1)) ∧
  (∀ (s : State) (t : Thread) (d a : BitVec 5) (g : Gov), CanIssue (vecNeed g.legal [.sR a, .vR d] 4) s t →
    ∃ x s1 v s2, getS a s = .ok (x, s1) ∧ getV d s1 = .ok (v, s2) ∧ (x.toNat % 4 = 0 → x.toNat ≤ 508 →
      Retires (.lsst d a g) 4 s { s2 with mem := sliceStored s t g (fun _ => x.toNat) v })) ∧
  (∀ (s : State) (t : Thread) (d b : BitVec 5) (g : Gov), CanIssue (vecNeed g.legal [.vR b, .vR d] 4) s t →
    ∃ y s1 v s2, getV b s = .ok (y, s1) ∧ getV d s1 = .ok (v, s2) ∧
      ((∀ k, k < 64 → laneOn t s.cur.acc g k = true → (lane y k).toNat % 4 = 0 ∧ (lane y k).toNat ≤ 508) →
      Retires (.lsstx d b g) 4 s { s2 with mem := sliceStored s t g (fun k => (lane y k).toNat) v }))

/-- R159, R162: each vector load whose active lanes lie in the issuing core's own local store completes and gives each active lane of
D its bytes, sign-extended for the narrow types. R159, R163: each vector store whose active lanes lie in the issuing core's own local
store completes and stores the active lanes of D in ascending order, so that the highest of overlapping lanes stands. -/
def Obligations.VectorMemory : Prop :=
  ((∀ (s : State) (t : Thread) (d a : BitVec 5) (g : Gov), CanIssue (vecNeed g.legal [.sR a, .vW d] 4) s t → Fresh s t → s.slow = false →
     ∃ x s1, getS a s = .ok (x, s1) ∧
       ∀ p ∈ [(Instr.vldB32 d a g, false, 4), (.vldS16 d a g, true, 2), (.vldS8 d a g, true, 1)], ∀ off,
         LanesLocal s t g (unitAddr p.2.2 x) p.2.2 false off →
         WritesLanes p.1 4 d (laneOn t s.cur.acc g)
           (fun k => (loaded p.2.1 p.2.2 (s.mem.num (lsLoc t.core (off k)) p.2.2)).setWidth 32) t s s1) ∧
   (∀ (s : State) (t : Thread) (d a b : BitVec 5) (g : Gov), CanIssue (vecNeed g.legal [.sR a, .sR b, .vW d] 4) s t → Fresh s t → s.slow = false →
     ∃ x s1 y s2, getS a s = .ok (x, s1) ∧ getS b s1 = .ok (y, s2) ∧ ∀ off,
       LanesLocal s t g (stridedAddr x y) 4 false off →
       WritesLanes (.vldsB32 d a b g) 4 d (laneOn t s.cur.acc g)
         (fun k => BitVec.ofNat 32 (s.mem.num (lsLoc t.core (off k)) 4)) t s s2) ∧
   (∀ (s : State) (t : Thread) (d a b : BitVec 5) (g : Gov), CanIssue (vecNeed g.legal [.sR a, .vR b, .vW d] 4) s t → Fresh s t → s.slow = false →
     ∃ x s1 y s2, getS a s = .ok (x, s1) ∧ getV b s1 = .ok (y, s2) ∧ ∀ off,
       LanesLocal s t g (indexedAddr x y) 4 false off →
       WritesLanes (.vgatherB32 d a b g) 4 d (laneOn t s.cur.acc g)
         (fun k => BitVec.ofNat 32 (s.mem.num (lsLoc t.core (off k)) 4)) t s s2)) ∧
  ((∀ (s : State) (t : Thread) (d a : BitVec 5) (g : Gov), CanIssue (vecNeed g.legal [.sR a, .vR d] 4) s t → Fresh s t → s.slow = false →
     ∃ x s1 v s2, getS a s = .ok (x, s1) ∧ getV d s1 = .ok (v, s2) ∧ ∀ off, LanesLocal s t g (unitAddr 4 x) 4 true off →
       ∃ u1 u2, getS a (laneStores s t g off v) = .ok (x, u1) ∧ getV d u1 = .ok (v, u2) ∧ Retires (.vstB32 d a g) 4 s u2) ∧
   (∀ (s : State) (t : Thread) (d a b : BitVec 5) (g : Gov), CanIssue (vecNeed g.legal [.sR a, .sR b, .vR d] 4) s t → Fresh s t → s.slow = false →
     ∃ x s1 y s2 v s3, getS a s = .ok (x, s1) ∧ getS b s1 = .ok (y, s2) ∧ getV d s2 = .ok (v, s3) ∧ ∀ off,
       LanesLocal s t g (stridedAddr x y) 4 true off →
       ∃ u1 u2 u3, getS a (laneStores s t g off v) = .ok (x, u1) ∧ getS b u1 = .ok (y, u2) ∧ getV d u2 = .ok (v, u3) ∧
         Retires (.vstsB32 d a b g) 4 s u3) ∧
   (∀ (s : State) (t : Thread) (d a b : BitVec 5) (g : Gov), CanIssue (vecNeed g.legal [.sR a, .vR b, .vR d] 4) s t → Fresh s t → s.slow = false →
     ∃ x s1 y s2 v s3, getS a s = .ok (x, s1) ∧ getV b s1 = .ok (y, s2) ∧ getV d s2 = .ok (v, s3) ∧ ∀ off,
       LanesLocal s t g (indexedAddr x y) 4 true off →
       ∃ u1 u2 u3, getS a (laneStores s t g off v) = .ok (x, u1) ∧ getV b u1 = .ok (y, u2) ∧ getV d u2 = .ok (v, u3) ∧
         Retires (.vscatterB32 d a b g) 4 s u3))

/-- R57, R58, R83, R133, R145, Table 2.3: an eligible instruction after a modifier word completes as 8 bytes: the operation of its plain
form, with the word's sign changes, scaling, rounding, clamping and saturation. So the scalar FP32 instructions, the integer lane operations
(which saturate), the FP32 lane operations of one or two sources with a vector or a scalar B, the approximating, fused and dot-product ones,
the conversions and the block quantisations (the approximated value is the implementation's, log entry 3; how the word acts on the source of
a quantisation is the model's reading, log entry 37). A modifier word before any other instruction, or with a field that is not used, is illegal. -/
def Obligations.ModifiedInstructions : Prop :=
  ∀ (s : State) (m : Mod),
    (∀ (t : Thread) (d a b : BitVec 5) (g : Gov), let rm := roundMode (t.ctx s.cur.acc).fstat m.rnd
      (CanIssue (fpNeed true g [.sR a, .sR b, .sW d] 8) s t →
        ∃ x s1 y s2, getS a s = .ok (x, s1) ∧ getS b s1 = .ok (y, s2) ∧ ∀ p ∈ fpBinary d a b g, p.1.eligible m = true →
          WritesF32 (.modifierWord m p.1) 8 d (fop p.2 (some m) rm (x.setWidth 32) (y.setWidth 32) 0) s s2) ∧
      (CanIssue (fpNeed true g [.sR b, .sW d] 8) s t →
        ∃ y s1, getS b s = .ok (y, s1) ∧
          (∀ p ∈ fpUnary d b g, p.1.eligible m = true →
            WritesF32 (.modifierWord m p.1) 8 d (fop p.2 (some m) rm 0 (y.setWidth 32) 0) s s1) ∧
          (∀ p ∈ [(Instr.fcvtF32S64 d b g, y.toInt), (.fcvtF32N64 d b g, (y.toNat : Int))], p.1.eligible m = true →
            WritesF32 (.modifierWord m p.1) 8 d (intToFloat (some m) rm m.negb m.absb p.2) s s1) ∧
          (∀ p ∈ [(Instr.fcvtS64F32 d b g, (-2 ^ 63 : Int), (2 ^ 63 - 1 : Int)), (.fcvtN64F32 d b g, 0, 2 ^ 64 - 1)],
            p.1.eligible m = true →
            WritesInt (.modifierWord m p.1) 8 d (floatToInt p.2.1 p.2.2 (some m) rm m.negb m.absb (y.setWidth 32)) s s1)) ∧
      (CanIssue (fpNeed true g [.sR a, .sR b, .sR d, .sW d] 8) s t → (Instr.ffma d a b g).eligible m = true →
        ∃ x s1 y s2 z s3, getS a s = .ok (x, s1) ∧ getS b s1 = .ok (y, s2) ∧ getS d s2 = .ok (z, s3) ∧
          WritesF32 (.modifierWord m (.ffma d a b g)) 8 d
            (fop .fma (some m) rm (x.setWidth 32) (y.setWidth 32) (z.setWidth 32)) s s3) ∧
      (CanIssue (fpNeed (predField d) g [.sR a, .sR b] 8) s t →
        ∃ x s1 y s2, getS a s = .ok (x, s1) ∧ getS b s1 = .ok (y, s2) ∧ ∀ p ∈ fpCompares d a b g, p.1.eligible m = true →
          let r := fcmp p.2 ((f32Val (x.setWidth 32)).mod m.nega m.absa) ((f32Val (y.setWidth 32)).mod m.negb m.absb)
          ∃ v u, mergeFlags r.2 s2 = .ok ((), v) ∧ setP d.toNat (if r.1 then BitVec.allOnes 64 else 0) v = .ok ((), u) ∧
            Retires (.modifierWord m p.1) 8 s u)) ∧
    (∀ (t : Thread) (d a b : BitVec 5) (g : Gov), let rm := roundMode (t.ctx s.cur.acc).fstat m.rnd
      let on := laneOn t s.cur.acc g
      (CanIssue (vecNeed g.legal [.vR a, .vR b, .vW d] 8) s t →
        ∃ x s1 y s2, getV a s = .ok (x, s1) ∧ getV b s1 = .ok (y, s2) ∧
          (∀ p ∈ integerExact d a b g, p.1.eligible m = true →
            WritesLanes (.modifierWord m p.1) 8 d on (fun k => saturated m (p.2.2 (lane x k) (lane y k))) t s s2) ∧
          (∀ p ∈ vectorFpOps d a b g, p.1.eligible m = true →
            WritesLanesF (.modifierWord m p.1) 8 d on (fun k => fop p.2.2 (some m) rm (lane x k) (lane y k) 0) t s s2)) ∧
      (CanIssue (vecNeed g.legal [.vR a, .sR b, .vW d] 8) s t →
        ∃ x s1 y s2, getV a s = .ok (x, s1) ∧ getS b s1 = .ok (y, s2) ∧
          (∀ p ∈ integerExact d a b g, p.2.1.eligible m = true →
            WritesLanes (.modifierWord m p.2.1) 8 d on (fun k => saturated m (p.2.2 (lane x k) (y.setWidth 32))) t s s2) ∧
          (∀ p ∈ vectorFpOps d a b g, p.2.1.eligible m = true →
            WritesLanesF (.modifierWord m p.2.1) 8 d on (fun k => fop p.2.2 (some m) rm (lane x k) (y.setWidth 32) 0) t s s2)) ∧
      (CanIssue (vecNeed g.legal [.vR b, .vW d] 8) s t →
        ∃ y s1, getV b s = .ok (y, s1) ∧
          (∀ p ∈ vectorFpUnary d b g, p.1.eligible m = true →
            WritesLanesF (.modifierWord m p.1) 8 d on (fun k => fop p.2 (some m) rm 0 (lane y k) 0) t s s1) ∧
          (∀ p ∈ approxOps d b g, p.1.eligible m = true →
            WritesLanesF (.modifierWord m p.1) 8 d on (fun k => p.2.lane (some m) (lane y k)) t s s1)) ∧
      (CanIssue (vecNeed g.legal [.vR a, .vR b, .vR d, .vW d] 8) s t →
        ∃ x s1 y s2 z s3, getV a s = .ok (x, s1) ∧ getV b s1 = .ok (y, s2) ∧ getV d s2 = .ok (z, s3) ∧
          (∀ p ∈ fusedOps d a b g, p.1.eligible m = true →
            WritesLanesF (.modifierWord m p.1) 8 d on (fun k => fop p.2.2 (some m) rm (lane x k) (lane y k) (lane z k)) t s s3) ∧
          (∀ p ∈ [(Instr.vdotBf16 d a b g, dotBf16), (.vdotS8 d a b g, dotS8)], p.1.eligible m = true →
            WritesLanesF (.modifierWord m p.1) 8 d on (fun k => p.2 (some m) rm (lane x k) (lane y k) (lane z k)) t s s3)) ∧
      (CanIssue (vecNeed g.legal [.vR a, .sR b, .vR d, .vW d] 8) s t →
        ∃ x s1 y s2 z s3, getV a s = .ok (x, s1) ∧ getS b s1 = .ok (y, s2) ∧ getV d s2 = .ok (z, s3) ∧
          ∀ p ∈ fusedOps d a b g, p.2.1.eligible m = true →
            WritesLanesF (.modifierWord m p.2.1) 8 d on (fun k => fop p.2.2 (some m) rm (lane x k) (y.setWidth 32) (lane z k)) t s s3) ∧
      (CanIssue (vecNeed g.legal [.vR a, .vW d] 8) s t →
        ∃ x s1, getV a s = .ok (x, s1) ∧
          (∀ p ∈ wideningForms (some m) d a b g, p.2.1 = true → p.1.eligible m = true →
            WritesLanesF (.modifierWord m p.1) 8 d on (fun k => p.2.2 rm (lane x k)) t s s1) ∧
          ((Instr.vqntBx4 d a g).eligible m = true → Quantises (some m) (.modifierWord m (.vqntBx4 d a g)) bx4Rule 4 8 d g x t s s1) ∧
          ((Instr.vqntBx8i d a g).eligible m = true → Quantises (some m) (.modifierWord m (.vqntBx8i d a g)) bx8iRule 8 8 d g x t s s1) ∧
          ((Instr.vdqntBx4 d a g).eligible m = true → Dequantises (some m) rm (.modifierWord m (.vdqntBx4 d a g)) true 8 d g x t s s1) ∧
          ((Instr.vdqntBx8i d a g).eligible m = true →
            Dequantises (some m) rm (.modifierWord m (.vdqntBx8i d a g)) false 8 d g x t s s1)) ∧
      (CanIssue (vecNeed g.legal [.vR a, .vR d, .vW d] 8) s t →
        ∃ x s1 c s2, getV a s = .ok (x, s1) ∧ getV d s1 = .ok (c, s2) ∧ ∀ p ∈ narrowingForms d a g, p.1.eligible m = true →
          WritesLanesF (.modifierWord m p.1) 8 d on (fun k =>
            let r := fconv .f32 p.2.1 (some m) rm m.nega m.absa (lane x k).toNat
            ((lane c k <<< p.2.2) ||| BitVec.ofNat 32 r.1, r.2)) t s s2)) ∧
    (∀ (i : Instr), i.eligible m = false → Traps (.modifierWord m i) s { cause := 0x01, addr := 0, extra := 0, pc := none })

/-- R169, R172 to R176, R184: each array setup command completes when its operand is legal and the queue has room: it enters its
command, with what it reads at issue. -/
def Obligations.ArraySetup : Prop :=
  (∀ (s : State) (t : Thread) (a : BitVec 5), CanIssue (setupNeed [.sR a]) s t → ArrayRoom s t →
    ∃ x s1, getS a s = .ok (x, s1) ∧
      (field x 3 0 ≤ 5 → field x 7 4 = 0 → field x 12 8 ≤ [8, 8, 12, 12, 16, 16].getD (field x 3 0) 0 → field x 63 13 = 0 →
        Enqueues (.mfmt a) (.mfmt (BitVec.ofNat 4 (field x 3 0)) (BitVec.ofNat 5
          (if field x 12 8 = 0 then [5, 8, 10, 10, 12, 12].getD (field x 3 0) 0 else field x 12 8))) t s s1) ∧
      (ArrayBytes s t x 4096 → Enqueues (.mspar a) (.mspar (x.setWidth 19)) t s s1) ∧
      (field x 63 8 = 0 → Enqueues (.mscale a) (.mscale (x.extractLsb' 0 8)) t s s1)) ∧
  (∀ (s : State) (t : Thread), CanIssue (setupNeed []) s t → ArrayRoom s t → Enqueues .mzero .mzero t s s) ∧
  (∀ (s : State) (t : Thread) (a b : BitVec 5), CanIssue (setupNeed [.sR a, .sR b]) s t → ArrayRoom s t →
    ∃ x s1 y s2, getS a s = .ok (x, s1) ∧ getS b s1 = .ok (y, s2) ∧
      let n := [9216, 16896, 16384, 16384, 32768].getD (field y 3 0) 0
      (field y 3 0 ≤ 4 → field y 63 5 = 0 → ArrayBytes s t x n →
        Enqueues (.mlatch a b) (.mlatch (s.mem.bytes (lsLoc t.core x.toNat) n) (y.extractLsb' 0 4) (bit y 4)) t s s2)) ∧
  (∀ (s : State) (t : Thread) (d a : BitVec 5), CanIssue (setupNeed [.sR a, .vR d]) s t → ArrayRoom s t →
    ∃ x s1 v s2, getS a s = .ok (x, s1) ∧ getV d s1 = .ok (v, s2) ∧ (field x 63 6 = 0 →
      Enqueues (.mrowst d a) (.mrowst (x.extractLsb' 0 5) (bit x 5) t.vl v) t s s2))

/-- R167, R170, R178, R180: `mstream`, `mstreamz` and `mdrain` complete when their operands are legal: each hands an operation to the
array, its completion word to come in T, and enters its command. -/
def Obligations.ArrayOperations : Prop :=
  ∀ (s : State) (th : Thread) (t a b : BitVec 5) (ord : Ord), CanIssue (operateNeed ord [.sR a, .sR b, .tok t]) s th →
    UsesArray s th → ArrayRoom s th →
    ∃ x s1 y s2 dest v, getS a s = .ok (x, s1) ∧ getS b s1 = .ok (y, s2) ∧ laterT t s2 = .ok (dest, v) ∧
      let e := (s.groupRegs th).emask
      let mv := rowsFor (field y 5 0) e
      (field y 5 0 ≤ 32 → field y 7 6 = 0 → field y 16 8 ≤ 256 → field y 63 17 = 0 →
        ArrayBytes s th x (s.core th.core).array.streamExtent →
        let p := v.acceptOp th.core (v.issued { newOp .mstream th s.cur.tid dest ord 0 (Vector.replicate 8 0) with rows := mv })
        ∀ z, Retires (if z then .mstreamz t a b ord else .mstream t a b ord) 4 s
          (p.2.enterCmd th.core s.cur.tid none p.1 (.mstream z (x.setWidth 19) mv (field y 16 8) (some p.1)))) ∧
      (GoodTarget x → field y 5 0 ≤ 32 → field y 7 6 = 0 → field y 15 8 ≤ 128 → field y 31 17 = 0 → field y 63 48 = 0 →
        let p := v.acceptOp th.core (v.issued { newOp .mdrain th s.cur.tid dest ord 0 (Vector.replicate 8 0) with rows := mv })
        Retires (.mdrain t a b ord) 4 s (p.2.enterCmd th.core s.cur.tid none p.1
          (.mdrain (x.extractLsb' 0 56) mv (colsFor (field y 15 8) e) (bit y 16) (y.extractLsb' 32 16) p.1)))

/-- R179, R183, R184, R188: `mwait` and `mrow` wait for the commands that were queued; `mrow` then gives D half a row. `mgeom` assigns
the member its output tile. `baddq` adds whole blocks. -/
def Obligations.ArrayWaitsRowsAndTiles : Prop :=
  (∀ (s : State) (t : Thread), CanIssue { plain true [] with cls := .noHeddle } s t → UsesArray s t →
    (CommandsDone s t true → Retires .mwait 4 s s) ∧
    ((t.ctx s.cur.acc).got ≠ [] → ¬ CommandsDone s t true → Waits .mwait .array s)) ∧
  (∀ (s : State) (t : Thread) (d a : BitVec 5), CanIssue (setupNeed [.sR a, .vW d]) s t →
    ∃ x s1, getS a s = .ok (x, s1) ∧ (field x 63 6 = 0 → CommandsDone s t false →
      WritesLanes (.mrow d a) 4 d (fun k => decide (k < t.vl))
        (fun k => vget (s.core t.core).array.acc (128 * field x 4 0 + 64 * field x 5 5 + k) 0) t s s1)) ∧
  (∀ (s : State) (t : Thread) (d a b : BitVec 5), CanIssue (setupNeed [.sR a, .sR b, .sW d]) s t →
    ∃ x s1 y s2, getS a s = .ok (x, s1) ∧ getS b s1 = .ok (y, s2) ∧
      let g := s.groupRegs t
      let m := field x 19 0
      let n := field x 39 20
      let k := field x 59 40
      let tm := (m + 31) / 32
      let tn := (n + 127) / 128
      let i := g.rank.toNat + field y 47 16 * g.gsize.toNat
      let r := if bit y 0 then i % tm else i / tn
      let c := if bit y 0 then i / tm else i % tn
      let w := if bit y 1 then (32, 128, 128) else (min 32 (m - 32 * r), min 128 (n - 128 * c), (k - 1) % 128 + 1)
      let out (q : GroupRegs) : State := s2.updCore t.core (fun k => { k with grp := q })
      let own := (s2.core t.core).grp
      m ≠ 0 → n ≠ 0 → k ≠ 0 → field x 63 60 = 0 → field y 15 2 = 0 → field y 63 48 = 0 → g.gsize ≠ 0 →
      (tm * tn ≤ i → Writes (.mgeom d a b) 4 d 0 s (out { own with row0 := 0, col0 := 0, emask := 0 })) ∧
      (i < tm * tn → Writes (.mgeom d a b) 4 d 1 s (out { own with row0 := BitVec.ofNat 32 (32 * r), col0 := BitVec.ofNat 32 (128 * c),
                                                                   emask := BitVec.ofNat 24 (w.1 + 256 * w.2.1 + 65536 * w.2.2) }))) ∧
  (∀ (s : State) (t : Thread) (d a b : BitVec 5), CanIssue (vecNeed true [.vR a, .vR b, .vW d] 4) s t →
    ∃ x s1 y s2, getV a s = .ok (x, s1) ∧ getV b s1 = .ok (y, s2) ∧
      ∀ p ∈ [(Instr.baddqBx4 d a b, true, 4), (.baddqBx8i d a b, false, 8)],
        let nb := t.vl / 32
        let elem (v : VWord) (k j : Nat) : FVal :=
          if p.2.1 then (codedOf true nb k v).bx4 j else (codedOf false nb k v).bx8i j
        let nan (k : Nat) : Bool := (codedOf p.2.1 nb k x).scale == 255 || (codedOf p.2.1 nb k y).scale == 255
        let bs := (List.range nb).map (fun k =>
          let c := (if p.2.1 then bx4Rule else bx8iRule) ((List.range 32).map (fun j => blockSum (elem x k j) (elem y k j)))
          if nan k then { c with flags := FF.none } else c)
        (nb = 0 → d.toNat < 28 → Retires p.1 4 s s2) ∧
        (nb ≠ 0 → t.vl ≤ 64 →
          ∃ v w u, (bs.foldl (fun m c => do
              m
              mergeFlags c.flags) (pure ()) : Exec Unit) s2 = .ok ((), v) ∧
            (∀ k, k < 64 → lane w k = if k < t.vl then blockLanes bs p.2.2 k
              else if d.toNat < 28 then lane (vget t.v d.toNat 0) k else 0) ∧
            setV d w v = .ok ((), u) ∧ Retires p.1 4 s u))

/-- R168, R170, R172 to R176, R178, R180, R184, R410: the command at the head of the queue takes its turn, in a cycle in which the die lets
the array work: it leaves the queue and the array
changes as the command says, and nothing else of the array does. R186: a follow-on stream marks its copy's completion word. R180 to R182, R413: the oldest drained row is born as a row pick in
slot 7 once the slot and a bobbin are free: h0 and h1 hold its 128 columns, and `%bcoord`, `%bflow` and `%bcount` its row, flow and
count. -/
def Obligations.ArrayTurns : Prop :=
  (∀ (s : State) (core : Nat) (q : QueuedCmd) (rest : List QueuedCmd),
     let a := (s.core core).array
     let b := { a with queue := rest }
     a.queue = q :: rest → s.throttled (coreDie core) = false →
     (∀ f p, q.cmd = .mfmt f p → TakesTurn (.mfmtCommand core) core q { b with afmt := f, p := p } s) ∧
     (∀ img w sp, q.cmd = .mlatch img w sp →
       TakesTurn (.mlatchCommand core) core q { b with tile := latchTile img w sp a.codes } s) ∧
     (∀ x, q.cmd = .mspar x →
       ∃ codes, (∀ n g, n < 128 → g < 64 → (vget codes (64 * n + g) 0).toNat =
           (s.mem.get (lsLoc core (x.toNat + 32 * n + g / 2))).toNat / 16 ^ (g % 2) % 16) ∧
         TakesTurn (.msparCommand core) core q { b with codes := codes } s) ∧
     (∀ x, q.cmd = .mscale x → TakesTurn (.mscaleCommand core) core q { b with mshift := x } s) ∧
     (q.cmd = .mzero →
       TakesTurn (.mzeroCommand core) core q { b with acc := Vector.replicate 4096 0, tspx := false, tinf := false } s) ∧
     (∀ row half vl x, q.cmd = .mrowst row half vl x → vl ≤ 64 →
       ∃ acc, (∀ i, i < 4096 → vget acc i 0 =
           let base := 128 * row.toNat + (if half then 64 else 0)
           if base ≤ i ∧ i < base + vl then lane x (i - base) else vget a.acc i 0) ∧
         TakesTurn (.mrowstCommand core) core q { b with acc := acc } s) ∧
     (∀ z x mv kv op id, q.cmd = .mstream z x mv kv op → q.follow = some id → op = none →
       let r := a.stream z (s.mem.bytes (lsLoc core x.toNat) (operandBytes (planesOf a.afmt.toNat) (kBlocks a.tile.sparse))) mv kv
       exec (if z then .mstreamzCommand core else .mstreamCommand core) s = .next
         ((((s.updArray core (fun _ => { r.array with queue := rest })).updOp core id (fun y => { y with follow := .done })).updCore core
           (fun c => { c with flagged := (if r.spx then some s.tick else c.flagged.1, if r.inf then some s.tick else c.flagged.2) })).updOp
           core id (fun y => { y with spx := y.spx || r.spx, inf := y.inf || r.inf }))) ∧
     (∀ z x mv kv op, q.cmd = .mstream z x mv kv op →
       (∀ y, op.bind (s.op? core) = some y → y.state = .active ∧ (y.ord.acq = true → s.priorDone core y = true)) → NoRecords s →
       ∃ u, exec (if z then .mstreamzCommand core else .mstreamCommand core) s = .next u ∧
         (∀ i, i < 4096 → mv ≤ i / 128 → vget (u.core core).array.acc i 0 = if z then 0 else vget a.acc i 0) ∧
         (u.core core).array.queue = rest ∧ (u.core core).array.tile = a.tile ∧ (u.core core).array.codes = a.codes ∧
         u.mem = s.mem) ∧
     (∀ e mv nv clr flow op, q.cmd = .mdrain e mv nv clr flow op → q.follow = none → a.drain = [] →
       let rows := (List.range mv).map (fun m => ({ row := m, data := (Vector.range 128).map (fun n =>
         if n < nv then vget a.acc (128 * m + n) 0 else 0), entry := e, flow := flow, count := mv, op := op } : DrainRow))
       let c := if clr then { b with acc := Vector.replicate 4096 0, tspx := false, tinf := false } else b
       exec (.mdrainCommand core) s = .next (((s.updArray core (fun _ => { c with drain := rows })).unhold q.tid).updOp core op
         (fun x => { x with spx := a.tspx, inf := a.tinf, row := 1 })))) ∧
  (∀ (s : State) (core tid : Nat) (r : DrainRow) (rest : List DrainRow) (x : EngineOp) (u : State),
     (s.core core).array.drain = r :: rest → s.op? core r.op = some x → vget (s.core core).slots 7 none = none →
     s.priorDone core x = true → s.takeBobbin x.dom (coreDie core) false x.image = some (tid, u) → NoRecords s →
     ∃ v t, exec (.rowPickBirth core) s = .next v ∧ v.thread? tid = some t ∧ t.kind = .rowPick ∧ t.core = core ∧ t.slot = 7 ∧
       t.dom = x.dom ∧ t.exe.pc = r.entry ∧ t.exe.running = true ∧ t.bcoord = BitVec.ofNat 48 r.row ∧ t.bflow = r.flow ∧
       t.bcount = BitVec.ofNat 32 r.count ∧ (∀ i, i < 64 → lane (vget t.v 0 0) i = vget r.data i 0 ∧
         lane (vget t.v 1 0) i = vget r.data (64 + i) 0) ∧
       (v.core core).array.drain = rest ∧ vget (v.core core).slots 7 none = some tid ∧ v.mem = s.mem)

/-- R214, R216 to R218, R220: an engine instruction completes when its record is legal and its engine has room: it reads the record
and hands the operation to the engine, its completion word to come in T. R222 to R224, R226: `seal` closes the open batch and gives
its number, `bwait` completes when at most N sealed batches are unfinished, after the deferred fault of one it waited for (R215), `cseq` gives a chain's last sequence number, and `chain`
appends a tail. -/
def Obligations.EngineInstructions : Prop :=
  (∀ (s : State) (th : Thread) (t a : BitVec 5) (ord : Ord), CanIssue (engineNeed ord [.sR a, .tok t]) s th →
     ∃ x s1 dest v, getS a s = .ok (x, s1) ∧ laterT t s1 = .ok (dest, v) ∧
       let bytes := s.mem.bytes (lsLoc th.core x.toNat) 64
       let r := (Vector.range 8).map (wordAt bytes)
       ∀ p ∈ [(Instr.copy t a ord, OpKind.copy, 16), (.copyl t a ord, .copyl, 16), (.halo t a ord, .halo, 16), (.weft t a ord, .weft, 4)],
         x.toNat % 64 = 0 → windowOk (s.core th.core) x.toNat 64 false false = true → s.recordCheck th.core p.2.1 r = none →
         ((s.core th.core).ops.filter (fun o => o.2.kind.engine == p.2.1.engine)).length < p.2.2 →
         Retires p.1 4 s (v.acceptOp th.core (v.issued (s.opOf th.core p.2.1 th (newOp p.2.1 th s.cur.tid dest ord 0 r)))).2) ∧
  ((∀ (s : State) (t : Thread) (d : BitVec 5), CanIssue { plain true [.sW d] with cls := .noHeddle } s t →
     (s.unfinished t s.cur.tid < 16 → Writes (.seal d) 4 d (BitVec.ofNat 64 (t.lastSealed + 1)) s
       (s.updThread s.cur.tid (fun r => { r with lastSealed := t.lastSealed + 1 }))) ∧
     (16 ≤ s.unfinished t s.cur.tid → Waits (.seal d) .batch s) ∧
     ∀ e : BitVec 2, e ≠ 3 → Writes (.cseq d e) 4 d (BitVec.ofNat 64 (vget (s.core t.core).chains e.toNat Chain.empty).done) s s) ∧
   (∀ (s : State) (t : Thread) (n : BitVec 12), CanIssue { plain true [] with cls := .noHeddle } s t →
     let u := s.unfinished t s.cur.tid
     ((t.ctx s.cur.acc).got = [] → 16 ≤ n.toNat ∨ u ≤ n.toNat → Retires (.bwait n) 4 s s) ∧
     (∀ lo hi l, (t.ctx s.cur.acc).got = lo :: hi :: l →
       (∀ f, s.batchTrap t s.cur.tid lo.toNat hi.toNat = some f →
         exec (.bwait n) s = .next (if s.trapWaits s.cur then s else
           ((s.metFault s.cur.tid f).updThread s.cur.tid (fun r => r.updCtx s.cur.acc Ctx.unissue)).takeTrap s.cur f.trap)) ∧
       (s.batchTrap t s.cur.tid lo.toNat hi.toNat = none →
         (u ≠ 0 → (s.oldestBatch t s.cur.tid).getD 0 ≤ hi.toNat → Waits (.bwait n) .batch s) ∧
         (u = 0 ∨ hi.toNat < (s.oldestBatch t s.cur.tid).getD 0 → Retires (.bwait n) 4 s s)))) ∧
   (∀ (s : State) (t : Thread) (a b : BitVec 5), CanIssue { plain (decide (b.toNat ≤ 2)) [.sR a] with cls := .noHeddle } s t →
     Drained s t →
     (t.isPick = true → ∃ f m, (s.core t.core).full = some f ∧ s.thread? f = some m ∧ m.dom = t.dom) →
     ∃ x s1, getS a s = .ok (x, s1) ∧ (x.toNat % 128 = 0 →
       let c := vget (s.core t.core).chains b.toNat Chain.empty
       let tail := x.extractLsb' 0 56
       let p := s.priorOf s.cur.tid
       let c1 : Chain := { c with tail := tail, dom := t.dom, tid := s.cur.tid, appends := c.appends ++ [(s.cur.tid, tail)],
                                  prior := c.prior ++ p.1, since := c.since.join p.2 }
       let next : Chain := match c.cursor with
         | none => { c1 with cursor := some tail, parked := false, started := false }
         | some y => { c1 with parked := c.faulted || (c.started && c.running.isEmpty && y == tail) }
       Retires (.chain a b) 4 s (s1.updCore t.core (fun k => { k with chains := vset k.chains b.toNat next })))))

/-- R168, R187, R214, R215, R219, R220, R226, R301, R307: what the engines do by themselves. A unit is issued with what its checks found or stops
its operation, a unit held at a fault first (R307), a landed unit of a copy has moved its bytes, a finished operation gives its completion word, a follow-on command enters the queue, a burst is born as a
pick and a strip is counted at the neighbour. R226: an engine starts the entry at its chain's cursor, completes its oldest entry after that one's
release, and moves to the entry that NEXT names. -/
def Obligations.EngineEvents : Prop :=
  ((∀ (s : State) (core op : Nat) (x : EngineOp) (u : EngUnit), s.op? core op = some x → x.toIssue core = some u →
     x.state = .active → s.unitRoom core x = true → ∀ r v, s.checkUnit core x u = (r, v) →
     (r = none → exec (.engineUnitIssue core op) s = .next (v.updOp core op (fun y =>
       let z : EngineOp := { y with inflight := y.inflight ++ [u], leaves := y.leaves ++ v.unitLeaves core x u }
       if y.held = [] then z.passUnit u else { z with held := y.held.erase u }))) ∧
     (∀ b a, r = some (b, a) → exec (.engineUnitIssue core op) s = .next ((v.updOp core op (fun y =>
       if y.held = [] then { y.passUnit u with held := [u] } else y)).faultOp core op x b a))) ∧
   (∀ (s : State) (core op : Nat) (x : EngineOp) (u : EngUnit) (a b : Word) (o p : Nat), s.MemoryWf → NoSleeper s →
     s.op? core op = some x → x.kind = .copy → x.toLand s.freeCtr = some u → s.priorDone core x = true → 0 < u.len → a.toNat % 128 + u.len ≤ 128 →
     x.srcAt u.row u.off = some a → x.destAt core u.row u.off = .addr b → route core a = .ok (.own o) → route core b = .ok (.own p) →
     ∃ v y, exec (.engineUnitComplete core op) s = .next v ∧ v.op? core op = some y ∧ y.inflight = x.inflight.erase u ∧
       y.count = x.count + u.len ∧ (∀ k, k < u.len → v.mem.get (lsLoc core p + k) = s.mem.get (lsLoc core o + k)) ∧
       ∀ k, k < lsLoc core p ∨ lsLoc core p + u.len ≤ k → v.mem.get k = s.mem.get k) ∧
   (∀ (s : State) (core op : Nat) (x : EngineOp) (t : Thread) (acc : Bool) (r : Nat), s.op? core op = some x → x.chain = false →
     s.opDone core op x = true → s.opReleased core x = true → x.dest = .reg acc r → s.thread? x.tid = some t → t.kind = .full →
     0 < r → r < 24 → (t.ctx acc).pend.getLsbD r = true → NoRecords s →
     ∃ v t1, exec (.engineOperationComplete core op) s = .next v ∧ v.thread? x.tid = some t1 ∧ t1.getReg acc r = x.word ∧
       (t1.ctx acc).pend.getLsbD r = false ∧ v.mem = s.mem) ∧
   (∀ (s : State) (core op : Nat) (x : EngineOp), s.op? core op = some x → x.follow = .pending → x.kind = .mstream ∨ x.landed core = true →
     x.state = .active → (s.core core).array.queue.length < 8 → s.followRuns core x = true →
     ∃ v y, exec (.followOnEntry core op) s = .next v ∧ v.op? core op = some y ∧ y.follow = .entered ∧
       (v.core core).array.queue =
         putCmd { id := s.nextId, cmd := s.followCmd core x, tid := x.tid, follow := some op, at_ := s.tick, rank := 16 }
           (s.core core).array.queue) ∧
   (∀ (s : State) (core tid slot : Nat) (b : Burst) (rest : List Burst) (x : EngineOp) (u : State),
     (s.core core).returned = b :: rest → s.op? core b.op = some x → freeSlot (s.core core) = some slot → s.opRuns core x.tid = true →
     s.takeBobbin x.dom (coreDie core) false x.image = some (tid, u) → NoRecords s →
     ∃ v t, exec (.weftBurstBirth core) s = .next v ∧ v.thread? tid = some t ∧ t.kind = .pick ∧ t.core = core ∧ t.slot = slot ∧
       t.dom = x.dom ∧ t.exe.pc = (x.w 1).extractLsb' 0 56 ∧ (∀ k, k < 8 → t.exe.reg k = b.data.extractLsb' (64 * k) 64) ∧
       t.bcoord = BitVec.ofNat 48 (65536 * b.item + b.burst) ∧ t.bflow = (x.w 3).extractLsb' 16 16 ∧
       t.bcount = BitVec.ofNat 32 (x.rowCount * x.rowLen 0) ∧ (v.core core).returned = rest ∧ v.mem = s.mem) ∧
   (∀ (s : State) (core : Nat) (dir : BitVec 2) (p : Strip) (rest : List Strip), NoRecords s → alGetD s.strips (4 * core + dir.toNat) [] = p :: rest →
     (∀ x, s.op? p.src p.op = some x → x.ord.rel = true → x.landed p.src = true ∧ s.opReleased p.src x = true) →
     ∃ v, exec (.stripArrival core dir) s = .next v ∧ v.mem = s.mem ∧
       (∀ e, e < 4 → vget (v.core core).mb e 0 = vget (s.core core).mb e 0 + (if e = dir.toNat then 1 else 0)))) ∧
  (∀ (s : State) (core : Nat) (eng : BitVec 2) (a : VAddr), eng ≠ 3 →
     let e := eng.toNat
     let c := s.chain core e
     c.cursor = some a →
     (∀ bs v, c.started = false → s.chainSteps core e c = true → s.chainRoom core e = true → a.toNat % 128 = 0 →
       s.readPart (chainRef core e c 0) (a.setWidth 64) 128 = .done bs v → firstBad (entryBad e (wordAt bs)) = none →
       let w := v.dropUnit (chainRef core e c 0)
       let x := chainOp w core e c (wordAt bs)
       (e = 1 → w.followBad core (wordAt bs 0) = none) → (e ≠ 1 → w.recordCheck core x.kind x.record = none) →
       ∃ u y, exec (.chainEntryStart core eng) s = .next u ∧
         (u.chain core e).running = c.running ++ [{ op := v.nextId, addr := a, cword := wordAt bs 9 }] ∧
         (u.chain core e).started = true ∧ u.op? core v.nextId = some y ∧ y.chain = true ∧
         y.kind = entryKind e (field (wordAt bs 10) 1 0) ∧ ∀ k, k < 8 → y.w k = wordAt bs k) ∧
     (∀ r rest x, c.running = r :: rest → r.cword = 0 → s.op? core r.op = some x → x.state = .active → x.rows ≠ 1 → x.rows ≠ 2 →
       s.opRuns core c.tid = true → s.opDone core r.op x = true → s.opReleased core x = true → NoRecords s →
       ∃ u, exec (.chainEntryComplete core eng) s = .next u ∧ (u.chain core e).done = c.done + 1 ∧
         (let left := rest.filter (fun q => q.op != r.op)
          (u.chain core e).running = left ∧ (u.chain core e).parked = (left.isEmpty && c.started && a == c.tail)) ∧ u.mem = s.mem) ∧
     (∀ bs v, c.started = true → c.cursor ≠ some c.tail → s.chainSteps core e c = true →
       s.readPart (chainRef core e c 2) (leaAdd (a.setWidth 64) 64) 8 = .done bs v →
       (wordAt bs 0 = 0 → exec (.chainNextPoll core eng) s = .next (v.dropUnit (chainRef core e c 2))) ∧
       (wordAt bs 0 ≠ 0 → ∃ u, exec (.chainNextPoll core eng) s = .next u ∧
         (u.chain core e).cursor = some ((wordAt bs 0).extractLsb' 0 56) ∧ (u.chain core e).started = false)))

/-- R227 to R229: `launch` reads its record, checks the kernel descriptor and the completion word's address, and holds the gang's
bobbins; `spawn` bears a pick at its handler with the issuer's r8 to r13; `suspend` and `yield` write the thread back to go on at the
next instruction; `exit` ends the thread. -/
def Obligations.WorkInstructions : Prop :=
  (∀ (s : State) (th : Thread) (t a b : BitVec 5), CanIssue (workNeed [.sR a, .sR b, .tok t]) s th → Drained s th →
    ∃ x s1 y s2 s3 dest v, getS a s = .ok (x, s1) ∧ getS b s1 = .ok (y, s2) ∧ release 4 s2 = .ok ((), s3) ∧
      laterT t s3 = .ok (dest, v) ∧
      let bytes := s.mem.bytes (lsLoc th.core x.toNat) 64
      let r := (Vector.range 8).map (wordAt bytes)
      let q := launchReq r th y
      ∀ k u, x.toNat % 64 = 0 → windowOk (s.core th.core) x.toNat 64 false false = true → y.toNat % 8 = 0 → field y 59 56 = 0 →
        rectReserved (vget r 1 0) = false → q.onDie = true → s3.readKdesc (coreDie th.core) th.dom (vget r 0 0) = .ok k →
        (y = 0 ∨ ∃ w, s3.sysStore (coreDie th.core) Clock.zero th.dom y (leBytes 8 0) = .ok w) →
        v.acceptGang { q with token := some (s.cur.tid, dest), stamp := (v.die (coreDie th.core)).vc } k = some u → Retires (.launch t a b) 4 s u) ∧
  (∀ (s : State) (th : Thread) (t a : BitVec 5), CanIssue (workNeed [.sR a, .tok t]) s th → Drained s th →
    ∃ x s1 s2 dest v, getS a s = .ok (x, s1) ∧ release 4 s1 = .ok ((), s2) ∧ laterT t s2 = .ok (dest, v) ∧
      (GoodTarget x → (∀ i, i < 6 → (th.ctx s.cur.acc).pend.getLsbD (8 + i) = false) →
        let p : PendingBirth := { tid := s.cur.tid, core := th.core, dom := th.dom, image := th.image, entry := x.extractLsb' 0 56,
                                  regs := (Vector.range 6).map (fun i => th.getReg false (8 + i)), dest := dest }
        (v.takeBobbin th.dom (coreDie th.core) false th.image = none →
          Retires (.spawn t a) 4 s { v with births := alSet v.births v.nextId p, nextId := v.nextId + 1 }) ∧
        (∀ tid w, v.takeBobbin th.dom (coreDie th.core) false th.image = some (tid, w) →
          ∃ u k, Retires (.spawn t a) 4 s u ∧ (tid ≠ s.cur.tid → u.thread? tid = some k ∧ k.kind = .pick ∧ k.dom = th.dom ∧
            k.image = th.image ∧ k.exe.pc = x.extractLsb' 0 56 ∧ (∀ i, i < 6 → k.exe.reg (8 + i) = th.getReg false (8 + i)) ∧
            k.status = if (freeSlot (w.core th.core)).isSome then .running else .runnable)))) ∧
  (∀ (s : State) (t : Thread) (i : Instr) (k : Option WaitKey), Drained s t → (t.isPick = true → s.engineBusy s.cur.tid = false) →
    (t.isPick = false → (s.core t.core).portsDue = false ∧ (t.ctx (!s.cur.acc)).accessing = false) →
    (i = .yield ∧ k = none ∧ CanIssue (workNeed []) s t ∨
      ∃ a, i = .suspend a ∧ isReg a ∧ CanIssue (workNeed [.sR a]) s t ∧ waitKeyOf (t.getReg s.cur.acc a.toNat) = some k) →
    ∃ u r, exec i s = .next u ∧ u.thread? s.cur.tid = some r ∧ r.exe.pc = t.exe.pc + 4 ∧ (NoRecords s → u.mem = s.mem) ∧
      (k = none → r.status = .runnable) ∧ (∀ a, k = some (.address a) → r.status = .waiting (.address a)) ∧
      (∀ x, k = some x → r.status = .waiting x ∨ r.status = .runnable) ∧
      (t.isPick = true → ∀ j, j < 24 → r.exe.reg j = if 8 ≤ j ∧ j ≤ 13 then t.exe.reg j else 0) ∧
      (t.kind = .full → ∀ j, r.exe.reg j = t.exe.reg j ∧ r.acc.reg j = t.acc.reg j)) ∧
  (∀ (s : State) (t : Thread), CanIssue (workNeed []) s t → Drained s t → s.exitBusy s.cur.tid t = false → t.engFaults = [] →
    (t.kind = .full → t.acc.running = true → t.acc.midway = false) →
    ∃ u, release 4 s = .ok ((), u) ∧ exec .exit s = .next ((u.endThread s.cur.tid false).advance 4 .stay))

/-- R129, R230 to R232: a member that arrives at `grp.form` last forms the group and gets its index, an earlier one waits with the place of
its index reserved; `grp.join`
reunites the gathered members, `grp.leave` detaches a follower, and a forwarded word runs at its follower. -/
def Obligations.VectorGroups : Prop :=
  (∀ (s : State) (t : Thread) (d a : BitVec 5), CanIssue (grpNeed [.sR a, .sW d]) s t → ∀ k f, s.formingOf s.cur.tid = some (k, f) →
    f.failed = false →
    (f.formed = none → Waits (.grpForm d a) .group s) ∧
    (∀ gid g, f.formed = some gid → alGet s.groups gid = some g → alGet f.dests s.cur.tid = none →
      ∃ x s1, getS a s = .ok (x, s1) ∧
        Writes (.grpForm d a) 4 d (BitVec.ofNat 64 ((g.members.map (fun m => m.1)).idxOf s.cur.tid)) s (s1.leaveForming k s.cur.tid))) ∧
  (∀ (s s1 : State) (t : Thread) (d a : BitVec 5) (x : Word) (k gid : Nat) (f : Forming) (g : VGroup) (to_ : Dest),
    s.thread? s.cur.tid = some t → (t.ctx s.cur.acc).midway = true → getS a s = .ok (x, s1) → s.formingOf s.cur.tid = some (k, f) →
    f.failed = false → f.formed = some gid → alGet s.groups gid = some g → alGet f.dests s.cur.tid = some to_ →
    Retires (.grpForm d a) 4 s ((s1.leaveForming k s.cur.tid).arriveAt s.cur.tid to_
      (BitVec.ofNat 64 ((g.members.map (fun m => m.1)).idxOf s.cur.tid)))) ∧
  (∀ (s : State) (t : Thread) (d a : BitVec 5), CanIssue (grpNeed [.sR a, .sW d]) s t → s.formingOf s.cur.tid = none →
    ∃ x s1, getS a s = .ok (x, s1) ∧ ∀ gid g ms, t.gang = some gid → alGet s.gangs gid = some g → (s.groupRegs t).gsize ≠ 0 →
      g.part x = some ms → s.cur.tid ∈ ms → s.groupOf s.cur.tid = none → s.forming = [] → ms.Nodup →
      (ms ≠ [s.cur.tid] → (t.ctx s.cur.acc).midway = false → exec (.grpForm d a) s =
        .next (((((s.arriveForm gid s.cur.tid x ms).holdForm s.cur d x).noteHeld [.sR a, .sW d]).setWait s.cur .group).deadlock s.cur)) ∧
      (ms = [s.cur.tid] → ∃ u v, s1.arriveForm gid s.cur.tid x ms = u ∧ setS d 0 (u.leaveForming s.nextId s.cur.tid) = .ok ((), v) ∧
        alGet v.groups s.nextId = some { gang := gid, members := [(s.cur.tid, true, false)], words := [], armed := [], joining := [] } ∧
        Retires (.grpForm d a) 4 s v)) ∧
  (∀ (s : State) (t : Thread), CanIssue (grpNeed []) s t →
    (s.groupOf s.cur.tid = none → Retires .grpJoin 4 s s) ∧
    (∀ gid g, s.groupOf s.cur.tid = some (gid, g) →
      (g.leader = s.cur.tid → g.gathered t.exe.pc = true → Retires .grpJoin 4 s { s with groups := alSet s.groups gid g.reunite }) ∧
      (g.leader = s.cur.tid → g.gathered t.exe.pc = false → Waits .grpJoin .group s) ∧
      (g.leader ≠ s.cur.tid → s.attached s.cur.tid = true → Retires .grpJoin 4 s s)) ∧
    Retires .grpLeave 4 s (s.detach s.cur.tid true)) ∧
  (∀ (s : State) (tid gid : Nat) (t : Thread) (g : VGroup) (w : FwdWord) (rest : List FwdWord),
    s.thread? tid = some t → s.groupOf tid = some (gid, g) → alGetD g.words tid [] = w :: rest → s.attached tid = true →
    g.armed.contains tid = false → s.formingOf tid = none →
    ∃ u r, exec (.forwardedWord tid) s = .next u ∧ u.cur = { tid := tid, acc := false } ∧ u.thread? tid = some r ∧ r.exe.pc = w.pc ∧
      u.mem = s.mem ∧ alGet u.groups gid = some { g with armed := tid :: g.armed })

/-- R233 to R235: `seq.open` gives a reference to a fresh key of the thread's domain, or 0 when no slot or quota is left; `seq.bind`
binds a live key, or unbinds; `seq.close` retires the key, which is not live afterwards; memory keeps its bytes, but for those of lines under
the key that a data cache had written and not written back (R296). -/
def Obligations.SequenceKeys : Prop :=
  (∀ (s : State) (t : Thread) (d : BitVec 5), CanIssue (seqNeed [.sW d]) s t →
    (s.freeKeySlot = none → Writes (.seqOpen d) 4 d 0 s s) ∧
    (∀ i, s.freeKeySlot = some i → (s.effKeyq t.dom).toNat ≤ s.keysOf t.dom → Writes (.seqOpen d) 4 d 0 s s) ∧
    (∀ i, s.freeKeySlot = some i → s.keysOf t.dom < (s.effKeyq t.dom).toNat →
      ∃ u k, u = s.openKey i 2 t.dom ∧ u.key i = k ∧ k.state = .live ∧ k.kind = 2 ∧ k.owner = t.dom ∧
        k.gen = (if (s.key i).used then (s.key i).gen + 1 else (s.key i).gen) ∧
        Writes (.seqOpen d) 4 d (BitVec.ofNat 64 (2 ^ 31 + 4096 * k.gen.toNat + i)) s u)) ∧
  (∀ (s : State) (t : Thread) (a : BitVec 5), CanIssue (seqNeed [.sR a]) s t →
    ∃ x s1, getS a s = .ok (x, s1) ∧
      (bit x 31 = false → Retires (.seqBind a) 4 s (s1.updThread s.cur.tid (fun r => { r with seqkey := 0 }))) ∧
      (bit x 31 = true → s.seqKeyBad t (refKey x) = none →
        Retires (.seqBind a) 4 s (s1.updThread s.cur.tid (fun r => { r with seqkey := x.setWidth 32 }))) ∧
      (bit x 31 = true → s.seqKeyBad t (refKey x) = none → Fresh s t → (s.key (field x 11 0)).exports = [] →
        s.keyBusy (refKey x) = false →
        ∃ u, Retires (.seqClose a) 4 s u ∧ u.keyLive (refKey x) = false ∧
          ((∀ c ∈ s.cores, ∀ l ∈ c.2.dcache, l.2.key = refKey x → l.2.old = none) → u.mem = s.mem) ∧
          (∀ k, u.keyLive k = true → s.keyLive k = true) ∧
          ∃ r, u.thread? s.cur.tid = some r ∧ r.seqkey = if t.seqkey = x.setWidth 32 then 0 else t.seqkey))

/-- R238 to R240, R363, R395: the protocol instructions complete in a handler. `dir.ld`, `dir.st`, `tag.get` and `tag.set` read and write
the block's directory entry, which comes into the heddle's cache, and metadata; an entry that cannot be read in its store is consumed as
poison; `bxfer` moves the block between home memory and the buffer; `reply`, `nack` and `fwd` send
their messages; `hend` ends the handler. -/
def Obligations.ProtocolInstructions : Prop :=
  ∀ (s : State) (t : Thread) (h : HeddleCtx) (a b : BitVec 5), t.heddle = some h → isReg a → isReg b →
    let x := t.getReg s.cur.acc a.toNat
    let y := t.getReg s.cur.acc b.toNat
    let blk := blockNo x.toNat
    let m := s.block blk
    let c := s.cacheDir h.heddle blk
    (∀ d, CanIssue (protoNeed [.sR a, .sW d]) s t → HomeBlock s h x →
      (c.dirCached h.heddle blk = true → Writes (.dirLd d a) 4 d (c.block blk).dir s c) ∧
      (c.dirCached h.heddle blk = false → Traps (.dirLd d a) s { cause := 0x15, addr := x, extra := 0, pc := none }) ∧
      Writes (.tagGet d a) 4 d (BitVec.ofNat 64 (4 * m.colour.toNat + m.access.toNat)) s s) ∧
    (CanIssue (protoNeed [.sR a, .sR b]) s t → HomeBlock s h x →
      (c.dirCached h.heddle blk = true → Retires (.dirSt a b) 4 s (c.updBlock blk (fun q => { q with dir := y }))) ∧
      (field y 7 6 = 0 → field y 63 9 = 0 → Retires (.tagSet a b) 4 s (s.updBlock blk (fun _ =>
        { m with access := y.setWidth 2, colour := if bit y 8 then y.extractLsb' 2 4 else m.colour })))) ∧
    (∀ tk, CanIssue (protoNeed [.sR a, .sR b, .tok tk]) s t → HomeBlock s h x →
      (let h1 : HeddleCtx := { h with buffer := some (s.blockData blk), bufBad := !s.readable blk h.hkey }
       y = 1 → ∃ u, setT tk 0 (s.updThread s.cur.tid (fun r => { r with heddle := some h1 })) = .ok ((), u) ∧
        Retires (.bxfer tk a b) 4 s u) ∧
      (∀ w, y = 0 → h.buffer = some w → h.bufBad = false →
        ∃ u, setT tk 0 (s.homeStore h.hkey x.toNat (leBytes 128 w.toNat)) = .ok ((), u) ∧ Retires (.bxfer tk a b) 4 s u)) ∧
    (CanIssue (protoNeed [.sR a, .sR b]) s t → HomeBlock s h x → bit y 63 = false → (s.node (y.extractLsb' 32 31)).isSome = true →
      (field y 31 6 = 0 → field y 3 2 = 0 → field y 1 0 ≤ 1 → (field y 1 0 = 1 → field y 5 4 = 1 ∨ field y 5 4 = 2) →
        ∃ u r, Retires (.reply a b) 4 s u ∧ alGet u.msgs s.nextId = some r ∧ r.dst = y.extractLsb' 32 31 ∧
          r.src = s.heddleNode h.heddle ∧ r.orig = h.horig ∧ r.type = 4 ∧ r.reply = true ∧ r.pa = x.toNat ∧ r.key = h.hkey ∧
          r.slot = s.replySlot h x.toNat (y.extractLsb' 32 31) ∧ r.kind = y.setWidth 2 ∧ r.grant = y.extractLsb' 4 2 ∧
          r.data = if field y 1 0 = 1 then some (h.buffer.getD (s.blockData blk)) else none) ∧
      (field y 31 5 = 0 → field y 3 0 ∈ [3, 6, 7, 8] → h.fwdSent = false →
        ∃ u r q, Retires (.fwd a b) 4 s u ∧ alGet u.msgs s.nextId = some r ∧ r.dst = y.extractLsb' 32 31 ∧
          r.src = s.heddleNode h.heddle ∧ r.orig = h.horig ∧ r.type = y.setWidth 4 ∧ r.reply = false ∧ r.pa = x.toNat ∧
          r.key = h.hkey ∧ r.slot = h.hslot ∧ r.data = (if bit y 4 then h.buffer else none) ∧
          (∃ w, alGet (u.heddle h.heddle).fwds blk = some w ∧ w.node = y.extractLsb' 32 31 ∧ w.orig = h.horig ∧
            w.slot = s.requestSlot h ∧ w.hslot = h.hslot ∧ w.answered = false ∧ w.nacks = 0) ∧
          u.thread? s.cur.tid = some q ∧ q.heddle = some { h with fwdSent := true })) ∧
    (CanIssue (protoNeed [.sR a]) s t → HomeBlock s h x →
      ∃ u r, Retires (.nack a) 4 s u ∧ alGet u.msgs s.nextId = some r ∧ r.dst = h.hsrc ∧ r.type = 9 ∧ r.reply = true ∧
        r.kind = kNack ∧ r.pa = x.toNat ∧ r.slot = s.replySlot h x.toNat h.hsrc) ∧
    (CanIssue (protoNeed []) s t → exec .hend s = .next ((s.heddleEnd s.cur.tid h).advance 4 .stay))

/-- R237, R354, R360, R362, R366, R394, R395: each message that its die may deliver (R286) reaches its memory heddle, which takes it as a
request, a miss of another die being counted, or as a reply; with a free thread and reply slot, while nothing holds its block, that starts
the handler its draft names; a write-once block's write-back marks it written. R364, R365, R393: a shuttle to which no grant of the block is on
its way answers a home's message with its line where it may be dirty, and changes its copy as the type says; one to which a grant is on its
way puts a RECALL or FWD off (log entry 44). -/
def Obligations.CoherenceRequests : Prop :=
  ((∀ (s v : State) (k h : Nat) (m : CohMsg), s.takeMsg k = some (m, v) → s.node m.dst = some (.heddle h) → h < 64 →
     let w := v.countRequest m
     (m.reply = false →
       (m.type = 0 → exec (.rdmiss k) s = .next (w.homeRequest h m)) ∧ (m.type = 1 → exec (.wrmiss k) s = .next (w.homeRequest h m)) ∧
       (m.type = 2 → exec (.upgrade k) s = .next (w.homeRequest h m)) ∧ (m.type = 3 → exec (.recall k) s = .next (v.homeRequest h m)) ∧
       (m.type = 5 → m.slot ≠ 0 → exec (.wb k) s = .next (w.homeRequest h m)) ∧
       (m.type = 6 → exec (.fwdRequest k) s = .next (v.homeRequest h m)) ∧ (m.type = 7 → exec (.push k) s = .next (v.homeRequest h m)) ∧
       (m.type = 8 → exec (.red k) s = .next (v.homeRequest h m))) ∧
     (m.reply = true → (m.type = 4 → exec (.recallack k) s = .next (v.homeReply h m)) ∧
       (m.type = 9 → exec (.nackReply k) s = .next (v.homeReply h m)))) ∧
   (∀ (s v : State) (k h i slot : Nat) (m : CohMsg) (pc : VAddr), s.takeMsg k = some (m, v) →
     ∀ p ∈ [(Instr.rdmiss k, 0, false), (.wrmiss k, 1, false), (.upgrade k, 2, false), (.recall k, 3, false), (.recallack k, 4, true),
            (.wb k, 5, false), (.fwdRequest k, 6, false), (.push k, 7, false), (.red k, 8, false), (.nackReply k, 9, true)],
       let w := if p.2.1 ∈ [0, 1, 2, 5] then v.countRequest m else v
       CanDispatch w h i slot m pc → m.type = BitVec.ofNat 4 p.2.1 → m.reply = p.2.2 → (p.2.1 = 5 → m.slot ≠ 0) →
       ∃ u, exec p.1 s = .next u ∧ Dispatched w u h i slot m p.2.1 pc) ∧
   (∀ (s v : State) (k : Nat) (m : CohMsg), s.takeMsg k = some (m, v) → m.type = 5 → m.reply = false → m.slot = 0 →
     ∃ u, exec (.wb k) s = .next u ∧ (u.block (blockNo m.pa)).written = true ∧ u.mem = s.mem)) ∧
  (∀ (s v : State) (k c : Nat) (m : CohMsg), s.takeMsg k = some (m, v) → s.node m.dst = some (.core c) → m.reply = false →
     (s.granted c (blockNo m.pa) false = true →
       (m.type = 3 → exec (.recall k) s = .next s) ∧ (m.type = 6 → exec (.fwdRequest k) s = .next s)) ∧
     (s.granted c (blockNo m.pa) false = false ∨ m.type = 7 ∨ m.type = 8 →
     let b := blockNo m.pa
     let line := alGet (s.core c).dcache b
     let dirty : Option (KeyId × Block) := match line with
       | some x => if x.writable ∧ x.void = false then some (x.key, x.data) else none
       | none => (alGet (s.core c).wbuf b).map (fun x => (x.key, x.data))
     (m.type = 3 → ∃ u, exec (.recall k) s = .next u ∧ CoreAnswers s u c m dirty ∧ u.mem = s.mem ∧
       (Rising (s.core c).dcache → alGet (u.core c).dcache b = none)) ∧
     (m.type = 6 → ∃ u, exec (.fwdRequest k) s = .next u ∧ CoreAnswers s u c m dirty ∧ u.mem = s.mem ∧
       (line = none → alGet (u.core c).dcache b = none) ∧
       (∀ x, line = some x → x.void = false → alGet (u.core c).dcache b = some { x with writable := false, old := none })) ∧
     (m.type = 7 → ∃ u, exec (.push k) s = .next u ∧ CoreAnswers s u c m none ∧ u.mem = s.mem ∧
       (∀ x d, line = some x → m.data = some d → m.bad = false → alGet (u.core c).dcache b =
         if x.writable then some x else some { key := m.key, data := d, writable := false }) ∧
       (∀ d, line = none → m.data = some d → m.bad = false → ((s.core c).dcSet b).length < 8 →
         alGet (u.core c).dcache b = some { key := m.key, data := d, writable := false })) ∧
     (m.type = 8 → ∃ u, exec (.red k) s = .next u ∧ CoreAnswers s u c m (alGet (s.core c).partials b) ∧ u.mem = s.mem ∧
       (Rising (s.core c).partials → alGet (u.core c).partials b = none))))

/-- R362, R364, R368: a reply at the shuttle whose slot it names. DATA installs the block, under a standard draft with what its home holds, and
performs the access, ACK with a grant performs it on the copy, and one to an access of the reduction draft gives its old value; ACK without a
grant and POISON raise 0x11 and 0x31 at the waiting access, or are noted at its lane (R161), and NACK retries after 32 × 2^min(k, 5) cycles.
-/
def Obligations.CoherenceReplies : Prop :=
  (∀ (s v : State) (k c j : Nat) (m : CohMsg) (o : OutReq), s.takeMsg k = some (m, v) → m.reply = true →
    s.node m.dst = some (.core c) → v.slotReq c m.slot = some (j, o) → o.isWb = false →
    (o.kind = .active → m.type = 4 → m.kind = kAck → exec (.ackReply k) s = .next (v.finishOut j o m.opnd)) ∧
    (o.kind = .coherence →
    let b := blockNo o.loc
    (∀ d, m.type = 4 → m.kind = kData → m.data = some d → s.stdDraft (s.draftAt o.loc) = true → s.draftAt o.loc ≠ 6 →
      s.readable b o.key = true → s.keyLive o.key = true → o.size ≠ 0 → o.acckind = .load → ((s.core c).dcSet b).length < 8 →
      ∃ u, exec (.dataReply k) s = .next u ∧ u.mem = s.mem ∧
        (∃ y, alGet (u.core c).dcache b = some y ∧ y.key = o.key ∧ y.data = s.blockData b ∧ y.writable = (m.grant == 2)) ∧
        ∀ t, o.waits = true → s.thread? o.tid = some t → (t.ctx o.acc).phase = .sent →
          ∃ q, u.thread? o.tid = some q ∧ (o.lane = none → (q.ctx o.acc).got = (t.ctx o.acc).got ++
            [extend o.signed o.size (s.mem.num o.loc o.size)])) ∧
    (∀ d, m.type = 4 → m.kind = kData → m.data = some d → m.bad = false → m.key = o.key → s.stdDraft (s.draftAt o.loc) = false →
      s.isComm (s.draftAt o.loc) = false → s.keyLive o.key = true → o.size ≠ 0 → ((s.core c).dcSet b).length < 8 →
      let r := blockOp d (o.loc % 128) o.op
      ∃ u, exec (.dataReply k) s = .next u ∧
        alGet (u.core c).dcache b = some { key := o.key, data := r.2.getD d, writable := m.grant == 2 } ∧
        ∀ t, o.waits = true → s.thread? o.tid = some t → (t.ctx o.acc).phase = .sent →
          ∃ q, u.thread? o.tid = some q ∧ (o.lane = none → (q.ctx o.acc).got = (t.ctx o.acc).got ++ [r.1]) ∧
            ∀ i, o.lane = some i → (q.ctx o.acc).lanes = alSet (t.ctx o.acc).lanes i r.1) ∧
    (∀ x, m.type = 4 → m.kind = kAck → m.grant ≠ 0 → s.keyLive o.key = true → s.stdDraft (s.draftAt o.loc) = false →
      s.isComm (s.draftAt o.loc) = false → alGet (s.core c).dcache b = some x → x.key = o.key → o.size ≠ 0 →
      let r := blockOp x.data (o.loc % 128) o.op
      ∃ u, exec (.ackReply k) s = .next u ∧
        alGet (u.core c).dcache b = some { x with data := r.2.getD x.data, writable := bit m.grant 1 }) ∧
    (∀ t, o.waits = true → s.thread? o.tid = some t → (t.ctx o.acc).phase = .sent →
      let failed (q : Thread) (x : Cause) : Prop :=
        (o.lane = none → (q.ctx o.acc).phase = .failed x o.ea 0) ∧
        (∀ i, o.lane = some i → (t.ctx o.acc).refused = none → o.acckind ≠ .store → (q.ctx o.acc).refused = some (i, x, o.ea))
      (m.type = 4 → m.kind = kAck → m.grant = 0 → s.keyLive o.key = true → ∃ u q, exec (.ackReply k) s = .next u ∧
        u.thread? o.tid = some q ∧ failed q 0x11) ∧
      (m.type = 4 → m.kind = kPoison → ∃ u q, exec (.poisonReply k) s = .next u ∧ u.thread? o.tid = some q ∧ failed q 0x31)) ∧
    (m.type = 9 → m.kind = kNack → ∃ u q, exec (.nackReply k) s = .next u ∧ alGet u.outs j = some q ∧ q.nacks = o.nacks + 1 ∧
      q.retryAt = some (s.tick + 32 * 2 ^ min (o.nacks + 1) 5)))) ∧
  (∀ (s v : State) (j n ty : Nat) (o : OutReq) (e : TlbEntry) (l : Leaf), alGet s.outs j = some o → o.retryAt = some n → n ≤ s.tick →
    o.kind = .coherence → o.isWb = false →
    s.checkGlobal o.core o.dom o.ea 1 false (o.acckind != .load) = (.ok (e, l), v) → l.loc = 0 → v.stdDraft (v.draftAt l.pa) = false →
    v.needType o.core (blockNo l.pa) l.key (o.acckind != .load) (v.isComm (v.draftAt l.pa))
      (o.op.contributes (v.commOf l.pa).1 (v.commOf l.pa).2) = some ty →
    ∃ u m q, exec (.nackRetry j) s = .next u ∧ alGet u.msgs v.nextId = some m ∧ m.type = BitVec.ofNat 4 ty ∧
      m.dst = v.heddleNode (v.homeHeddle l.pa) ∧ m.src = v.coreNode o.core ∧ m.slot = BitVec.ofNat 7 o.slot ∧ m.key = l.key ∧
      m.prio = decide (16 ≤ o.nacks) ∧ alGet u.outs j = some q ∧ q.retryAt = none)

/-- R285, R286: the deliveries between dies keep causal order: an update is applied after every event it depends on, a beat after the
updates before it; a write is performed at its home, which sends its acknowledgement back over the bridge, and a read reply gives its
value. R193, R194, R196, R202, R290,
R385: an active message is performed where it arrives and its issuer answered, once the two dies have
seen what it comes after; a home, host or peer load gives its bytes; a refused peer
store becomes a deferred fault; an access from a peer device is refused, or performed and answered. -/
def Obligations.DeliveriesAndAnswers : Prop :=
  (∀ (s : State) (src dst : BitVec 2), src ≠ dst →
     let e := src.toNat
     let f := dst.toNat
     let buf := (s.land e f).buffer e f
     (∀ stamp b data, frontMsg buf = some (.update stamp b data) →
       stamp.at e = (s.die f).vc.at e + 1 → (∀ k, k < 4 → k ≠ e → stamp.at k ≤ (s.die f).vc.at k) →
       ∃ u, exec (.causalUpdate src dst) s = .next u ∧ vget (u.die f).vc e 0 = vget stamp e 0 ∧
         (∀ k, k < 4 → k ≠ e → vget (u.die f).vc k 0 = vget (s.die f).vc k 0) ∧ u.buffer e f = dropFront buf ∧ u.mem = s.mem ∧
         (∀ old x, alGet (s.die f).copies b = some old → data = some x → alGet (u.die f).copies b = some x)) ∧
     (∀ n, buf.find? BridgeMsg.isBeat = some (.beat n) → updateBefore e n.toNat buf = false →
       ∃ u, exec (.causalBeat src dst) s = .next u ∧ (u.die f).vc.at e = max ((s.die f).vc.at e) n.toNat ∧ u.mem = s.mem) ∧
     (∀ stamp tid id key pa bs miss, s.MemoryWf → NoSleeper s → frontMsg buf = some (.write stamp tid id key pa bs miss) → tid ≠ 0 →
       (∀ k, k < 4 → k ≠ f → stamp.at k ≤ (s.die f).vc.at k) → let w := s.countIf e pa miss
       w.writable key pa bs.length = true → paDie pa = f →
       ∃ u, exec (.writeRequestDelivery src dst) s = .next u ∧ vget (u.die f).vc f 0 = vget (s.die f).vc f 0 + 1 ∧
         (∀ k, k < bs.length → u.mem.get (pa + k) = bs.getD k 0) ∧
         (∀ k, k < pa ∨ pa + bs.length ≤ k → u.mem.get k = w.mem.get k) ∧
         (u.bridge f e).getLast? = some (.ack tid id (vget (s.die f).vc f 0 + 1))) ∧
     (∀ tid id n, frontMsg buf = some (.ack tid id n) →
       ∃ u, exec (.readReplyDelivery src dst) s = .next u ∧ u.mem = s.mem ∧
         ∀ t w, s.thread? tid = some t → w ∈ t.writes → w.id = id → ∃ r, u.thread? tid = some r ∧
           ({ w with acked := some n } : RemoteWrite) ∈ r.writes) ∧
     (∀ stamp id w copy o, frontMsg buf = some (.reply stamp id w copy) →
       (∀ k, k < 4 → k ≠ f → stamp.at k ≤ (s.die f).vc.at k) → alGet s.outs id = some o →
       ∃ u, exec (.readReplyDelivery src dst) s = .next u ∧ (NoRecords s → u.mem = s.mem) ∧
         (∀ b x, copy = some (b, x) → alGet (u.die f).copies b = some x) ∧
         (∀ t, o.waits = true → o.lane = none → s.thread? o.tid = some t → (t.ctx o.acc).phase = .sent →
           ∃ q, u.thread? o.tid = some q ∧ (q.ctx o.acc).got = (t.ctx o.acc).got ++ [w]) ∧
         (∀ t acc r, o.waits = false → o.dest = .reg acc r → s.thread? o.tid = some t → t.kind = .full → 0 < r → r < 24 →
           (t.ctx acc).pend.getLsbD r = true →
           ∃ q, u.thread? o.tid = some q ∧ q.getReg acc r = w ∧ (q.ctx acc).pend.getLsbD r = false)) ∧
     (let n := vget (s.die e).vc e 0
      (s.die e).announced ≠ n →
       ∃ u, exec (.announceTimer src) s = .next u ∧ (u.die e).announced = n ∧ u.bridge e f = s.bridge e f ++ [.beat n] ∧ u.mem = s.mem)) ∧
  ((∀ (s : State) (core : Nat) (m : ActiveMsg) (rest : List ActiveMsg), (s.core core).remote = m :: rest →
     let r := s.updCore core (fun k => { k with remote := rest })
     let v := if m.src = m.place then r else r.takeFront m.src m.place
     (s.activeReady m = false → exec (.activeMessageArrival core) s = .next s) ∧
     (s.activeReady m = true → ∀ o, alGet s.outs m.id = some o →
       (∀ w u, v.activeOp m = .ok (w, u) → exec (.activeMessageArrival core) s =
         .next (if m.loc < 2 ^ 52 then (u.noteWrite o m.place).answerActive o w else u.finishOut m.id o w)) ∧
       (∀ c, v.activeOp m = .error c → 2 ^ 52 ≤ m.loc ∨ m.kind ≠ .load ∧ m.checked = false →
         exec (.activeMessageArrival core) s = .next (v.failOut m.id o c 0)))) ∧
   (∀ (s : State) (k : Nat) (o : OutReq) (w : Word) (t : Thread) (acc : Bool) (r : Nat), alGet s.outs k = some o → o.unit = none →
     o.acckind = .load → o.waits = false → o.dest = .reg acc r → s.thread? o.tid = some t →
     t.kind = .full → 0 < r → r < 24 → (t.ctx acc).pend.getLsbD r = true →
     ((o.kind = .host ∧ w.toNat % 2 ^ (8 * o.size) = s.mem.num o.loc o.size ∧
         s.mgmt.fclk.leBut (s.die (coreDie o.core)).vc [] = true ∨ o.kind = .peer ∧ o.device ∈ s.mgmt.admitted) →
       ∃ u q, exec (.memoryResponse k (.ok w)) s = .next u ∧ u.thread? o.tid = some q ∧
         q.getReg acc r = extend o.signed o.size (w.toNat % 2 ^ (8 * o.size)) ∧ (q.ctx acc).pend.getLsbD r = false) ∧
     (∀ x y, o.kind = .home → s.homeOp o.key o.loc o.op = some (x, y) →
       ∃ u q, exec (.memoryResponse k (.ok w)) s = .next u ∧ u.thread? o.tid = some q ∧ q.getReg acc r = x ∧
         (q.ctx acc).pend.getLsbD r = false)) ∧
   (∀ (s : State) (k : Nat) (o : OutReq) (c : Cause) (t : Thread), alGet s.outs k = some o → o.kind = .peer → o.acckind = .store →
     o.unit = none → o.gone = none → o.device ∈ s.mgmt.admitted → s.thread? o.tid = some t →
     ∃ u q, exec (.peerStoreRefusal k c) s = .next u ∧ u.thread? o.tid = some q ∧
       ({ cause := c, addr := o.ea, req := k } : StoreFault) ∈ q.storeFaults ∧ u.mem = s.mem) ∧
   (∀ (s : State) (p : PeerAccess), p.port.toNat < 24 →
     (p.device ∉ s.mgmt.admitted → ∃ u, exec (.peerAccessArrival p) s = .next u ∧ u.mem = s.mem ∧ u.mgmt.out = s.mgmt.out ∧
       (vget u.mgmt.ports p.port.toNat FabricPort.init).refused = satInc (vget s.mgmt.ports p.port.toNat FabricPort.init).refused) ∧
     (p.device ∈ s.mgmt.admitted → ∀ b, s.peerLeaf (p.port.toNat / 6) p = .error b →
       ∃ u, exec (.peerAccessArrival p) s = .next u ∧ (b.cause ≠ 0x15 → u.mem = s.mem) ∧
         u.mgmt.out.getLast? = some (.peerReply p.device p.tag b.cause 0)) ∧
     (p.device ∈ s.mgmt.admitted → ∀ l op, s.peerLeaf (p.port.toNat / 6) p = .ok l → l.loc = 1 → p.kind = .atomic op →
       op ∉ [.add, .swap, .cas] ∨ s.mgmt.atomicReq = false →
       ∃ u, exec (.peerAccessArrival p) s = .next u ∧ u.mem = s.mem ∧ u.mgmt.out = s.mgmt.out ++ [.peerReply p.device p.tag 0x17 0]) ∧
     (p.device ∈ s.mgmt.admitted → ∀ l, s.peerLeaf (p.port.toNat / 6) p = .ok l → l.loc = 0 → s.shut l.pa = false →
       p.kind = .load → s.draftAt l.pa < 4 → s.stdDraft (s.draftAt l.pa) = true → s.readable (blockNo l.pa) l.key = true →
       ∃ u, exec (.peerAccessArrival p) s = .next u ∧ u.mem = s.mem ∧ u.mgmt.out = s.mgmt.out ++
         [.peerReply p.device p.tag 0 (BitVec.ofNat 64 (s.mem.num l.pa p.size.toNat))])))

/-- R254, R258, R268, R340, R413: a launch whose rectangle is free starts its members; a free slot claims a runnable pick, a shuttle
the full thread it holds; a kept bobbin is queued again 1 µs later if there is room; a waiting spawn is born; a migrated pick starts in a free
slot of its new die, on the shuttle nearest the heddle of its page, once that die has seen what its old one had. -/
def Obligations.StartEvents : Prop :=
  (∀ (s : State) (gid m c : Nat) (g : Gang) (t : Thread), alGet s.gangs gid = some g → g.released = false → g.single = false →
    s.rectangleFree g = true → s.firstInLine gid g = true → g.members = [m] → g.cores = [c] → s.thread? m = some t → g.token = none →
    ∃ u r, exec (.gangRelease gid) s = .next u ∧ u.thread? m = some r ∧ r.status = .running ∧ r.core = c ∧
      (∀ i, i < 6 → r.exe.reg (1 + i) = vget g.args i 0) ∧ (u.core c).full = some m ∧ (u.core c).grp.rank = 0 ∧
      (u.core c).grp.gsize = 1 ∧ (u.core c).tvec = g.tvec.setWidth 64 ∧ (u.core c).array = ArrayState.launch ∧
      alGet u.gangs gid = some { g with released := true, barriers := [] }) ∧
  (∀ (s : State) (core slot tid d : Nat) (t : Thread) (e : RunEntry), slot < 7 → (s.core core).preempt = none →
    vget (s.core core).slots slot none = none → s.thread? tid = some t → t.kind ≠ .full →
    (s.heldBobbin core false = some (tid, t) ∨
      s.heldBobbin core false = none ∧ s.bestEntry core false = some (d, e) ∧ e.tid = tid) →
    ∃ u r, exec (.bobbinClaim core slot) s = .next u ∧ u.thread? tid = some r ∧ r.status = .running ∧ r.core = core ∧ r.slot = slot ∧
      vget (u.core core).slots slot none = some tid ∧ (NoRecords s → r.exe = t.exe ∧ u.mem = s.mem) ∧
      (s.heldBobbin core false = some (tid, t) → r.exe = (s.recallBobbin (coreDie core) tid t).exe)) ∧
  (∀ (s : State) (core tid : Nat) (t : Thread), (s.core core).preempt = none → s.thread? tid = some t → t.kind = .full →
    s.heldBobbin core true = some (tid, t) → (s.core core).full = some tid → (∀ f ∈ t.engFaults, f.onResume = false) →
    ∃ u r, exec (.bobbinClaim core 7) s = .next u ∧ u.thread? tid = some r ∧ r.status = .running ∧ r.exe = t.exe ∧ r.acc = t.acc ∧
      r.heldTo = none) ∧
  (∀ (s : State) (tid d : Nat) (e : RunEntry),
    s.doms.findSome? (fun d => (d.2.unqueued.find? (fun e => e.tid == tid)).map (fun e => (d.1, e))) = some (d, e) →
    let id := BitVec.ofNat 20 d
    (s.tick < e.since + usCycles → exec (.runQueueRetry tid) s = .next s) ∧
    (e.since + usCycles ≤ s.tick → s.runqFull id e.die.toNat e.prio = false →
      ∃ u, exec (.runQueueRetry tid) s = .next u ∧ (u.dom id).runq = (s.dom id).runq ++ [{ e with since := s.us }] ∧
        (u.dom id).unqueued = (s.dom id).unqueued.erase e)) ∧
  (∀ (s w : State) (k tid slot : Nat) (p : PendingBirth), alGet s.births k = some p →
    s.takeBobbin p.dom (coreDie p.core) false p.image = some (tid, w) → freeSlot (s.core p.core) = some slot → tid ≠ p.tid →
    ∃ u r, exec (.pendingBirth k) s = .next u ∧ u.thread? tid = some r ∧ r.kind = .pick ∧ r.status = .running ∧ r.core = p.core ∧
      r.slot = slot ∧ r.dom = p.dom ∧ r.exe.pc = p.entry ∧ (∀ i, i < 6 → r.exe.reg (8 + i) = vget p.regs i 0) ∧
      (NoRecords s → u.mem = s.mem)) ∧
  (∀ (s : State) (core slot : Nat) (r : MigRec) (rest : List MigRec) (t : Thread), slot ≤ 6 → (s.core core).preempt = none →
    vget (s.core core).slots slot none = none → (s.die (coreDie core)).migbuf = r :: rest → coreDie core < 4 →
    s.thread? r.tid = some t → s.slotTakes core t.dom = true → t.clock.leBut (s.die (coreDie core)).vc [] = true →
    (∀ i, i < 1152 → let c := coreDie core * 1152 + i
      c = core ∨ distance r.heddle core ≤ distance r.heddle c ∨ s.slotFree c t.dom = false) →
    ∃ u q, exec (.migrationRecordStart core slot) s = .next u ∧ u.thread? r.tid = some q ∧ q.status = .running ∧ q.core = core ∧
      q.slot = slot ∧ q.exe = { t.exe with atTarget := true } ∧ vget (u.core core).slots slot none = some r.tid ∧
      (u.die (coreDie core)).migbuf = rest)

/-- R63, R229, R236, R257, R262, R343, R376, R378, R389: pre-emption saves a full thread at a boundary, holds its gate closed while picks
run, and reports when none is left; an interrupt in supervisor mode is held until the mode ends, and a shuttle with no ground for one gets
none; an event enters supervisor mode; a timed or spurious wake makes a waiting bobbin runnable; `wfm`
ends by time; an expired slice reserves the shuttle, whose claim window ends; the fetch unit requests a line that is ahead on the path of a
stream, and no other. -/
def Obligations.PreemptionAndWakeEvents : Prop :=
  (∀ (s : State) (core tid : Nat) (t : Thread), (s.core core).preempt = none → (s.core core).full = some tid → s.thread? tid = some t →
    t.core = core → s.firmware = true → s.mayInterrupt core = true → (s.stopShuttle core).canSave core tid t = true →
    (s.core core).gate = .open →
    ∃ u r, exec (.meshInterrupt core) s = .next u ∧ u.thread? tid = some r ∧ r.leaving = true ∧ r.exe.pc = t.exe.pc ∧
      r.status = (if t.status = .running then .runnable else t.status) ∧ (∀ j, r.exe.reg j = t.exe.reg j) ∧
      (∃ v, r.saved = some v ∧ v.array = (s.core core).array ∧ v.pwb = (s.core core).pwb ∧ v.pwl = (s.core core).pwl) ∧
      (u.core core).full = none ∧ (NoRecords s → u.mem = s.mem) ∧
      ((s.core core).hasPicks = true → (u.core core).preempt = some s.tick ∧ (u.core core).gate = .closed) ∧
      ((s.core core).hasPicks = false → (s.die (coreDie core)).heldPosts = [] →
        (u.core core).preempt = none ∧ (u.core core).gate = .open)) ∧
  (∀ (s : State) (core : Nat), (s.core core).preempt = none → s.firmware = true →
    (s.mayInterrupt core = false → exec (.meshInterrupt core) s = .next s) ∧
    (s.mayInterrupt core = true → s.supervising core = true →
      exec (.meshInterrupt core) s = .next (s.updCore core (fun k => { k with intr := true })))) ∧
  (∀ (s : State) (core : Nat), (s.core core).preempt = none → (s.core core).intr = true → s.supervising core = false →
    exec (.pickPreemptDeadline core) s = .next (s.interrupt core)) ∧
  (∀ (s : State) (core n : Nat), (s.core core).preempt = some n →
    ((s.saveStopped core).core core).hasPicks = true → s.tick < n + 2048 →
      exec (.pickPreemptDeadline core) s = .next (s.saveStopped core)) ∧
  (∀ (s : State) (core n : Nat), (s.core core).preempt = some n → (s.core core).full = none →
    ((s.core core).hasPicks = true → s.tick < n + 2048 → exec (.pickPreemptDeadline core) s = .next s) ∧
    ((s.core core).hasPicks = false → (s.core core).last = none → (s.core core).gate = .closed →
      ∃ u, exec (.pickPreemptDeadline core) s = .next u ∧ (u.core core).preempt = none ∧ (u.core core).gate = .open)) ∧
  (∀ (s : State) (core tid : Nat) (t : Thread) (m : ChanMsg), (s.core core).full = some tid → s.thread? tid = some t →
    s.eventWaiting core t.dom = some m → (s.core core).tvec ≠ 0 → t.mode = 0 → t.status = .running → (s.core core).preempt = none →
    t.exe.atBoundary = true → t.exe.arrived = false →
    let w (i : Nat) : Word := m.data.extractLsb' (64 * i) 64
    ∃ u r, exec (.eventEntry core) s = .next u ∧ u.thread? tid = some r ∧ r.mode = 1 ∧
      r.exe.pc = ((s.core core).tvec.extractLsb' 1 55).setWidth 56 <<< 1 ∧ (u.core core).epc = t.exe.pc.setWidth 64 ∧
      (u.core core).estat = 0 ∧ (u.core core).ecause = w 0 >>> 56 ∧
      (u.core core).eaddr = ((w 1).extractLsb' 60 4).setWidth 64 <<< 60 ||| ((w 1).extractLsb' 0 56).setWidth 64 ∧
      (u.core core).einfo = w 3 ∧ u.mem = s.mem) ∧
  (∀ (s : State) (tid due : Nat) (k : WaitKey) (t : Thread), s.thread? tid = some t → t.status = .waiting k →
    (alGet (s.die (coreDie t.core)).timed tid = some due → due ≤ s.tick →
      ∃ u r, exec (.wakeTableTimeout tid) s = .next u ∧ u.thread? tid = some r ∧ r.status = .runnable ∧ (NoRecords s → u.mem = s.mem)) ∧
    (∃ u r, exec (.spuriousWake tid) s = .next u ∧ u.thread? tid = some r ∧ r.status = .runnable ∧ (NoRecords s → u.mem = s.mem))) ∧
  (∀ (s : State) (tid n : Nat) (t : Thread), s.thread? tid = some t → t.status = .running → t.exe.wait = .wfm n → n + 65536 ≤ s.tick →
    ∃ u r, exec (.wfmTimeout tid) s = .next u ∧ u.thread? tid = some r ∧ r.exe.pc = t.exe.pc + 4 ∧ u.mem = s.mem) ∧
  (∀ (s : State) (core tid other p : Nat) (d : DomId) (t : Thread), (s.core core).full = some tid → s.thread? tid = some t →
    s.firmware = true → (s.core core).preempt = none → (s.core core).gate = .open → (s.effSlice t.dom).toNat * usCycles ≤ s.tick - (s.core core).placedAt →
    s.bestWaiting core t.dom = some (other, d, p) → (s.effPrio t.dom).toNat ≤ p →
    exec (.timeSliceExpiry core) s = .next (s.updCore core (fun k => { k with gate := .reserved d other s.tick }))) ∧
  (∀ (s : State) (core other n : Nat) (d : DomId), (s.core core).gate = .reserved d other n → (s.core core).full = none →
    (s.core core).preempt = none → n + usCycles ≤ s.tick →
    exec (.preemptClaimWindow core) s = .next (s.updCore core (fun k => { k with gate := .open }))) ∧
  (∀ (s : State) (core : Nat) (line : BitVec 56),
    let l : VAddr := line >>> 7 <<< 7
    let wants := (s.fetchStreams core).find? (fun x => (s.aheadLines x.2 x.1.acc).contains l)
    (wants = none → exec (.fetchAhead core line) s = .next s) ∧
    (∀ a t x u, wants = some (a, t) → s.fetchLine core t.dom t.image l l = (.ok x, u) → exec (.fetchAhead core line) s =
      .next (u.updThread a.tid (fun t => t.updCtx a.acc (fun c => { c with ahead := l :: c.ahead })))) ∧
    (∀ a t x u, wants = some (a, t) → s.fetchLine core t.dom t.image l l = (.error x, u) →
      ∃ v, exec (.fetchAhead core line) s = .next v ∧ (v.core core).cnt.fadrop = satInc (u.core core).cnt.fadrop ∧
        (v.core core).icache = (u.core core).icache))

/-- R189, R211, R213, R263, R264, R375: a message is deposited at an open endpoint with room and its sender's T becomes 0; a bound
endpoint's message is born as a pick; a flow hands out its next block index; a held fault entry is posted once its ring has room. R227: the
delivery of a message that is all an ended launch waits for ends the launch.
R215, R307, R377, Table 19.6: an accepted resume packet restarts the stopped thread at NEWPC or the faulted operation, which issues its
held units again; an ABORT ends the operation with a deferred fault; a DISCARD ends the thread by trap. -/
def Obligations.ChannelEventsAndResumes : Prop :=
  ((∀ (s : State) (k c : Nat) (m : ChanMsg) (d : DomId), alGet s.chans k = some m → s.nextInOrder k m = true →
     m.handle.extractLsb' 49 15 = s.mgmt.device → bit m.handle 31 = false → handleCore m.handle = some c →
     let p := field m.handle 35 32
     let e := s.ep c p
     e.check = m.handle.extractLsb' 0 32 → e.state = .open → e.owner = some d → e.msgs.length < 4 → s.Unawaited k →
     ∀ i ∈ [Instr.messageArrival k, .sendRetry k], ∃ u, exec i s = .next u ∧ (u.ep c p).msgs = e.msgs ++ [m] ∧
       (NoRecords s → u.mem = s.mem) ∧
       u.chans = alErase s.chans k ∧
       ∀ t acc r, m.dest = .reg acc r → s.thread? m.stid = some t → t.kind = .full → 0 < r → r < 24 →
         (t.ctx acc).pend.getLsbD r = true →
         ∃ q, u.thread? m.stid = some q ∧ q.getReg acc r = 0 ∧ (q.ctx acc).pend.getLsbD r = false) ∧
   (∀ (s : State) (k c id : Nat) (m : ChanMsg) (d : DomId) (g : Gang), alGet s.chans k = some m → s.nextInOrder k m = true →
     m.handle.extractLsb' 49 15 = s.mgmt.device → bit m.handle 31 = false → handleCore m.handle = some c →
     let e := s.ep c (field m.handle 35 32)
     e.check = m.handle.extractLsb' 0 32 → e.state = .open → e.owner = some d → e.msgs.length < 4 →
     s.gangs = [(id, g)] → g.sends = [k] → g.ended = g.members.length → g.cword = 0 →
     ∀ i ∈ [Instr.messageArrival k, .sendRetry k], ∃ u, exec i s = .next u ∧ u.gangs = []) ∧
   (∀ (s v : State) (core slot tid : Nat) (port : BitVec 4) (d : DomId) (m : ChanMsg), let e := s.ep core port.toNat
     e.owner = some d → s.epHead core port.toNat = some m → freeSlot (s.core core) = some slot → e.handler ≠ 0 → s.ownerRuns core = true →
     m.stamp.leBut (s.die (coreDie core)).vc [] = true → s.takeBobbin d (coreDie core) false e.image = some (tid, v) →
     ∃ u t, exec (.channelPickBirth core port) s = .next u ∧ u.thread? tid = some t ∧ t.kind = .pick ∧ t.status = .running ∧ t.core = core ∧
       t.slot = slot ∧ t.dom = d ∧ t.image = e.image ∧ t.exe.pc = e.handler ∧
       (∀ i, i < 8 → t.exe.reg i = m.data.extractLsb' (64 * i) 64) ∧ (NoRecords s → u.mem = s.mem)) ∧
   (∀ (s : State) (die : BitVec 2) (flow : BitVec 16) (f : Flow) (c : Nat) (d : DomId), alGet (s.die die.toNat).flows flow.toNat = some f →
     f.cores[f.next % f.cores.length]? = some c → c < 4656 → (s.ep c 0).state = .open → (s.ep c 0).owner = some d →
     (s.ep c 0).msgs.length < 4 →
     ∃ u m, exec (.blockQueueHandout die flow) s = .next u ∧ (u.ep c 0).msgs = (s.ep c 0).msgs ++ [m] ∧
       m.data = BitVec.ofNat 512 (f.next % 2 ^ 40 + 2 ^ 40 * flow.toNat) ∧ m.sender = s.mgmt.device ++ 0xFFFF#16 ∧
       alGet (u.die die.toNat).flows flow.toNat = some { f with next := f.next + 1 }) ∧
   (∀ (s : State) (die : BitVec 2) (k : Nat) (e : FaultEntry), (s.die die.toNat).heldPosts[k]? = some e → (s.die die.toNat).frRoom = true →
     earlierHeld (s.die die.toNat).heldPosts k e = false →
     ∃ u, exec (.faultRingRetry die k) s = .next (match e.holds with
         | some tid => u.freeHeddle tid
         | none => u) ∧ (u.die die.toNat).frtail = ((s.die die.toNat).frtail + 1) % 8192 ∧
       (u.die die.toNat).heldPosts = (s.die die.toNat).heldPosts.eraseIdx k)) ∧
  (∀ (s : State) (k : Nat) (p : Packet), s.packet k = some p → p.ok = true → s.Unawaited k →
     (field (p.w 0) 1 0 = 0 → p.rep.src = 0 → p.stamp.leBut (s.die (coreDie p.rep.core)).vc [] = true → ∀ t, s.thread? p.rep.tid = some t → t.status = .stopped → t.kind = .full →
       (s.core t.core).full = some p.rep.tid →
       ∃ u r, exec (.resumePacket k) s = .next u ∧ u.thread? p.rep.tid = some r ∧ r.status = .running ∧ (NoRecords s → u.mem = s.mem) ∧
         (r.ctx p.rep.acc).pc = if field (p.w 1) 55 0 = 0 then (t.ctx p.rep.acc).pc else (p.w 1).extractLsb' 0 56) ∧
     (field (p.w 0) 1 0 = 0 → p.rep.src ≠ 0 → ∀ op x, s.packetOp p.rep = some (op, x) → s.op? p.rep.core op = some x → x.chain = false →
       ∃ u y, exec (.resumePacket k) s = .next u ∧ u.op? p.rep.core op = some y ∧ y.state = .active ∧ y.held = x.held ∧
         y.inflight = x.inflight) ∧
     (field (p.w 0) 1 0 = 1 → ∀ op x a t, s.packetOp p.rep = some (op, x) → x.inflight = [] → x.chain = false →
       (∃ c, x.state = .faulted c a) → s.thread? x.tid = some t →
       ∃ u r, exec (.abortPacket k) s = .next u ∧ u.thread? x.tid = some r ∧ r.engFaults = t.engFaults ++
         [{ cause := (p.w 0).extractLsb' 8 8, addr := a, eng := p.rep.eng, dest := x.dest, batch := x.batch,
            onResume := t.saved.isSome || (t.status != .running && t.status != .stopped) }] ∧
         ∀ acc n, x.dest = .reg acc n → (r.ctx acc).pend.getLsbD n = false) ∧
     (field (p.w 0) 1 0 = 2 → ∀ t, s.thread? p.rep.tid = some t → t.status = .stopped → s.exitBusy p.rep.tid t = false →
       s.released p.rep.tid t false 4 = true → s.released p.rep.tid t true 4 = true →
       exec (.discardPacket k) s = .next (((s.takePacket k).takeRepair p).endThread p.rep.tid true)))

/-- R258, R324, R327 to R333, R402, Tables 17.3, 17.4: each packet of a bound queue does its work and commits, holds its queue, or stops it
with its FCODE; one whose second decode does not agree is parsed again. -/
def Obligations.QueuePackets : Prop :=
  ∀ (s : State) (slot : BitVec 6) (p : Pkt),
    let i := slot.toNat
    let x := s.slot i
    let v := p.w64 3
    (PacketReady s slot 0 p → Commits (.nopPacket slot) slot p s s) ∧
    (PacketReady s slot 1 p → let q := gangReq x p (frontStamp s)
      (s.mayLaunch q = false → RefusesPacket (.launchGangPacket slot) slot p 1 s) ∧
      (s.mayLaunch q = true → rectReserved ((p.w 3).setWidth 64) = true ∨ q.onDie = false ∨ s.inBudget q = false →
        RefusesPacket (.launchGangPacket slot) slot p 2 s) ∧
      (s.mayLaunch q = true → rectReserved ((p.w 3).setWidth 64) = false → q.onDie = true → s.inBudget q = true →
        (∀ ea, s.frontKdesc x (p.w64 1) = .pending (some ea) → AsksPeer (.launchGangPacket slot) slot p s s .load ea 8 0) ∧
        (∀ k, s.frontKdesc x (p.w64 1) = .desc k →
          (k.ok = false ∨ k.image.floor = true ∧ 64 < q.width * q.height → RefusesPacket (.launchGangPacket slot) slot p 3 s) ∧
          (k.ok = true → (k.image.floor = true → q.width * q.height ≤ 64) →
            (s.acceptGang q k = none → RefusesPacket (.launchGangPacket slot) slot p 4 s) ∧
            (∀ u, s.acceptGang q k = some u →
              (s.frontBusy 4 = true → exec (.launchGangPacket slot) s = .next s) ∧
              (∀ b, s.frontBusy 4 = false → s.cwordBad x.dom q.cword = some b →
                FailsAccess (.launchGangPacket slot) slot p b q.cword s) ∧
              (s.frontBusy 4 = false → s.cwordBad x.dom q.cword = none →
                Commits (.launchGangPacket slot) slot p s u ∧ ∃ ms, alGet u.gangs s.nextId = some (q.gang k ms))))))) ∧
    (PacketReady s slot 2 p → let q := p.bobbinReq x (frontStamp s)
      let full := bit p.spec 4
      (s.mayLaunch q = false → RefusesPacket (.launchBobbinPacket slot) slot p 1 s) ∧
      (s.mayLaunch q = true → s.bobbinBudget q full = false → RefusesPacket (.launchBobbinPacket slot) slot p 2 s) ∧
      (s.mayLaunch q = true → s.bobbinBudget q full = true →
        ∀ k, s.frontKdesc x (if full then p.w64 1 else p.w64 18) = .desc k →
        (k.ok = false → RefusesPacket (.launchBobbinPacket slot) slot p 3 s) ∧
        (k.ok = true → s.takeBobbin q.dom q.die full k.image = none → RefusesPacket (.launchBobbinPacket slot) slot p 4 s) ∧
        (∀ tid w, k.ok = true → s.takeBobbin q.dom q.die full k.image = some (tid, w) → s.frontBusy 4 = false →
          s.cwordBad x.dom q.cword = none →
          ∃ u t, Commits (.launchBobbinPacket slot) slot p s u ∧ u.thread? tid = some t ∧ t.status = .runnable ∧ t.dom = q.dom ∧
            t.kind = (if full then .full else .pick) ∧ t.exe.pc = (if full then k.entry else (p.w64 1).extractLsb' 0 56) ∧
            (full = false → ∀ j, j < 6 → t.exe.reg (8 + j) = p.w64 (6 + 2 * j))))) ∧
    (PacketReady s slot 3 p → let a : VAddr := (p.w64 1).extractLsb' 0 56
      ∃ u, exec (.callIbPacket slot) s = .next u ∧ (u.slot i).stack = (a, a + (p.w 3).setWidth 56) :: (x.pass p.len).stack ∧
        (u.slot i).ibd = (x.pass p.len).stack.length + 1 ∧ (u.slot i).state = (if x.state = .saving then .saving else .bound) ∧
        (u.slot i).rptr = (x.pass p.len).rptr ∧ u.mem = s.mem) ∧
    (PacketReady s slot 4 p → exec (.returnPacket slot) s =
      .next ((s.updSlot i (fun y => y.served (x.stack.drop 1) s.tick s.us32)).dropAsked x.qcb)) ∧
    (PacketReady s slot 5 p → let ea := p.w64 1
      let c := field p.spec 1 0
      ∀ e ∈ [Instr.waitSeqPacket slot, .waitSeqRecheck slot], (e = .waitSeqRecheck slot → x.state = .waiting) →
        (∀ w, s.frontLoad x ea 8 = .data w →
          let met : Prop := c = 0 ∧ v.toNat ≤ w % 2 ^ 64 ∨ c = 1 ∧ w % 2 ^ 64 = v.toNat ∨ c = 2 ∧ w % 2 ^ 64 ≠ v.toNat
          (met → Commits e slot p s ((s.hostSaw 0 x.dom ea).frontAcquire i)) ∧ (¬met → HoldsQueue e slot p s (s.dropAsked x.qcb))) ∧
        (s.frontLoad x ea 8 = .wait → HoldsQueue e slot p s s) ∧
        (s.frontLoad x ea 8 = .ask → AsksPeer e slot p s s .load ea 8 0) ∧
        (∀ b, s.frontLoad x ea 8 = .bad b → FailsAccess e slot p b ea s)) ∧
    (PacketReady s slot 6 p → let op := field p.spec 1 0
      (x.rel = none → s.launchesDone x.qcb = false ∨ s.frontBusy 5 = true → HoldsQueue (.signalPacket slot) slot p s s) ∧
      (∀ c u, SignalReady s x i c u → ∀ l, u.sysLeaf 0 x.dom (p.w64 1) 8 true = .ok l →
        let new : Word := if op = 1 then BitVec.ofNat 64 (ofLE (u.sysBytes l 8)) + v else v
        let raised (t : State) : State := if op = 2 then t.sendOut (.msix (field p.spec 15 8)) else t
        (u.homeWaits l = true → HoldsQueue (.signalPacket slot) slot p s u) ∧
        (l.loc = 0 → c.leBut (u.die (paDie l.pa)).vc [] = false → HoldsQueue (.signalPacket slot) slot p s u) ∧
        (l.loc = 0 → u.homeWaits l = false → c.leBut (u.die (paDie l.pa)).vc [] = true → u.readable (blockNo l.pa) l.key = true →
          Commits (.signalPacket slot) slot p s (raised (u.deviceStore l.key l.pa (leBytes 8 new.toNat)))) ∧
        (l.loc = 1 → op ≠ 1 ∨ s.mgmt.atomicReq = true →
          Commits (.signalPacket slot) slot p s (raised (u.plainWrite (hostLoc l.pa) (leBytes 8 new.toNat)))) ∧
        (l.loc = 2 → u.asked x.qcb (p.w64 1) 8 = none →
          AsksPeer (.signalPacket slot) slot p s u (.atomic (if op = 1 then .add else .swap)) (p.w64 1) 8 v) ∧
        (∀ o w, l.loc = 2 → u.asked x.qcb (p.w64 1) 8 = some o → o.answer = some (.ok w) →
          Commits (.signalPacket slot) slot p s (raised u)))) ∧
    (PacketReady s slot 7 p → ∀ w, p.words.drop 2 = [w] →
      (s.storeWaits x.dom (p.w64 1) 4 = true → exec (.writePacket slot) s = .next s) ∧
      (∀ t, s.storeWaits x.dom (p.w64 1) 4 = false → s.sysStore 0 s.mgmt.fclk x.dom (p.w64 1) (leBytes 4 w.toNat) = .ok t →
        Commits (.writePacket slot) slot p s (t.updSlot i (fun y => { y with window := [] }))) ∧
      (∀ b, s.sysLeaf 0 x.dom (p.w64 1) 4 true = .error b → FailsAccess (.writePacket slot) slot p b (p.w64 1) s)) ∧
    (PacketReady s slot 8 p →
      (bit p.spec 0 = true → s.launchesDone x.qcb = false → HoldsQueue (.fencePacket slot) slot p s s) ∧
      (bit p.spec 0 = false ∨ s.launchesDone x.qcb = true →
        (bit p.spec 8 = true → s.frontBusy (field p.spec 6 4) = true → exec (.fencePacket slot) s = .next s) ∧
        (bit p.spec 8 = false ∨ s.frontBusy (field p.spec 6 4) = false →
          let t := if bit p.spec 8 then s.frontSync else s
          Commits (.fencePacket slot) slot p s (if bit p.spec 7 then t.frontAcquire i else t)))) ∧
    (PacketReady s slot 9 p → let d : DomId := (p.w 1).extractLsb' 0 20
      let stored (t : State) : State := t.updSlot i (fun y => { y with window := [] })
      (s.mgmt.securityUp = false ∨ s.storeWaits x.dom (p.w64 2) 8 = true → exec (.mapKeyPacket slot) s = .next s) ∧
      (s.mgmt.securityUp = true → s.storeWaits x.dom (p.w64 2) 8 = false → s.freeKeySlot = none → ∀ t, s.sysStore 0 s.mgmt.fclk x.dom (p.w64 2) (leBytes 8 0) = .ok t →
        Commits (.mapKeyPacket slot) slot p s (stored t)) ∧
      (∀ k, s.mgmt.securityUp = true → s.storeWaits x.dom (p.w64 2) 8 = false → s.freeKeySlot = some k → s.keysOf d < (s.effKeyq d).toNat →
        let u := s.openKey k 1 d
        (u.key k).state = .live ∧ (u.key k).kind = 1 ∧ (u.key k).owner = d ∧
        ∀ t, u.sysStore 0 s.mgmt.fclk x.dom (p.w64 2) (leBytes 8 ((u.keyRef k).setWidth 64).toNat) = .ok t →
          Commits (.mapKeyPacket slot) slot p s (stored t))) ∧
    (PacketReady s slot 10 p → let r : RegionRecord := { w0 := p.w64 1, w1 := p.w64 3, w2 := p.w64 5 }
      (s.firmware = false → exec (.bindRegionPacket slot) s = .next s) ∧
      (∀ c, s.firmware = true → s.regionBad r = some c → ∃ t, Commits (.bindRegionPacket slot) slot p s t ∧
        t.mgmt.regstat = BitVec.ofNat 64 (r.index * 2 ^ 32 + c) ∧ t.regions = s.regions ∧
        t.mgmt.out = s.mgmt.out ++ [.msix s.mgmt.msixRegion.toNat]) ∧
      (s.firmware = true → s.regionBad r = none → s.rangeBusy (s.rebound r) = true →
        HoldsQueue (.bindRegionPacket slot) slot p s (s.startBinding r) ∧
        ∀ pa, s.rebound r pa = true → pa < 2 ^ 52 → (s.startBinding r).busy pa = true) ∧
      (s.firmware = true → s.regionBad r = none → s.rangeBusy (s.rebound r) = false →
        ∃ t, Commits (.bindRegionPacket slot) slot p s t ∧
        (bit r.w0 63 = true → alGet t.regions r.index = some r.region) ∧
        ∀ b m, alGet t.blocks b = some m → s.rebound r (128 * b) = true → m.dir = 0 ∧ m.access = t.tagInitAt (128 * b))) ∧
    (PacketReady s slot 11 p → let l := x.preempting.getD (s.shuttlesOf ((p.w 1).extractLsb' 0 20))
      (s.firmware = false → x.preempting = none → HoldsQueue (.preemptPacket slot) slot p s s) ∧
      (s.firmware = true ∨ x.preempting ≠ none →
        (l = [] → Commits (.preemptPacket slot) slot p s s) ∧
        (l ≠ [] → HoldsQueue (.preemptPacket slot) slot p s (s.updSlot i (fun y => { y with preempting := some l }))))) ∧
    (x.open = true → s.parse x = .packet p → 12 ≤ p.type → x.flawed = false →
      exec (.unassignedPacketType slot) s = .next (s.commandFault i 1 0 p.at_)) ∧
    (∀ b a, x.state = .bound → x.parsing ≠ none → s.parse x = .failed b a →
      exec (.fetchFault slot) s = .next ((s.commandFault i 0x80 0 a.toNat).postQueueFault i b a)) ∧
    (x.open = true → s.parse x = .packet p → ∀ e ∈ packetEvents slot, p.type = e.2 →
      (x.flawed = true → exec e.1 s = .next (s.updSlot i (fun y => { y with parsing := some s.tick, flawed := false }))) ∧
      (∀ c, x.flawed = false → p.bad x = some c → exec e.1 s = .next (s.commandFault i c 0 p.at_))) ∧
    (∀ ea, x.open = true → s.parse x = .pending (some ea) → ∀ e ∈ packetEvents slot,
      exec e.1 s = .next (s.askPeer x .load ea 4 0)) ∧
    (∀ c r a, let u := s.commandFault i c r a
      (u.slot i).state = (if x.state = .saving then .saving else .faulted) ∧
        u.mgmt.out = s.mgmt.out ++ [.msix s.mgmt.msixCmd.toNat])

/-- R326, R330, R334 to R339, Table 17.5: kicks, arbitration, ageing, bind records, the binds and saves that they begin, and the shipped
firmware's care of queues. The SLICE of a queue that firmware binds is its domain's (the model's choice, log entry 18). -/
def Obligations.QueueScheduling : Prop :=
  (∀ (s : State) (w : BitVec 64), field w 6 0 ≠ 0 →
    exec (.kick w) s = .next (s.updMgmt (fun m => { m with badkick := satInc m.badkick }))) ∧
  (∀ (s : State) (w : BitVec 64), field w 6 0 = 0 → let q := field w 55 0
    ((∀ j, j < 64 → (s.slot j).qcb = q → (s.slot j).state = .empty ∨ (s.slot j).state = .saving) →
      (bit (s.qcbRead q 32) 2 = true → exec (.kick w) s = .next s.frontSync) ∧
      (bit (s.qcbRead q 32) 2 = false → ∃ u, exec (.kick w) s = .next u ∧
        (s.mgmt.pendring.length < 4096 → u.mgmt.pendring = s.mgmt.pendring ++ [q] ∧ u.mgmt.pendovf = s.mgmt.pendovf ∧
          u.mgmt.treadleIrq = true) ∧
        (4096 ≤ s.mgmt.pendring.length → u.mgmt.pendring = s.mgmt.pendring ∧ u.mgmt.pendovf = true))) ∧
    (∀ i, i < 64 → (s.slot i).qcb = q → (s.slot i).state ≠ .empty → (s.slot i).state ≠ .saving →
      (∀ j, j < i → (s.slot j).qcb = q → (s.slot j).state = .empty ∨ (s.slot j).state = .saving) →
      let x := s.slot i
      let wptr : BitVec 32 := (s.qcbRead q 16).extractLsb' 0 32
      let u := s.frontAcquire i
      let v := u.updSlot i (fun y => { y with wptr := wptr })
      let t := if u.slotReady (u.slot i) = false ∧ v.slotReady (v.slot i) = true then v.updSlot i (fun y => { y with readyAt := s.us32 })
        else v
      (x.state = .binding → exec (.kick w) s = .next ((s.frontAcquire i).updSlot i (fun y => { y with klatch := true }))) ∧
      (x.state ≠ .binding → (wptr - x.rptr).toNat ≤ 2 ^ x.rsize → exec (.kick w) s = .next t) ∧
      (x.state ≠ .binding → 2 ^ x.rsize < (wptr - x.rptr).toNat →
        exec (.kick w) s = .next (t.commandFault i 7 0 (x.rptr.toNat % 2 ^ x.rsize))))) ∧
  (∀ (s : State) (slot : BitVec 6) (n : Nat), let i := slot.toNat
    let x := s.slot i
    (x.parsing = some n →
      (n + 35000 ≤ s.tick →
        exec (.parseWatchdog slot) s = .next (s.updSlot i (fun y => { y with parsing := some s.tick, flawed := false }))) ∧
      (s.tick < n + 35000 → exec (.parseWatchdog slot) s = .next s)) ∧
    (s.slotReady x = true → s.mgmt.age ≠ 0 →
      x.cprio.toNat < min 7 (x.bprio.toNat + (s.us32 - x.readyAt).toNat / s.mgmt.age.toNat) →
      exec (.cprioAgeing slot) s = .next (s.updSlot i (fun y => { y with cprio := x.cprio + 1 }))) ∧
    (s.firmware = true → x.state = .bound → x.slice ≠ 0 → x.slice.toNat ≤ (s.us32 - x.boundAt).toNat →
      exec (.queueSliceExpiry slot) s = .next s.evaluate) ∧
    (s.firmware = true → x.state = .bound → x.parsing = none → x.idle = true → x.idleAt + 17500 ≤ s.tick →
      exec (.queueIdleTimeout slot) s = .next (if s.slotsBusy then s else s.unbind i))) ∧
  (∀ (s : State) (parse : BitVec 2) (i : Nat), i < 64 → i % 4 = parse.toNat →
    (s.slotReady (s.slot i) = true → (∀ j, j < 64 → j % 4 = parse.toNat → (s.slot j).parsing = none ∧ (s.slot j).due = false) →
      (∀ j, j < 64 → j % 4 = parse.toNat → s.slotReady (s.slot j) = true →
        (s.slot j).cprio.toNat < (s.slot i).cprio.toNat ∨ (s.slot j).cprio = (s.slot i).cprio ∧ i ≤ j) →
      exec (.slotArbitration parse) s = .next ((s.updSlot i (fun y =>
        { y with parsing := some s.tick, cprio := (s.slot i).bprio, readyAt := s.us32 })).readAhead i)) ∧
    ((∀ j, j < i → j % 4 = parse.toNat → (s.slot j).due = false) →
      ((s.slot i).state = .binding → ∃ u, exec (.slotArbitration parse) s = .next u ∧
        let y := u.slot i
        y.boundAt = s.us32 ∧ y.klatch = false ∧
        y.wptr = (if (s.slot i).klatch then (s.qcbRead (s.slot i).qcb 16).extractLsb' 0 32 else (s.slot i).wptr) ∧
        y.rptr = (s.slot i).rptr ∧ y.state = if 2 ^ y.rsize < (y.wptr - y.rptr).toNat then .faulted else .bound) ∧
      ((s.slot i).state = .saving → (s.slot i).packet = none →
        let t := s.finishSave i
        exec (.slotArbitration parse) s = .next (if t.firmware then t.evaluate else t) ∧ t.slot i = Slot.empty ∧
          ((s.slot i).ibd ≠ 0 → t.mgmt.waitq = s.mgmt.waitq ++ [(s.slot i).qcb])))) ∧
  (∀ (s : State) (r : BindRecord),
    ∀ e ∈ [(Instr.bindSlot r, 1), (.unbindSlot r, 2), (.clearSlotFault r, 3)],
      let err := s.updMgmt (fun m => { m with slotErr := true })
      (s.firmware = false ∨ s.slotsBusy = true → exec e.1 s = .next s) ∧
      (s.firmware = true → s.slotsBusy = false →
        (field r.w1 1 0 = 0 → exec e.1 s = .next (if r.w3 = 0 then s else err)) ∧
        (r.w3 ≠ 0 → field r.w1 1 0 = e.2 → exec e.1 s = .next err))) ∧
  (∀ (s : State) (r : BindRecord), s.firmware = true → s.slotsBusy = false → r.w3 = 0 → let i := field r.w1 13 8
    let q := field r.w0 55 7 * 128
    let x := s.slot i
    (field r.w1 1 0 = 1 → x.state = .empty → (∀ j, j < 64 → (s.slot j).state ≠ .empty → (s.slot j).qcb ≠ q) →
      let w1 := s.qcbRead q 8
      ∃ u, exec (.bindSlot r) s = .next u ∧ let y := u.slot i
        y.qcb = q ∧ y.dom = w1.extractLsb' 32 20 ∧ y.priv = bit w1 7 ∧ y.bprio = w1.extractLsb' 8 3 ∧ y.cprio = w1.extractLsb' 8 3 ∧
        y.ring = (s.qcbRead q 0).extractLsb' 0 56 ∧ y.rsize = field w1 4 0 ∧ y.rptr = (s.qcbRead q 24).extractLsb' 0 32 ∧
        y.wptr = (s.qcbRead q 16).extractLsb' 0 32 ∧ y.ibd = min (field (s.qcbRead q 32) 6 4) 4 ∧ y.stack.length = y.ibd ∧
        y.slice = r.w2.extractLsb' 0 32 ∧ y.state = .binding) ∧
    (field r.w1 1 0 = 2 → field r.w0 55 7 = 0 → x.state ≠ .empty →
      ∃ u, exec (.unbindSlot r) s = .next u ∧ (u.slot i).state = .saving ∧ (u.slot i).parsing = none ∧ (u.slot i).rptr = x.rptr ∧
        (s.atomicAsked x.qcb = false → (u.slot i).packet = none)) ∧
    (field r.w1 1 0 = 3 → field r.w0 55 7 = 0 → x.state ≠ .empty →
      ∃ u, exec (.clearSlotFault r) s = .next u ∧ u.slot i = { x with state := .bound, window := [], readyAt := s.us32 })) ∧
  (∀ (s : State) (qcb : BitVec 56) (q i : Nat), s.firmware = true → s.slotsBusy = false → s.queueWaits qcb.toNat = true →
    s.bestQueue = some q →
    let v := s.updMgmt (fun m => { m with treadleIrq := false })
    (i < 64 → (s.slot i).state = .empty → (∀ j, j < i → (s.slot j).state ≠ .empty) →
      exec (.waitingQueueAgeing qcb) s = .next (v.bind i q (s.effSlice ((s.qcbRead q 8).extractLsb' 32 20)))) ∧
    ((∀ j, j < 64 → (s.slot j).state ≠ .empty) → s.slotToFree (s.queueRank q).1 = some i →
      exec (.waitingQueueAgeing qcb) s = .next (v.unbind i)) ∧
    ((∀ j, j < 64 → (s.slot j).state ≠ .empty) → s.slotToFree (s.queueRank q).1 = none →
      exec (.waitingQueueAgeing qcb) s = .next v))

/-- R189, R344, R346, R351, R355, R356, R358 to R360, R384, R405: what firmware, the security core and the host write: management
registers, invalidations of translation caches, migrations, pins, drafts, grants and enrolments. The word order of a MIGCMD is the
model's reading (log entry 19), and the result of one that names a pinned page is its choice (log entry 40). -/
def Obligations.TablesAndRegisters : Prop :=
  (∀ (s : State) (die : BitVec 2) (w : BitVec 64),
    (s.firmware = true → exec (.tinv die w) s = .next (s.updDie die.toNat (fun d =>
      { d with tinvs := d.tinvs ++ [(field w 55 12 * 4096, field w 5 0, w.extractLsb' 8 4)] }))) ∧
    (s.firmware = false → exec (.tinv die w) s = .next s)) ∧
  (∀ (s : State) (die : BitVec 2) (base bits : Nat) (dies : BitVec 4) (rest : List (Nat × Nat × BitVec 4)),
    (s.die die.toNat).tinvs = (base, bits, dies) :: rest → s.accessesIn (fun d => dies.getLsbD d) base bits = false →
    ∃ u, exec (.tinvComplete die) s = .next u ∧ (u.die die.toNat).tinvs = rest ∧
      (u.die die.toNat).tinvDone = (s.die die.toNat).tinvDone + 1 ∧ u.mem = s.mem ∧
      NoTlb u (fun d => dies.getLsbD d) (fun e => e.overlaps base bits)) ∧
  (∀ (s : State) (idx : BitVec 64), s.firmware = true →
    let w (k : Nat) : Word := s.mgmt.migcmd.getD k 0
    let va : VAddr := (w 0).extractLsb' 0 56
    let i : BitVec 16 := idx.extractLsb' 0 16
    let a := s.migEntry i
    let r : MigReq := { va := va, old := field (w 1) 51 12 * 4096, new := field (w 2) 51 12 * 4096, idx := i }
    let retired := s.frameRetired r.old (s.pageOf va).1
    let thrash : Prop := retired = false ∧ i ≠ 0 ∧ s.mgmt.thrn.toNat ≤ s.mem.num (a + 16) 1
    (s.us32 - BitVec.ofNat 32 (s.mem.num (a + 8) 4)).toNat ≤ s.mgmt.thrw.toNat →
    ∃ u, exec (.migcmd idx) s = .next u ∧ u.mgmt.migcmd = [] ∧
      (thrash → alGet u.mgmt.migdone s.nextId = some 1 ∧
        u.mgmt.pinned = s.mgmt.pinned ++ [(i.toNat, va)] ∧ NoTlb u (fun _ => true) (fun e => e.covers va)) ∧
      (¬thrash → s.migBad r retired = true → alGet u.mgmt.migdone s.nextId = some 2 ∧ u.mem = s.mem ∧ u.blocks = s.blocks) ∧
      (¬thrash → s.migBad r retired = false → s.pinRefuses va r.old = true → alGet u.mgmt.migdone s.nextId = some 1) ∧
      (¬thrash → s.migBad r retired = false → s.pinRefuses va r.old = false → alGet u.mgmt.migjobs s.nextId = some
        { va := va, old := r.old, new := r.new, idx := i, bits := (s.pageOf va).1, result := 0 })) ∧
  (∀ (s : State) (job : Nat) (j : MigJob), alGet s.mgmt.migjobs job = some j →
    s.pageBusy (fun pa => decide (j.old ≤ pa) && decide (pa < j.old + 2 ^ j.bits)) = false →
    ∃ u, exec (.migrationDone job) s = .next u ∧ alGet u.mgmt.migdone job = some j.result ∧
      (Rising s.mgmt.migjobs → alGet u.mgmt.migjobs job = none) ∧ NoTlb u (fun _ => true) (fun e => e.covers j.va)) ∧
  (∀ (s : State),
    (s.us % 1000 ≠ 0 → exec .thrashScan s = .next s) ∧
    (s.us % 1000 = 0 → ∃ u, exec .thrashScan s = .next u ∧ u.mgmt.pinned = s.mgmt.pinned.filter (fun p =>
      decide (2 ^ 31 ≤ (s.us32 - BitVec.ofNat 32 (s.mem.num (s.migEntry (BitVec.ofNat 16 p.1) + 12) 4)).toNat)))) ∧
  (∀ (s : State) (w : BitVec 64),
    exec (.registerWrite .host 0xF0100 w) s = .next (s.updMgmt (fun m => { m with raslog := w &&& 0xFFFF_FFFF_FFFF_F00F })) ∧
    (∀ off, off ≠ 0xF0100 → off ≠ 0xF0110 → exec (.registerWrite .host off w) s = .next s) ∧
    (s.firmware = true →
      (∀ d, d < 4 →
        let at_ (k : Nat) : BitVec 24 := BitVec.ofNat 24 (0x100000 + 0x10000 * d + k)
        exec (.registerWrite .treadle (at_ 0) w) s = .next (s.updDie d (fun x => { x with ptroot := w &&& 0x000F_FFFF_FFFF_F001 })) ∧
        exec (.registerWrite .treadle (at_ 8) w) s = .next (s.updDie d (fun x => { x with ptkey := w &&& 0xFFFFF })) ∧
        exec (.registerWrite .treadle (at_ 0x80) w) s = .next (s.updDie d (fun x => { x with frbase := w &&& 0x000F_FFFF_FFFF_F001 })) ∧
        (∀ c, c < 1152 → w = 0 → exec (.registerWrite .treadle (at_ (0x1000 + 32 * c)) w) s =
          .next (s.updCore (d * 1152 + c) (fun k => { k with cnt := { k.cnt with iccorr := 0 } })))) ∧
      exec (.registerWrite .treadle 0xF0018 w) s = .next (s.updMgmt (fun m => { m with migthr := w.setWidth 16 })) ∧
      exec (.registerWrite .treadle 0xF0020 w) s = .next (s.updMgmt (fun m => { m with thrn := w.setWidth 8 })) ∧
      exec (.registerWrite .treadle 0xF0028 w) s = .next (s.updMgmt (fun m => { m with thrw := w.setWidth 32 })) ∧
      exec (.registerWrite .treadle 0xF0030 w) s = .next (s.updMgmt (fun m => { m with thrt := w.setWidth 32 })))) ∧
  (∀ (s : State) (id : BitVec 4) (image : List (BitVec 8)), s.firmware = true →
    (s.draftBad id image = none → exec (.draftLoad id image) s = .next { s with drafts := alSet s.drafts id.toNat (draftOf image) }) ∧
    (∀ c, s.draftBad id image = some c → exec (.draftLoad id image) s =
      .next (s.updMgmt (fun m => { m with regstat := BitVec.ofNat 64 (id.toNat * 2 ^ 32 + c) }))) ∧
    (imageWord image 0 ≠ 0x0DF71A01 → s.draftBad id image = some 6) ∧ (image.length < 1280 → s.draftBad id image = some 6)) ∧
  (∀ (s : State) (dom : BitVec 20) (i : BitVec 12) (h : BitVec 64) (send : Bool), s.mgmt.securityUp = true →
    let a := (s.dom dom).grant.toNat
    (i ≠ 4095 → (send = true → s.grantable h = true) → ∃ u, exec (.grantTableChange dom i h send) s = .next u ∧
      u.dom dom = { s.dom dom with grants := alSet (s.dom dom).grants i.toNat { handle := h, send := send } } ∧
      (a = 0 → u.mem = s.mem) ∧
      (a ≠ 0 → hbmBacked a = true → s.MemoryWf → u.mem.num (a + 16 + 16 * i.toNat) 8 = h.toNat ∧
        u.mem.num (a + 24 + 16 * i.toNat) 8 = if send then 1 else 0)) ∧
    (send = true → s.grantable h = false → exec (.grantTableChange dom i h send) s = .next s)) ∧
  (∀ (s : State) (core : Nat), s.firmware = true → 4608 ≤ core → core < 4656 →
    (∀ (d : BitVec 20) (f : BitVec 16), ∃ u x, exec (.selvedgeEnrolment core (some d) (some f)) s = .next u ∧
      (u.core core).selvedge = some d ∧ alGet (u.die (coreDie core)).flows f.toNat = some x ∧ core ∈ x.cores) ∧
    (∃ u, exec (.selvedgeEnrolment core none none) s = .next u ∧ (u.core core).selvedge = none))

/-- R380, R381, R385, R387, R390, R391: keys go to peers and are retired there, the roster changes, the device boots, and the host's
window and AtomicOp completer reach HBM. -/
def Obligations.SecurityAndHost : Prop :=
  (∀ (s : State) (i : BitVec 12) (peer : BitVec 15), let k := s.key i.toNat
    k.state = .live → peer ∈ s.mgmt.admitted → peer ∉ k.exports → k.exports.length < 511 → s.mgmt.securityUp = true →
    exec (.keyExport i peer) s =
      .next ((s.updKey i.toNat (fun k => { k with exports := k.exports ++ [peer] })).sendOut (.keySent peer i k.gen))) ∧
  (∀ (s : State) (peer : BitVec 15) (i : BitVec 12) (gen : BitVec 8), let k := s.key i.toNat
    (∀ j, s.imported peer i gen = some j → s.keyBusy (s.keyOf j) = false → ∃ u, exec (.peerKeyRetirement peer i gen) s = .next u ∧ (u.key j).state ≠ .live ∧
      u.mem = (s.dropKeyLines (s.keyOf j)).mem ∧ .retireAck peer i gen ∈ u.mgmt.out) ∧
    (s.imported peer i gen = none → k.state = .closing → k.gen = gen → peer ∈ k.exports →
      ∃ u, exec (.peerKeyRetirement peer i gen) s = .next u ∧
        (k.exports.erase peer = [] →
          (∀ c n, k.closer = some (c, n) → (s.thread? c).isSome = true →
            (u.key i.toNat).state = .closing ∧ (u.key i.toNat).exports = []) ∧
          ((∀ c n, k.closer = some (c, n) → s.thread? c = none) →
            (u.key i.toNat).state = if k.gen = 0xFF then .sweep else .free)) ∧
        (k.exports.erase peer ≠ [] → (u.key i.toNat).state = .closing ∧ (u.key i.toNat).exports = k.exports.erase peer)) ∧
    (∀ c n, k.state = .closing → peer ∈ k.exports → k.closer = some (c, n) →
      (n + 1750000 ≤ s.tick → ∃ u, exec (.peerRetirementTimeout peer i) s = .next u ∧ peer ∉ u.mgmt.roster ∧
        peer ∉ u.mgmt.admitted ∧ (k.exports = [peer] → (u.key i.toNat).exports = [] ∧
          (s.thread? c = none → (u.key i.toNat).state ≠ .closing))) ∧
      (s.tick < n + 1750000 → exec (.peerRetirementTimeout peer i) s = .next s))) ∧
  (∀ (s : State) (peer : BitVec 15), (∀ i, s.keyBusy (s.keyOf i) = false) → ∃ u, exec (.peerSessionLoss peer) s = .next u ∧ peer ∉ u.mgmt.admitted ∧
    ((∀ e ∈ s.cores, e.2.dcache = []) → u.mem = s.mem) ∧
    ∀ i k ix g, (i, k) ∈ s.keys → k.state = .live → k.kind = 3 → k.origin = some (peer, ix, g) → (u.key i).state ≠ .live) ∧
  (∀ (s : State) (i : BitVec 12), (s.key i.toNat).state = .sweep → s.firmware = true →
    (∀ j o, (j, o) ∈ s.outs → o.key ≠ s.keyOf i.toNat) →
    ∃ u, exec (.sweepDone i) s = .next u ∧ u.key i.toNat = KeySlot.init ∧
      NoTlb u (fun _ => true) (fun e => field e.w1 11 0 == i.toNat)) ∧
  (∀ (s : State) (roster : List (BitVec 15)), s.mgmt.securityUp = true → roster.length ≤ 512 →
    exec (.rosterChange roster) s = .next (s.updMgmt (fun m =>
      { m with roster := roster, admitted := m.admitted.filter (fun p => roster.contains p) }))) ∧
  (∀ (s : State) (b : BootInputs), ∃ u, exec (.deviceReset b) s = .next u ∧ u.threads = [] ∧ u.tick = 0 ∧ u.dead = none ∧
    u.mgmt.admitted = [] ∧ u.mgmt.roster = [] ∧
    (s.MemoryWf → ∀ a, u.mem.get a = if 2 ^ 52 ≤ a ∧ a < 2 ^ 53 then s.mem.get a else Memory.blank) ∧
    (let good (x : BootImage) : Prop := x.ecdsaOk = true ∧ x.lmsOk = true ∧ x.svnOk = true
     let all_ : Prop := good b.secfw ∧ good b.treadle ∧ good b.parse ∧ b.drafts.length = 7 ∧ ∀ d ∈ b.drafts, good d
     (u.mgmt.securityUp = true ↔ all_) ∧ (bit u.mgmt.ready 63 = true ↔ ¬all_) ∧
     (¬good b.secfw → field u.mgmt.ready 62 56 = 1) ∧ (good b.secfw → ¬all_ → field u.mgmt.ready 62 56 = 2) ∧
     (good b.secfw → good b.treadle → vget u.mgmt.measured 3 0 = Config.sha384 b.treadle.bytes) ∧
     (¬good b.treadle → vget u.mgmt.measured 3 0 = 0) ∧
     (all_ → ∀ k, k < 7 → ∃ d, alGet u.drafts k = some d ∧ d.std = true))) ∧
  (∀ (s : State) (off : BitVec 36) (data : List (BitVec 8)), s.MemoryWf → NoSleeper s →
    let pa := s.mgmt.bar2base.toNat + off.toNat
    data ≠ [] → data.length ≤ 128 - pa % 128 → hbmBacked pa = true → s.writable s.mgmt.bar2key pa data.length = true →
    ∃ u, exec (.hostBar2Write off data) s = .next u ∧ (∀ k, k < data.length → u.mem.get (pa + k) = data.getD k 0) ∧
      (∀ a, a < pa ∨ pa + data.length ≤ a → u.mem.get a = (s.recallLines (blockNo pa)).mem.get a) ∧
      (u.block (blockNo pa)).sealedUnder = some s.mgmt.bar2key) ∧
  (∀ (s : State) (op : HostAtomic), let pa := s.mgmt.bar2base.toNat + op.off.toNat
    let n := if op.width = 0 then 4 else 8
    let v := s.recallLines (blockNo pa)
    let old := v.mem.num pa n
    let y := op.operand.toNat % 2 ^ (8 * n)
    let new := if op.op = 0 then (old + y) % 2 ^ (8 * n) else if op.op = 1 then y
      else if old = op.compare.toNat % 2 ^ (8 * n) then y else old
    (op.op ≠ 3 → op.width.toNat < 2 → pa % n = 0 → hbmBacked pa = true → s.readable (blockNo pa) s.mgmt.bar2key = true →
      exec (.hostAtomicop op) s =
        .next ((v.homeStore v.mgmt.bar2key pa (leBytes n new)).sendOut (.completion true (BitVec.ofNat 64 old)))) ∧
    ((op.op = 3 ∨ 2 ≤ op.width.toNat ∨ pa % n ≠ 0 ∨ hbmBacked pa = false) → exec (.hostAtomicop op) s = .next ((s.updMgmt (fun m =>
      { m with atomicUr := satInc m.atomicUr })).sendOut (.completion false 0))))

/-- R385, R388, R411: the responder answers each request where it listens (to the host and to an admitted device; the requests by which a
device of the roster comes to be admitted, to that device too, log entry 51), and every answer is signed. A device is admitted by a FINISH
that proves what it is. The codes and layouts of the answers are those of the SPDM standard (the model's presumption, log entry 24). -/
def Obligations.SpdmResponses : Prop :=
  ∀ (s : State) (r : SpdmRequest), let c := s.conn r.peer
    let err (k : Byte) (i : Instr) : Prop := Answers i r s s 0x7F [k, 0]
    (s.spdmOpen r.peer true = true →
      Answers (.spdmGetVersion r) r s (s.setConn r.peer { SpdmConn.init with version := true }) 0x04 [1, 0, 0x13] ∧
      (c.version = true → Answers (.spdmGetCapabilities r) r s (s.setConn r.peer { c with caps := true }) 0x61 (Config.spdmField 0x61)) ∧
      (c.version = false → err 4 (.spdmGetCapabilities r)) ∧
      (c.caps = true → Answers (.spdmNegotiateAlgorithms r) r s (s.setConn r.peer { c with algs := true }) 0x63
        [0x80, 0, 0, 0, 0x02, 0, 0, 0, 0x10, 0, 0x02, 0]) ∧
      (c.caps = false → err 4 (.spdmNegotiateAlgorithms r)) ∧
      (c.algs = true →
        Answers (.spdmGetDigests r) r s s 0x01 (leBytes 48 (Config.sha384 Config.certChain).toNat) ∧
        Answers (.spdmGetCertificate r) r s s 0x02 Config.certChain ∧
        Answers (.spdmChallenge r) r s s 0x03 (leBytes 48 (Config.sha384 Config.certChain).toNat) ∧
        Answers (.spdmKeyExchange r) r s (s.setConn r.peer { c with sessions := alSet c.sessions r.session false }) 0x64
          (Config.spdmField 0x64)) ∧
      (c.algs = false → ∀ i ∈ [Instr.spdmGetDigests r, .spdmGetCertificate r, .spdmChallenge r, .spdmKeyExchange r], err 4 i) ∧
      (alGet c.sessions r.session = some false →
        let t := s.setConn r.peer { c with sessions := alSet c.sessions r.session true }
        (r.peer = none → Answers (.spdmFinish r) r s t 0x65 []) ∧
        (∀ p, r.peer = some p → Config.finishOk p r.payload = true → ∃ u, exec (.spdmFinish r) s = .next u ∧ p ∈ u.mgmt.admitted) ∧
        (∀ p, r.peer = some p → Config.finishOk p r.payload = false →
          Answers (.spdmFinish r) r s (s.setConn r.peer { c with sessions := alErase c.sessions r.session }) 0x7F [6, 0])) ∧
      (alGet c.sessions r.session ≠ some false → err 4 (.spdmFinish r))) ∧
    (s.spdmOpen r.peer false = true →
      (c.algs = true →
        (r.param2 = 0 → Answers (.spdmGetMeasurements r) r s s 0x60 [10]) ∧
        (∀ k, 1 ≤ k → k ≤ 5 → r.param2 = BitVec.ofNat 8 k → Answers (.spdmGetMeasurements r) r s s 0x60
          (r.param2 :: leBytes 4 48 ++ leBytes 48 (vget s.mgmt.measured k 0).toNat))) ∧
      (c.algs = false → err 4 (.spdmGetMeasurements r)) ∧
      (alGet c.sessions r.session = some true →
        Answers (.spdmHeartbeat r) r s s 0x68 [] ∧
        Answers (.spdmKeyUpdate r) r s (s.setConn r.peer { c with updates := c.updates + 1 }) 0x69 [r.param1, r.param2] ∧
        (r.peer = none → Answers (.spdmEndSession r) r s (s.setConn r.peer { c with sessions := alErase c.sessions r.session }) 0x6C []) ∧
        (∀ p, r.peer = some p → (alErase c.sessions r.session).any (fun e => e.2) = false → (∀ i, s.keyBusy (s.keyOf i) = false) →
          ∃ u, exec (.spdmEndSession r) s = .next u ∧ p ∉ u.mgmt.admitted ∧
            ∀ i k ix g, (i, k) ∈ s.keys → k.state = .live → k.kind = 3 → k.origin = some (p, ix, g) → (u.key i).state ≠ .live)) ∧
      (alGet c.sessions r.session ≠ some true → ∀ i ∈ [Instr.spdmHeartbeat r, .spdmKeyUpdate r, .spdmEndSession r], err 4 i) ∧
      err 7 (.spdmUnsupported r)) ∧
    (s.spdmOpen r.peer true = false → ∀ i ∈ [Instr.spdmGetVersion r, .spdmGetCapabilities r, .spdmNegotiateAlgorithms r, .spdmGetDigests r,
      .spdmGetCertificate r, .spdmChallenge r, .spdmKeyExchange r, .spdmFinish r], exec i s = .next s) ∧
    (s.spdmOpen r.peer false = false → ∀ i ∈ [Instr.spdmGetMeasurements r, .spdmHeartbeat r, .spdmKeyUpdate r, .spdmEndSession r,
      .spdmUnsupported r], exec i s = .next s)

/-- R241, R323, R386, R392, R400, R403, R406, R407, R410: what the device does when a handler passes a limit, a read of HBM finds an
error (the third within 24 hours retires a frame), a link, lane, stack, rail or clock fails, or a die is too hot. A fatal event stops the
device once its log entry is written or cannot be. The severity and class of a log entry are the model's choice
(log entry 30), and so is that a tag mismatch poisons the stored block (log entry 33). -/
def Obligations.FailuresAndLog : Prop :=
  (∀ (s : State) (t : Thread) (why : IllegalWhy), s.thread? s.cur.tid = some t →
    Traps (.illegalInstruction why) s { cause := 0x01, addr := 0, extra := 0, pc := none }) ∧
  (∀ (s : State) (tid : Nat) (t : Thread) (x : HeddleCtx), s.thread? tid = some t → t.heddle = some x →
    (512 ≤ x.hsteps → exec (.handlerStepLimit tid) s = .next (s.heddleAbort tid x 0x30 t.exe.pc true)) ∧
    (x.hsteps < 512 → exec (.handlerStepLimit tid) s = .next s) ∧
    (16384 ≤ s.tick - x.since → exec (.handlerWatchdog tid) s = .next (s.heddleAbort tid x 0x30 t.exe.pc true)) ∧
    (s.tick - x.since < 16384 → exec (.handlerWatchdog tid) s = .next s)) ∧
  (∀ (s : State) (stack : BitVec 4), stack.toNat < 12 →
    let die := stack.toNat / 3
    let st := stack.toNat % 3
    let x := vget (s.die die).hbmStacks st StackState.init
    let b := blockNo (die * 2 ^ 38 + st * 2 ^ 36 + 128 * x.pos)
    let frame := (die * 2 ^ 38 + st * 2 ^ 36 + 128 * x.pos) / 4096
    let errors := ((alGetD x.frames frame []).filter (fun t => decide (s.tick - t ≤ 86400 * 1750000000))).length
    let ring := blockNo (field (s.die die).frbase 51 12 * 4096 + 64 * ((s.die die).frtail % 4096))
    (∀ e, ∃ u, exec (.scrubRead stack e) s = .next u ∧
      (vget (u.die die).hbmStacks st StackState.init).pos = if x.pos + 1 = 2 ^ 29 then 0 else x.pos + 1) ∧
    (∃ u, exec (.scrubRead stack .clean) s = .next u ∧ u.blocks = s.blocks ∧ u.mem = s.mem ∧ u.mgmt = s.mgmt) ∧
    (NoSleeper s → ∃ u, exec (.scrubRead stack .corrected) s = .next u ∧
      (vget (u.die die).hbmStacks st StackState.init).corr = satInc x.corr ∧ (errors < 2 → u.blocks = s.blocks) ∧
      (2 ≤ errors → x.retiredFrames.contains frame = false →
        frame ∈ (vget (u.die die).hbmStacks st StackState.init).retiredFrames ∧
        (vget (u.die die).hbmStacks st StackState.init).retired = satInc x.retired)) ∧
    (NoSleeper s → b ≠ ring → ∀ e ∈ [EccOutcome.tagMismatch, .uncorrectable], ∃ u, exec (.scrubRead stack e) s = .next u ∧ (u.block b).poison = true) ∧
    (∃ u, exec (.scrubRead stack .uncorrectable) s = .next u ∧
      (vget (u.die die).hbmStacks st StackState.init).unc = satInc x.unc)) ∧
  (∀ (s : State), (s.firmware = true → ∃ u, exec .lockstepMismatch s = .next u ∧ u.firmware = false) ∧
    (s.mgmt.rasheld = [] → s.mgmt.rasopen = [] → rasRoom s.mgmt = true →
      ∃ u, exec .heartbeatMiss s = .next u ∧ u.mgmt.rastail = s.mgmt.rastail + 1 ∧ u.keys = s.keys ∧
        u.mgmt.rasopen = [(s.mgmt.rastail.toNat, { time := s.us, sev := 1, cls := 12, unit := rasUnit 7 0 0, cause := 0, count := 1,
                                                   addr := 0, detail := 0, record := none })])) ∧
  (∀ (s : State) (port : BitVec 5), port.toNat < 24 → let k := port.toNat
    let x := s.port k
    (x.state = 2 → ∃ u, exec (.portDown port) s = .next u ∧ (u.port k).state = 0 ∧ (u.port k).downs = satInc x.downs ∧
      u.mgmt.epoch = s.mgmt.epoch + 1 ∧ bit u.mgmt.ready (24 + k) = false) ∧
    (x.state = 0 ∨ x.state = 3 ∧ x.failedAt + 175000000 ≤ s.tick →
      ∃ u, exec (.portTrainingRetry port) s = .next u ∧ (u.port k).state = 1 ∧ u.mem = s.mem) ∧
    (x.state = 3 → s.tick < x.failedAt + 175000000 → exec (.portTrainingRetry port) s = .next s) ∧
    (∀ plane, x.state ≠ 2 → ∃ u, exec (.portTrainedUp port plane) s = .next u ∧
      (plane.authentic = true → (u.port k).state = 2 ∧ (u.port k).peerDev = plane.peerDev ∧ (u.port k).peerPort = plane.peerPort ∧
        (u.port k).peerId = plane.peerId ∧ (u.port k).lanes = 4 ∧ u.mgmt.epoch = s.mgmt.epoch + 1 ∧
        bit u.mgmt.ready (24 + k) = true) ∧
      (plane.authentic = false → (u.port k).state = 3 ∧ (u.port k).failedAt = s.tick)) ∧
    (∃ u, exec (.linkFlitError (.port port)) s = .next u ∧ (u.port k).crcretry = satInc x.crcretry ∧ (u.port k).state = x.state) ∧
    (∀ lane, x.state = 2 → x.lanes = 4 → ∃ u, exec (.laneFailure ⟨.port port, lane⟩) s = .next u ∧ (u.port k).lanes = 2 ∧ (u.port k).state = 2 ∧
      (s.mgmt.rasheld = [] → s.mgmt.rasopen = [] → rasRoom s.mgmt = true → ∃ e, u.mgmt.rasopen = [(s.mgmt.rastail.toNat, e)] ∧
        e.detail = lane.setWidth 64)) ∧
    (∀ lane, x.state = 2 → x.lanes = 2 → ∃ u, exec (.laneFailure ⟨.port port, lane⟩) s = .next u ∧ (u.port k).state = 0)) ∧
  (∀ (s : State) (a b : BitVec 2) (lane : BitVec 8), a ≠ b → s.stopping = none →
    let i := if b.toNat < a.toNat then b.toNat else b.toNat - 1
    let j := if a.toNat < b.toNat then a.toNat else a.toNat - 1
    (∃ u, exec (.linkFlitError (.bridge a b)) s = .next u ∧
      vget (u.die a.toNat).brCrc i 0 = satInc (vget (s.die a.toNat).brCrc i 0) ∧
      vget (u.die b.toNat).brCrc j 0 = satInc (vget (s.die b.toNat).brCrc j 0) ∧ u.dead = s.dead) ∧
    ((vget (s.die a.toNat).brSpared i 0).toNat < 2 → ∃ u, exec (.laneFailure ⟨.bridge a b, lane⟩) s = .next u ∧
      vget (u.die a.toNat).brSpared i 0 = vget (s.die a.toNat).brSpared i 0 + 1 ∧
      vget (u.die b.toNat).brSpared j 0 = vget (s.die b.toNat).brSpared j 0 + 1 ∧ u.dead = s.dead) ∧
    (2 ≤ (vget (s.die a.toNat).brSpared i 0).toNat → ∃ u, exec (.laneFailure ⟨.bridge a b, lane⟩) s = .next u ∧ StopsFor s u .bridge)) ∧
  (∀ (s : State) (die : BitVec 2) (temp mw : Nat), let d := die.toNat
    let high : Prop := 2800000 < mw ∧ ∃ n, s.mgmt.powerHigh = some n ∧ n + 1750000 ≤ s.tick
    ((s.die d).throt = false → temp < 115 → 105 < temp ∨ high →
      ∃ u, exec (.throttle die temp mw) s = .next u ∧ (u.die d).throt = true ∧ (u.die d).temp = temp) ∧
    ((s.die d).throt = false → temp ≤ 105 → ¬high →
      ∃ u, exec (.throttle die temp mw) s = .next u ∧ (u.die d).throt = false ∧ (u.die d).temp = temp) ∧
    ((s.die d).throt = true → temp < 100 → mw < 2700000 →
      ∃ u, exec (.throttleClear die temp mw) s = .next u ∧ (u.die d).throt = false) ∧
    ((s.die d).throt = true → temp < 115 → 100 ≤ temp ∨ 2700000 ≤ mw →
      ∃ u, exec (.throttleClear die temp mw) s = .next u ∧ (u.die d).throt = true) ∧
    (115 ≤ temp → s.stopping = none → ∀ i ∈ [Instr.thermalStop die temp, .throttle die temp mw, .throttleClear die temp mw],
      ∃ u, exec i s = .next u ∧ StopsFor s u .thermal) ∧
    (temp < 115 → exec (.thermalStop die temp) s = .next s)) ∧
  (∀ (s : State), s.mgmt.hostUp = true → ∃ u, exec .hostLinkDown s = .next u ∧ u.mgmt.hostUp = false ∧
    u.mgmt.linkdown = satInc s.mgmt.linkdown ∧ bit u.mgmt.ready 48 = false) ∧
  (∀ (s : State) (bridge : BitVec 3), bridge.toNat < 6 → s.stopping = none →
    ∃ u, exec (.bridgeLost bridge) s = .next u ∧ StopsFor s u .bridge ∧
    bit u.mgmt.ready (18 + bridge.toNat) = false) ∧
  (∀ (s : State) (clock : Bool) (rail : BitVec 8), s.stopping = none → ∃ u, exec (.railOrPllFault clock rail) s = .next u ∧
    StopsFor s u (if clock then .clock else .power)) ∧
  (∀ (s : State) (stack : BitVec 4), stack.toNat < 12 →
    (vget (s.die (stack.toNat / 3)).hbmStacks (stack.toNat % 3) StackState.init).lost = false →
    (∃ u, exec (.hbmHealthPoll stack true) s = .next u ∧
      (vget (u.die (stack.toNat / 3)).hbmStacks (stack.toNat % 3) StackState.init).lost = true ∧
      bit u.mgmt.ready (6 + stack.toNat) = false) ∧
    exec (.hbmHealthPoll stack false) s = .next s)

/-- R101, R104, R106, R138, R144, R197, R199: frames. A register instruction changes its destination, its flags and where its stream
stands, and nothing else of the whole state; a load from the core's own local store likewise; a store changes its own bytes of memory
and no register; and an instruction whose governing predicate is off changes nothing but where its stream stands. -/
def Obligations.Frames : Prop :=
  (∀ (s : State) (t : Thread) (d a b : BitVec 5) (g : Gov) (x y : Word), isReg a → isReg b →
    let dst := fun k => decide (k = d.toNat)
    (isReg d → CanIssue (governed true g [.sR a, .sR b, .sW d]) s t → ∀ p ∈ integerResults d a b g x y,
      ChangesOnly p.1 s t dst noneOf noneOf false) ∧
    (isReg d → CanIssue (governed true g [.sR b, .sW d]) s t → ∀ p ∈ unaryResults d b g y,
      ChangesOnly p.1 s t dst noneOf noneOf false) ∧
    (CanIssue (governed (predField d) g [.sR a, .sR b]) s t → ∀ p ∈ compareConditions d a b g x y,
      ChangesOnly p.1 s t noneOf dst noneOf false) ∧
    (isReg d → CanIssue (fpNeed true g [.sR a, .sR b, .sW d] 4) s t → ∀ p ∈ fpBinary d a b g,
      ChangesOnly p.1 s t dst noneOf noneOf true) ∧
    (CanIssue (fpNeed (predField d) g [.sR a, .sR b] 4) s t → ∀ p ∈ fpCompares d a b g,
      ChangesOnly p.1 s t noneOf dst noneOf true)) ∧
  (∀ (s : State) (t : Thread) (d a : BitVec 5) (imm : BitVec 12) (k : BitVec 6) (x : Word), isReg a → isReg d →
    CanIssue (plain true [.sR a, .sW d]) s t → ∀ p ∈ immediateResults d a imm k x,
      ChangesOnly p.1 s t (fun k => decide (k = d.toNat)) noneOf noneOf false) ∧
  (∀ (s : State) (t : Thread) (d a b : BitVec 5) (g : Gov), d.toNat < 28 → a.toNat < 28 → b.toNat < 28 →
    CanIssue (vecNeed g.legal [.vR a, .vR b, .vW d] 4) s t →
    (∀ p ∈ vectorIntegerOps d a b g, ChangesOnly p.1 s t noneOf noneOf (fun k => decide (k = d.toNat)) false) ∧
    (∀ p ∈ vectorFpOps d a b g, ChangesOnly p.1 s t noneOf noneOf (fun k => decide (k = d.toNat)) true)) ∧
  (∀ (s : State) (t : Thread) (d a : BitVec 5) (imm : BitVec 12), isReg a → isReg d → Fresh s t →
    let ea := leaAdd (t.getReg s.cur.acc a.toNat) (imm.signExtend 64)
    (∀ off, CanIssue (memNeed true [.sR a, .sW d]) s t → ∀ p ∈ loadForms d a imm, OwnLocal s t ea p.2.2 false off →
      ChangesOnly p.1 s t (fun k => decide (k = d.toNat)) noneOf noneOf false) ∧
    (∀ off, s.MemoryWf → NoSleeper s → CanIssue (memNeed true [.sR a, .sR d]) s t → ∀ p ∈ storeForms d a imm, OwnLocal s t ea p.2 true off →
      ∃ u r, exec p.1 s = .next u ∧ u.thread? s.cur.tid = some r ∧
        (∀ k, k < p.2 → u.mem.get (lsLoc t.core off + k) = ((leBytes p.2 (t.getReg s.cur.acc d.toNat).toNat).getD k 0)) ∧
        (∀ c, c < lsLoc t.core off ∨ lsLoc t.core off + p.2 ≤ c → u.mem.get c = s.mem.get c) ∧
        (∀ acc k, k < 24 → r.getReg acc k = t.getReg acc k) ∧ r.v = t.v ∧ r.q = t.q ∧ u.cores = s.cores ∧ u.keys = s.keys ∧
        u.blocks = s.blocks ∧ u.mgmt = s.mgmt)) ∧
  (∀ (s : State) (t : Thread) (d a b : BitVec 5) (g : Gov) (x y : Word),
    (PredicatedOff (governed true g [.sR a, .sR b, .sW d]) s t → ∀ p ∈ integerResults d a b g x y, Retires p.1 4 s s) ∧
    (PredicatedOff (governed true g [.sR b, .sW d]) s t → ∀ p ∈ unaryResults d b g y, Retires p.1 4 s s) ∧
    (PredicatedOff (governed (predField d) g [.sR a, .sR b]) s t → ∀ p ∈ compareConditions d a b g x y, Retires p.1 4 s s) ∧
    (PredicatedOff (fpNeed true g [.sR a, .sR b, .sW d] 4) s t → ∀ p ∈ fpBinary d a b g, Retires p.1 4 s s))

/-- R371 to R375, Tables 19.2, 19.4: a trap stops a full thread with both its streams, its registers and PC as they were, and its
record goes to the die's fault ring: 64 bytes at the ring's base plus 64 times the tail, which advances modulo 8,192. A full ring
keeps the entry for a retry and counts its poster; an entry behind one that its poster still holds waits too. (What the rest of the ring's
block reads as where it could not be read before is the model's choice, log entry 25.) -/
def Obligations.TrapEntry : Prop :=
  ∀ (s : State) (t : Thread) (x : Trap), s.thread? s.cur.tid = some t → t.heddle = none → t.kind = .full → Rising s.threads →
    (x.cause ≠ 0x15 ∨ x.extra ≠ 0 ∧ x.lane = none) →
    let u := s.takeTrap s.cur x
    let d := coreDie t.core
    let e := s.die d
    let pc := x.pc.getD (t.ctx s.cur.acc).pc
    let word : Word := match x.lane with
      | some i => BitVec.ofNat 64 i
      | none => x.extra
    let at_ := field e.frbase 51 12 * 4096 + 64 * (e.frtail % 4096)
    let entry := mkEntry (t.poster s.cur.tid (s.cur.acc && x.pc.isNone)) 0 x.cause pc x.addr word 0 s.tick
    d < 4 →
    (∃ r, u.thread? s.cur.tid = some r ∧ r.status = .stopped ∧ r.mode = t.mode ∧ r.v = t.v ∧
      (∀ acc, (r.ctx acc).pc = (t.ctx acc).pc ∧ (r.ctx acc).fstat = (t.ctx acc).fstat ∧ ∀ k, r.getReg acc k = t.getReg acc k)) ∧
    (s.MemoryWf → NoRecords s → e.frRoom = true → e.waits entry = false →
      (u.die d).frtail = (e.frtail + 1) % 8192 ∧
      u.mem.num at_ 8 = (x.cause ++ (pc &&& ~~~1#56)).toNat ∧
      u.mem.num (at_ + 24) 8 = word.toNat ∧ u.mem.num (at_ + 56) 8 = s.tick % 2 ^ 64 ∧
      ∀ c, c < at_ ∨ at_ + 64 ≤ c → (blockNo c ≠ blockNo at_ ∨ s.readable (blockNo at_) (s.keyOf 0) = true) → u.mem.get c = s.mem.get c) ∧
    (e.waits entry = true → (u.die d).heldPosts = e.heldPosts ++ [entry] ∧ (u.die d).frovcount = e.frovcount ∧
      (u.die d).frtail = e.frtail ∧ (NoRecords s → u.mem = s.mem)) ∧
    (e.frRoom = false → e.waits entry = false → (u.die d).frovf = true ∧ (u.die d).frovcount = e.frovcount + 1 ∧ (NoRecords s → u.mem = s.mem) ∧
      ∃ r, (u.die d).heldPosts = e.heldPosts ++ [r] ∧ r.rec0 = x.cause ++ (pc &&& ~~~1#56) ∧ r.rec3 = word)

/-- R46, R48, R60, R65, R387, R400: a step takes the next input, or lets the current agent issue: it fetches at the agent's PC and
executes what the bytes decode to, as long as its unit is not throttled; an instruction that has issued and waits is not fetched again; a
failed fetch traps; an event is executed as it is; an agent that may not issue lets the turn
pass; a device that has stopped takes only a reset. The agenda of inputs is the model's (log entry 1). -/
def Obligations.StepRunsDecoded : Prop :=
  (∀ (s : State), s.agenda = [] → s.dead = none → RunsDecoded s.cur { s with tick := s.tick + 1 } (step s)) ∧
  (∀ (s : State) (dt : Nat) (a : Agent) (rest : List Turn), s.agenda = { dt := dt, act := .issue a } :: rest → s.dead = none →
    let v : State := { s with agenda := rest, tick := s.tick + dt, cur := a }
    RunsDecoded a v (step s) ∧
    (v.thread? a.tid = none → step s = .next v) ∧
    (∀ t, v.thread? a.tid = some t → v.canIssue a t = false → step s = .next v) ∧
    (∀ t u f, v.thread? a.tid = some t → v.canIssue a t = true → t.heddle = none → v.fetch a t = (.fail f, u) →
      step s = .next (if u.trapWaits a then u
        else u.takeTrap a { cause := f.bad.cause, addr := f.addr.setWidth 64, extra := f.bad.extra, pc := none })) ∧
    (∀ t, v.thread? a.tid = some t → t.heddle = none → (t.ctx a.acc).midway = true → (t.ctx a.acc).word ≠ [] → v.armedWord a = none →
      v.fetch a t = (.bytes (t.ctx a.acc).word, v)) ∧
    (∀ t u bs why, v.thread? a.tid = some t → v.canIssue a t = true → t.heddle = none → v.fetch a t = (.bytes bs, u) →
      decode bs = .error (.illegal why) → step s = exec (.illegalInstruction why) u)) ∧
  (∀ (s : State) (dt : Nat) (i : Instr) (rest : List Turn), s.agenda = { dt := dt, act := .event i } :: rest → s.dead = none →
    isEvent i = true → step s = exec i { s with agenda := rest, tick := s.tick + dt }) ∧
  (∀ (s : State) (w : Dead), s.dead = some w → s.agenda = [] → step s = .fault (.deviceStopped w))

/-- R45 to R58, Tables 13.4, 14.4, 15.3, 16.2, 20.1: words that the spec writes out decode to the instructions they stand for. -/
def Obligations.DecodedWords : Prop :=
  let none : Ord := { acq := false, rel := false, scope := 0 }
  let g0 : Gov := { p := 0, n := false }
  ∀ p ∈ ([([0x83, 0x41, 0x0A, 0x00], .add 3 4 5 g0, 4), ([0x8D, 0x03, 0x0A, 0xFD], .bne 7 0 0x3F4 1, 4),
          ([0xA4, 0xA4], .vmulF32Compact 5 9 true, 2), ([0x03, 0x43, 0xCA, 0x8A], .sel 6 4 5 { p := 3, n := true }, 4),
          ([0x37, 0x11, 0x08, 0x80], .vfmaF32ScalarB 2 1 4 g0, 4), ([0x47, 0x57, 0x18, 0x10], .mdrain 14 5 12 none, 4),
          ([0x29, 0x14, 0x4E, 0x0D], .amoAdd 8 1 7 false { acq := false, rel := true, scope := 5 }, 4),
          ([0xA3, 0x23, 0x44, 0x00], .stB32 7 2 4, 4), ([0x2F, 0x00, 0x56, 0x00], .barSync 5, 4), ([0x53, 0x65, 0x00, 0x00], .weft 10 6 none, 4),
          ([0x5F, 0x40, 0x02, 0x00], .seqClose 4, 4), ([0xE1, 0x02, 0x96, 0xC0], .mfsp 5 0xC09, 4),
          ([0x65, 0x10, 0x0C, 0x18], .fwd 1 6, 4)] : List (List Byte × Instr × Nat)), decode p.1 = .ok p.2

/-- R45 to R58, Tables 2.1 to 2.5: every well-formed instruction that has an encoding is read back from its bytes, whatever follows
them. -/
def Obligations.DecodeEncode : Prop :=
  ∀ (i : Instr) (rest : List Byte), i.wf = true → encodeBytes i ≠ [] →
    decode (encodeBytes i ++ rest) = .ok (i, (encodeBytes i).length)

/-- The model's own invariant (log entry 4): every step keeps memory in its canonical form, so that equal memories are equal data. -/
def Obligations.MemoryStaysCanonical : Prop :=
  ∀ (s u : State), s.MemoryWf → step s = .next u → u.MemoryWf

/-- R246, R275, R335, R338, R345, R379, R391, R392, Tables 18.1 and 21.3: the state right after reset. -/
def Obligations.ResetState : Prop :=
  let s := State.reset
  s.MemoryWf ∧ s.mem = [] ∧ s.threads = [] ∧ s.regions = [] ∧ s.drafts = [] ∧ s.dead = none ∧
    s.mgmt.ready = 0 ∧ s.mgmt.age = 50 ∧ s.mgmt.migthr = 256 ∧ s.mgmt.thrn = 4 ∧ s.mgmt.thrw = 200 ∧ s.mgmt.thrt = 5000 ∧
    s.mgmt.treadleUp = false ∧ s.mgmt.securityUp = false ∧
    (∀ i, (s.slot i).state = .empty) ∧ (∀ i, (s.key i).state = .free) ∧ (∀ b, (s.block b).sealedUnder = none) ∧
    (∀ k, (s.port k).state = 0) ∧ (∀ d, (s.die d).ptroot = 0 ∧ (s.die d).frbase = 0 ∧ (s.die d).frtail = 0 ∧ (s.die d).frhead = 0)
end

