-- ==== Sys2Proof/Laws/Maps.lean ====
section
/-! SUPPORT. Laws of the finite maps, the vectors, and the accessors of the state's parts. -/

namespace Sys2Proof.Machine

theorem alGet_alSet_same {α : Type} (l : AList α) (k : Nat) (x : α) : alGet (alSet l k x) k = some x := by
  induction l with
  | nil => simp [alSet, alGet]
  | cons p l ih =>
    obtain ⟨j, y⟩ := p
    simp only [alSet]
    split
    · simp [alGet]
    · split
      · simp [alGet]
      · simp_all [alGet]

theorem alGet_alSet_other {α : Type} (l : AList α) {k j : Nat} (x : α) (h : j ≠ k) : alGet (alSet l k x) j = alGet l j := by
  induction l with
  | nil => simp [alSet, alGet, h]
  | cons p l ih =>
    obtain ⟨i, y⟩ := p
    simp only [alSet]
    split
    · rename_i hk
      simp only [alGet, h, if_false]
      split
      · have : j ≠ i := by omega
        have : j < i := by omega
        simp [*]
      · rfl
    · split
      · subst_vars
        simp [alGet, h]
      · simp only [alGet, ih]

theorem alGetD_alSet_same {α : Type} (l : AList α) (k : Nat) (x d : α) : alGetD (alSet l k x) k d = x := by
  simp [alGetD, alGet_alSet_same]

theorem alGetD_alSet_other {α : Type} (l : AList α) {k j : Nat} (x d : α) (h : j ≠ k) :
    alGetD (alSet l k x) j d = alGetD l j d := by
  simp [alGetD, alGet_alSet_other l x h]

theorem vget_vset_same {α : Type} {n : Nat} (v : Vector α n) {i : Nat} (x d : α) (h : i < n) : vget (vset v i x) i d = x := by
  simp [vget, vset, h]

theorem vget_vset_other {α : Type} {n : Nat} (v : Vector α n) {i j : Nat} (x d : α) (h : j ≠ i) :
    vget (vset v i x) j d = vget v j d := by
  simp [vget, vset, Ne.symm h]

@[simp] theorem State.thread?_setThread_same (s : State) (i : Nat) (t : Thread) : (s.setThread i t).thread? i = some t :=
  alGet_alSet_same _ _ _

theorem State.thread?_setThread_other (s : State) {i j : Nat} (t : Thread) (h : j ≠ i) :
    (s.setThread i t).thread? j = s.thread? j := alGet_alSet_other _ _ h

theorem State.thread?_updThread_same {s : State} {i : Nat} {t : Thread} (f : Thread → Thread) (h : s.thread? i = some t) :
    (s.updThread i f).thread? i = some (f t) := by
  simp [State.updThread, h]

theorem State.thread?_updThread_other (s : State) {i j : Nat} (f : Thread → Thread) (h : j ≠ i) :
    (s.updThread i f).thread? j = s.thread? j := by
  unfold State.updThread
  split
  · exact State.thread?_setThread_other _ _ h
  · rfl

/-- Two updates of one thread are one. -/
theorem alSet_alSet {α : Type} (l : AList α) (k : Nat) (x y : α) : alSet (alSet l k x) k y = alSet l k y := by
  induction l with
  | nil => simp [alSet]
  | cons p l ih =>
    obtain ⟨j, z⟩ := p
    simp only [alSet]
    split
    · simp [alSet]
    · split
      · simp [alSet]
      · simp_all [alSet]

theorem State.updThread_updThread (s : State) (i : Nat) (f g : Thread → Thread) :
    (s.updThread i f).updThread i g = s.updThread i (fun t => g (f t)) := by
  cases h : s.thread? i with
  | none => simp [State.updThread, h]
  | some t =>
    have h1 : s.updThread i f = s.setThread i (f t) := by simp [State.updThread, h]
    have h2 : s.updThread i (fun t => g (f t)) = s.setThread i (g (f t)) := by simp [State.updThread, h]
    have h3 : (s.setThread i (f t)).updThread i g = (s.setThread i (f t)).setThread i (g (f t)) := by
      simp [State.updThread]
    rw [h1, h2, h3]
    simp [State.setThread, alSet_alSet]

@[simp] theorem State.core_setCore_same (s : State) (i : Nat) (k : Core) : (s.setCore i k).core i = k :=
  alGetD_alSet_same _ _ _ _

theorem State.core_setCore_other (s : State) {i j : Nat} (k : Core) (h : j ≠ i) : (s.setCore i k).core j = s.core j :=
  alGetD_alSet_other _ _ _ h

@[simp] theorem State.core_updCore_same (s : State) (i : Nat) (f : Core → Core) : (s.updCore i f).core i = f (s.core i) :=
  alGetD_alSet_same _ _ _ _

theorem State.core_updCore_other (s : State) {i j : Nat} (f : Core → Core) (h : j ≠ i) : (s.updCore i f).core j = s.core j :=
  alGetD_alSet_other _ _ _ h

@[simp] theorem State.thread?_updCore (s : State) (i j : Nat) (f : Core → Core) : (s.updCore i f).thread? j = s.thread? j := rfl
@[simp] theorem State.thread?_setCore (s : State) (i j : Nat) (k : Core) : (s.setCore i k).thread? j = s.thread? j := rfl
@[simp] theorem State.core_setThread (s : State) (i j : Nat) (t : Thread) : (s.setThread i t).core j = s.core j := rfl

@[simp] theorem State.core_updThread (s : State) (i j : Nat) (f : Thread → Thread) : (s.updThread i f).core j = s.core j := by
  unfold State.updThread
  split <;> rfl

@[simp] theorem State.die_updDie_same (s : State) {i : Nat} (f : Die → Die) (h : i < 4) : (s.updDie i f).die i = f (s.die i) :=
  vget_vset_same _ _ _ h

theorem State.die_updDie_other (s : State) {i j : Nat} (f : Die → Die) (h : j ≠ i) : (s.updDie i f).die j = s.die j :=
  vget_vset_other _ _ _ h

@[simp] theorem State.dom_updDom_same (s : State) (d : DomId) (f : Domain → Domain) : (s.updDom d f).dom d = f (s.dom d) :=
  alGetD_alSet_same _ _ _ _

@[simp] theorem State.key_updKey_same (s : State) (i : Nat) (f : KeySlot → KeySlot) : (s.updKey i f).key i = f (s.key i) :=
  alGetD_alSet_same _ _ _ _

theorem State.key_updKey_other (s : State) {i j : Nat} (f : KeySlot → KeySlot) (h : j ≠ i) : (s.updKey i f).key j = s.key j :=
  alGetD_alSet_other _ _ _ h

@[simp] theorem State.heddle_updHeddle_same (s : State) (i : Nat) (f : Heddle → Heddle) :
    (s.updHeddle i f).heddle i = f (s.heddle i) := alGetD_alSet_same _ _ _ _

@[simp] theorem Thread.ctx_updCtx (t : Thread) (a : Bool) (f : Ctx → Ctx) : (t.updCtx a f).ctx a = f (t.ctx a) := by
  cases a <;> rfl

@[simp] theorem Thread.ctx_updCtx_other (t : Thread) (a : Bool) (f : Ctx → Ctx) : (t.updCtx a f).ctx (!a) = t.ctx (!a) := by
  cases a <;> rfl

end Sys2Proof.Machine
end

