-- ==== Sys2Proof/Laws/Memory.lean ====
section
/-! SUPPORT. Laws of memory: read after write, and that every operation keeps the canonical form. -/

namespace Sys2Proof.Machine

theorem Memory.get_nil (a : Nat) : Memory.get [] a = Memory.blank := rfl

theorem Memory.get_below {m : Memory} {lo a : Nat} (h : m.wfFrom lo = true) (ha : a < lo) : m.get a = Memory.blank := by
  cases m with
  | nil => rfl
  | cons c m =>
    obtain ⟨b, x⟩ := c
    simp [Memory.wfFrom] at h
    have h1 : a ≠ b := by omega
    have h2 : a < b := by omega
    simp [Memory.get, h1, h2]

theorem Memory.wfFrom_mono {m : Memory} {lo lo' : Nat} (h : m.wfFrom lo = true) (hl : lo' ≤ lo) : m.wfFrom lo' = true := by
  cases m with
  | nil => rfl
  | cons c m =>
    obtain ⟨b, x⟩ := c
    simp [Memory.wfFrom] at h ⊢
    exact ⟨⟨by omega, h.1.2⟩, h.2⟩

theorem Memory.put_wfFrom {m : Memory} {lo a : Nat} {x : Byte} (h : m.wfFrom lo = true) (ha : lo ≤ a) :
    (m.put a x).wfFrom lo = true := by
  induction m generalizing lo with
  | nil => by_cases hx : x = Memory.blank <;> simp [Memory.put, Memory.wfFrom, hx, ha]
  | cons c m ih =>
    obtain ⟨b, y⟩ := c
    simp [Memory.wfFrom] at h
    obtain ⟨⟨h1, h2⟩, h3⟩ := h
    simp only [Memory.put]
    split
    · by_cases hx : x = Memory.blank
      · simp [hx, Memory.wfFrom, h1, h2, h3]
      · simp only [hx, if_false]
        have : a + 1 ≤ b := by omega
        simp [Memory.wfFrom, hx, ha, this, h2, h3]
    · split
      · by_cases hx : x = Memory.blank
        · simp only [hx, if_true]
          exact Memory.wfFrom_mono h3 (by omega)
        · subst_vars
          simp [hx, Memory.wfFrom, ha, h3]
      · have := ih h3 (by omega)
        simp [Memory.wfFrom, h1, h2, this]

/-- A write keeps the canonical form. -/
theorem Memory.put_wf {m : Memory} {a : Nat} {x : Byte} (h : m.wf = true) : (m.put a x).wf = true :=
  Memory.put_wfFrom h (Nat.zero_le _)

/-- A write of several bytes keeps the canonical form. -/
theorem Memory.putBytes_wf {m : Memory} {a : Nat} {bs : List Byte} (h : m.wf = true) : (m.putBytes a bs).wf = true := by
  induction bs generalizing m a with
  | nil => exact h
  | cons b bs ih => exact ih (Memory.put_wf h)

theorem Memory.putNum_wf {m : Memory} {a n w : Nat} (h : m.wf = true) : (m.putNum a n w).wf = true := Memory.putBytes_wf h

theorem Memory.filter_wfFrom {m : Memory} {lo : Nat} (p : Host.Cell → Bool) (h : m.wfFrom lo = true) :
    Memory.wfFrom lo (m.filter p) = true := by
  induction m generalizing lo with
  | nil => rfl
  | cons c m ih =>
    obtain ⟨b, x⟩ := c
    simp [Memory.wfFrom] at h
    obtain ⟨⟨h1, h2⟩, h3⟩ := h
    have := ih h3
    by_cases hp : p (b, x) = true
    · simp [hp, Memory.wfFrom, h1, h2, this]
    · simp only [List.filter_cons, hp]
      exact Memory.wfFrom_mono this (by omega)

/-- Dropping listed bytes keeps the canonical form. -/
theorem Memory.filter_wf {m : Memory} (p : Host.Cell → Bool) (h : m.wf = true) : Memory.wf (m.filter p) = true :=
  Memory.filter_wfFrom p h

/-- A byte just written reads back, in a memory in canonical form. -/
theorem Memory.get_put_same {m : Memory} {a : Nat} (x : Byte) (h : m.wf = true) : (m.put a x).get a = x := by
  suffices H : ∀ (m : Memory) (lo : Nat), m.wfFrom lo = true → (m.put a x).get a = x from H m 0 h
  intro m
  induction m with
  | nil => intro _ _; by_cases hx : x = Memory.blank <;> simp [Memory.put, Memory.get, hx]
  | cons c m ih =>
    intro lo h
    obtain ⟨b, y⟩ := c
    simp [Memory.wfFrom] at h
    obtain ⟨⟨h1, h2⟩, h3⟩ := h
    simp only [Memory.put]
    split
    · by_cases hx : x = Memory.blank
      · have h1 : a ≠ b := by omega
        simp [Memory.get, *]
      · simp [hx, Memory.get]
    · split
      · by_cases hx : x = Memory.blank
        · simp only [hx, if_true]
          exact Memory.get_below h3 (by omega)
        · simp [hx, Memory.get]
      · have := ih _ h3
        simp [Memory.get, *]

/-- A write leaves every other byte alone. -/
theorem Memory.get_put_other {m : Memory} {a b : Nat} (x : Byte) (hn : b ≠ a) (h : m.wf = true) :
    (m.put a x).get b = m.get b := by
  suffices H : ∀ (m : Memory) (lo : Nat), m.wfFrom lo = true → (m.put a x).get b = m.get b from H m 0 h
  intro m
  induction m with
  | nil => intro _ _; by_cases hx : x = Memory.blank <;> simp [Memory.put, Memory.get, hx, hn]
  | cons c m ih =>
    intro lo h
    obtain ⟨k, y⟩ := c
    simp [Memory.wfFrom] at h
    obtain ⟨⟨h1, h2⟩, h3⟩ := h
    simp only [Memory.put]
    split
    · by_cases hx : x = Memory.blank
      · simp [hx]
      · simp only [hx, if_false, Memory.get, hn]
        split
        · have h4 : b ≠ k := by omega
          have h5 : b < k := by omega
          simp [h4, h5]
        · rfl
    · split
      · subst_vars
        by_cases hx : x = Memory.blank
        · simp only [hx, if_true, Memory.get, hn, if_false]
          split
          · exact Memory.get_below h3 (by omega)
          · rfl
        · simp [hx, Memory.get, hn]
      · have := ih _ h3
        simp only [Memory.get, this]

/-- Writing bytes leaves every byte outside them alone. -/
theorem Memory.get_putBytes_other {m : Memory} {a b : Nat} {bs : List Byte} (h : m.wf = true)
    (hn : b < a ∨ a + bs.length ≤ b) : (m.putBytes a bs).get b = m.get b := by
  induction bs generalizing m a with
  | nil => rfl
  | cons x bs ih =>
    simp only [List.length_cons] at hn
    simp only [Memory.putBytes]
    rw [ih (Memory.put_wf h) (by omega), Memory.get_put_other _ (by omega) h]

/-- Bytes just written read back. -/
theorem Memory.get_putBytes_same {m : Memory} {a : Nat} {bs : List Byte} (h : m.wf = true) {k : Nat} (hk : k < bs.length) :
    (m.putBytes a bs).get (a + k) = bs[k] := by
  induction bs generalizing m a k with
  | nil => simp at hk
  | cons x bs ih =>
    simp only [Memory.putBytes]
    cases k with
    | zero =>
      rw [Memory.get_putBytes_other (Memory.put_wf h) (by omega), Nat.add_zero, Memory.get_put_same _ h]
      rfl
    | succ k =>
      have := ih (m := m.put a x) (a := a + 1) (Memory.put_wf h) (k := k) (by simpa using hk)
      rw [show a + (k + 1) = a + 1 + k from by omega, this]
      rfl

end Sys2Proof.Machine
end

