-- ==== Sys2Proof/Laws/State.lean ====
section
/-! SUPPORT. What each update of the state leaves unchanged, field by field, and what it writes. -/

namespace Sys2Proof.Machine

section
variable (s : State) (i : Nat) (x : Thread)

@[simp] theorem State.setThread_tick : (s.setThread i x).tick = s.tick := rfl
@[simp] theorem State.setThread_cur : (s.setThread i x).cur = s.cur := rfl
@[simp] theorem State.setThread_agenda : (s.setThread i x).agenda = s.agenda := rfl
@[simp] theorem State.setThread_mem : (s.setThread i x).mem = s.mem := rfl
@[simp] theorem State.setThread_blocks : (s.setThread i x).blocks = s.blocks := rfl
@[simp] theorem State.setThread_cores : (s.setThread i x).cores = s.cores := rfl
@[simp] theorem State.setThread_dies : (s.setThread i x).dies = s.dies := rfl
@[simp] theorem State.setThread_heddles : (s.setThread i x).heddles = s.heddles := rfl
@[simp] theorem State.setThread_bridges : (s.setThread i x).bridges = s.bridges := rfl
@[simp] theorem State.setThread_doms : (s.setThread i x).doms = s.doms := rfl
@[simp] theorem State.setThread_keys : (s.setThread i x).keys = s.keys := rfl
@[simp] theorem State.setThread_gangs : (s.setThread i x).gangs = s.gangs := rfl
@[simp] theorem State.setThread_groups : (s.setThread i x).groups = s.groups := rfl
@[simp] theorem State.setThread_forming : (s.setThread i x).forming = s.forming := rfl
@[simp] theorem State.setThread_outs : (s.setThread i x).outs = s.outs := rfl
@[simp] theorem State.setThread_msgs : (s.setThread i x).msgs = s.msgs := rfl
@[simp] theorem State.setThread_chans : (s.setThread i x).chans = s.chans := rfl
@[simp] theorem State.setThread_births : (s.setThread i x).births = s.births := rfl
@[simp] theorem State.setThread_strips : (s.setThread i x).strips = s.strips := rfl
@[simp] theorem State.setThread_regions : (s.setThread i x).regions = s.regions := rfl
@[simp] theorem State.setThread_drafts : (s.setThread i x).drafts = s.drafts := rfl
@[simp] theorem State.setThread_slots : (s.setThread i x).slots = s.slots := rfl
@[simp] theorem State.setThread_mgmt : (s.setThread i x).mgmt = s.mgmt := rfl
@[simp] theorem State.setThread_nextId : (s.setThread i x).nextId = s.nextId := rfl
@[simp] theorem State.setThread_freeCtr : (s.setThread i x).freeCtr = s.freeCtr := rfl
@[simp] theorem State.setThread_dead : (s.setThread i x).dead = s.dead := rfl
@[simp] theorem State.setThread_stopping : (s.setThread i x).stopping = s.stopping := rfl
@[simp] theorem State.setThread_slow : (s.setThread i x).slow = s.slow := rfl

end

section
variable (s : State) (i : Nat) (x : Core)

@[simp] theorem State.setCore_tick : (s.setCore i x).tick = s.tick := rfl
@[simp] theorem State.setCore_cur : (s.setCore i x).cur = s.cur := rfl
@[simp] theorem State.setCore_agenda : (s.setCore i x).agenda = s.agenda := rfl
@[simp] theorem State.setCore_mem : (s.setCore i x).mem = s.mem := rfl
@[simp] theorem State.setCore_blocks : (s.setCore i x).blocks = s.blocks := rfl
@[simp] theorem State.setCore_threads : (s.setCore i x).threads = s.threads := rfl
@[simp] theorem State.setCore_dies : (s.setCore i x).dies = s.dies := rfl
@[simp] theorem State.setCore_heddles : (s.setCore i x).heddles = s.heddles := rfl
@[simp] theorem State.setCore_bridges : (s.setCore i x).bridges = s.bridges := rfl
@[simp] theorem State.setCore_doms : (s.setCore i x).doms = s.doms := rfl
@[simp] theorem State.setCore_keys : (s.setCore i x).keys = s.keys := rfl
@[simp] theorem State.setCore_gangs : (s.setCore i x).gangs = s.gangs := rfl
@[simp] theorem State.setCore_groups : (s.setCore i x).groups = s.groups := rfl
@[simp] theorem State.setCore_forming : (s.setCore i x).forming = s.forming := rfl
@[simp] theorem State.setCore_outs : (s.setCore i x).outs = s.outs := rfl
@[simp] theorem State.setCore_msgs : (s.setCore i x).msgs = s.msgs := rfl
@[simp] theorem State.setCore_chans : (s.setCore i x).chans = s.chans := rfl
@[simp] theorem State.setCore_births : (s.setCore i x).births = s.births := rfl
@[simp] theorem State.setCore_strips : (s.setCore i x).strips = s.strips := rfl
@[simp] theorem State.setCore_regions : (s.setCore i x).regions = s.regions := rfl
@[simp] theorem State.setCore_drafts : (s.setCore i x).drafts = s.drafts := rfl
@[simp] theorem State.setCore_slots : (s.setCore i x).slots = s.slots := rfl
@[simp] theorem State.setCore_mgmt : (s.setCore i x).mgmt = s.mgmt := rfl
@[simp] theorem State.setCore_nextId : (s.setCore i x).nextId = s.nextId := rfl
@[simp] theorem State.setCore_freeCtr : (s.setCore i x).freeCtr = s.freeCtr := rfl
@[simp] theorem State.setCore_dead : (s.setCore i x).dead = s.dead := rfl
@[simp] theorem State.setCore_stopping : (s.setCore i x).stopping = s.stopping := rfl
@[simp] theorem State.setCore_slow : (s.setCore i x).slow = s.slow := rfl

end

section
variable (s : State) (i : Nat) (x : Die)

@[simp] theorem State.setDie_tick : (s.setDie i x).tick = s.tick := rfl
@[simp] theorem State.setDie_cur : (s.setDie i x).cur = s.cur := rfl
@[simp] theorem State.setDie_agenda : (s.setDie i x).agenda = s.agenda := rfl
@[simp] theorem State.setDie_mem : (s.setDie i x).mem = s.mem := rfl
@[simp] theorem State.setDie_blocks : (s.setDie i x).blocks = s.blocks := rfl
@[simp] theorem State.setDie_threads : (s.setDie i x).threads = s.threads := rfl
@[simp] theorem State.setDie_cores : (s.setDie i x).cores = s.cores := rfl
@[simp] theorem State.setDie_heddles : (s.setDie i x).heddles = s.heddles := rfl
@[simp] theorem State.setDie_bridges : (s.setDie i x).bridges = s.bridges := rfl
@[simp] theorem State.setDie_doms : (s.setDie i x).doms = s.doms := rfl
@[simp] theorem State.setDie_keys : (s.setDie i x).keys = s.keys := rfl
@[simp] theorem State.setDie_gangs : (s.setDie i x).gangs = s.gangs := rfl
@[simp] theorem State.setDie_groups : (s.setDie i x).groups = s.groups := rfl
@[simp] theorem State.setDie_forming : (s.setDie i x).forming = s.forming := rfl
@[simp] theorem State.setDie_outs : (s.setDie i x).outs = s.outs := rfl
@[simp] theorem State.setDie_msgs : (s.setDie i x).msgs = s.msgs := rfl
@[simp] theorem State.setDie_chans : (s.setDie i x).chans = s.chans := rfl
@[simp] theorem State.setDie_births : (s.setDie i x).births = s.births := rfl
@[simp] theorem State.setDie_strips : (s.setDie i x).strips = s.strips := rfl
@[simp] theorem State.setDie_regions : (s.setDie i x).regions = s.regions := rfl
@[simp] theorem State.setDie_drafts : (s.setDie i x).drafts = s.drafts := rfl
@[simp] theorem State.setDie_slots : (s.setDie i x).slots = s.slots := rfl
@[simp] theorem State.setDie_mgmt : (s.setDie i x).mgmt = s.mgmt := rfl
@[simp] theorem State.setDie_nextId : (s.setDie i x).nextId = s.nextId := rfl
@[simp] theorem State.setDie_freeCtr : (s.setDie i x).freeCtr = s.freeCtr := rfl
@[simp] theorem State.setDie_dead : (s.setDie i x).dead = s.dead := rfl
@[simp] theorem State.setDie_stopping : (s.setDie i x).stopping = s.stopping := rfl
@[simp] theorem State.setDie_slow : (s.setDie i x).slow = s.slow := rfl

end

section
variable (s : State) (i : Nat) (f : Heddle → Heddle)

@[simp] theorem State.updHeddle_tick : (s.updHeddle i f).tick = s.tick := rfl
@[simp] theorem State.updHeddle_cur : (s.updHeddle i f).cur = s.cur := rfl
@[simp] theorem State.updHeddle_agenda : (s.updHeddle i f).agenda = s.agenda := rfl
@[simp] theorem State.updHeddle_mem : (s.updHeddle i f).mem = s.mem := rfl
@[simp] theorem State.updHeddle_blocks : (s.updHeddle i f).blocks = s.blocks := rfl
@[simp] theorem State.updHeddle_threads : (s.updHeddle i f).threads = s.threads := rfl
@[simp] theorem State.updHeddle_cores : (s.updHeddle i f).cores = s.cores := rfl
@[simp] theorem State.updHeddle_dies : (s.updHeddle i f).dies = s.dies := rfl
@[simp] theorem State.updHeddle_bridges : (s.updHeddle i f).bridges = s.bridges := rfl
@[simp] theorem State.updHeddle_doms : (s.updHeddle i f).doms = s.doms := rfl
@[simp] theorem State.updHeddle_keys : (s.updHeddle i f).keys = s.keys := rfl
@[simp] theorem State.updHeddle_gangs : (s.updHeddle i f).gangs = s.gangs := rfl
@[simp] theorem State.updHeddle_groups : (s.updHeddle i f).groups = s.groups := rfl
@[simp] theorem State.updHeddle_forming : (s.updHeddle i f).forming = s.forming := rfl
@[simp] theorem State.updHeddle_outs : (s.updHeddle i f).outs = s.outs := rfl
@[simp] theorem State.updHeddle_msgs : (s.updHeddle i f).msgs = s.msgs := rfl
@[simp] theorem State.updHeddle_chans : (s.updHeddle i f).chans = s.chans := rfl
@[simp] theorem State.updHeddle_births : (s.updHeddle i f).births = s.births := rfl
@[simp] theorem State.updHeddle_strips : (s.updHeddle i f).strips = s.strips := rfl
@[simp] theorem State.updHeddle_regions : (s.updHeddle i f).regions = s.regions := rfl
@[simp] theorem State.updHeddle_drafts : (s.updHeddle i f).drafts = s.drafts := rfl
@[simp] theorem State.updHeddle_slots : (s.updHeddle i f).slots = s.slots := rfl
@[simp] theorem State.updHeddle_mgmt : (s.updHeddle i f).mgmt = s.mgmt := rfl
@[simp] theorem State.updHeddle_nextId : (s.updHeddle i f).nextId = s.nextId := rfl
@[simp] theorem State.updHeddle_freeCtr : (s.updHeddle i f).freeCtr = s.freeCtr := rfl
@[simp] theorem State.updHeddle_dead : (s.updHeddle i f).dead = s.dead := rfl
@[simp] theorem State.updHeddle_stopping : (s.updHeddle i f).stopping = s.stopping := rfl
@[simp] theorem State.updHeddle_slow : (s.updHeddle i f).slow = s.slow := rfl

end

section
variable (s : State) (i : DomId) (f : Domain → Domain)

@[simp] theorem State.updDom_tick : (s.updDom i f).tick = s.tick := rfl
@[simp] theorem State.updDom_cur : (s.updDom i f).cur = s.cur := rfl
@[simp] theorem State.updDom_agenda : (s.updDom i f).agenda = s.agenda := rfl
@[simp] theorem State.updDom_mem : (s.updDom i f).mem = s.mem := rfl
@[simp] theorem State.updDom_blocks : (s.updDom i f).blocks = s.blocks := rfl
@[simp] theorem State.updDom_threads : (s.updDom i f).threads = s.threads := rfl
@[simp] theorem State.updDom_cores : (s.updDom i f).cores = s.cores := rfl
@[simp] theorem State.updDom_dies : (s.updDom i f).dies = s.dies := rfl
@[simp] theorem State.updDom_heddles : (s.updDom i f).heddles = s.heddles := rfl
@[simp] theorem State.updDom_bridges : (s.updDom i f).bridges = s.bridges := rfl
@[simp] theorem State.updDom_keys : (s.updDom i f).keys = s.keys := rfl
@[simp] theorem State.updDom_gangs : (s.updDom i f).gangs = s.gangs := rfl
@[simp] theorem State.updDom_groups : (s.updDom i f).groups = s.groups := rfl
@[simp] theorem State.updDom_forming : (s.updDom i f).forming = s.forming := rfl
@[simp] theorem State.updDom_outs : (s.updDom i f).outs = s.outs := rfl
@[simp] theorem State.updDom_msgs : (s.updDom i f).msgs = s.msgs := rfl
@[simp] theorem State.updDom_chans : (s.updDom i f).chans = s.chans := rfl
@[simp] theorem State.updDom_births : (s.updDom i f).births = s.births := rfl
@[simp] theorem State.updDom_strips : (s.updDom i f).strips = s.strips := rfl
@[simp] theorem State.updDom_regions : (s.updDom i f).regions = s.regions := rfl
@[simp] theorem State.updDom_drafts : (s.updDom i f).drafts = s.drafts := rfl
@[simp] theorem State.updDom_slots : (s.updDom i f).slots = s.slots := rfl
@[simp] theorem State.updDom_mgmt : (s.updDom i f).mgmt = s.mgmt := rfl
@[simp] theorem State.updDom_nextId : (s.updDom i f).nextId = s.nextId := rfl
@[simp] theorem State.updDom_freeCtr : (s.updDom i f).freeCtr = s.freeCtr := rfl
@[simp] theorem State.updDom_dead : (s.updDom i f).dead = s.dead := rfl
@[simp] theorem State.updDom_stopping : (s.updDom i f).stopping = s.stopping := rfl
@[simp] theorem State.updDom_slow : (s.updDom i f).slow = s.slow := rfl

end

section
variable (s : State) (i : Nat) (f : KeySlot → KeySlot)

@[simp] theorem State.updKey_tick : (s.updKey i f).tick = s.tick := rfl
@[simp] theorem State.updKey_cur : (s.updKey i f).cur = s.cur := rfl
@[simp] theorem State.updKey_agenda : (s.updKey i f).agenda = s.agenda := rfl
@[simp] theorem State.updKey_mem : (s.updKey i f).mem = s.mem := rfl
@[simp] theorem State.updKey_blocks : (s.updKey i f).blocks = s.blocks := rfl
@[simp] theorem State.updKey_threads : (s.updKey i f).threads = s.threads := rfl
@[simp] theorem State.updKey_cores : (s.updKey i f).cores = s.cores := rfl
@[simp] theorem State.updKey_dies : (s.updKey i f).dies = s.dies := rfl
@[simp] theorem State.updKey_heddles : (s.updKey i f).heddles = s.heddles := rfl
@[simp] theorem State.updKey_bridges : (s.updKey i f).bridges = s.bridges := rfl
@[simp] theorem State.updKey_doms : (s.updKey i f).doms = s.doms := rfl
@[simp] theorem State.updKey_gangs : (s.updKey i f).gangs = s.gangs := rfl
@[simp] theorem State.updKey_groups : (s.updKey i f).groups = s.groups := rfl
@[simp] theorem State.updKey_forming : (s.updKey i f).forming = s.forming := rfl
@[simp] theorem State.updKey_outs : (s.updKey i f).outs = s.outs := rfl
@[simp] theorem State.updKey_msgs : (s.updKey i f).msgs = s.msgs := rfl
@[simp] theorem State.updKey_chans : (s.updKey i f).chans = s.chans := rfl
@[simp] theorem State.updKey_births : (s.updKey i f).births = s.births := rfl
@[simp] theorem State.updKey_strips : (s.updKey i f).strips = s.strips := rfl
@[simp] theorem State.updKey_regions : (s.updKey i f).regions = s.regions := rfl
@[simp] theorem State.updKey_drafts : (s.updKey i f).drafts = s.drafts := rfl
@[simp] theorem State.updKey_slots : (s.updKey i f).slots = s.slots := rfl
@[simp] theorem State.updKey_mgmt : (s.updKey i f).mgmt = s.mgmt := rfl
@[simp] theorem State.updKey_nextId : (s.updKey i f).nextId = s.nextId := rfl
@[simp] theorem State.updKey_freeCtr : (s.updKey i f).freeCtr = s.freeCtr := rfl
@[simp] theorem State.updKey_dead : (s.updKey i f).dead = s.dead := rfl
@[simp] theorem State.updKey_stopping : (s.updKey i f).stopping = s.stopping := rfl
@[simp] theorem State.updKey_slow : (s.updKey i f).slow = s.slow := rfl

end

section
variable (s : State) (i : Nat) (f : BlockMeta → BlockMeta)

@[simp] theorem State.updBlock_tick : (s.updBlock i f).tick = s.tick := rfl
@[simp] theorem State.updBlock_cur : (s.updBlock i f).cur = s.cur := rfl
@[simp] theorem State.updBlock_agenda : (s.updBlock i f).agenda = s.agenda := rfl
@[simp] theorem State.updBlock_mem : (s.updBlock i f).mem = s.mem := rfl
@[simp] theorem State.updBlock_threads : (s.updBlock i f).threads = s.threads := rfl
@[simp] theorem State.updBlock_cores : (s.updBlock i f).cores = s.cores := rfl
@[simp] theorem State.updBlock_dies : (s.updBlock i f).dies = s.dies := rfl
@[simp] theorem State.updBlock_heddles : (s.updBlock i f).heddles = s.heddles := rfl
@[simp] theorem State.updBlock_bridges : (s.updBlock i f).bridges = s.bridges := rfl
@[simp] theorem State.updBlock_doms : (s.updBlock i f).doms = s.doms := rfl
@[simp] theorem State.updBlock_keys : (s.updBlock i f).keys = s.keys := rfl
@[simp] theorem State.updBlock_gangs : (s.updBlock i f).gangs = s.gangs := rfl
@[simp] theorem State.updBlock_groups : (s.updBlock i f).groups = s.groups := rfl
@[simp] theorem State.updBlock_forming : (s.updBlock i f).forming = s.forming := rfl
@[simp] theorem State.updBlock_outs : (s.updBlock i f).outs = s.outs := rfl
@[simp] theorem State.updBlock_msgs : (s.updBlock i f).msgs = s.msgs := rfl
@[simp] theorem State.updBlock_chans : (s.updBlock i f).chans = s.chans := rfl
@[simp] theorem State.updBlock_births : (s.updBlock i f).births = s.births := rfl
@[simp] theorem State.updBlock_strips : (s.updBlock i f).strips = s.strips := rfl
@[simp] theorem State.updBlock_regions : (s.updBlock i f).regions = s.regions := rfl
@[simp] theorem State.updBlock_drafts : (s.updBlock i f).drafts = s.drafts := rfl
@[simp] theorem State.updBlock_slots : (s.updBlock i f).slots = s.slots := rfl
@[simp] theorem State.updBlock_mgmt : (s.updBlock i f).mgmt = s.mgmt := rfl
@[simp] theorem State.updBlock_nextId : (s.updBlock i f).nextId = s.nextId := rfl
@[simp] theorem State.updBlock_freeCtr : (s.updBlock i f).freeCtr = s.freeCtr := rfl
@[simp] theorem State.updBlock_dead : (s.updBlock i f).dead = s.dead := rfl
@[simp] theorem State.updBlock_stopping : (s.updBlock i f).stopping = s.stopping := rfl
@[simp] theorem State.updBlock_slow : (s.updBlock i f).slow = s.slow := rfl

end

section
variable (s : State) (i : Nat) (f : Core → Core)

@[simp] theorem State.updCore_tick : (s.updCore i f).tick = s.tick := rfl
@[simp] theorem State.updCore_cur : (s.updCore i f).cur = s.cur := rfl
@[simp] theorem State.updCore_agenda : (s.updCore i f).agenda = s.agenda := rfl
@[simp] theorem State.updCore_mem : (s.updCore i f).mem = s.mem := rfl
@[simp] theorem State.updCore_blocks : (s.updCore i f).blocks = s.blocks := rfl
@[simp] theorem State.updCore_threads : (s.updCore i f).threads = s.threads := rfl
@[simp] theorem State.updCore_dies : (s.updCore i f).dies = s.dies := rfl
@[simp] theorem State.updCore_heddles : (s.updCore i f).heddles = s.heddles := rfl
@[simp] theorem State.updCore_bridges : (s.updCore i f).bridges = s.bridges := rfl
@[simp] theorem State.updCore_doms : (s.updCore i f).doms = s.doms := rfl
@[simp] theorem State.updCore_keys : (s.updCore i f).keys = s.keys := rfl
@[simp] theorem State.updCore_gangs : (s.updCore i f).gangs = s.gangs := rfl
@[simp] theorem State.updCore_groups : (s.updCore i f).groups = s.groups := rfl
@[simp] theorem State.updCore_forming : (s.updCore i f).forming = s.forming := rfl
@[simp] theorem State.updCore_outs : (s.updCore i f).outs = s.outs := rfl
@[simp] theorem State.updCore_msgs : (s.updCore i f).msgs = s.msgs := rfl
@[simp] theorem State.updCore_chans : (s.updCore i f).chans = s.chans := rfl
@[simp] theorem State.updCore_births : (s.updCore i f).births = s.births := rfl
@[simp] theorem State.updCore_strips : (s.updCore i f).strips = s.strips := rfl
@[simp] theorem State.updCore_regions : (s.updCore i f).regions = s.regions := rfl
@[simp] theorem State.updCore_drafts : (s.updCore i f).drafts = s.drafts := rfl
@[simp] theorem State.updCore_slots : (s.updCore i f).slots = s.slots := rfl
@[simp] theorem State.updCore_mgmt : (s.updCore i f).mgmt = s.mgmt := rfl
@[simp] theorem State.updCore_nextId : (s.updCore i f).nextId = s.nextId := rfl
@[simp] theorem State.updCore_freeCtr : (s.updCore i f).freeCtr = s.freeCtr := rfl
@[simp] theorem State.updCore_dead : (s.updCore i f).dead = s.dead := rfl
@[simp] theorem State.updCore_stopping : (s.updCore i f).stopping = s.stopping := rfl
@[simp] theorem State.updCore_slow : (s.updCore i f).slow = s.slow := rfl

end

section
variable (s : State) (i : Nat) (f : Die → Die)

@[simp] theorem State.updDie_tick : (s.updDie i f).tick = s.tick := rfl
@[simp] theorem State.updDie_cur : (s.updDie i f).cur = s.cur := rfl
@[simp] theorem State.updDie_agenda : (s.updDie i f).agenda = s.agenda := rfl
@[simp] theorem State.updDie_mem : (s.updDie i f).mem = s.mem := rfl
@[simp] theorem State.updDie_blocks : (s.updDie i f).blocks = s.blocks := rfl
@[simp] theorem State.updDie_threads : (s.updDie i f).threads = s.threads := rfl
@[simp] theorem State.updDie_cores : (s.updDie i f).cores = s.cores := rfl
@[simp] theorem State.updDie_heddles : (s.updDie i f).heddles = s.heddles := rfl
@[simp] theorem State.updDie_bridges : (s.updDie i f).bridges = s.bridges := rfl
@[simp] theorem State.updDie_doms : (s.updDie i f).doms = s.doms := rfl
@[simp] theorem State.updDie_keys : (s.updDie i f).keys = s.keys := rfl
@[simp] theorem State.updDie_gangs : (s.updDie i f).gangs = s.gangs := rfl
@[simp] theorem State.updDie_groups : (s.updDie i f).groups = s.groups := rfl
@[simp] theorem State.updDie_forming : (s.updDie i f).forming = s.forming := rfl
@[simp] theorem State.updDie_outs : (s.updDie i f).outs = s.outs := rfl
@[simp] theorem State.updDie_msgs : (s.updDie i f).msgs = s.msgs := rfl
@[simp] theorem State.updDie_chans : (s.updDie i f).chans = s.chans := rfl
@[simp] theorem State.updDie_births : (s.updDie i f).births = s.births := rfl
@[simp] theorem State.updDie_strips : (s.updDie i f).strips = s.strips := rfl
@[simp] theorem State.updDie_regions : (s.updDie i f).regions = s.regions := rfl
@[simp] theorem State.updDie_drafts : (s.updDie i f).drafts = s.drafts := rfl
@[simp] theorem State.updDie_slots : (s.updDie i f).slots = s.slots := rfl
@[simp] theorem State.updDie_mgmt : (s.updDie i f).mgmt = s.mgmt := rfl
@[simp] theorem State.updDie_nextId : (s.updDie i f).nextId = s.nextId := rfl
@[simp] theorem State.updDie_freeCtr : (s.updDie i f).freeCtr = s.freeCtr := rfl
@[simp] theorem State.updDie_dead : (s.updDie i f).dead = s.dead := rfl
@[simp] theorem State.updDie_stopping : (s.updDie i f).stopping = s.stopping := rfl
@[simp] theorem State.updDie_slow : (s.updDie i f).slow = s.slow := rfl

end

section
variable (s : State) (f : Mgmt → Mgmt)

@[simp] theorem State.updMgmt_tick : (s.updMgmt f).tick = s.tick := rfl
@[simp] theorem State.updMgmt_cur : (s.updMgmt f).cur = s.cur := rfl
@[simp] theorem State.updMgmt_agenda : (s.updMgmt f).agenda = s.agenda := rfl
@[simp] theorem State.updMgmt_mem : (s.updMgmt f).mem = s.mem := rfl
@[simp] theorem State.updMgmt_blocks : (s.updMgmt f).blocks = s.blocks := rfl
@[simp] theorem State.updMgmt_threads : (s.updMgmt f).threads = s.threads := rfl
@[simp] theorem State.updMgmt_cores : (s.updMgmt f).cores = s.cores := rfl
@[simp] theorem State.updMgmt_dies : (s.updMgmt f).dies = s.dies := rfl
@[simp] theorem State.updMgmt_heddles : (s.updMgmt f).heddles = s.heddles := rfl
@[simp] theorem State.updMgmt_bridges : (s.updMgmt f).bridges = s.bridges := rfl
@[simp] theorem State.updMgmt_doms : (s.updMgmt f).doms = s.doms := rfl
@[simp] theorem State.updMgmt_keys : (s.updMgmt f).keys = s.keys := rfl
@[simp] theorem State.updMgmt_gangs : (s.updMgmt f).gangs = s.gangs := rfl
@[simp] theorem State.updMgmt_groups : (s.updMgmt f).groups = s.groups := rfl
@[simp] theorem State.updMgmt_forming : (s.updMgmt f).forming = s.forming := rfl
@[simp] theorem State.updMgmt_outs : (s.updMgmt f).outs = s.outs := rfl
@[simp] theorem State.updMgmt_msgs : (s.updMgmt f).msgs = s.msgs := rfl
@[simp] theorem State.updMgmt_chans : (s.updMgmt f).chans = s.chans := rfl
@[simp] theorem State.updMgmt_births : (s.updMgmt f).births = s.births := rfl
@[simp] theorem State.updMgmt_strips : (s.updMgmt f).strips = s.strips := rfl
@[simp] theorem State.updMgmt_regions : (s.updMgmt f).regions = s.regions := rfl
@[simp] theorem State.updMgmt_drafts : (s.updMgmt f).drafts = s.drafts := rfl
@[simp] theorem State.updMgmt_slots : (s.updMgmt f).slots = s.slots := rfl
@[simp] theorem State.updMgmt_nextId : (s.updMgmt f).nextId = s.nextId := rfl
@[simp] theorem State.updMgmt_freeCtr : (s.updMgmt f).freeCtr = s.freeCtr := rfl
@[simp] theorem State.updMgmt_dead : (s.updMgmt f).dead = s.dead := rfl
@[simp] theorem State.updMgmt_stopping : (s.updMgmt f).stopping = s.stopping := rfl
@[simp] theorem State.updMgmt_slow : (s.updMgmt f).slow = s.slow := rfl

end

section
variable (s : State) (i : Nat) (f : Thread → Thread)

@[simp] theorem State.updThread_tick : (s.updThread i f).tick = s.tick := by unfold State.updThread; split <;> rfl
@[simp] theorem State.updThread_cur : (s.updThread i f).cur = s.cur := by unfold State.updThread; split <;> rfl
@[simp] theorem State.updThread_agenda : (s.updThread i f).agenda = s.agenda := by unfold State.updThread; split <;> rfl
@[simp] theorem State.updThread_mem : (s.updThread i f).mem = s.mem := by unfold State.updThread; split <;> rfl
@[simp] theorem State.updThread_blocks : (s.updThread i f).blocks = s.blocks := by unfold State.updThread; split <;> rfl
@[simp] theorem State.updThread_cores : (s.updThread i f).cores = s.cores := by unfold State.updThread; split <;> rfl
@[simp] theorem State.updThread_dies : (s.updThread i f).dies = s.dies := by unfold State.updThread; split <;> rfl
@[simp] theorem State.updThread_heddles : (s.updThread i f).heddles = s.heddles := by unfold State.updThread; split <;> rfl
@[simp] theorem State.updThread_bridges : (s.updThread i f).bridges = s.bridges := by unfold State.updThread; split <;> rfl
@[simp] theorem State.updThread_doms : (s.updThread i f).doms = s.doms := by unfold State.updThread; split <;> rfl
@[simp] theorem State.updThread_keys : (s.updThread i f).keys = s.keys := by unfold State.updThread; split <;> rfl
@[simp] theorem State.updThread_gangs : (s.updThread i f).gangs = s.gangs := by unfold State.updThread; split <;> rfl
@[simp] theorem State.updThread_groups : (s.updThread i f).groups = s.groups := by unfold State.updThread; split <;> rfl
@[simp] theorem State.updThread_forming : (s.updThread i f).forming = s.forming := by unfold State.updThread; split <;> rfl
@[simp] theorem State.updThread_outs : (s.updThread i f).outs = s.outs := by unfold State.updThread; split <;> rfl
@[simp] theorem State.updThread_msgs : (s.updThread i f).msgs = s.msgs := by unfold State.updThread; split <;> rfl
@[simp] theorem State.updThread_chans : (s.updThread i f).chans = s.chans := by unfold State.updThread; split <;> rfl
@[simp] theorem State.updThread_births : (s.updThread i f).births = s.births := by unfold State.updThread; split <;> rfl
@[simp] theorem State.updThread_strips : (s.updThread i f).strips = s.strips := by unfold State.updThread; split <;> rfl
@[simp] theorem State.updThread_regions : (s.updThread i f).regions = s.regions := by unfold State.updThread; split <;> rfl
@[simp] theorem State.updThread_drafts : (s.updThread i f).drafts = s.drafts := by unfold State.updThread; split <;> rfl
@[simp] theorem State.updThread_slots : (s.updThread i f).slots = s.slots := by unfold State.updThread; split <;> rfl
@[simp] theorem State.updThread_mgmt : (s.updThread i f).mgmt = s.mgmt := by unfold State.updThread; split <;> rfl
@[simp] theorem State.updThread_nextId : (s.updThread i f).nextId = s.nextId := by unfold State.updThread; split <;> rfl
@[simp] theorem State.updThread_freeCtr : (s.updThread i f).freeCtr = s.freeCtr := by unfold State.updThread; split <;> rfl
@[simp] theorem State.updThread_dead : (s.updThread i f).dead = s.dead := by unfold State.updThread; split <;> rfl
@[simp] theorem State.updThread_stopping : (s.updThread i f).stopping = s.stopping := by unfold State.updThread; split <;> rfl
@[simp] theorem State.updThread_slow : (s.updThread i f).slow = s.slow := by unfold State.updThread; split <;> rfl

end

end Sys2Proof.Machine
end

