-- ==== Sys2Proof/Laws/Ops.lean ====
section
/-! SUPPORT. What issuing an instruction can do, once for every instruction that issues through `issue`, and what the operand
operations answer. -/

namespace Sys2Proof.Machine

/-- What a body answers is what `holding` answers, but for what a stall keeps. -/
theorem holding_ok {us : List Use} {body : Exec Next} {s u : State} {f : Next} (h : body s = .ok (f, u)) :
    holding us body s = .ok (f, u) := by
  simp [holding, h]

theorem holding_trap {us : List Use} {body : Exec Next} {s : State} {x : Trap} {keep : State → State}
    (h : body s = .error (.trap x keep)) : holding us body s = .error (.trap x keep) := by
  simp [holding, h]

/-- An instruction whose issue checks pass runs its body; one that has not issued notes what it pops where it has to wait. -/
theorem issueBody_ready {n : Need} {s : State} {t : Thread} (body : Exec Next) (h : CanIssue n s t) (hr : n.sysRel = false) :
    issueBody n body s = if (t.ctx s.cur.acc).midway then body s else holding n.uses body s := by
  have hf := h.noFault
  by_cases hm : (t.ctx s.cur.acc).midway = true
  · simp [issueBody, me, self, h.self, hm, bind, StateT.bind, Except.bind, get, getThe, MonadStateOf.get, StateT.get, pure,
      Except.pure]
  · simp [issueBody, me, self, h.self, hm, h.legal, h.cls, h.view, h.gov, h.row6, hf, h.ready, hr, bind, StateT.bind,
      Except.bind, get, getThe, MonadStateOf.get, StateT.get, pure, Except.pure]

/-- An instruction whose issue checks pass and whose body completes moves the stream on. -/
theorem issue_completes {n : Need} {s u : State} {t : Thread} {body : Exec Next} {f : Next} (h : CanIssue n s t)
    (hr : n.sysRel = false) (hb : body s = .ok (f, u)) : issue n body s = .next (u.advance n.len f) := by
  have : issueBody n body s = .ok (f, u) := by
    rw [issueBody_ready body h hr]
    split
    · exact hb
    · exact holding_ok hb
  simp [issue, finish, this]

/-- An instruction whose issue checks pass and whose body raises a trap takes it, once the other stream's access is complete. -/
theorem issue_traps {n : Need} {s : State} {t : Thread} {body : Exec Next} {x : Trap} {keep : State → State} (h : CanIssue n s t)
    (hr : n.sysRel = false) (hb : body s = .error (.trap x keep)) :
    issue n body s = .next (if s.trapWaits s.cur then s else (keep s).takeTrap s.cur x) := by
  have : issueBody n body s = .error (.trap x keep) := by
    rw [issueBody_ready body h hr]
    split
    · exact hb
    · exact holding_trap hb
  simp [issue, finish, this]

/-- A predicated-off instruction only moves the stream past itself (R101). -/
theorem issue_off {n : Need} {s : State} {t : Thread} (body : Exec Next) (h : PredicatedOff n s t) :
    issue n body s = .next (s.advance n.len .seq) := by
  have : issueBody n body s = .ok (.seq, s) := by
    simp [issueBody, me, self, h.self, h.legal, h.cls, h.view, h.gov, h.first, bind, StateT.bind, Except.bind, get, getThe,
      MonadStateOf.get, StateT.get, pure, Except.pure, StateT.pure]
  simp [issue, finish, this]

/-- A body that completes moves the stream on. -/
theorem finish_ok {len : Nat} {m : Exec Next} {s u : State} {f : Next} (h : m s = .ok (f, u)) :
    finish len m s = .next (u.advance len f) := by
  simp [finish, h]

/-- A body that raises a trap takes it, once the other stream's access is complete (R134). -/
theorem finish_trap {len : Nat} {m : Exec Next} {s : State} {x : Trap} {keep : State → State} (h : m s = .error (.trap x keep)) :
    finish len m s = .next (if s.trapWaits s.cur then s else (keep s).takeTrap s.cur x) := by
  simp [finish, h]

/-- A body that stalls leaves the state but for the recorded wait. -/
theorem finish_stall {len : Nat} {m : Exec Next} {s : State} {w : Wait} {keep : State → State}
    (h : m s = .error (.stall w keep)) :
    finish len m s = .next ((((keep s).setWait s.cur w).reachWait s.cur w).deadlock s.cur) := by
  simp [finish, h]

/-- What issuing can answer: past the instruction, a trap, a stall, or the fault of an absent issuer. -/
theorem finish_cases (len : Nat) (m : Exec Next) (s : State) :
    (∃ f u, m s = .ok (f, u) ∧ finish len m s = .next (u.advance len f)) ∨
    (∃ x keep, m s = .error (.trap x keep) ∧
      finish len m s = .next (if s.trapWaits s.cur then s else (keep s).takeTrap s.cur x)) ∨
    (∃ w keep, m s = .error (.stall w keep) ∧
      finish len m s = .next ((((keep s).setWait s.cur w).reachWait s.cur w).deadlock s.cur)) ∨
    (∃ f, m s = .error (.fault f) ∧ finish len m s = .fault f) := by
  unfold finish
  cases hm : m s with
  | ok p => obtain ⟨f, u⟩ := p; exact .inl ⟨f, u, rfl, rfl⟩
  | error e =>
    cases e with
    | trap x k => exact .inr (.inl ⟨x, k, rfl, rfl⟩)
    | stall w k => exact .inr (.inr (.inl ⟨w, k, rfl, rfl⟩))
    | fault f => exact .inr (.inr (.inr ⟨f, rfl, rfl⟩))

/-- Noting what a stream has popped does nothing while its instruction has not issued, and a wait recorded next is all that shows. -/
theorem setWait_noteHeld {s : State} {t : Thread} (us : List Use) (w : Wait) (h : s.thread? s.cur.tid = some t)
    (hm : (t.ctx s.cur.acc).midway = false) : (s.noteHeld us).setWait s.cur w = s.setWait s.cur w := by
  have he : s.noteHeld us = s.setThread s.cur.tid t := by
    unfold State.noteHeld State.updThread
    rw [h]
    congr 1
    cases ha : s.cur.acc <;> simp [ha, Thread.ctx] at hm <;> simp [Thread.updCtx, hm]
  rw [he]
  unfold State.setWait State.updThread
  rw [State.thread?_setThread_same, h]
  simp [State.setThread, alSet_alSet]

end Sys2Proof.Machine
end

