-- ==== Sys2Proof/Laws/Operands.lean ====
section
/-! SUPPORT. What reading and writing an operand field answers, and that operands that are ready can all be read and written. -/

namespace Sys2Proof.Machine

/-- The operand uses `us` can still be served: the issuing thread's queues and ports hold what they pop, and no mesh field lies
at an edge. -/
structure Room (us : List Use) (s : State) : Prop where
  self : ∃ t, s.thread? s.cur.tid = some t ∧ (∀ k, pops us k ≤ (vget t.q k []).length) ∧
    (∀ d, portPops us d ≤ (vget (s.core t.core).ports d []).length) ∧
    (∀ u ∈ us, ∀ d b, u.port = some (d, b) → (neighbour t.core d).isSome = true)

theorem Room.perm {us vs : List Use} {s : State} (h : Room us s) (hp : us.Perm vs) : Room vs s := by
  obtain ⟨t, h1, h2, h3, h4⟩ := h.self
  refine ⟨t, h1, fun k => ?_, fun d => ?_, fun u hu => h4 u (hp.mem_iff.mpr hu)⟩
  · have := (hp.filter (fun u => u.queue == some (k, false))).length_eq
    simp only [pops] at h2 ⊢
    rw [← this]; exact h2 k
  · have := (hp.filter (fun u => u.port == some (d, false))).length_eq
    simp only [portPops] at h3 ⊢
    rw [← this]; exact h3 d

@[simp] theorem bindRun {α β : Type} (m : Exec α) (f : α → Exec β) (s : State) :
    (m >>= f) s = match m s with
      | .ok (x, u) => f x u
      | .error e => .error e := by
  simp only [bind, StateT.bind, Except.bind]
  cases m s <;> rfl

@[simp] theorem mapRun {α β : Type} (f : α → β) (m : Exec α) (s : State) :
    (f <$> m) s = match m s with
      | .ok (x, u) => .ok (f x, u)
      | .error e => .error e := by
  simp only [Functor.map, StateT.map, bind, Except.bind]
  cases m s <;> rfl

@[simp] theorem pureRun {α : Type} (x : α) (s : State) : (pure x : Exec α) s = .ok (x, s) := rfl
@[simp] theorem meRun (s : State) : me s = .ok (s.cur, s) := rfl
@[simp] theorem getRun (s : State) : (get : Exec State) s = .ok (s, s) := rfl
@[simp] theorem modifyRun (f : State → State) (s : State) : (modify f : Exec Unit) s = .ok ((), f s) := rfl
@[simp] theorem setRun (u s : State) : (set u : Exec Unit) s = .ok ((), u) := rfl
@[simp] theorem updSelfRun (f : Thread → Thread) (s : State) : updSelf f s = .ok ((), s.updThread s.cur.tid f) := rfl
@[simp] theorem raiseRun {α : Type} (c : Cause) (a x : Word) (s : State) :
    (raise c a x : Exec α) s = .error (.trap { cause := c, addr := a, extra := x, pc := none } id) := rfl

theorem selfRun {s : State} {t : Thread} (h : s.thread? s.cur.tid = some t) : self s = .ok (t, s) := by
  simp [self, h]

/-- A register source reads the register, zero for register 0 of a full or heddle thread (R17). -/
theorem getS_reg {s : State} {t : Thread} {c : BitVec 5} (h : s.thread? s.cur.tid = some t) (hc : c.toNat < 24) :
    getS c s = .ok (t.getReg s.cur.acc c.toNat, s) := by
  simp [getS, hc, selfRun h]

/-- A register destination writes the register. -/
theorem setS_reg {s : State} {c : BitVec 5} {w : Word} (hc : c.toNat < 24) : setS c w s = .ok ((), s.putScalar c.toNat w) := by
  simp [setS, hc]

theorem popQueue_cons {s : State} {t : Thread} {k : Nat} {e : QEntry} {l : List QEntry} (h : s.thread? s.cur.tid = some t)
    (hq : vget t.q k [] = e :: l) :
    popQueue k s = .ok (e.value, s.updThread s.cur.tid (fun t => { t with q := vset t.q k l })) := by
  simp [popQueue, selfRun h, hq]

theorem popPort_cons {s : State} {t : Thread} {d : Nat} {e : PortEntry} {l : List PortEntry} (h : s.thread? s.cur.tid = some t)
    (hq : vget (s.core t.core).ports d [] = e :: l) :
    popPort d s = .ok (e, s.updCore t.core (fun k => { k with ports := vset k.ports d l })) := by
  simp [popPort, selfRun h, hq]

theorem pushPort_ok {s : State} {t : Thread} {d n : Nat} {e : PortEntry} (h : s.thread? s.cur.tid = some t)
    (hn : neighbour t.core d = some n) :
    pushPort d e s = .ok ((), s.updCore n (fun k =>
      { k with ports := vset k.ports (opposite d) (vget k.ports (opposite d) [] ++ [e]) })) := by
  simp [pushPort, selfRun h, hn]

theorem pops_cons (u : Use) (us : List Use) (k : Nat) :
    pops (u :: us) k = pops us k + (if u.queue = some (k, false) then 1 else 0) := by
  by_cases h : u.queue = some (k, false) <;> simp [pops, h]

theorem portPops_cons (u : Use) (us : List Use) (d : Nat) :
    portPops (u :: us) d = portPops us d + (if u.port = some (d, false) then 1 else 0) := by
  by_cases h : u.port = some (d, false) <;> simp [portPops, h]

/-- A use that pops nothing may be dropped. -/
theorem Room.tail {u : Use} {us : List Use} {s : State} (h : Room (u :: us) s) : Room us s := by
  obtain ⟨t, h1, h2, h3, h4⟩ := h.self
  refine ⟨t, h1, fun k => ?_, fun d => ?_, fun v hv => h4 v (List.mem_cons_of_mem _ hv)⟩
  · have := h2 k; rw [pops_cons] at this; omega
  · have := h3 d; rw [portPops_cons] at this; omega

/-- After a pop of queue k the rest can still be served. -/
theorem Room.popQueue {u : Use} {us : List Use} {s : State} {k : Nat} (hk : k < 4) (h : Room (u :: us) s)
    (hu : u.queue = some (k, false)) : ∃ x v, popQueue k s = .ok (x, v) ∧ Room us v ∧ v.cur = s.cur := by
  obtain ⟨t, h1, h2, h3, h4⟩ := h.self
  have hq := h2 k
  rw [pops_cons] at hq
  simp only [hu, if_true] at hq
  cases hl : vget t.q k [] with
  | nil => simp [hl] at hq
  | cons e l =>
    refine ⟨_, _, popQueue_cons h1 hl, ?_, by simp⟩
    refine ⟨{ t with q := vset t.q k l }, ?_, fun j => ?_, fun d => ?_, fun v hv => h4 v (List.mem_cons_of_mem _ hv)⟩
    · simpa using State.thread?_updThread_same _ h1
    · by_cases hj : j = k
      · subst hj
        rw [vget_vset_same _ _ _ hk]
        simp only [hl, List.length_cons] at hq
        omega
      · rw [vget_vset_other _ _ _ hj]
        have := h2 j
        rw [pops_cons] at this
        omega
    · have := h3 d
      rw [portPops_cons] at this
      simpa using Nat.le_trans (Nat.le_add_right _ _) this

/-- After a pop of an inbound port the rest can still be served. -/
theorem Room.popPort {u : Use} {us : List Use} {s : State} {d : Nat} (hd : d < 4) (h : Room (u :: us) s)
    (hu : u.port = some (d, false)) : ∃ x v, popPort d s = .ok (x, v) ∧ Room us v ∧ v.cur = s.cur := by
  obtain ⟨t, h1, h2, h3, h4⟩ := h.self
  have hq := h3 d
  rw [portPops_cons] at hq
  simp only [hu, if_true] at hq
  cases hl : vget (s.core t.core).ports d [] with
  | nil => simp [hl] at hq
  | cons e l =>
    refine ⟨_, _, popPort_cons h1 hl, ?_, rfl⟩
    refine ⟨t, by simpa using h1, fun j => ?_, fun j => ?_, fun v hv => h4 v (List.mem_cons_of_mem _ hv)⟩
    · have := h2 j
      rw [pops_cons] at this
      omega
    · simp only [State.core_updCore_same]
      by_cases hj : j = d
      · subst hj
        rw [vget_vset_same _ _ _ hd]
        simp only [hl, List.length_cons] at hq
        omega
      · rw [vget_vset_other _ _ _ hj]
        have := h3 j
        rw [portPops_cons] at this
        omega

theorem getS_queue {c : BitVec 5} {s u : State} {x : Word} (h1 : ¬c.toNat < 24) (h2 : c.toNat < 28)
    (h : Machine.popQueue (c.toNat - 24) s = .ok (x, u)) : getS c s = .ok (x, u) := by
  simp [getS, h1, h2, h]

theorem getS_port {c : BitVec 5} {s u : State} {e : PortEntry} (h1 : ¬c.toNat < 24) (h2 : ¬c.toNat < 28)
    (h : Machine.popPort (c.toNat - 28) s = .ok (e, u)) : getS c s = .ok (e.scalarValue, u) := by
  simp [getS, h1, h2, h]

theorem getV_port {c : BitVec 5} {s u : State} {e : PortEntry} (h2 : ¬c.toNat < 28)
    (h : Machine.popPort (c.toNat - 28) s = .ok (e, u)) : getV c s = .ok (e.vectorValue, u) := by
  simp [getV, h2, h]

/-- A scalar source that is ready can be read. -/
theorem Room.getS {c : BitVec 5} {us : List Use} {s : State} (h : Room (.sR c :: us) s) :
    ∃ x u, getS c s = .ok (x, u) ∧ Room us u ∧ u.cur = s.cur := by
  have hc : c.toNat < 32 := c.isLt
  by_cases h1 : c.toNat < 24
  · obtain ⟨t, ht, _⟩ := h.self
    exact ⟨_, _, getS_reg ht h1, h.tail, rfl⟩
  · by_cases h2 : c.toNat < 28
    · obtain ⟨x, v, hp, hr, hv⟩ := h.popQueue (k := c.toNat - 24) (by omega) (by simp [Use.queue]; omega)
      exact ⟨x, v, getS_queue h1 h2 hp, hr, hv⟩
    · obtain ⟨e, v, hp, hr, hv⟩ := h.popPort (d := c.toNat - 28) (by omega) (by simp [Use.port]; omega)
      exact ⟨_, v, getS_port h1 h2 hp, hr, hv⟩

/-- A vector source that is ready can be read. -/
theorem Room.getV {c : BitVec 5} {us : List Use} {s : State} (h : Room (.vR c :: us) s) :
    ∃ x u, getV c s = .ok (x, u) ∧ Room us u ∧ u.cur = s.cur := by
  have hc : c.toNat < 32 := c.isLt
  by_cases h1 : c.toNat < 28
  · obtain ⟨t, ht, _⟩ := h.self
    exact ⟨vget t.v c.toNat 0, s, by simp [Machine.getV, h1, selfRun ht], h.tail, rfl⟩
  · obtain ⟨e, v, hp, hr, hv⟩ := h.popPort (d := c.toNat - 28) (by omega) (by simp [Use.port]; omega)
    exact ⟨_, v, getV_port h1 hp, hr, hv⟩

/-- Changing the issuing thread's registers keeps the room for operands. -/
theorem Room.updThread {us : List Use} {s : State} (f : Thread → Thread) (h : Room us s)
    (hq : ∀ t k, (vget t.q k []).length ≤ (vget (f t).q k []).length) (hc : ∀ t, (f t).core = t.core) :
    Room us (s.updThread s.cur.tid f) := by
  obtain ⟨t, h1, h2, h3, h4⟩ := h.self
  refine ⟨f t, by simpa using State.thread?_updThread_same f h1, fun k => Nat.le_trans (h2 k) (hq t k), fun d => ?_, ?_⟩
  · simpa [hc] using h3 d
  · simpa [hc] using h4

/-- Pushing into a port keeps the room for operands. -/
theorem Room.updPorts {us : List Use} {s : State} {n : Nat} (f : Core → Core) (h : Room us s)
    (hp : ∀ k d, (vget k.ports d []).length ≤ (vget (f k).ports d []).length) : Room us (s.updCore n f) := by
  obtain ⟨t, h1, h2, h3, h4⟩ := h.self
  refine ⟨t, by simpa using h1, h2, fun d => ?_, h4⟩
  by_cases hn : t.core = n
  · subst hn
    simpa using Nat.le_trans (h3 d) (hp _ d)
  · rw [State.core_updCore_other _ _ hn]
    exact h3 d

theorem length_vget_push {α : Type} {n : Nat} (v : Vector (List α) n) (k j : Nat) (e : α) :
    (vget v j []).length ≤ (vget (vset v k (vget v k [] ++ [e])) j []).length := by
  by_cases hj : j = k
  · subst hj
    by_cases hk : j < n
    · rw [vget_vset_same _ _ _ hk]; simp
    · simp [vget, vset, hk]
  · rw [vget_vset_other _ _ _ hj]

/-- A push to a port that no edge stops. -/
theorem Room.pushPort {us : List Use} {u : Use} {s : State} {d : Nat} {b : Bool} (e : PortEntry) (h : Room (u :: us) s)
    (hu : u.port = some (d, b)) : ∃ v, pushPort d e s = .ok ((), v) ∧ Room us v ∧ v.cur = s.cur := by
  obtain ⟨t, h1, _, _, h4⟩ := h.self
  have := h4 u (List.mem_cons_self ..) d b hu
  obtain ⟨n, hn⟩ := Option.isSome_iff_exists.mp this
  exact ⟨_, pushPort_ok h1 hn, h.tail.updPorts _ (fun k j => length_vget_push k.ports _ j e), rfl⟩

theorem getCtx_q (t : Thread) (a : Bool) (f : Ctx → Ctx) : (t.updCtx a f).q = t.q := by cases a <;> rfl
theorem getCtx_core (t : Thread) (a : Bool) (f : Ctx → Ctx) : (t.updCtx a f).core = t.core := by cases a <;> rfl

/-- A scalar destination can be written. -/
theorem Room.setS {c : BitVec 5} {us : List Use} {s : State} (w : Word) (h : Room (.sW c :: us) s) :
    ∃ u, setS c w s = .ok ((), u) ∧ Room us u ∧ u.cur = s.cur := by
  by_cases h1 : c.toNat < 24
  · refine ⟨_, setS_reg h1, h.tail.updThread _ (fun t k => ?_) (fun t => ?_), by simp [State.putScalar]⟩
    · unfold Thread.putReg; split
      · exact Nat.le_refl _
      · rw [getCtx_q]
    · unfold Thread.putReg; split
      · rfl
      · exact getCtx_core _ _ _
  · by_cases h2 : c.toNat < 28
    · refine ⟨s.updThread s.cur.tid (fun t =>
        { t with q := vset t.q (c.toNat - 24) (vget t.q (c.toNat - 24) [] ++ [.filled w]) }), ?_, ?_, ?_⟩
      · simp [Machine.setS, h1, h2]
      · exact h.tail.updThread _ (fun t k => length_vget_push t.q _ k _) (fun t => rfl)
      · simp
    · have hc : c.toNat < 32 := c.isLt
      obtain ⟨v, hp, hr, hv⟩ := h.pushPort (d := c.toNat - 28) (b := true) (.scalar w) (by simp [Use.port]; omega)
      exact ⟨v, by simp [Machine.setS, h1, h2, hp], hr, hv⟩

/-- A vector destination can be written. -/
theorem Room.setV {c : BitVec 5} {us : List Use} {s : State} (x : VWord) (h : Room (.vW c :: us) s) :
    ∃ u, setV c x s = .ok ((), u) ∧ Room us u ∧ u.cur = s.cur := by
  by_cases h2 : c.toNat < 28
  · refine ⟨s.updThread s.cur.tid (fun t => { t with v := vset t.v c.toNat x, vdirty := true }), ?_, ?_, ?_⟩
    · simp [Machine.setV, h2]
    · exact h.tail.updThread _ (fun t k => Nat.le_refl _) (fun t => rfl)
    · simp
  · obtain ⟨v, hp, hr, hv⟩ := h.pushPort (d := c.toNat - 28) (b := true) (.vector x) (by simp [Use.port]; omega)
    exact ⟨v, by simp [Machine.setV, h2, hp], hr, hv⟩

theorem reg_none_of_queue {u : Use} {t : Thread} {k : Nat} {b : Bool} (h : u.queue = some (k, b)) : u.reg t = none := by
  cases u <;> simp [Use.queue] at h <;> simp [Use.reg] <;> omega

theorem reg_none_of_port {u : Use} {t : Thread} {d : Nat} {b : Bool} (h : u.port = some (d, b)) : u.reg t = none := by
  cases u <;> simp [Use.port] at h <;> simp [Use.reg] <;> omega

theorem queue_none_of_port {u : Use} {d : Nat} {b : Bool} (h : u.port = some (d, b)) : u.queue = none := by
  cases u <;> simp [Use.port] at h <;> simp [Use.queue] <;> omega

/-- Nothing is waited for exactly when no field waits. -/
theorem operandWait_eq_none {us : List Use} {s : State} {t : Thread} {acc : Bool} :
    operandWait us s t acc = none ↔ ∀ u ∈ us, useWait us s t acc u = none := by
  simp only [operandWait, Option.or_eq_none_iff, List.head?_eq_none_iff, List.filterMap_eq_nil_iff]
  refine ⟨fun h => h.2, fun h => ⟨?_, h⟩⟩
  rw [List.filterMap_eq_nil_iff.mpr h]; rfl

/-- Operands that are not waited for can be served. -/
theorem CanIssue.room {n : Need} {s : State} {t : Thread} (h : CanIssue n s t) : Room n.uses s := by
  have hw := h.ready
  rw [operandWait_eq_none] at hw
  refine ⟨t, h.self, fun k => ?_, fun d => ?_, fun u hu d b hp => ?_⟩
  · by_cases h0 : pops n.uses k = 0
    · omega
    · obtain ⟨u, hu⟩ := List.exists_mem_of_length_pos (Nat.pos_of_ne_zero h0)
      simp only [List.mem_filter, beq_iff_eq] at hu
      have := hw u hu.1
      simp only [useWait, reg_none_of_queue hu.2, hu.2] at this
      by_cases hl : ((vget t.q k []).take (pops n.uses k)).length < pops n.uses k
      · rw [if_pos hl] at this; cases this
      · simp only [List.length_take] at hl; omega
  · by_cases h0 : portPops n.uses d = 0
    · omega
    · obtain ⟨u, hu⟩ := List.exists_mem_of_length_pos (Nat.pos_of_ne_zero h0)
      simp only [List.mem_filter, beq_iff_eq] at hu
      have := hw u hu.1
      simp only [useWait, reg_none_of_port hu.2, queue_none_of_port hu.2, hu.2] at this
      by_cases hl : ((vget (s.core t.core).ports d []).take (portPops n.uses d)).length < portPops n.uses d
      · rw [if_pos (by simp only [hl, decide_true, Bool.true_or])] at this; cases this
      · simp only [List.length_take] at hl; omega
  · have h6 := h.row6
    unfold Machine.row6 at h6
    dsimp only at h6
    split at h6
    · simp at h6
    · split at h6
      · simp at h6
      · rename_i _ hedge
        exact Classical.byContradiction (fun hn => hedge (List.any_eq_true.mpr ⟨u, hu, by simpa [hp] using hn⟩))

/-- Two states differ at most in one queue of the issuing thread or one inbound port of its core: what reading a source can
change. -/
def ReadFrom (s u : State) : Prop :=
  u = s ∨ (∃ k l, u = s.updThread s.cur.tid (fun t => { t with q := vset t.q k l })) ∨
    (∃ t d l, s.thread? s.cur.tid = some t ∧ u = s.updCore t.core (fun k => { k with ports := vset k.ports d l }))

theorem popQueue_inv {k : Nat} {s u : State} {x : Word} (h : Machine.popQueue k s = .ok (x, u)) : ReadFrom s u := by
  unfold Machine.popQueue at h
  simp only [bindRun] at h
  cases ht : s.thread? s.cur.tid with
  | none => simp [Machine.self, ht] at h
  | some t =>
    simp only [selfRun ht] at h
    cases hq : vget t.q k [] with
    | nil => simp [hq, Machine.stall] at h
    | cons e l =>
      simp only [hq, bindRun, updSelfRun, pureRun] at h
      cases h
      exact .inr (.inl ⟨k, l, rfl⟩)

theorem popPort_inv {d : Nat} {s u : State} {x : PortEntry} (h : Machine.popPort d s = .ok (x, u)) : ReadFrom s u := by
  unfold Machine.popPort at h
  simp only [bindRun] at h
  cases ht : s.thread? s.cur.tid with
  | none => simp [Machine.self, ht] at h
  | some t =>
    simp only [selfRun ht, getRun] at h
    cases hq : vget (s.core t.core).ports d [] with
    | nil => simp [hq, Machine.stall] at h
    | cons e l =>
      simp only [hq, bindRun, setRun, pureRun] at h
      cases h
      exact .inr (.inr ⟨t, d, l, ht, rfl⟩)

/-- Reading a scalar source changes at most the queue or port it pops. -/
theorem getS_inv {c : BitVec 5} {s u : State} {x : Word} (h : Machine.getS c s = .ok (x, u)) : ReadFrom s u := by
  unfold Machine.getS at h
  split at h
  · simp only [bindRun] at h
    cases ht : s.thread? s.cur.tid with
    | none => simp [Machine.self, ht] at h
    | some t => simp [selfRun ht] at h; exact .inl h.2.symm
  · split at h
    · exact popQueue_inv h
    · simp only [bindRun] at h
      cases hp : Machine.popPort (c.toNat - 28) s with
      | error e => simp [hp] at h
      | ok r =>
        obtain ⟨e, v⟩ := r
        simp [hp] at h
        obtain ⟨_, rfl⟩ := h
        exact popPort_inv hp

/-- Reading a vector source changes at most the port it pops. -/
theorem getV_inv {c : BitVec 5} {s u : State} {x : VWord} (h : Machine.getV c s = .ok (x, u)) : ReadFrom s u := by
  unfold Machine.getV at h
  split at h
  · simp only [bindRun] at h
    cases ht : s.thread? s.cur.tid with
    | none => simp [Machine.self, ht] at h
    | some t => simp [selfRun ht] at h; exact .inl h.2.symm
  · simp only [bindRun] at h
    cases hp : Machine.popPort (c.toNat - 28) s with
    | error e => simp [hp] at h
    | ok r =>
      obtain ⟨e, v⟩ := r
      simp [hp] at h
      obtain ⟨_, rfl⟩ := h
      exact popPort_inv hp

theorem ReadFrom.cur {s u : State} (h : ReadFrom s u) : u.cur = s.cur := by
  rcases h with rfl | ⟨k, l, rfl⟩ | ⟨t, d, l, _, rfl⟩ <;> simp

theorem ReadFrom.mem {s u : State} (h : ReadFrom s u) : u.mem = s.mem := by
  rcases h with rfl | ⟨k, l, rfl⟩ | ⟨t, d, l, _, rfl⟩ <;> simp

/-- Reading a source leaves both streams' registers and the thread's place as they are. -/
theorem ReadFrom.thread {s u : State} {t : Thread} (h : ReadFrom s u) (ht : s.thread? s.cur.tid = some t) :
    ∃ q, u.thread? s.cur.tid = some { t with q := q } := by
  rcases h with rfl | ⟨k, l, rfl⟩ | ⟨t', d, l, _, rfl⟩
  · exact ⟨t.q, ht⟩
  · exact ⟨vset t.q k l, State.thread?_updThread_same _ ht⟩
  · exact ⟨t.q, by simpa using ht⟩

theorem ReadFrom.ctx {s u : State} {t : Thread} (h : ReadFrom s u) (ht : s.thread? s.cur.tid = some t) :
    Machine.ctx u = .ok (t.ctx s.cur.acc, u) := by
  obtain ⟨q, hq⟩ := h.thread ht
  have hs : Machine.self u = .ok ({ t with q := q }, u) := selfRun (by rw [h.cur]; exact hq)
  simp [Machine.ctx, hs, h.cur, Thread.ctx]

theorem ReadFrom.trans {s u v : State} {t : Thread} (h1 : ReadFrom s u) (h2 : ReadFrom u v)
    (ht : s.thread? s.cur.tid = some t) : v.cur = s.cur ∧ v.mem = s.mem ∧ (∃ q, v.thread? s.cur.tid = some { t with q := q }) ∧
      Machine.ctx v = .ok (t.ctx s.cur.acc, v) := by
  obtain ⟨q, hq⟩ := h1.thread ht
  obtain ⟨q', hq'⟩ := h2.thread (t := { t with q := q }) (by rw [h1.cur]; exact hq)
  refine ⟨by rw [h2.cur, h1.cur], by rw [h2.mem, h1.mem], ⟨q', by rw [← h1.cur]; exact hq'⟩, ?_⟩
  have := h2.ctx (t := { t with q := q }) (by rw [h1.cur]; exact hq)
  simpa [h1.cur, Thread.ctx] using this

end Sys2Proof.Machine
end

