-- ==== Sys2Proof/Tests/Slice0.lean ====
section
/-! SUPPORT. Tests: words written out from the spec's encodings, ill-formed terms, single steps, and for each statement with hypotheses a
state that meets them. -/

set_option maxRecDepth 100000
set_option Elab.async false

namespace Sys2Proof.Tests

open Sys2Proof.Machine

/-- No governing predicate. -/
def gNone : Gov := { p := 0, n := false }

/-- The governing predicate p3. -/
def gP3 : Gov := { p := 3, n := false }

/-- No ordering. -/
def oNone : Ord := { acq := false, rel := false, scope := 0 }

/-- Release at a scope. -/
def oRel (scope : BitVec 3) : Ord := { acq := false, rel := true, scope := scope }

/-- A modifier word with no field set. -/
def modNone : Mod :=
  { rnd := 0, pow := 0, absb := false, absa := false, negb := false, nega := false, clamp := 0, sat := false }

/-- Each pair's word decodes to its instruction. -/
noncomputable def decodes (l : List (Nat × Instr)) : Bool := l.all (fun p => decodeTableWord 32 p.1 == some p.2)

/-- A word of format RR from its fields (Table 2.1). -/
def wordRR (f : BitVec 6) (pn : BitVec 1) (p : BitVec 3) (b a d : BitVec 5) (m : BitVec 6) : Nat :=
  (f ++ pn ++ p ++ b ++ a ++ d ++ m ++ 1#1).toNat

/-- A word of format RI or MI from its fields (Table 2.1). -/
def wordRI (i : BitVec 12) (f : BitVec 3) (a d : BitVec 5) (m : BitVec 6) : Nat := (i ++ f ++ a ++ d ++ m ++ 1#1).toNat

/-- A word of format X from its fields (Table 2.1). -/
def wordX (f rel acq scope : Nat) (b a t : BitVec 5) (m : BitVec 6) : Nat :=
  (BitVec.ofNat 5 f ++ BitVec.ofNat 1 rel ++ BitVec.ofNat 1 acq ++ BitVec.ofNat 3 scope ++ b ++ a ++ t ++ m ++ 1#1).toNat

/-- Majors 0x01 to 0x05: Table 2.6, the encoding tables of 04_isa_scalar and 14 to 20, and fields by Table 2.5. -/
theorem test_decode_integer : decodes
    [(0x000A4183, .add 3 4 5 gNone), (0x00303183, .add 3 3 24 gNone), (0x00085283, .add 5 5 4 gNone),
     (0x0C086303, .or 6 6 4 gNone), (0x780A4103, .cmppLtS64 2 4 5 gNone), (0x8ACA4303, .sel 6 4 5 { p := 3, n := true }),
     (0xFFF03185, .addi 3 3 0xFFF), (0x0012A585, .andi 11 10 1), (0x02145285, .ori 5 5 0x021), (0x02085285, .shli 5 5 32),
     (0x012AA505, .shri 10 10 18), (0x12345487, .lih 9 0x12345), (0x0C0A438B, .lea 7 4 5 3),
     (wordRR 0 0 0 2 1 3 4, .mul 3 1 2 gNone), (wordRR 6 1 2 2 1 3 4, .remN64 3 1 2 { p := 2, n := true }),
     (wordRR 9 0 0 0 1 3 5, .pchk 3 1), (wordRR 0x15 0 0 7 0 3 1, .clz 3 7 gNone)] = true := by decide +kernel

/-- Majors 0x06 to 0x0E. -/
theorem test_decode_control : decodes
    [(0xFD0A038D, .bne 7 0 0x3F4 1), (0x0598440D, .bge 8 4 22 0), (0x0038038F, .beqz 7 28 0), (0x0018020F, .beqz 4 12 0),
     (0x0003BF11, .j 0x77E), (0xFFFFF511, .j 0x1FFFFEA), (0x00008013, .jal 0x100), (0x00040015, .ret 0),
     (wordRI 8 0 4 0 0x0A, .jr 4 8), (wordRI 8 1 4 6 0x0A, .jalr 6 4 8),
     (0xFFD83317, .loop 6 0x7FEC 3), (0xFF781217, .loop 4 0x7FBC 1), (0x00027019, .astart 7 1), (0x08008019, .pushb 8),
     (wordRR 3 0 0 25 0 0 0x0C, .qclr 25), (wordRR 4 0 0 26 0 5 0x0C, .qlen 5 26), (0x000C101B, .brq 6 1),
     (0x0510029D, .mfs 5 0x051), (0x0400051D, .mfs 10 0x040), (0x0700049D, .mfs 9 0x070), (wordRI 0x050 1 4 0 0x0E, .mts 4 0x050)] =
    true := by decide +kernel

/-- Majors 0x0F to 0x18. -/
theorem test_decode_memory : decodes
    [(0x1CCC521F, .ffma 4 5 6 gP3), (wordRR 0x0E 0 0 6 5 2 0x0F, .fcmppEq 2 5 6 gNone), (0xFF8A44A1, .ldN32 9 4 0xFF8),
     (0x010C42A1, .ldB64 5 4 16), (0x004423A3, .stB32 7 2 4), (0x980A4325, .ldIndexed 6 4 5 2 true 2 gNone),
     (wordRR 0x2A 0 0 5 4 6 0x12, .stIndexed 6 4 5 2 2 gNone), (0x0418A427, .ldb 8 10 12 false 1 gNone),
     (wordRR 0x0B 0 0 12 10 8 0x13, .stb 8 10 12 3 gNone),
     (0x0F0A44A9, .amoAdd 9 4 5 false { acq := true, rel := true, scope := 4 }), (0x0D4E1429, .amoAdd 8 1 7 false (oRel 5)),
     (wordX 0x1A 0 0 0 5 4 9 0x14, .amoFaddF32 9 4 5 oNone), (0x04C0002B, .fenceRel 3), (0x0800302D, .pref 3 0x080),
     (0x0884702D, .ipref 7 0x088), (0x0056002F, .barSync 5), (wordRI 0x7FF 4 0 6 0x17, .barTest 6 0x7FF),
     (0x050E64B1, .send 9 6 7 (oRel 4)), (wordX 1 0 0 0 7 6 9 0x18, .recv 9 6 7), (wordX 2 0 0 0 7 6 0 0x18, .rbind 6 7)] =
    true := by decide +kernel

/-- Majors 0x19 to 0x22 and the compact halfwords. -/
theorem test_decode_vector : decodes
    [(0x440000B3, .vid 1 gNone), (0x800A10B3, .vaddS32ScalarB 1 1 5 gNone), (0x000A41B3, .vaddS32 3 4 5 gNone),
     (wordRR 0x10 0 0 5 0 1 0x19, .vsplat 1 5 gNone), (wordRR 3 0 0 5 4 3 0x1A, .vdivF32 3 4 5 gNone),
     (wordRR 0x09 0 0 5 0 3 0x1A, .vrcpF32 3 5 gNone), (0x028620B7, .vfmaF32 1 2 3 { p := 2, n := true }),
     (0x80081137, .vfmaF32ScalarB 2 1 4 gNone), (0x1C049439, .vcvtF32E4m3 8 9 2 gNone), (0x28000139, .vqntBx4 2 0 gNone),
     (0x0000733B, .vredsumF32 6 7 gNone), (wordRR 3 0 0 5 4 3 0x1E, .vbcast 3 4 5 gNone), (0x1CCA413F, .vcmpLtF32 2 4 5 gP3),
     (wordRR 0x0E 0 0 5 0 3 0x1F, .pcnt 3 5 gNone), (0x000020C1, .vldB32 1 2 gNone), (0x04003141, .vstB32 2 3 gNone),
     (0x000A41C3, .vgatherB32 3 4 5 gNone), (0x000012C5, .vsetl 5 1), (wordRR 4 0 0 5 0 3 0x22, .lsstx 3 5 gNone)] = true ∧
    decodeTableWord 16 0xA4A4 = some (.vmulF32Compact 5 9 true) := by
  constructor <;> decide +kernel

/-- Majors 0x23 to 0x2B. -/
theorem test_decode_engines : decodes
    [(0x000A44C7, .mstream 9 4 5 oNone), (0x144E6547, .mdrain 10 6 7 (oRel 1)), (0x18000047, .mwait), (0x00008049, .mfmt 8),
     (0x040A4049, .mlatch 4 5), (0x08062349, .mgeom 6 2 3), (0x180042C9, .mrow 5 4), (wordRR 7 0 0 0 4 5 0x24, .mrowst 5 4),
     (0x000A41CB, .baddqBx4 3 4 5), (0x000044CD, .copy 9 4 oNone), (0x04C044CD, .copy 9 4 (oRel 3)),
     (wordX 0 0 0 0 0 4 9 0x27, .copyl 9 4 oNone), (wordX 0 0 0 0 0 4 9 0x28, .halo 9 4 oNone), (0x00006553, .weft 10 6 oNone),
     (0x000002D5, .seal 5), (0x00220055, .bwait 2), (0x00140355, .cseq 6 1), (0x00047057, .chain 7 2)] = true := by
  decide +kernel

/-- Majors 0x2C to 0x33. -/
theorem test_decode_system : decodes
    [(0x000A45D9, .launch 11 4 5), (0x08006059, .spawn 0 6), (0x0000805B, .suspend 8), (wordRI 0 1 0 0 0x2D, .yield),
     (0x0004005B, .exit), (0x000042DD, .grpForm 5 4), (wordRI 0 1 0 0 0x2E, .grpJoin), (wordRI 0 2 0 0 0x2E, .grpLeave),
     (0x000003DF, .seqOpen 7), (0x0002405F, .seqClose 4), (0x0004705F, .seqBind 7), (0x03F00061, .trap 0x3F),
     (wordRI 0 1 0 0 0x30, .rfe), (wordRI 0 2 0 0 0x30, .wfm), (0xC00602E1, .mfsp 5 0xC00), (wordRI 0x808 4 5 0 0x30, .mtsp 5 0x808),
     (0x000041E3, .dirLd 3 4), (0x040A1063, .dirSt 1 5), (0x0C0A4063, .tagSet 4 5), (0x080A4065, .reply 4 5),
     (wordX 2 0 0 0 0 4 0 0x32, .nack 4), (0x180C1065, .fwd 1 6), (0x00001065, .bxfer 0 1 0), (0x00000067, .hend)] = true := by
  decide +kernel

/-- Table 2.6's last row and `vadd.s32 mod(sat)` of 05_isa_vector: a modifier word and its instruction are 8 bytes. -/
theorem test_decode_modified :
    decode [0x7F, 0x08, 0x20, 0x00, 0xB7, 0x20, 0x86, 0x02] =
      .ok (.modifierWord { modNone with rnd := 2, negb := true } (.vfmaF32 1 2 3 { p := 2, n := true }), 8) ∧
    decode [0xFF, 0x00, 0x00, 0x00, 0xB3, 0x41, 0x0A, 0x00] =
      .ok (.modifierWord { modNone with sat := true } (.vaddS32 3 4 5 gNone), 8) := by
  constructor <;> decide +kernel

/-- R46, R54, R57, R59, R60: what no instruction is, by name. -/
theorem test_decode_refuses :
    decode [0x00, 0x00, 0x00, 0x00] = .error (.illegal .zeroHalfword) ∧
    decode [0x69, 0x00, 0x00, 0x00] = .error (.illegal .reservedMajor) ∧
    decode (leBytes 4 (wordRR 0x23 0 0 5 4 3 1)) = .error (.illegal .unassignedCode) ∧
    decode (leBytes 4 (wordRR 0x15 0 0 7 1 3 1)) = .error (.illegal .nonzeroUnused) ∧
    decode [0x7F, 0x00, 0x80, 0x00, 0xB7, 0x20, 0x86, 0x02] = .error (.illegal .badModifier) := by
  refine ⟨?_, ?_, ?_, ?_, ?_⟩ <;> decide +kernel

/-- An ill-formed term for each check of `Instr.wf`, which refuses it, beside a well-formed neighbour (R52, R53, R55, R57, R119, R122,
R199; Tables 0.1, 2.3, 2.5). -/
theorem test_wf_refuses :
    ([(Instr.add 3 4 5 { p := 0, n := true }, Instr.add 3 4 5 { p := 7, n := true }),
      (.cmppEq 8 4 5 gNone, .cmppEq 7 4 5 gNone), (.bqe 23 0 0, .bqe 24 0 0), (.bqf 28 0 0, .bqf 27 0 0), (.loop 0 0 0, .loop 1 0 0),
      (.loop 24 0 0, .loop 23 0 0), (.qclr 28, .qclr 27), (.qlen 1 23, .qlen 1 24), (.fcmppEq 8 1 2 gNone, .fcmppEq 7 1 2 gNone),
      (.modifierWord modNone (.and 3 4 5 gNone), .modifierWord modNone (.fadd 3 4 5 gNone)),
      (.modifierWord { modNone with rnd := 5 } (.fadd 3 4 5 gNone), .modifierWord { modNone with rnd := 4 } (.fadd 3 4 5 gNone)),
      (.modifierWord { modNone with clamp := 1 } (.vaddS32 3 4 5 gNone), .modifierWord { modNone with clamp := 3 } (.vaddS32 3 4 5 gNone)),
      (.modifierWord { modNone with nega := true } (.vsqrtF32 3 5 gNone), .modifierWord { modNone with negb := true } (.vsqrtF32 3 5 gNone)),
      (.modifierWord { modNone with absb := true } (.vqntBx4 3 5 gNone), .modifierWord { modNone with absa := true } (.vqntBx4 3 5 gNone)),
      (.ldIndexed 1 2 3 0 true 3 gNone, .ldIndexed 1 2 3 0 true 2 gNone), (.ldb 1 3 4 false 0 gNone, .ldb 1 22 4 false 0 gNone),
      (.stb 1 24 4 0 gNone, .stb 1 2 4 0 gNone), (.amoSwap 1 2 3 true (oRel 6), .amoSwap 1 2 3 true (oRel 5)),
      (.amoCas 1 2 3 true (oRel 0), .amoCas 1 2 3 true (oRel 1)), (.fenceRel 0, .fenceRel 1), (.fenceAcq 6, .fenceAcq 5),
      (.vcvtF32Bf16 1 2 2 gNone, .vcvtF32Bf16 1 2 1 gNone), (.vcvtF32E5m2 1 2 4 gNone, .vcvtF32E5m2 1 2 3 gNone),
      (.vcmpEqS32 8 1 2 gNone, .vcmpEqS32 7 1 2 gNone), (.pand 1 8 2 gNone, .pand 1 7 2 gNone), (.pcnt 1 8 gNone, .pcnt 1 7 gNone),
      (.vaddF32Compact 0 0 false, .vaddF32Compact 0 0 true), (.mdrain 1 2 3 (oRel 7), .mdrain 1 2 3 (oRel 3)), (.cseq 1 3, .cseq 1 2),
      (.chain 1 3, .chain 1 2), (.mfsp 1 0x7FF, .mfsp 1 0x800), (.mtsp 1 0, .mtsp 1 0xFFF), (.mzeroCommand 4656, .mzeroCommand 4655),
      (.bobbinClaim 4656 0, .bobbinClaim 0 0)] : List (Instr × Instr)).all (fun p => !p.1.wf && p.2.wf) = true := by
  decide +kernel

/-- The image of the test thread: 128 bytes of text at 0x10000 and a start map of ones. -/
def image0 : Image := { kdesc := 0, text := 0x10000, tsize := 128, smap := 0x20000, floor := false }

/-- Scalar registers from s1 upward, in a running stream at 0x10000. -/
def stream (regs : List Word) : Ctx := { Ctx.init with pc := 0x10000, atTarget := true, running := true }.setRegs 1 regs

/-- A full thread of the root domain on core 0 with s1 and on in its execute stream, two filled entries in q0 and four vectors. -/
def full (regs : List Word) : Thread :=
  { Thread.init .full 0 0 0 image0 0x10000 with
    exe := stream regs, q := vset (Vector.replicate 4 []) 0 [.filled 5, .filled 6],
    v := vset (vset (Vector.replicate 28 0) 1 (vecOf (fun k => BitVec.ofNat 32 (4 * k)))) 2 (vecOf (fun k => BitVec.ofNat 32 k)) }

/-- Core 0: its full thread is thread 1, one window opens all of its local store to everyone, and its east and south ports hold a scalar
and a vector. -/
def core0 : Core :=
  { Core.init with full := some 1, pwl := vset (Vector.replicate 8 0) 0 0x700060000,
                   ports := vset (vset (Vector.replicate 4 []) 1 [.scalar 7]) 2 [.vector 9] }

/-- A state in which thread 1, as given, issues on core 0, its text mapped as `withFetchWord` maps it. -/
def bench (t : Thread) : State := ((State.reset.withFetchWord 32 0).setThread 1 t).setCore 0 core0

/-- A pick of the root domain in slot 2 of core 0. -/
def pick (regs : List Word) : Thread := { Thread.init .pick 0 2 0 image0 0x10000 with exe := stream regs }

/-- The checks of `CanIssue`, computed. -/
def issuable (n : Need) (s : State) (t : Thread) : Bool :=
  decide (s.thread? s.cur.tid = some t) && n.legal && decide (n.cls.bad t s.cur.acc = none) &&
    n.uses.all (fun u => u.inView t s.cur.acc) && govOn (t.ctx s.cur.acc) n.gov && decide (row6 n.uses t s.cur.acc = none) &&
    (tokenFault n.uses t s.cur.acc).isNone && decide (operandWait n.uses s t s.cur.acc = none)

theorem canIssue_of {n : Need} {s : State} {t : Thread} (h : issuable n s t = true) : CanIssue n s t := by
  simp only [issuable, Bool.and_eq_true, decide_eq_true_eq, Option.isNone_iff_eq_none] at h
  obtain ⟨⟨⟨⟨⟨⟨⟨h1, h2⟩, h3⟩, h4⟩, h5⟩, h6⟩, h7⟩, h8⟩ := h
  exact ⟨h1, h2, h3, h4, h5, h6, by simp [h7], h8⟩

theorem canIssue_all {l : List Need} {s : State} {t : Thread} (h : l.all (fun n => issuable n s t) = true) :
    ∀ n ∈ l, CanIssue n s t := fun n hn => canIssue_of (List.all_eq_true.1 h n hn)

/-- O1: register, queue and mesh-port forms may issue. -/
theorem test_premise_integer : ∀ n ∈ [governed true gNone [.sR 1, .sR 2, .sW 3], governed true gNone [.sR 24, .sR 24, .sW 26],
    governed true gNone [.sR 29, .sR 0, .sW 30]], CanIssue n (bench (full [3, 4])) (full [3, 4]) :=
  canIssue_all (by decide +kernel)

/-- O2: one-source forms from a queue, immediate forms at the link register and the register that discards writes, and `lih`. -/
theorem test_premise_unary : ∀ n ∈ [governed true gNone [.sR 24, .sW 3], plain true [.sR 23, .sW 0], plain true [.sW 30]],
    CanIssue n (bench (full [3, 4])) (full [3, 4]) := canIssue_all (by decide +kernel)

/-- O3: a compare that writes p7, or p0, and `sel` of either register. -/
theorem test_premise_compare : ∀ n ∈ [governed (predField 7) gNone [.sR 1, .sR 24], governed (predField 0) gNone [.sR 1, .sR 2],
    plain gP3.legal [.sR 1, .sR 2, .sW 3]], CanIssue n (bench (full [3, 4])) (full [3, 4]) := canIssue_all (by decide +kernel)

/-- O4: `pchk` of a window address, of an address with bits 59 to 56 and of a plain one. -/
theorem test_premise_pointer :
    let t := full [0x00FFFFFF00000100, 0x0100000000000000, 0x10000]
    (∀ n ∈ [plain true [.sR 1, .sR 2, .sW 3], plain true [.sR 1, .sW 4], plain true [.sR 2, .sW 4], plain true [.sR 3, .sW 4]],
      CanIssue n (bench t) t) ∧
    field (t.getReg false 1) 55 32 = 0xFFFFFF ∧ field (t.getReg false 2) 59 56 ≠ 0 ∧
    field (t.getReg false 3) 59 56 = 0 ∧ field (t.getReg false 3) 55 32 ≠ 0xFFFFFF :=
  ⟨canIssue_all (by decide +kernel), by decide +kernel, by decide +kernel, by decide +kernel, by decide +kernel⟩

/-- O5. -/
theorem test_premise_branch : ∀ n ∈ [plain true [.sR 1, .sR 24], plain true [.sR 0]], CanIssue n (bench (full [3, 4])) (full [3, 4]) :=
  canIssue_all (by decide +kernel)

/-- O6: the queue branches, a branch-outcome queue that holds a bit of each stream, `loop`, and the two deadlocks. -/
theorem test_premise_queue_branch :
    let t := { full [3] with boq := [(false, true), (true, false)] }
    let e := { full [3] with q := Vector.replicate 4 [] }
    (∀ n ∈ [{ plain (queueField 24) [] with cls := .noPick }, { plain (queueField 27) [] with cls := .noPick },
      { plain true [] with cls := .noPick }, plain (loopField 1) [.sR 1, .sW 1]], CanIssue n (bench t) t) ∧
    (t.boq = [(false, true)] ++ (!(bench t).cur.acc, false) :: [] ∧ ∀ x ∈ [(false, true)], x.1 = (bench t).cur.acc) ∧
    (CanIssue { plain true [] with cls := .noPick } (bench e) e ∧ (bench e).cur.acc = false ∧ (e.exe.running = true ∧ e.exe.midway = false) ∧
      e.acc.running = false ∧ e.boq = []) ∧
    (bench e).thread? (bench e).cur.tid = some e ∧ e.kind = .full ∧ isReg 0 ∧ vget e.q ((24 : BitVec 5).toNat - 24) [] = [] :=
  ⟨canIssue_all (by decide +kernel), ⟨by decide +kernel, by decide +kernel⟩,
    ⟨canIssue_of (by decide +kernel), by decide +kernel, by decide +kernel, by decide +kernel, by decide +kernel⟩,
    by decide +kernel, by decide +kernel, by unfold isReg; decide, by decide +kernel⟩

/-- O7: jumps and calls, and targets that pass the checks (the highest even address among them). -/
theorem test_premise_jump :
    let t := full [0x10008, 0x00FFFFFFFFFFFFFE]
    (∀ n ∈ [plain true [], plain true [.link true], plain true [.sR 1], plain true [.sR 2, .sW 3], plain true [.link false]],
      CanIssue n (bench t) t) ∧
    GoodTarget (t.getReg false 1 + (8 : BitVec 12).signExtend 64) ∧ GoodTarget (t.getReg false 2) ∧
    GoodTarget (t.getReg false 23 + (0 : BitVec 12).signExtend 64) := by
  refine ⟨canIssue_all (by decide +kernel), ?_, ?_, ?_⟩ <;> (unfold GoodTarget; decide +kernel)

/-- O8: bad targets of each kind, and `rfe`, `mfsp` and `mtsp` in user and supervisor mode. -/
theorem test_premise_privilege :
    let t := full [0x0100000000000000, 0x10001]
    let v := { full [] with mode := 1 }
    let b (pm epc : Word) : State := (bench v).setCore 0 { core0 with estat := pm, epc := epc }
    (∀ n ∈ [plain true [.sR 1], plain true [.sR 1, .sW 3], plain true [.sR 2]], CanIssue n (bench t) t) ∧
    field (t.getReg false 1) 59 56 ≠ 0 ∧ (field (t.getReg false 2) 59 56 = 0 ∧ bit (t.getReg false 2) 0 = true) ∧
    ((bench t).thread? (bench t).cur.tid = some t ∧ t.kind ≠ .heddle ∧ t.mode = 0 ∧ (t.ctx false).midway = false) ∧
    (CanIssue { plain true [] with cls := .supervisor } (b 2 0) v ∧ 2 ≤ field ((b 2 0).core v.core).estat 1 0) ∧
    (CanIssue { plain true [] with cls := .supervisor } (b 1 0x0F00000000000000) v ∧
      field ((b 1 0x0F00000000000000).core v.core).epc 59 56 ≠ 0) ∧
    (CanIssue { plain true [] with cls := .supervisor } (b 0 3) v ∧ bit ((b 0 3).core v.core).epc 0 = true) :=
  ⟨canIssue_all (by decide +kernel), by decide +kernel, ⟨by decide +kernel, by decide +kernel⟩,
    ⟨by decide +kernel, by decide +kernel, by decide +kernel, by decide +kernel⟩, ⟨canIssue_of (by decide +kernel), by decide +kernel⟩,
    ⟨canIssue_of (by decide +kernel), by decide +kernel⟩, ⟨canIssue_of (by decide +kernel), by decide +kernel⟩⟩

/-- O9: `astart` with the access stream stopped and running, `astop` of one whose access is in flight, and the other stream
instructions. -/
theorem test_premise_stream :
    let t := full [0x10008, 5]
    let r := { full [0x10008, 5] with acc := stream [] }
    let m := { full [] with acc := { stream [] with phase := .sent } }
    (∀ x ∈ [t, r], CanIssue { plain true [.sR 1, .sR 2] with cls := .exeOnly } (bench x) x ∧
      (x.acc.running = true → x.acc.midway = false) ∧ x.acc.pend.getLsbD 1 = false) ∧ GoodTarget (t.getReg false 1) ∧
    (r.acc.running = true ∧ m.acc.running = true ∧ m.acc.midway = true ∧
      issuable { plain true [] with cls := .exeOnly } (bench m) m = true) ∧
    (∀ n ∈ [{ plain true [] with cls := .exeOnly }, { plain true [.sR 1] with cls := .noPick },
      { plain (queueField 24) [] with cls := .noPick }, { plain (queueField 27) [.sW 3] with cls := .noPick }], CanIssue n (bench r) r) ∧
    r.boq.length < 32 := by
  refine ⟨?_, by unfold GoodTarget; decide +kernel, by decide +kernel, canIssue_all (by decide +kernel), by decide +kernel⟩
  intro x hx
  simp only [List.mem_cons, List.not_mem_nil, or_false] at hx
  rcases hx with rfl | rfl
  · exact ⟨canIssue_of (by decide +kernel), by decide +kernel⟩
  · exact ⟨canIssue_of (by decide +kernel), by decide +kernel⟩

/-- A handler of memory heddle 0 about the block at 0x10000, with a block in its buffer. -/
def handler : HeddleCtx :=
  { heddle := 0, hmsg := 0, haddr := 0x10000, hsrc := 0x00000001, htag := 0, hkey := 0, hslot := 1, hsteps := 0, hdraft := 0,
    hcomm := 0, horig := 0x00000001, inSlot := 3, buffer := some 5, bufBad := false, fwdSent := false, since := 0, answers := false }

/-- The heddle thread of that handler. -/
def heddleT (regs : List Word) : Thread :=
  { Thread.init .heddle 0 0 0 image0 0x10000 with exe := stream regs, mode := 2, heddle := some handler }

/-- O10: assigned registers of a thread, a heddle thread's registers, and the refused numbers. -/
theorem test_premise_status :
    let t := full [3]
    let h := heddleT [3]
    (∀ n ∈ [plain true [.sW 3], plain true [.sR 1]], CanIssue n (bench t) t) ∧ t.heddle = none ∧
    (bench t).statusRead t false 0x051 = some 0 ∧ (bench t).statusRead t false 0x000 = some 64 ∧
    (CanIssue (plain true [.sW 15]) (bench h) h ∧ h.heddle.isSome = true) ∧
    ((bench t).statusRead t false 0x7FF = none ∧ (0x7FF : BitVec 12) ∉ [0x033, 0x050, 0x060, 0x061, 0x062, 0x063]) ∧ isReg 1 :=
  ⟨canIssue_all (by decide +kernel), by decide +kernel, by decide +kernel, by decide +kernel,
    ⟨canIssue_of (by decide +kernel), by decide +kernel⟩, ⟨by decide +kernel, by decide⟩, by unfold isReg; decide⟩

/-- O11: scalar FP32 forms, from registers, a queue and a port. -/
theorem test_premise_scalar_fp : ∀ n ∈ [fpNeed true gNone [.sR 1, .sR 2, .sW 3] 4, fpNeed true gNone [.sR 24, .sW 26] 4,
    fpNeed true gNone [.sR 1, .sR 29, .sR 3, .sW 3] 4, fpNeed (predField 7) gNone [.sR 1, .sR 2] 4],
    CanIssue n (bench (full [3, 4])) (full [3, 4]) := canIssue_all (by decide +kernel)
/-- Nothing of the issuing thread is in flight. -/
def quiet (s : State) (t : Thread) : Bool :=
  decide ((t.ctx s.cur.acc).phase = .idle) && (t.ctx s.cur.acc).got.isEmpty && (t.ctx s.cur.acc).lanes.isEmpty &&
    (t.ctx s.cur.acc).seen.isEmpty && !t.moved &&
    t.writes.isEmpty && t.storeFaults.isEmpty && !s.peerStorePending s.cur.tid && !s.unperformed s.cur.tid false false &&
    !s.unperformed s.cur.tid true false

theorem fresh_of {s : State} {t : Thread} (h : quiet s t = true) : Fresh s t ∧ Drained s t := by
  simp only [quiet, Bool.and_eq_true, decide_eq_true_eq, List.isEmpty_iff, Bool.not_eq_true'] at h
  obtain ⟨⟨⟨⟨⟨⟨⟨⟨⟨h1, h2⟩, h3⟩, h0⟩, h4⟩, h5⟩, h6⟩, h7⟩, h8⟩, h9⟩ := h
  exact ⟨⟨h1, h2, h3, h0, h4⟩, ⟨h5, h6, h7, fun acc => by cases acc <;> assumption⟩⟩

/-- No thread of a state waits. -/
def awake (s : State) : Bool := s.threads.all (fun p => match p.2.status with
  | .waiting _ => false
  | _ => true)

theorem noSleeper_of {s : State} (h : awake s = true) : NoSleeper s := by
  intro p hp k hk
  have := List.all_eq_true.1 h p hp
  rw [hk] at this
  cases this

/-- A state with no page table on any die. -/
def unmap (s : State) : State := { s with dies := s.dies.map (fun d => { d with ptroot := 0 }) }

/-- Such a state has no place for the device's records. -/
theorem noRecords_unmap (s : State) : NoRecords (unmap s) := by
  intro die d va
  have h : ((unmap s).die die).ptroot = 0 := by
    unfold State.die vget unmap
    simp only [Vector.getElem?_map]
    cases s.dies[die]? <;> rfl
  have hw : ∀ allow, (unmap s).walk die allow va = .error (.reason 0 4) := by
    intro allow
    unfold State.walk
    dsimp only
    rw [h]
    rfl
  unfold State.recordLeaf
  rw [hw]
  split <;> rfl


/-- The conditions of `OwnLocal`, computed. -/
def ownLocal (s : State) (t : Thread) (ea : Word) (n : Nat) (write : Bool) (off : Nat) : Bool :=
  decide (route t.core ea = .ok (.own off)) && decide (ea.toNat % n = 0) && windowOk (s.core t.core) off n write false

theorem ownLocal_of {s : State} {t : Thread} {ea : Word} {n : Nat} {write : Bool} {off : Nat}
    (h : ownLocal s t ea n write off = true) : OwnLocal s t ea n write off := by
  simp only [ownLocal, Bool.and_eq_true, decide_eq_true_eq] at h
  exact ⟨h.1.1, h.1.2, h.2⟩

theorem ownLocal_all {α : Type} {l : List α} {n : α → Nat} {s : State} {t : Thread} {ea : Word} {write : Bool} {off : Nat}
    (h : l.all (fun p => ownLocal s t ea (n p) write off) = true) : ∀ p ∈ l, OwnLocal s t ea (n p) write off :=
  fun p hp => ownLocal_of (List.all_eq_true.1 h p hp)

/-- The last byte, the first byte and an inner word of core 0's local store. -/
def lsTop : Word := 0x00FFFFFF0005FFFF
def lsBase : Word := 0x00FFFFFF00000000
def lsWord : Word := 0x00FFFFFF00000100

/-- O12: every form at an inner word, and the bytes at both ends. -/
theorem test_premise_local :
    let t := full [lsWord, 8, 8, 0x4000000000000010, 4]
    let w := full [lsWord, 8, lsWord, 0xC000000000000010, 8]
    (∀ n ∈ [memNeed true [.sR 1, .sW 3], memNeed true [.sR 1, .sR 3], { memNeed (gNone.legal && !(true && (2 : BitVec 2) == 3))
        [.sR 1, .sR 2, .sW 3] with gov := some gNone }, { memNeed gNone.legal [.sR 1, .sR 2, .sR 3] with gov := some gNone }],
      CanIssue n (bench t) t) ∧ (Fresh (bench t) t ∧ Drained (bench t) t) ∧
    (∀ p ∈ loadForms 3 1 8, OwnLocal (bench t) t (leaAdd (t.getReg false 1) ((8 : BitVec 12).signExtend 64)) p.2.2 false 0x108) ∧
    (∀ p ∈ storeForms 3 1 8, OwnLocal (bench t) t (leaAdd (t.getReg false 1) ((8 : BitVec 12).signExtend 64)) p.2 true 0x108) ∧
    OwnLocal (bench t) t lsTop 1 true 0x5FFFF ∧ OwnLocal (bench t) t lsBase 8 false 0 ∧
    OwnLocal (bench t) t (leaAdd (t.getReg false 1) (t.getReg false 2 <<< (2 : BitVec 2).toNat)) 4 true 0x120 ∧
    (∀ n ∈ [{ memNeed (gNone.legal && pairField 4 && !(false && (3 : BitVec 2) == 3)) [.sR 4, .sR (4 + 1), .sR 2, .sW 3] with
        gov := some gNone }, { memNeed (gNone.legal && pairField 4) [.sR 4, .sR (4 + 1), .sR 2, .sR 3] with gov := some gNone }],
      CanIssue n (bench w) w) ∧ bit (w.getReg false 4) 62 = true ∧ bit (w.getReg false 4) 63 = true ∧
    (w.getReg false 5).toNat + 2 ^ (3 : BitVec 2).toNat ≤ field (w.getReg false 4) 39 0 ∧
    OwnLocal (bench w) w (leaAdd (w.getReg false 3) (w.getReg false 5)) 8 true 0x108 := by
  exact ⟨canIssue_all (by decide +kernel), fresh_of (by decide +kernel), ownLocal_all (by decide +kernel),
    ownLocal_all (by decide +kernel), ownLocal_of (by decide +kernel), ownLocal_of (by decide +kernel), ownLocal_of (by decide +kernel),
    canIssue_all (by decide +kernel), by decide +kernel, by decide +kernel, by decide +kernel, ownLocal_of (by decide +kernel)⟩

/-- O13: each check of an access: a bound word that does not permit, or whose SIZE is passed by one; bits 59 to 56; misalignment; a failed
walk (an address beyond the map); a failed check of the leaf (a retired key). -/
theorem test_premise_traps :
    let t := full [0x10000, 0, 1, 0xC000000000000010, 9]
    let u := full [0x0100000000000000, 0x10001, 0x80000000, 0x10000]
    let dead : State := { bench u with keys := [] }
    (∀ n ∈ [{ memNeed (gNone.legal && pairField 4 && !(false && (3 : BitVec 2) == 3)) [.sR 4, .sR (4 + 1), .sR 5, .sW 3] with
        gov := some gNone }, { memNeed (gNone.legal && pairField 4) [.sR 4, .sR (4 + 1), .sR 5, .sR 3] with gov := some gNone }],
      CanIssue n (bench t) t) ∧ bit (t.getReg false 5) 62 = false ∧ bit (t.getReg false 5) 63 = false ∧
    field (0xC000000000000010 : Word) 39 0 < (t.getReg false 5).toNat + 2 ^ (3 : BitVec 2).toNat ∧
    (∀ n ∈ [memNeed true [.sR 1, .sW 3], memNeed true [.sR 2, .sR 3], memNeed true [.sR 3, .sW 3]], CanIssue n (bench u) u) ∧
    (Fresh (bench u) u ∧ Drained (bench u) u) ∧ field (leaAdd (u.getReg false 1) 0) 59 56 ≠ 0 ∧
    (inWindow (u.getReg false 2) = false ∧ (u.getReg false 2).toNat % 2 ≠ 0) ∧
    (inWindow (u.getReg false 3) = false ∧ ((bench u).translate 0 0 false 0x80000000).1 matches .error (.reason _ _)) ∧
    CanIssue (memNeed true [.sR 4, .sW 3]) dead u ∧
    (match dead.translate 0 0 false 0x10000 with
      | (.ok e, v) => (v.leafChecks 0 0x10000 false (e.leaf 0x10000)).isSome
      | _ => false) = true :=
  ⟨canIssue_all (by decide +kernel), by decide +kernel, by decide +kernel, by decide +kernel, canIssue_all (by decide +kernel),
    fresh_of (by decide +kernel), by decide +kernel, ⟨by decide +kernel, by decide +kernel⟩, ⟨by decide +kernel, by decide +kernel⟩,
    canIssue_of (by decide +kernel), by decide +kernel⟩

/-- The conditions of `AtHome`, computed. -/
def atHome (s : State) (t : Thread) (ea : Word) (n : Nat) (write : Bool) : Bool :=
  decide (route t.core ea = .ok .global) &&
  match s.checkGlobal t.core t.dom ea n true write with
  | (.ok (_, l), u) => decide (l.loc = 0) && !s.moving l.pa && !s.mgmt.binding.any (inRange l.pa) && s.stdDraft (s.draftAt l.pa) && decide (s.draftAt l.pa ∉ [4, 5, 6]) &&
      decide (paDie l.pa = coreDie t.core) && s.readable (blockNo l.pa) l.key && !s.slow && u.outs.isEmpty && t.writes.isEmpty
  | _ => false

theorem atHome_of {s : State} {t : Thread} {ea : Word} {n : Nat} {write : Bool} (h : atHome s t ea n write = true) :
    ∃ l u, AtHome s t ea n write l u := by
  simp only [atHome, Bool.and_eq_true, decide_eq_true_eq] at h
  obtain ⟨h1, h⟩ := h
  split at h
  · rename_i e l u he
    simp only [Bool.and_eq_true, decide_eq_true_eq, Bool.not_eq_true'] at h
    obtain ⟨⟨⟨⟨⟨⟨⟨⟨⟨a, b⟩, b'⟩, c⟩, d⟩, f⟩, g⟩, i⟩, j⟩, k⟩ := h
    rw [List.isEmpty_iff] at j k
    exact ⟨l, u, h1, ⟨e, he⟩, a, b, b', ⟨c, d⟩, f, g, i, fun o _ => by simp [State.ownAt, j, k]⟩
  · cases h

/-- O14. -/
theorem test_premise_home :
    let t := full [0x10000, 0, 7]
    (∀ n ∈ [memNeed true [.sR 1, .sW 3], memNeed true [.sR 1, .sR 3]], CanIssue n (bench t) t) ∧
    (Fresh (bench t) t ∧ Drained (bench t) t) ∧ (∃ l u, AtHome (bench t) t (leaAdd (t.getReg false 1) 0x78) 8 false l u) ∧
    ∃ l u, AtHome (bench t) t (leaAdd (t.getReg false 1) 0x7F) 1 true l u :=
  ⟨canIssue_all (by decide +kernel), fresh_of (by decide +kernel), atHome_of (by decide +kernel), atHome_of (by decide +kernel)⟩

/-- O15. -/
theorem test_premise_atomic :
    let t := full [lsWord, 8, 5]
    (∀ n ∈ [memNeed oNone.legal [.sR 1, .sR 2, .tok 3], memNeed (oRel 5).legal [.sR 1, .sR 2, .tok 0],
        memNeed oNone.legal ([.sR 1, .sR 2, .tok 3] ++ [.sR 3])], CanIssue n (bench t) t) ∧
    (Fresh (bench t) t ∧ Drained (bench t) t) ∧ OwnLocal (bench t) t (t.getReg false 1) 8 true 0x100 ∧
    OwnLocal (bench t) t (t.getReg false 1) 4 true 0x100 :=
  ⟨canIssue_all (by decide +kernel), fresh_of (by decide +kernel), ownLocal_of (by decide +kernel), ownLocal_of (by decide +kernel)⟩

/-- O16: scopes 1 and 5, and writes in flight and acknowledged but not delivered. -/
theorem test_premise_fence :
    let w1 : RemoteWrite := { id := 3, home := 1, acked := none, acc := false, pa := 2 ^ 38, key := 0, size := 8, data := none }
    let w2 : RemoteWrite := { id := 3, home := 2, acked := some 1, acc := false, pa := 2 ^ 39, key := 0, size := 8, data := none }
    let t := full [0x10000]
    let x := { full [] with writes := [w1, w2] }
    let o : OutReq :=
      { kind := .host, tid := 1, acc := false, dom := 0, core := 0, acckind := .load, signed := false, loc := hostLoc 0, ea := 0,
        size := 8, data := 0, compare := 0, dest := .reg false 5, key := 0, pc := 0, unit := none, slot := 0, answer := none,
        waits := false, nacks := 0, retryAt := none, gone := none, lane := none }
    let p : State := { bench x with outs := [(6, o)] }
    (∀ n ∈ [memNeed (fenceScope 1) [], memNeed (fenceScope 5) [], memNeed true [.sR 1]], CanIssue n (bench t) t) ∧
    (Fresh (bench t) t ∧ Drained (bench t) t) ∧
    (∀ n ∈ [memNeed (fenceScope 1) [], memNeed (fenceScope 4) []], CanIssue n (bench x) x) ∧ x.storeFaults = [] ∧
    (w1 ∈ x.writes ∧ w1.acc = (bench x).cur.acc ∧ w1.acked = none) ∧
    (w2 ∈ x.writes ∧ w2.acked = some 1 ∧ 4 ≤ (4 : BitVec 3).toNat ∧
      ((bench x).die (coreDie x.core)).vc.at w2.home.toNat < (1 : BitVec 48).toNat) ∧
    Acquired (bench t) ∧ (CanIssue (memNeed (fenceScope 1) []) p x ∧ ¬ Acquired p ∧ p.unperformed p.cur.tid p.cur.acc false = true) :=
  ⟨canIssue_all (by decide +kernel), fresh_of (by decide +kernel), canIssue_all (by decide +kernel), by decide +kernel,
    ⟨by decide +kernel, by decide +kernel, by decide +kernel⟩, ⟨by decide +kernel, by decide +kernel, by decide +kernel, by decide +kernel⟩,
    by unfold Acquired; decide +kernel, canIssue_of (by decide +kernel), by unfold Acquired; decide +kernel, by decide +kernel⟩

/-- A released launch of one member, thread 1 on core 0. -/
def gang0 : Gang :=
  { dom := 0, ldom := 0, die := 0, orgCol := 0, orgRow := 0, width := 1, height := 1, image := image0, entry := 0x10000, lsbytes := 0,
    remote := false, tvec := 0, args := Vector.replicate 6 0, members := [1], released := true, ended := 0, trapped := 0, cword := 0,
    token := none, qcb := none, single := false, barriers := [], stamp := Clock.zero }

/-- A member of gang 7. -/
def member (regs : List Word) : Thread := { full regs with gang := some 7, member := true }

/-- A state in which that member runs; `pend` says which barriers its core still waits for. -/
def gangBench (t : Thread) (pend : List Nat) (g : Gang) : State :=
  { bench t with
    cores := [(0, { core0 with grp := { GroupRegs.zero with gsize := 1 }, pendBars := pend })], gangs := [(7, g)] }

theorem inGang_of {s : State} {t m : Thread} {b : BitVec 11} {gid f : Nat} {g : Gang} (h1 : (s.groupRegs t).gsize ≠ 0)
    (h2 : t.image.floor = true → b.toNat ≤ 511) (h3 : (s.core t.core).full = some f) (h4 : s.thread? f = some m) (h5 : m.gang = some gid)
    (h6 : alGet s.gangs gid = some g) : InGang s t b gid g := ⟨h1, h2, ⟨f, m, h3, h4, h5⟩, h6⟩

/-- O17: barrier 2047 with its bit clear and set, counts at both bounds, and a phase that is complete. -/
theorem test_premise_barrier :
    let t := member [1, 65535]
    let r := { member [] with exe := { stream [] with got := [1] } }
    let s := gangBench t [] gang0
    let p := gangBench t [pendKey 7 2047] gang0
    let full_ : Gang := { gang0 with barriers := [(5, { expect := 1, count := 1, phase := 0 })] }
    InGang s t 2047 7 gang0 ∧ InGang p t 2047 7 gang0 ∧
    (∀ n ∈ [barNeed [.sR 1], barNeed [.sR 2], barNeed [], barNeed [.sW 3]], CanIssue n s t ∧ CanIssue n p t) ∧
    (isReg 1 ∧ 1 ≤ (t.getReg false 1).toNat ∧ (t.getReg false 2).toNat ≤ 65535 ∧ (gang0.barrier 2047).count = 0) ∧
    (Fresh s t ∧ Drained s t) ∧ (gang0.barrier 2047).count ≠ (gang0.barrier 2047).expect ∧ (t.ctx s.cur.acc).midway = false ∧
    (s.core t.core).pendBars.contains (pendKey 7 2047) = false ∧ (p.core t.core).pendBars.contains (pendKey 7 2047) = true ∧
    (InGang (gangBench r [] gang0) r 2047 7 gang0 ∧ CanIssue (barNeed []) (gangBench r [] gang0) r ∧ (r.ctx false).got ≠ []) ∧
    ((full_.barrier 5).count = (full_.barrier 5).expect ∧ (gangBench t [] full_).gangs = [(7, full_)]) ∧
    (Acquired s ∧ Acquired (gangBench r [] gang0)) ∧ NoRecords (unmap (gangBench t [] full_)) := by
  refine ⟨inGang_of (f := 1) (m := member [1, 65535]) ?_ ?_ ?_ ?_ ?_ ?_, inGang_of (f := 1) (m := member [1, 65535]) ?_ ?_ ?_ ?_ ?_ ?_,
    ?_, ⟨?_, ?_, ?_, ?_⟩, fresh_of ?_, ?_, ?_, ?_,
    ?_, ⟨inGang_of (f := 1) (m := { member [] with exe := { stream [] with got := [1] } }) ?_ ?_ ?_ ?_ ?_ ?_, canIssue_of ?_, ?_⟩,
    ⟨?_, ?_⟩, ⟨?_, ?_⟩, noRecords_unmap _⟩
  case refine_33 => unfold Acquired; decide +kernel
  case refine_34 => unfold Acquired; decide +kernel
  case refine_13 =>
    intro n hn
    exact ⟨canIssue_all (by decide +kernel) n hn, canIssue_all (by decide +kernel) n hn⟩
  case refine_14 => unfold isReg; decide
  all_goals decide +kernel
/-- The root domain with its budgets and pools, a grant to send to endpoint 3 of core 5, and room for keys. -/
def dom0 : Domain :=
  { Domain.bare with ovr := 0xFFFF, maxshut := 4608, diemask := 15, maxh := 24, maxw := 48, keyq := 16, slice := 10, bobpool := 0x40000000,
                     bobcnt := 64, ctxpool := 0x41000000, ctxcnt := 64, grants := [(0, { handle := mkHandle 0 5 3 9, send := true })] }

/-- A message that waits at an endpoint of domain 0. -/
def msg0 : ChanMsg :=
  { id := 0, handle := mkHandle 0 0 3 9, sender := 4, stid := 9, sdom := 0, dest := .none, rel := false, scope := 0, stamp := Clock.zero,
    data := 77 }

/-- Endpoint 3 of core 0, open with one message. -/
def ep0 : Endpoint := { Endpoint.closed with owner := some 0, check := 9, state := .open, msgs := [msg0] }

/-- The bench with that domain and that endpoint. -/
def chanBench (t : Thread) : State :=
  { bench t with doms := [(0, dom0)], cores := [(0, { core0 with eps := vset core0.eps 3 ep0 })] }

/-- O18: a message at local-store address 0x100, sent, received at endpoint 3, and endpoint 3 bound. -/
theorem test_premise_channel :
    let t := full [0x100, mkHandle 0 5 3 9, 3, 0x10010]
    let s := chanBench t
    (∀ n ∈ [chanNeed oNone.legal [.sR 1, .sR 2, .tok 5], chanNeed (oRel 5).legal [.sR 1, .sR 2, .tok 5],
      chanNeed true [.sR 1, .sR 3, .tok 0], chanNeed true [.sR 4, .sR 3]], CanIssue n s t) ∧ (Fresh s t ∧ Drained s t) ∧
    (s.chans.filter (fun m => m.2.stid == s.cur.tid)).length < 8 ∧ (t.getReg false 1).toNat % 64 = 0 ∧
    windowOk (s.core 0) 0x100 64 false false = true ∧ windowOk (s.core 0) 0x100 64 true false = true ∧
    s.maySend t (t.getReg false 2) = true ∧ (t.getReg false 2).extractLsb' 49 15 ∈ s.mgmt.device :: s.mgmt.admitted ∧
    ((t.getReg false 3).toNat ≤ 15 ∧ (s.ep 0 3).owner = some 0 ∧ (s.ep 0 3).handler = 0 ∧ s.epHead 0 3 = some msg0) ∧
    (Acquired s ∧ msg0.stamp.leBut (s.die (coreDie t.core)).vc [] = true) ∧ GoodTarget (t.getReg false 4) := by
  refine ⟨canIssue_all ?_, fresh_of ?_, ?_, ?_, ?_, ?_, ?_, ?_, ⟨?_, ?_, ?_, ?_⟩, ⟨?_, ?_⟩, ?_⟩
  case refine_13 => unfold Acquired; decide +kernel
  case refine_15 => unfold GoodTarget; decide +kernel
  all_goals decide +kernel

/-- O19: `trap`, `rfe` in supervisor mode, and `wfm` with a message, after its time, and with nothing to wait for. -/
theorem test_premise_system :
    let t := full []
    let v := { full [] with mode := 1 }
    let w := { full [] with exe := { stream [] with wait := .wfm 5 } }
    let late : State := { bench w with tick := 5 + 65536 }
    (∀ n ∈ [sysNeed []], CanIssue n (bench t) t) ∧
    (CanIssue { plain true [] with cls := .supervisor } (bench v) v ∧ field ((bench v).core 0).estat 1 0 < 2 ∧
      GoodTarget ((bench v).core 0).epc) ∧
    (CanIssue (sysNeed []) (chanBench t) t ∧ (chanBench t).messageFor 0 0 = true) ∧
    (CanIssue (sysNeed []) late w ∧ (w.ctx false).wait = .wfm 5 ∧ 5 + 65536 ≤ late.tick) ∧
    (bench t).messageFor 0 0 = false ∧ (t.mode = 1 → (bench t).eventWaiting 0 0 = none) ∧ ∀ n, (t.ctx false).wait ≠ .wfm n := by
  refine ⟨canIssue_all ?_, ⟨canIssue_of ?_, ?_, ?_⟩, ⟨canIssue_of ?_, ?_⟩, ⟨canIssue_of ?_, ?_, ?_⟩, ?_, ?_, ?_⟩
  case refine_4 => unfold GoodTarget; decide +kernel
  case refine_12 =>
    intro n h
    have : ((full []).ctx false).wait = .none := by decide +kernel
    rw [this] at h
    cases h
  all_goals decide +kernel

/-- O20: `%epc` and `%pwl7` in supervisor mode, `%horig` in heddle mode. -/
theorem test_premise_spr :
    let v := { full [3] with mode := 1 }
    let h := heddleT [3]
    (∀ n ∈ [{ plain (decide (0x800 ≤ (0x801 : BitVec 12).toNat)) [.sW 3] with cls := .spr 0x801 false },
        { plain (decide (0x800 ≤ (0x81F : BitVec 12).toNat)) [.sR 1] with cls := .spr 0x81F true }], CanIssue n (bench v) v) ∧
    v.heddle = none ∧ (CanIssue { plain true [.sW 3] with cls := .spr 0xC09 false } (bench h) h ∧ h.heddle = some handler) ∧
    sprNum 0x800 = true ∧ sprNum 0x81F = true :=
  ⟨canIssue_all (by decide +kernel), by decide +kernel, ⟨canIssue_of (by decide +kernel), by decide +kernel⟩, by decide +kernel,
    by decide +kernel⟩

/-- The premises of the lane operations: vector, scalar-B and compact forms of a full thread, from registers and from a port. -/
def laneNeeds : List Need :=
  [vecNeed gNone.legal [.vR 1, .vR 2, .vW 3] 4, vecNeed gNone.legal [.vR 30, .vR 2, .vW 30] 4, vecNeed gP3.legal [.vR 1, .sR 1, .vW 3] 4,
   vecNeed gNone.legal [.vR 1, .sR 24, .vW 3] 4, vecNeed true [.vR 3, .vR 2, .vW 3] 2, vecNeed gNone.legal [.vR 2, .vW 3] 4,
   vecNeed true [.vR 2, .vW 3] 2, vecNeed gNone.legal [.sR 1, .vW 3] 4, vecNeed gNone.legal [.vW 3] 4, vecNeed true [.sR 1, .sW 3] 4,
   vecNeed gNone.legal [.vR 1, .vR 2, .vR 3, .vW 3] 4, vecNeed gNone.legal [.vR 1, .sR 1, .vR 3, .vW 3] 4,
   vecNeed gNone.legal [.vR 1, .vR 3, .vW 3] 4, vecNeed gNone.legal [.vR 1, .sW 3] 4, vecNeed gNone.legal [.vR 1, .sW 26] 4,
   vecNeed (gNone.legal && predField 7) [.vR 1, .vR 2] 4, vecNeed (gNone.legal && predField 2) [.vR 1, .sR 1] 4, vecNeed gNone.legal [] 4,
   vecNeed gNone.legal [.sW 3] 4, vecNeed gNone.legal [.sR 1, .vR 2] 4, vecNeed gNone.legal [.vR 1, .vR 2] 4,
   vecNeed gNone.legal [.sR 1, .sR 2, .vW 3] 4, vecNeed gNone.legal [.sR 1, .vR 2, .vW 3] 4, vecNeed gNone.legal [.sR 1, .sR 2, .vR 3] 4,
   vecNeed gNone.legal [.sR 1, .vR 2, .vR 3] 4, fpNeed true gNone [.sR 1, .sR 2, .sW 3] 8,
   vecNeed gNone.legal [.vR 1, .vR 2, .vW 3] 8]

/-- O31: the same forms as 8 bytes. -/
def longNeeds : List Need :=
  [fpNeed true gNone [.sR 1, .sR 2, .sW 3] 8, fpNeed true gNone [.sR 24, .sW 3] 8, fpNeed true gNone [.sR 1, .sR 2, .sR 3, .sW 3] 8,
   fpNeed (predField 7) gNone [.sR 1, .sR 2] 8, vecNeed gNone.legal [.vR 1, .vR 30, .vW 3] 8, vecNeed gP3.legal [.vR 1, .sR 1, .vW 3] 8,
   vecNeed gNone.legal [.vR 2, .vW 3] 8, vecNeed gNone.legal [.vR 1, .vR 2, .vR 3, .vW 3] 8, vecNeed gP3.legal [.vR 1, .sR 1, .vR 3, .vW 3] 8,
   vecNeed gNone.legal [.vR 1, .vR 3, .vW 3] 8]

/-- O31: an instruction of each family of Table 2.3 with a field set that it may use. -/
noncomputable def eligiblePairs : List (Instr × Mod) :=
  ((fpBinary 3 1 2 gNone).map (fun q => (q.1, { modNone with rnd := 4, sat := true }))) ++
  ((fpUnary 3 2 gNone).map (fun q => (q.1, modNone))) ++
  ((vectorFpOps 3 1 2 gNone).flatMap (fun q => [(q.1, { modNone with pow := 63 }), (q.2.1, { modNone with nega := true })])) ++
  ((integerExact 3 1 2 gNone).flatMap (fun q => [(q.1, { modNone with sat := true }), (q.2.1, { modNone with clamp := 3 })])) ++
  ((vectorFpUnary 3 2 gNone).map (fun q => (q.1, modNone))) ++ ((approxOps 3 2 gNone).map (fun q => (q.1, { modNone with negb := true }))) ++
  ((fusedOps 3 1 2 gNone).flatMap (fun q => [(q.1, { modNone with absa := true }), (q.2.1, { modNone with rnd := 2 })])) ++
  ((fpCompares 2 1 2 gNone).map (fun q => (q.1, { modNone with negb := true }))) ++
  ((wideningForms (some modNone) 3 1 1 gNone).map (fun q => (q.1, modNone))) ++
  ((narrowingForms 3 1 gNone).map (fun q => (q.1, { modNone with sat := true }))) ++
  [(.ffma 3 1 2 gNone, { modNone with pow := 1 }), (.fcvtF32S64 3 2 gNone, modNone), (.fcvtF32N64 3 2 gNone, modNone),
   (.fcvtS64F32 3 2 gNone, modNone), (.fcvtN64F32 3 2 gNone, modNone), (.vdotBf16 3 1 2 gNone, modNone), (.vdotS8 3 1 2 gNone, modNone),
   (.vqntBx4 3 1 gNone, { modNone with nega := true }), (.vqntBx8i 3 1 gNone, modNone), (.vdqntBx4 3 1 gNone, modNone),
   (.vdqntBx8i 3 1 gNone, modNone)]

/-- O31: each of those forms may issue, and each of those pairs is eligible; a pair that is not. -/
theorem test_premise_modified : (∀ n ∈ longNeeds, CanIssue n (bench (full [0, 70])) (full [0, 70])) ∧
    eligiblePairs.all (fun q => q.1.eligible q.2) = true ∧ (Instr.and 3 4 5 gNone).eligible modNone = false :=
  ⟨canIssue_all (by decide +kernel), by decide +kernel, by decide +kernel⟩

/-- O21 to O28 and O31: those forms may issue in a full thread, and those of h0 to h3 in a pick; a count of 0 and one above 64 for
`vsetl`; the element selects at their highest; whole blocks and none; eligible modifiers. -/
theorem test_premise_lanes :
    let t := full [0, 70]
    (∀ n ∈ laneNeeds, CanIssue n (bench t) t) ∧
    (let p := pick [3]
     CanIssue (vecNeed gNone.legal [.vR 0, .vR 3, .vW 2] 4) ((bench p).setCore 0 { core0 with full := none }) p) ∧
    t.getReg false 1 = 0 ∧ t.getReg false 2 ≠ 0 ∧ (∀ q ∈ wideningForms none 3 1 1 gNone, q.2.1 = true) ∧
    (wideningForms none 3 1 3 gNone).any (fun q => q.2.1) = true ∧
    (32 ≤ t.vl ∧ t.vl ≤ 64) ∧ ({ t with vl := 31 } : Thread).vl < 32 ∧ predField 7 = true ∧
    (∀ q ∈ fpBinary 3 1 2 gNone, q.1.eligible { modNone with rnd := 4, sat := true } = true) ∧
    (∀ q ∈ vectorFpOps 3 1 2 gNone, q.1.eligible { modNone with pow := 63 } = true) ∧
    (Instr.and 3 4 5 gNone).eligible modNone = false := by
  refine ⟨canIssue_all ?_, canIssue_of ?_, ?_, ?_, ?_, ?_, ⟨?_, ?_⟩, ?_, ?_, ?_, ?_, ?_⟩
  case refine_5 =>
    intro q hq
    exact of_decide_eq_true (List.all_eq_true.1 (show (wideningForms none 3 1 1 gNone).all (fun q => decide (q.2.1 = true)) = true by
      decide +kernel) q hq)
  all_goals decide +kernel

/-- Every active lane's access is local, computed. -/
def lanesLocal (s : State) (t : Thread) (g : Gov) (ea : Nat → Word) (n : Nat) (write : Bool) (off : Nat → Nat) : Bool :=
  (List.range 64).all (fun k => !laneOn t s.cur.acc g k || ownLocal s t (ea k) n write (off k))

theorem lanesLocal_of {s : State} {t : Thread} {g : Gov} {ea : Nat → Word} {n : Nat} {write : Bool} {off : Nat → Nat}
    (h : lanesLocal s t g ea n write off = true) : LanesLocal s t g ea n write off := fun k hk hl =>
  ownLocal_of (by simpa [hl] using List.all_eq_true.1 h k (List.mem_range.2 hk))

/-- O29: the last word of a slice, and indices 0 to 252. -/
theorem test_premise_slices :
    let t := full [508]
    let l : List (Need) := [vecNeed gNone.legal [.sR 1, .vW 3] 4, vecNeed gP3.legal [.vR 1, .vW 3] 4, vecNeed gNone.legal [.sR 1, .vR 2] 4,
      vecNeed gNone.legal [.vR 1, .vR 2] 4]
    (∀ n ∈ l, CanIssue n (bench t) t) ∧ ((t.getReg false 1).toNat % 4 = 0 ∧ (t.getReg false 1).toNat ≤ 508) ∧
    ∀ k, k < 64 → (lane (vget t.v 1 0) k).toNat % 4 = 0 ∧ (lane (vget t.v 1 0) k).toNat ≤ 508 :=
  ⟨canIssue_all (by decide +kernel), by decide +kernel, by decide +kernel⟩

/-- O30: unit, strided and indexed forms, a stride of minus 4 among them. -/
theorem test_premise_vector_memory :
    let t := full [lsWord, 8, 0xFFFFFFFFFFFFFFFC]
    (∀ n ∈ [vecNeed gNone.legal [.sR 1, .vW 3] 4, vecNeed gNone.legal [.sR 1, .sR 2, .vW 3] 4, vecNeed gNone.legal [.sR 1, .vR 1, .vW 3] 4,
      vecNeed gNone.legal [.sR 1, .vR 2] 4, vecNeed gNone.legal [.sR 1, .sR 3, .vR 2] 4, vecNeed gNone.legal [.sR 1, .vR 1, .vR 2] 4],
      CanIssue n (bench t) t) ∧ (Fresh (bench t) t ∧ (bench t).slow = false) ∧
    LanesLocal (bench t) t gNone (unitAddr 4 lsWord) 4 false (fun k => 0x100 + 4 * k) ∧
    LanesLocal (bench t) t gNone (unitAddr 2 lsWord) 2 false (fun k => 0x100 + 2 * k) ∧
    LanesLocal (bench t) t gNone (unitAddr 1 lsWord) 1 false (fun k => 0x100 + k) ∧
    LanesLocal (bench t) t gNone (stridedAddr lsWord 8) 4 false (fun k => 0x100 + 8 * k) ∧
    LanesLocal (bench t) t gNone (indexedAddr lsWord (vget t.v 1 0)) 4 false (fun k => 0x100 + 4 * k) ∧
    LanesLocal (bench t) t gNone (unitAddr 4 lsWord) 4 true (fun k => 0x100 + 4 * k) ∧
    LanesLocal (bench t) t gNone (stridedAddr lsWord 0xFFFFFFFFFFFFFFFC) 4 true (fun k => 0x100 - 4 * k) ∧
    LanesLocal (bench t) t gNone (indexedAddr lsWord (vget t.v 1 0)) 4 true (fun k => 0x100 + 4 * k) := by
  refine ⟨canIssue_all ?_, ⟨(fresh_of ?_).1, ?_⟩, lanesLocal_of ?_, lanesLocal_of ?_, lanesLocal_of ?_, lanesLocal_of ?_, lanesLocal_of ?_,
    lanesLocal_of ?_, lanesLocal_of ?_, lanesLocal_of ?_⟩ <;> decide +kernel

/-- O32: a format with its highest P, the last place of a metadata store and of the largest tile image, a scale, and a row. -/
theorem test_premise_array_setup :
    let t := full [0x1005, 0x5F000, 255, 0x58000, 0x14, 0x3F]
    (∀ n ∈ [setupNeed [.sR 1], setupNeed [], setupNeed [.sR 4, .sR 5], setupNeed [.sR 6, .vR 2]], CanIssue n (bench t) t) ∧
    ArrayRoom (bench t) t ∧
    (field (0x1005 : Word) 3 0 ≤ 5 ∧ field (0x1005 : Word) 7 4 = 0 ∧
      field (0x1005 : Word) 12 8 ≤ [8, 8, 12, 12, 16, 16].getD (field (0x1005 : Word) 3 0) 0 ∧ field (0x1005 : Word) 63 13 = 0) ∧
    ArrayBytes (bench t) t 0x5F000 4096 ∧ field (255 : Word) 63 8 = 0 ∧
    (field (0x14 : Word) 3 0 ≤ 4 ∧ field (0x14 : Word) 63 5 = 0) ∧
    ArrayBytes (bench t) t 0x58000 ([9216, 16896, 16384, 16384, 32768].getD (field (0x14 : Word) 3 0) 0) ∧ field (0x3F : Word) 63 6 = 0 := by
  refine ⟨canIssue_all ?_, ?_, ?_, ⟨?_, ?_⟩, ?_, ?_, ⟨?_, ?_⟩, ?_⟩
  case refine_2 => unfold ArrayRoom; decide +kernel
  all_goals decide +kernel

/-- O33: MV of 0 and 32, KV of 256, NV of 128, by a full thread and by a pick of its domain. -/
theorem test_premise_array_operations :
    let t := full [0, 0x10020, 0x10000, 0x18020, 0]
    let p := pick [0, 0x10020]
    let b := ((bench t).setThread 2 p)
    let b : State := { b with cur := { tid := 2, acc := false } }
    (∀ n ∈ [operateNeed oNone [.sR 1, .sR 2, .tok 14], operateNeed (oRel 5) [.sR 3, .sR 4, .tok 14], operateNeed oNone [.sR 1, .sR 5, .tok 0]],
      CanIssue n (bench t) t) ∧ UsesArray (bench t) t ∧ ArrayRoom (bench t) t ∧
    (CanIssue (operateNeed oNone [.sR 1, .sR 2, .tok 14]) b p ∧ UsesArray b p ∧ ArrayRoom b p) ∧
    (field (0x10020 : Word) 5 0 ≤ 32 ∧ field (0x10020 : Word) 7 6 = 0 ∧ field (0x10020 : Word) 16 8 ≤ 256 ∧ field (0x10020 : Word) 63 17 = 0) ∧
    ArrayBytes (bench t) t 0 ((bench t).core t.core).array.streamExtent ∧
    (GoodTarget 0x10000 ∧ field (0x18020 : Word) 5 0 ≤ 32 ∧ field (0x18020 : Word) 7 6 = 0 ∧ field (0x18020 : Word) 15 8 ≤ 128 ∧
      field (0x18020 : Word) 31 17 = 0 ∧ field (0x18020 : Word) 63 48 = 0) := by
  refine ⟨canIssue_all ?_, .inl rfl, ?_, ⟨canIssue_of ?_, .inr ⟨rfl, 1, full [0, 0x10020, 0x10000, 0x18020, 0], ?_, ?_, rfl⟩, ?_⟩, ?_, ⟨?_, ?_⟩,
    ?_, ?_⟩
  case refine_2 => unfold ArrayRoom; decide +kernel
  case refine_6 => unfold ArrayRoom; decide +kernel
  case refine_10 => unfold GoodTarget; decide +kernel
  all_goals decide +kernel

/-- A command of thread 1 at the head of a queue. -/
def queued (c : ArrCmd) : QueuedCmd := { id := 7, cmd := c, tid := 1, follow := none }

/-- The array of core 0 with a command at its head and another behind it. -/
def arrayBench (t : Thread) (c : ArrCmd) : State :=
  { bench t with cores := [(0, { core0 with array := { ArrayState.launch with queue := [queued c, queued .mzero] } })] }

/-- O34: nothing queued, a noted command still queued, `mrow` of the last half row, `mgeom` inside and beyond its tiles, `baddq` with two
blocks and with none. -/
theorem test_premise_array_waits :
    let t := full [0x3F]
    let w := { full [0x3F] with exe := { stream [0x3F] with got := [7] } }
    let q := arrayBench w .mzero
    let m := member [0x0008000010000040, 0, 0x0008000010000040, 0x40000]
    let x : Word := 0x0008000010000040
    (CanIssue { plain true [] with cls := .noHeddle } (bench t) t ∧ UsesArray (bench t) t ∧ CommandsDone (bench t) t true) ∧
    (CanIssue { plain true [] with cls := .noHeddle } q w ∧ UsesArray q w ∧ (w.ctx q.cur.acc).got ≠ [] ∧ ¬ CommandsDone q w true) ∧
    (CanIssue (setupNeed [.sR 1, .vW 3]) (bench t) t ∧ field (0x3F : Word) 63 6 = 0 ∧ CommandsDone (bench t) t false) ∧
    (∀ n ∈ [setupNeed [.sR 1, .sR 2, .sW 3], setupNeed [.sR 3, .sR 4, .sW 3]], CanIssue n (gangBench m [] gang0) m) ∧
    (field x 19 0 ≠ 0 ∧ field x 39 20 ≠ 0 ∧ field x 59 40 ≠ 0 ∧ field x 63 60 = 0) ∧
    ((gangBench m [] gang0).groupRegs m).gsize ≠ 0 ∧
    (let tiles := ((field x 19 0 + 31) / 32) * ((field x 39 20 + 127) / 128)
     let r := (gangBench m [] gang0).groupRegs m
     r.rank.toNat + field (0 : Word) 47 16 * r.gsize.toNat < tiles ∧ tiles ≤ r.rank.toNat + field (0x40000 : Word) 47 16 * r.gsize.toNat ∧
     field (0x40000 : Word) 15 2 = 0 ∧ field (0x40000 : Word) 63 48 = 0) ∧
    (∀ n ∈ [vecNeed true [.vR 1, .vR 2, .vW 3] 4], CanIssue n (bench t) t) ∧ (t.vl / 32 ≠ 0 ∧ t.vl ≤ 64) ∧
    (let z : Thread := { t with vl := 31 }
     CanIssue (vecNeed true [.vR 1, .vR 2, .vW 3] 4) (bench z) z ∧ z.vl / 32 = 0 ∧ (3 : BitVec 5).toNat < 28) := by
  refine ⟨⟨canIssue_of ?_, .inl rfl, .inl ⟨?_, ?_, ?_⟩⟩, ⟨canIssue_of ?_, .inl rfl, ?_, ?_⟩, ⟨canIssue_of ?_, ?_, .inl ⟨?_, ?_, ?_⟩⟩,
    canIssue_all ?_, ?_, ?_, ?_, canIssue_all ?_, ?_, canIssue_of ?_, ?_, ?_⟩
  case refine_7 =>
    intro h
    rcases h with ⟨h, -, -⟩ | ⟨-, h⟩
    · exact absurd h (by decide +kernel)
    · exact absurd (h 7 (by decide +kernel)).1 (by decide +kernel)
  case refine_4 => intro _; decide +kernel
  case refine_12 => intro h; cases h
  all_goals decide +kernel

/-- An engine operation of thread 1, as newly accepted. -/
def op0 (kind : OpKind) : EngineOp := newOp kind (full []) 1 (.reg false 5) oNone 1 (Vector.replicate 8 0)

/-- The bench with the domain of `dom0` and a core that holds the given operations. -/
def engBench (t : Thread) (ops : AList EngineOp) (k : Core) : State :=
  { bench t with doms := [(0, dom0)], cores := [(0, { k with ops := ops })] }

/-- Words at a byte of core 0's local store. -/
def withRecord (s : State) (off : Nat) (l : List Word) : State :=
  { s with mem := s.mem.putBytes (lsLoc 0 off) (l.flatMap (fun w => leBytes 8 w.toNat)) }

/-- O35, the turns: each command at the head of its queue, and an empty drain buffer. -/
theorem test_premise_array_turns :
    (∀ c ∈ [ArrCmd.mfmt 1 8, .mlatch [] 1 true, .mspar 0x100, .mscale 3, .mzero, .mrowst 31 true 64 9, .mstream true 0x100 32 256 none,
        .mstream false 0 1 1 (some 3), .mdrain 0x10000 32 128 true 5 3],
      ((arrayBench (full []) c).core 0).array.queue = queued c :: [queued .mzero] ∧ (queued c).cmd = c ∧ (queued c).follow = none) ∧
    (64 : Nat) ≤ 64 ∧ ((arrayBench (full []) (.mdrain 0x10000 32 128 true 5 3)).core 0).array.drain = [] ∧
    (let f : QueuedCmd := { queued (.mstream true 0x100 32 256 none) with follow := some 3 }
     let s : State := { bench (full []) with cores := [(0, { core0 with array := { ArrayState.launch with queue := [f] } })] }
     (s.core 0).array.queue = [f] ∧ f.follow = some 3) ∧
    (let s := unmap (arrayBench (full []) (.mstream false 0 1 1 (some 3)))
     NoRecords s ∧ (s.core 0).array.queue = queued (.mstream false 0 1 1 (some 3)) :: [queued .mzero] ∧
       (some 3 : Option Nat).bind (s.op? 0) = none) := by
  refine ⟨?_, ?_, ?_, ?_, noRecords_unmap _, ?_⟩ <;> decide +kernel

theorem taken_of {o : Option (Nat × State)} {tid : Nat} (h : o.map Prod.fst = some tid) : ∃ u, o = some (tid, u) := by
  cases o with
  | none => cases h
  | some p => exact ⟨p.2, by simp at h; simp [← h]⟩

/-- O35, the birth of a drained row in the free slot 7. -/
theorem test_premise_row_pick :
    let r : DrainRow := { row := 31, data := Vector.replicate 128 5, entry := 0x10000, flow := 4, count := 32, op := 3 }
    let s := unmap (engBench (full []) [(3, op0 .mdrain)] { core0 with array := { ArrayState.launch with drain := [r] } })
    (s.core 0).array.drain = r :: [] ∧ s.op? 0 r.op = some (op0 .mdrain) ∧ vget (s.core 0).slots 7 none = none ∧
    s.priorDone 0 (op0 .mdrain) = true ∧ NoRecords s ∧
    ∃ u, s.takeBobbin (op0 .mdrain).dom (coreDie 0) false (op0 .mdrain).image = some (0x1000000, u) :=
  ⟨by decide +kernel, by decide +kernel, by decide +kernel, by decide +kernel, noRecords_unmap _, taken_of (by decide +kernel)⟩

/-- A copy of 256 bytes within local store, a layout of one position, a halo to the south and a weft of two bursts. -/
def copyRec : List Word := [0x00FFFFFF00001000, 0x00FFFFFF00002000, 256, 0, 0, 0, 0, 0]
def copylRec : List Word := [lsWord, lsWord, 0x0000000400020002, 0, 0x0001000100000000, 0x0101, 8, 4]
def haloRec : List Word := [0x0000008000001000, 0x0000000400000080, 0x0000000400000001, 0, 0, 0, 0, 0]
def weftRec : List Word := [0x10000, 0x10010, 0x0000000100000002, 0, 64, 0, 0, 0]

/-- O36: a legal record of each instruction and engines with room. -/
theorem test_premise_engines :
    let t := full [0x200, 0x240, 0x280, 0x2C0]
    let s := withRecord (withRecord (withRecord (withRecord (engBench t [] core0) 0x200 copyRec) 0x240 copylRec) 0x280 haloRec) 0x2C0 weftRec
    (∀ n ∈ [engineNeed oNone [.sR 1, .tok 5], engineNeed (oRel 5) [.sR 2, .tok 5], engineNeed oNone [.sR 3, .tok 5],
      engineNeed oNone [.sR 4, .tok 0]], CanIssue n s t) ∧
    ∀ p ∈ [(OpKind.copy, t.getReg false 1, 16), (.copyl, t.getReg false 2, 16), (.halo, t.getReg false 3, 16), (.weft, t.getReg false 4, 4)],
      p.2.1.toNat % 64 = 0 ∧ windowOk (s.core 0) p.2.1.toNat 64 false false = true ∧
      s.recordCheck 0 p.1 ((Vector.range 8).map (wordAt (s.mem.bytes (lsLoc 0 p.2.1.toNat) 64))) = none ∧
      ((s.core 0).ops.filter (fun o => o.2.kind.engine == p.1.engine)).length < p.2.2 :=
  ⟨canIssue_all (by decide +kernel), by decide +kernel⟩

/-- O36: batches unfinished and none, at the bound of 16 too, and a chain with and without a cursor, by a full thread and a pick. -/
theorem test_premise_batches :
    let t := { full [0x10000] with lastSealed := 16 }
    let w := { full [] with lastSealed := 16, exe := { stream [] with got := [1, 16] } }
    let n := engBench t [] core0
    let b := engBench t [(3, op0 .copy)] core0
    let x := engBench w [(3, op0 .copy)] core0
    let y := engBench w [] core0
    let fw := { w with engFaults := [{ cause := 0x10, addr := 0x10000, eng := 0, dest := .none, batch := 2, onResume := false }] }
    let z := engBench fw [] core0
    let ch := engBench t [] { core0 with chains := vset core0.chains 2 { Chain.empty with cursor := some 0x10000 } }
    let p := pick [0x10000]
    let v : State := { (n.setThread 2 p) with cur := { tid := 2, acc := false } }
    (∀ d ∈ [{ plain true [.sW 3] with cls := .noHeddle }, { plain true [] with cls := .noHeddle },
      { plain (decide ((2 : BitVec 5).toNat ≤ 2)) [.sR 1] with cls := .noHeddle }], CanIssue d n t ∧ CanIssue d b t) ∧
    n.unfinished t 1 < 16 ∧ 16 ≤ b.unfinished t 1 ∧ ((t.ctx false).got = [] ∧ 16 ≤ (16 : BitVec 12).toNat ∧ n.unfinished t 1 ≤ 0) ∧
    (CanIssue { plain true [] with cls := .noHeddle } x w ∧ (w.ctx false).got = 1 :: 16 :: [] ∧ x.unfinished w 1 ≠ 0 ∧
      (x.oldestBatch w 1).getD 0 ≤ (16 : Word).toNat ∧ x.batchTrap w 1 1 16 = none) ∧
    (CanIssue { plain true [] with cls := .noHeddle } y w ∧ y.unfinished w 1 = 0 ∧ y.batchTrap w 1 1 16 = none) ∧
    (CanIssue { plain true [] with cls := .noHeddle } z fw ∧ (z.batchTrap fw 1 1 16).isSome = true) ∧
    (Drained n t ∧ (t.getReg false 1).toNat % 128 = 0 ∧ t.isPick = false) ∧
    ((vget (n.core 0).chains 2 Chain.empty).cursor = none ∧ (vget (ch.core 0).chains 2 Chain.empty).cursor = some 0x10000) ∧
    (CanIssue { plain (decide ((0 : BitVec 5).toNat ≤ 2)) [.sR 1] with cls := .noHeddle } v p ∧ p.isPick = true ∧
      (v.core p.core).full = some 1 ∧ v.thread? 1 = some t ∧ t.dom = p.dom) := by
  refine ⟨?_, ?_, ?_, ?_, ⟨canIssue_of ?_, ?_⟩, ⟨canIssue_of ?_, ?_⟩, ⟨canIssue_of ?_, ?_⟩, ⟨(fresh_of ?_).2, ?_⟩, ?_,
    ⟨canIssue_of ?_, ?_⟩⟩
  case refine_1 =>
    intro d hd
    exact ⟨canIssue_all (by decide +kernel) d hd, canIssue_all (by decide +kernel) d hd⟩
  all_goals decide +kernel

/-- The record of words as an operation holds it. -/
def recOf (l : List Word) : Vector Word 8 := (Vector.range 8).map (fun k => l.getD k 0)

/-- A unit's check passes or fails, computed. -/
theorem checked_of {p : Option (Bad × Word) × State} {r : Option (Bad × Word)} (h : p.1 = r) : ∃ v, p = (r, v) := ⟨p.2, by rw [← h]⟩

/-- O37, units: one that passes its check, one whose source has bits 59 to 56, and one in flight within local store. -/
theorem test_premise_units :
    let x := { op0 .copy with record := recOf copyRec }
    let f := { op0 .copy with record := recOf [0x0100000000000000, 0x00FFFFFF00002000, 128, 0, 0, 0, 0, 0] }
    let u : EngUnit := { row := 0, off := 0, len := 128 }
    let y := { x with inflight := [u], off := 128 }
    let h := { x with held := [u], off := 128 }
    let s (o : EngineOp) := engBench (full []) [(3, o)] core0
    (∀ o ∈ [x, f, h], (s o).op? 0 3 = some o ∧ o.toIssue 0 = some u ∧ o.state = .active ∧ (s o).unitRoom 0 o = true) ∧
    (∃ v, (s x).checkUnit 0 x u = (none, v)) ∧ ((s f).checkUnit 0 f u).1.isSome = true ∧
    ((s y).MemoryWf ∧ NoSleeper (s y) ∧ (s y).op? 0 3 = some y ∧ y.kind = .copy ∧ y.toLand (s y).freeCtr = some u ∧
      (s y).priorDone 0 y = true ∧ 0 < u.len ∧
      (0x00FFFFFF00001000 : Word).toNat % 128 + u.len ≤ 128 ∧ y.srcAt u.row u.off = some 0x00FFFFFF00001000 ∧
      y.destAt 0 u.row u.off = .addr 0x00FFFFFF00002000 ∧ route 0 0x00FFFFFF00001000 = .ok (.own 0x1000) ∧
      route 0 0x00FFFFFF00002000 = .ok (.own 0x2000) ∧ windowBytes ((s y).core 0) 0x1000 u.len false false = true ∧
      windowBytes ((s y).core 0) 0x2000 u.len true false = true) := by
  refine ⟨by decide +kernel, checked_of (by decide +kernel), by decide +kernel, ?_⟩
  refine ⟨?_, noSleeper_of (by decide +kernel), by decide +kernel⟩
  unfold State.MemoryWf
  decide +kernel

/-- O37: a copy and a chain's stream that have ended, a burst returned with a slot and a bobbin free, and a strip whose sender releases. -/
theorem test_premise_engine_events :
    let x := op0 .copy
    let c := { op0 .copy with follow := .pending, record := recOf [0, 0, 0, 4, 0, 0, 0, 0] }
    let m := { op0 .mstream with follow := .pending, chain := true }
    let w := { op0 .weft with record := recOf weftRec }
    let h := { op0 .halo with ord := oRel 5 }
    let b : Burst := { op := 3, item := 1, burst := 0, data := 77 }
    let d := { full [] with exe := { stream [] with pend := 32 } }
    let s (o : EngineOp) : State :=
      unmap { engBench d [(3, o)] { core0 with returned := [b] } with strips := [(2, [{ op := 3, src := 0 }])] }
    NoRecords (s x) ∧
    ((s x).op? 0 3 = some x ∧ x.chain = false ∧ (s x).opDone 0 3 x = true ∧ (s x).opReleased 0 x = true ∧ x.dest = .reg false 5 ∧
      (s x).thread? x.tid = some d ∧ d.kind = .full ∧ (d.ctx false).pend.getLsbD 5 = true) ∧
    (∀ o ∈ [c, m], (s o).op? 0 3 = some o ∧ o.follow = .pending ∧ (o.kind = .mstream ∨ o.landed 0 = true) ∧ o.state = .active ∧
      ((s o).core 0).array.queue.length < 8 ∧ (s o).opRuns 0 o.tid = true) ∧
    (((s w).core 0).returned = b :: [] ∧ (s w).op? 0 b.op = some w ∧ freeSlot ((s w).core 0) = some 0 ∧ (s w).opRuns 0 w.tid = true ∧
      NoRecords (s w) ∧ ∃ u, (s w).takeBobbin w.dom (coreDie 0) false w.image = some (0x1000000, u)) ∧
    (NoRecords (s h) ∧ alGetD (s h).strips (4 * 0 + (2 : BitVec 2).toNat) [] = { op := 3, src := 0 } :: [] ∧ (s h).op? 0 3 = some h ∧ h.ord.rel = true ∧
      h.landed 0 = true ∧ (s h).opReleased 0 h = true) :=
  ⟨noRecords_unmap _, by decide +kernel, by decide +kernel, ⟨by decide +kernel, by decide +kernel, by decide +kernel, by decide +kernel,
    noRecords_unmap _, taken_of (by decide +kernel)⟩, noRecords_unmap _, by decide +kernel⟩

/-- What a part reads, where it has landed. -/
theorem done_of {p : Machine.Part (List Byte)} {bs : List Byte} (h : (match p with | .done cs _ => cs == bs | _ => false) = true) :
    ∃ v, p = .done bs v := by
  cases p with
  | done cs v => exact ⟨v, by simp at h; rw [h]⟩
  | wait v => cases h
  | fail b a v => cases h

/-- O37, chains: an entry of zeros at the cursor, an entry that has run, and NEXT zero and not. -/
theorem test_premise_chains :
    let c : Chain := { Chain.empty with cursor := some 0x10000, tail := 0x10000, parked := false, tid := 1 }
    let s (c : Chain) (ops : AList EngineOp) := engBench (full []) ops { core0 with chains := vset (vset core0.chains 0 c) 1 c }
    let r := { c with running := [{ op := 3, addr := 0x10000, cword := 0 }], started := true }
    let e := { c with started := true, tail := 0x10080 }
    let x := { op0 .copy with chain := true }
    let zeros : List Byte := List.replicate 128 0
    (∀ g ∈ [(0 : BitVec 2), 1], (s c []).chain 0 g.toNat = c) ∧
    (c.cursor = some 0x10000 ∧ c.started = false) ∧
    (∀ g ∈ [(0 : BitVec 2), 1], (s c []).chainSteps 0 g.toNat c = true ∧ (s c []).chainRoom 0 g.toNat = true ∧ (0x10000 : VAddr).toNat % 128 = 0 ∧
      (∃ v, (s c []).readPart (chainRef 0 g.toNat c 0) ((0x10000 : VAddr).setWidth 64) 128 = .done zeros v) ∧
      firstBad (entryBad g.toNat (wordAt zeros)) = none) ∧
    ((s c []).followBad 0 (wordAt zeros 0) = none ∧
      (s c []).recordCheck 0 (chainOp (s c []) 0 0 c (wordAt zeros)).kind (chainOp (s c []) 0 0 c (wordAt zeros)).record = none) ∧
    (let s := unmap (s r [(3, x)])
     NoRecords s ∧ s.chain 0 0 = r ∧ r.running = { op := 3, addr := 0x10000, cword := 0 } :: [] ∧ s.op? 0 3 = some x ∧ x.state = .active ∧
      x.rows ≠ 1 ∧ x.rows ≠ 2 ∧ s.opRuns 0 r.tid = true ∧ s.opDone 0 3 x = true ∧ s.opReleased 0 x = true) ∧
    ((s e []).chain 0 0 = e ∧ e.started = true ∧ e.cursor ≠ some e.tail ∧ (s e []).chainSteps 0 0 e = true ∧
      (∃ v, (s e []).readPart (chainRef 0 0 e 2) (leaAdd ((0x10000 : VAddr).setWidth 64) 64) 8 = .done (List.replicate 8 0) v) ∧
      (let n : State := { s e [] with mem := (s e []).mem.putBytes 0x10040 [0x80] }
       ∃ v, n.readPart (chainRef 0 0 e 2) (leaAdd ((0x10000 : VAddr).setWidth 64) 64) 8 = .done (0x80 :: List.replicate 7 0) v)) := by
  refine ⟨by decide +kernel, by decide +kernel, ?_, by decide +kernel, ⟨noRecords_unmap _, by decide +kernel⟩, by decide +kernel,
    by decide +kernel, by decide +kernel, by decide +kernel, done_of (by decide +kernel), done_of (by decide +kernel)⟩
  intro g hg
  simp only [List.mem_cons, List.not_mem_nil, or_false] at hg
  rcases hg with rfl | rfl
  · exact ⟨by decide +kernel, by decide +kernel, by decide +kernel, done_of (by decide +kernel), by decide +kernel⟩
  · exact ⟨by decide +kernel, by decide +kernel, by decide +kernel, done_of (by decide +kernel), by decide +kernel⟩

/-- The premises of `launch` along its reads: the record, its descriptor, the completion word's address and the gang it asks for. -/
def launchable (s : State) (th : Thread) (t a b : BitVec 5) : Bool :=
  match getS a s with
  | .ok (x, s1) =>
    (match getS b s1 with
    | .ok (y, s2) =>
      (match release 4 s2 with
      | .ok ((), s3) =>
        (match laterT t s3 with
        | .ok (dest, v) =>
          let r := (Vector.range 8).map (wordAt (s.mem.bytes (lsLoc th.core x.toNat) 64))
          let q := launchReq r th y
          decide (x.toNat % 64 = 0) && windowOk (s.core th.core) x.toNat 64 false false && decide (y.toNat % 8 = 0) &&
            decide (field y 59 56 = 0) && !rectReserved (vget r 1 0) && q.onDie &&
            (match s3.readKdesc (coreDie th.core) th.dom (vget r 0 0) with
            | .ok k =>
              (decide (y = 0) || (match s3.sysStore (coreDie th.core) Clock.zero th.dom y (leBytes 8 0) with | .ok _ => true | _ => false)) &&
                (v.acceptGang { q with token := some (s.cur.tid, dest), stamp := (v.die (coreDie th.core)).vc } k).isSome
            | _ => false)
        | _ => false)
      | _ => false)
    | _ => false)
  | _ => false

/-- O38: a launch of one shuttle, with and without a completion word. -/
theorem test_premise_launch :
    let t := full [0x300, 0, 0x10050]
    let s := withRecord (engBench t [] core0) 0x300 [0x10040, 0x0000000001010000, 1, 2, 3, 4, 5, 6]
    (∀ n ∈ [workNeed [.sR 1, .sR 2, .tok 5], workNeed [.sR 1, .sR 3, .tok 5]], CanIssue n s t) ∧ Drained s t ∧
    launchable s t 5 1 2 = true ∧ launchable s t 5 1 3 = true :=
  ⟨canIssue_all (by decide +kernel), (fresh_of (by decide +kernel)).2, by decide +kernel, by decide +kernel⟩

/-- O38: `spawn` with a bobbin and with none, each kind of wait, `yield` of a pick, and `exit`. -/
theorem test_premise_work :
    let t := full [0x10010, 0, 0x1000000200000005, 0x2000000000010000, 0x30000000000007FF]
    let s := engBench t [] core0
    let p := pick [0]
    let v : State := { s.setThread 2 p with cur := { tid := 2, acc := false } }
    (∀ n ∈ [workNeed [.sR 1, .tok 5], workNeed [], workNeed [.sR 2], workNeed [.sR 3], workNeed [.sR 4], workNeed [.sR 5]], CanIssue n s t) ∧
    CanIssue (workNeed [.sR 1, .tok 5]) (bench t) t ∧ (Drained s t ∧ Drained (bench t) t) ∧ GoodTarget (t.getReg false 1) ∧
    ((∀ i, i < 6 → (t.ctx false).pend.getLsbD (8 + i) = false) ∧ (bench t).takeBobbin t.dom (coreDie t.core) false t.image = none ∧
      ∃ u, s.takeBobbin t.dom (coreDie t.core) false t.image = some (0x1000000, u)) ∧
    (NoRecords (unmap s) ∧ (s.core t.core).portsDue = false ∧ (t.ctx true).accessing = false) ∧
    ([(1 : Nat), 2, 3, 4].map (fun k => waitKeyOf (t.getReg false (k + 1))) =
      [some none, some (some (.mailbox 2 5)), some (some (.address 0x10000)), some (some (.barrier 0x7FF))]) ∧ isReg 5 ∧
    (CanIssue (workNeed []) v p ∧ Drained v p ∧ p.isPick = true ∧ v.engineBusy 2 = false) ∧ s.exitBusy 1 t = false ∧ t.engFaults = [] := by
  refine ⟨canIssue_all ?_, canIssue_of ?_, ⟨(fresh_of ?_).2, (fresh_of ?_).2⟩, ?_, ⟨?_, ?_, taken_of ?_⟩, ⟨noRecords_unmap _, ?_⟩, ?_, ?_,
    ⟨canIssue_of ?_, (fresh_of ?_).2, ?_⟩, ?_⟩
  case refine_5 => unfold GoodTarget; decide +kernel
  case refine_11 => unfold isReg; decide
  all_goals decide +kernel

/-- A word that its leader ran at 0x10000 and passed. -/
def word0 : FwdWord := { pc := 0x10000, bytes := [0, 0, 0, 0], next := 0x10004, jumped := false }

/-- The vector group of threads 1 and 2. -/
def group0 (attached : Bool) : VGroup :=
  { gang := 7, members := [(1, true, false), (2, attached, false)], words := [(2, [word0])], armed := [],
    joining := [] }

/-- O39: arrivals at `grp.form`, first, last and already formed; `grp.join` of a leader with its followers gathered and not, of an
attached follower and of no group; a forwarded word. -/
theorem test_premise_groups :
    let m := member [0, 0x10000]
    let gang2 : Gang := { gang0 with width := 2, members := [1, 2] }
    let s := gangBench m [] gang0
    let w := gangBench m [] gang2
    let f (r : Option Nat) : Forming := { gang := 7, arg := 0, issued := [1], formed := r, failed := false }
    let u (r : Option Nat) : State := { s with forming := [(4, f r)], groups := [(5, group0 true)] }
    let j (a : Bool) : State := { s with groups := [(5, group0 a)] }
    let o : Thread := { full [] with core := 1 }
    let b : State := { (j true).setThread 2 o with cur := { tid := 2, acc := false } }
    let need := grpNeed [.sR 1, .sW 3]
    (∀ r ∈ [none, some 5], CanIssue need (u r) m ∧ (u r).formingOf 1 = some (4, f r) ∧ (f r).failed = false ∧ (f r).formed = r) ∧
    alGet (u none).groups 5 = some (group0 true) ∧
    (CanIssue need s m ∧ s.formingOf 1 = none ∧ m.gang = some 7 ∧ alGet s.gangs 7 = some gang0 ∧ (s.groupRegs m).gsize ≠ 0 ∧
      gang0.part 0 = some [1] ∧ s.groupOf 1 = none ∧ s.forming = []) ∧
    (CanIssue need w m ∧ w.formingOf 1 = none ∧ alGet w.gangs 7 = some gang2 ∧ gang2.part 0x10000 = some [1, 2] ∧ 1 ∈ [1, 2] ∧
      w.groupOf 1 = none ∧ [1, 2].Nodup ∧ [1, 2] ≠ [1]) ∧
    (CanIssue (grpNeed []) s m ∧ s.groupOf 1 = none) ∧
    (CanIssue (grpNeed []) (j true) m ∧ (j true).groupOf 1 = some (5, group0 true) ∧ (group0 true).leader = 1 ∧
      (group0 true).gathered m.exe.pc = true) ∧
    (CanIssue (grpNeed []) (j false) m ∧ (j false).groupOf 1 = some (5, group0 false) ∧ (group0 false).gathered m.exe.pc = false) ∧
    (CanIssue (grpNeed []) b o ∧ b.groupOf 2 = some (5, group0 true) ∧ (group0 true).leader ≠ 2 ∧ b.attached 2 = true) ∧
    (let x : Thread := { m with exe := { m.exe with phase := .sent } }
     let y : Forming := { f (some 5) with dests := [(1, .reg false 3)] }
     let z : State := { gangBench x [] gang0 with forming := [(4, y)], groups := [(5, group0 true)] }
     z.thread? 1 = some x ∧ (x.ctx false).midway = true ∧ z.formingOf 1 = some (4, y) ∧ y.failed = false ∧ y.formed = some 5 ∧
       alGet y.dests 1 = some (.reg false 3)) ∧
    (b.thread? 2 = some o ∧ alGetD (group0 true).words 2 [] = [word0] ∧ b.attached 2 = true ∧ (group0 true).armed.contains 2 = false ∧
      b.formingOf 2 = none) := by
  refine ⟨?_, ?_, ⟨canIssue_of ?_, ?_⟩, ⟨canIssue_of ?_, ?_⟩, ⟨canIssue_of ?_, ?_⟩, ⟨canIssue_of ?_, ?_⟩, ⟨canIssue_of ?_, ?_⟩,
    ⟨canIssue_of ?_, ?_⟩, ?_, ?_⟩
  case refine_1 =>
    intro r hr
    simp only [List.mem_cons, List.not_mem_nil, or_false] at hr
    rcases hr with rfl | rfl
    · exact ⟨canIssue_of (by decide +kernel), by decide +kernel⟩
    · exact ⟨canIssue_of (by decide +kernel), by decide +kernel⟩
  all_goals decide +kernel

/-- A list that gives every number below n the same value. -/
theorem alGet_const {α : Type} (x : α) : ∀ (n a i : Nat), a ≤ i → i < a + n → alGet ((List.range' a n).map (fun i => (i, x))) i = some x
  | 0, a, i, h, h' => by omega
  | n + 1, a, i, h, h' => by
    rw [List.range'_succ, List.map_cons]
    by_cases e : i = a
    · subst e
      simp [alGet]
    · have := alGet_const x n (a + 1) i (by omega) (by omega)
      simpa [alGet, e, Ne.symm e, show ¬ (i < a) by omega] using this

/-- A live sequence key of domain 0 in slot 3, at generation 1. -/
def seq0 : KeySlot := { KeySlot.init with state := .live, kind := 2, gen := 1, used := true }

/-- O40: no free slot, a full quota and room for a key; a live key to bind and close, a word that unbinds, and a slot with one peer. -/
theorem test_premise_keys :
    let t := full [0x80001003, 0]
    let s : State := { engBench t [] core0 with keys := [(0, { KeySlot.init with state := .live }), (3, seq0)] }
    let q : State := { s with doms := [(0, { dom0 with keyq := 1 })] }
    let full_ : State := { s with keys := (List.range' 0 4096).map (fun i => (i, seq0)) }
    CanIssue (seqNeed [.sW 3]) full_ t ∧ full_.freeKeySlot = none ∧
    (CanIssue (seqNeed [.sW 3]) q t ∧ q.freeKeySlot = some 1 ∧ (q.effKeyq t.dom).toNat ≤ q.keysOf t.dom) ∧
    (CanIssue (seqNeed [.sW 3]) s t ∧ s.freeKeySlot = some 1 ∧ s.keysOf t.dom < (s.effKeyq t.dom).toNat) ∧
    (∀ n ∈ [seqNeed [.sR 1], seqNeed [.sR 2]], CanIssue n s t) ∧ bit (t.getReg false 2) 31 = false ∧
    (bit (t.getReg false 1) 31 = true ∧ s.seqKeyBad t (refKey (t.getReg false 1)) = none ∧
      (s.key (field (t.getReg false 1) 11 0)).exports = [] ∧ s.keyBusy (refKey (t.getReg false 1)) = false) ∧ Fresh s t := by
  refine ⟨canIssue_of ?_, ?_, ⟨canIssue_of ?_, ?_⟩, ⟨canIssue_of ?_, ?_⟩, canIssue_all ?_, ?_, ?_, (fresh_of ?_).1⟩
  case refine_2 =>
    unfold State.freeKeySlot
    rw [List.find?_eq_none]
    intro i hi
    simp only [List.mem_map, List.mem_range] at hi
    obtain ⟨k, hk, rfl⟩ := hi
    simp only [State.key, alGetD, alGet_const seq0 4096 0 (k + 1) (by omega) (by omega)]
    decide
  all_goals decide +kernel

/-- The conditions of `HomeBlock`. -/
theorem homeBlock_of {s : State} {h : HeddleCtx} {a : Word}
    (hh : (decide (a.toNat % 128 = 0) && hbmBacked a.toNat && decide (s.homeHeddle a.toNat = h.heddle)) = true) : HomeBlock s h a := by
  simp only [Bool.and_eq_true, decide_eq_true_eq] at hh
  exact ⟨hh.1.1, hh.1.2, hh.2⟩

/-- O41: a handler with a block in its buffer, and operands of each form. -/
theorem test_premise_protocol :
    let t := heddleT [0x10000, 1, 0, 0x13F, 0x0000000100000021, 0x0000400000000013]
    let s := bench t
    (∀ n ∈ [protoNeed [.sR 1, .sW 3], protoNeed [.sR 1, .sR 4], protoNeed [.sR 1, .sR 2, .tok 7], protoNeed [.sR 1, .sR 3, .tok 0],
      protoNeed [.sR 1, .sR 5], protoNeed [.sR 1, .sR 6], protoNeed [.sR 1], protoNeed []], CanIssue n s t) ∧
    t.heddle = some handler ∧ (isReg 1 ∧ isReg 6) ∧ HomeBlock s handler (t.getReg false 1) ∧
    ((s.cacheDir 0 0x200).dirCached 0 0x200 = true ∧
      (let v := s.updBlock (blockNo (dirAddr 0x200)) (fun m => { m with poison := true })
       (v.cacheDir 0 0x200).dirCached 0 0x200 = false ∧ CanIssue (protoNeed [.sR 1, .sW 3]) v t)) ∧ t.getReg false 2 = 1 ∧ t.getReg false 3 = 0 ∧
    (handler.buffer = some 5 ∧ handler.bufBad = false ∧ handler.fwdSent = false) ∧
    (let y := t.getReg false 4; field y 7 6 = 0 ∧ field y 63 9 = 0) ∧
    (let y := t.getReg false 5; bit y 63 = false ∧ (s.node (y.extractLsb' 32 31)).isSome = true ∧ field y 31 6 = 0 ∧ field y 3 2 = 0 ∧
      field y 1 0 = 1 ∧ field y 5 4 = 2) ∧
    (let y := t.getReg false 6; bit y 63 = false ∧ (s.node (y.extractLsb' 32 31)).isSome = true ∧ field y 31 5 = 0 ∧
      field y 3 0 ∈ [3, 6, 7, 8]) := by
  refine ⟨canIssue_all ?_, ?_, ⟨?_, ?_⟩, homeBlock_of ?_, ⟨?_, ?_, canIssue_of ?_⟩, ?_, ?_, ?_, ?_, ?_, ?_⟩
  case refine_3 => unfold isReg; decide
  case refine_4 => unfold isReg; decide
  all_goals decide +kernel

/-- A loaded draft whose every entry starts its handler at its first byte. -/
def draft0 : Draft :=
  { std := false, tagInit := 0, comm := false, table := List.replicate 40 0x80000000, smap := [1], text := [0, 0], digest := 0, lms := 0 }

/-- The bench under that draft, with a message in flight. -/
def cohBench (t : Thread) (m : CohMsg) : State := { bench t with drafts := [(0, draft0)], msgs := [(4, m)] }

/-- The conditions of `CanDispatch`, computed. -/
def dispatches (s : State) (h i slot : Nat) (m : CohMsg) (pc : VAddr) : Bool :=
  decide (s.node m.dst = some (.heddle h)) && decide (h < 64) && !s.handlerOn h m.pa && !s.queuedFor h m.pa && !s.moving m.pa &&
    !s.busy m.pa && !s.stdDraft (s.draftAt m.pa) && (alGet (s.heddle h).fwds (blockNo m.pa)).isNone &&
    decide ((m.src, 128 * blockNo m.pa + m.slot.toNat) ∉ (s.heddle h).discards) && decide (freeHThread (s.heddle h) = some i) &&
    decide (freeHSlot (s.heddle h) = some slot) &&
    (match alGet s.drafts (s.draftAt m.pa) with
    | some d => decide (dispatchTarget d m.type.toNat (s.block (blockNo m.pa)).access.toNat = some pc)
    | none => false) &&
    decide (blockNo m.pa ∈ (s.heddle h).dirs ∨ (s.storedDir h (blockNo m.pa)).isSome = true ∧ ((s.heddle h).dirs.filter (fun x => x % 2048 == blockNo m.pa % 2048)).length < 8)

theorem canDispatch_of {s : State} {h i slot : Nat} {m : CohMsg} {pc : VAddr} (hh : dispatches s h i slot m pc = true) :
    CanDispatch s h i slot m pc := by
  simp only [dispatches, Bool.and_eq_true, decide_eq_true_eq, Bool.not_eq_true', Option.isNone_iff_eq_none] at hh
  obtain ⟨⟨⟨⟨⟨⟨⟨⟨⟨⟨⟨⟨h0, h1⟩, h2⟩, h3⟩, h4⟩, h5⟩, h6⟩, h6'⟩, h7⟩, h8⟩, h9⟩, h10⟩, h11⟩ := hh
  refine ⟨h0, h1, h2, h3, h4, h5, h6, h6', h7, h8, h9, ?_, h11⟩
  split at h10
  · rename_i d hd
    exact ⟨d, hd, of_decide_eq_true h10⟩
  · cases h10

/-- Its die may take message m, numbered k. -/
def takes (s : State) (k : Nat) (m : CohMsg) : Bool := (s.takeMsg k).map Prod.fst == some m

theorem taken {s : State} {k : Nat} {m : CohMsg} (h : takes s k m = true) : ∃ v, s.takeMsg k = some (m, v) := by
  unfold takes at h
  cases hs : s.takeMsg k with
  | none => rw [hs] at h; cases h
  | some p =>
    rw [hs] at h
    simp only [Option.map_some, beq_iff_eq, Option.some.injEq] at h
    exact ⟨p.2, by rw [← h]⟩

/-- A message that is taken and dispatched, computed. -/
def starts (s : State) (k h i slot : Nat) (m : CohMsg) (pc : VAddr) (miss : Bool) : Bool :=
  match s.takeMsg k with
  | some (x, v) => decide (x = m) && dispatches (if miss then v.countRequest m else v) h i slot m pc
  | none => false

theorem starts_of {s : State} {k h i slot : Nat} {m : CohMsg} {pc : VAddr} {miss : Bool} (hs : starts s k h i slot m pc miss = true) :
    ∃ v, s.takeMsg k = some (m, v) ∧ CanDispatch (if miss then v.countRequest m else v) h i slot m pc := by
  unfold starts at hs
  split at hs
  · rename_i x v hv
    simp only [Bool.and_eq_true, decide_eq_true_eq] at hs
    exact ⟨v, by rw [hv, hs.1], canDispatch_of hs.2⟩
  · cases hs

/-- A message of a type about the block at 0x10000, for memory heddle 0. -/
def coh (type : Nat) (reply : Bool) : CohMsg := mkMsg 0x4000 0x40 0x40 type reply 5 0 0x10000 0 0 none

/-- O42, at a home: a message of each type, and a write-back without a slot. -/
theorem test_premise_requests :
    (∀ p ∈ [(0, false), (1, false), (2, false), (3, false), (4, true), (5, false), (6, false), (7, false), (8, false), (9, true)],
      (∃ v, (cohBench (full []) (coh p.1 p.2)).takeMsg 4 = some (coh p.1 p.2, v) ∧
        CanDispatch (if decide (p.1 ∈ [0, 1, 2, 5]) = true then v.countRequest (coh p.1 p.2) else v) 0 0 1 (coh p.1 p.2) 0) ∧
      (coh p.1 p.2).type = BitVec.ofNat 4 p.1 ∧ (coh p.1 p.2).reply = p.2 ∧ (coh p.1 p.2).slot ≠ 0) ∧
    (let m := { coh 5 false with slot := 0 }
     (∃ v, (cohBench (full []) m).takeMsg 4 = some (m, v)) ∧ m.type = 5 ∧ m.reply = false ∧ m.slot = 0) ∧
    (let m := { coh 0 false with src := 0x1040 }
     let b : State := { cohBench (full []) m with bridges := [(bridgeKey 1 0, [.tag 4])] }
     (∃ v, b.takeMsg 4 = some (m, v)) ∧ b.node m.dst = some (.heddle 0) ∧ b.crosses m = true) := by
  refine ⟨fun p hp => ⟨starts_of ?_, ?_, ?_, ?_⟩, ⟨taken ?_, ?_⟩, taken ?_, ?_⟩
  case refine_5 => decide +kernel
  case refine_6 => decide +kernel
  case refine_7 => decide +kernel
  case refine_8 => decide +kernel
  all_goals (revert p; decide +kernel)

/-- O42, at a shuttle: with a line, with none and room for one, and each type. -/
theorem test_premise_probes :
    let line : DCLine := { key := 0, data := 3, writable := true }
    let push : CohMsg := { mkMsg 0 0x4000 0x40 7 false 5 0 0x10000 0 0 (some 9) with bad := false }
    let s (m : CohMsg) (c : AList DCLine) : State :=
      { cohBench (full []) m with cores := [(0, { core0 with dcache := c, partials := [(0x200, (0, 4))] })] }
    (∀ m ∈ [mkMsg 0 0x4000 0x40 3 false 5 0 0x10000 0 0 none, mkMsg 0 0x4000 0x40 6 false 5 0 0x10000 0 0 none, push,
        mkMsg 0 0x4000 0x40 8 false 5 0 0x10000 0 0 none], (∃ v, (s m []).takeMsg 4 = some (m, v)) ∧
      (s m []).granted 0 (blockNo m.pa) false = false ∧ (s m []).node m.dst = some (.core 0) ∧
      m.reply = false ∧ (m.type = 3 ∨ m.type = 6 ∨ m.type = 7 ∨ m.type = 8)) ∧
    (push.data = some 9 ∧ push.bad = false ∧ alGet ((s push [(0x200, line)]).core 0).dcache (blockNo push.pa) = some line) ∧
    (alGet ((s push []).core 0).dcache (blockNo push.pa) = none ∧ (((s push []).core 0).dcSet (blockNo push.pa)).length < 8) ∧
    (∀ x ∈ [3, 6], let m := mkMsg 0 0x4000 0x40 x false 5 0 0x10000 0 0 none
     let g : State := { s m [] with msgs := [(4, m), (5, mkMsg 0 0x4000 0x40 4 true 2 0 0x10000 kData 2 (some 9))] }
     (∃ v, g.takeMsg 4 = some (m, v)) ∧ g.node m.dst = some (.core 0) ∧ g.granted 0 (blockNo m.pa) false = true) ∧
    Rising ((s push [(0x200, line)]).core 0).dcache ∧ Rising ((s push []).core 0).partials := by
  refine ⟨?_, by decide +kernel, by decide +kernel, ?_, ?_, ?_⟩
  · intro m hm
    refine ⟨taken ?_, ?_, ?_, ?_, ?_⟩ <;> (revert m; decide +kernel)
  · intro x hx
    refine ⟨taken ?_, ?_, ?_⟩ <;> (revert x; decide +kernel)
  all_goals (unfold Rising; decide +kernel)

/-- A load of thread 1 from 0x10000 that waits for an answer. -/
def out0 (kind : OutKind) : OutReq :=
  { kind := kind, tid := 1, acc := false, dom := 0, core := 0, acckind := .load, signed := false, loc := 0x10000, ea := 0x10000, size := 8,
    data := 0, compare := 0, dest := .reg false 5, key := 0, pc := 0x10000, unit := none, slot := 2, answer := none, waits := true,
    nacks := 16, retryAt := none, gone := none, lane := none }

/-- O43: DATA, ACK with a grant, ACK without one, POISON and NACK for a waiting load. -/
theorem test_premise_replies :
    let t := { full [] with exe := { stream [] with phase := .sent } }
    let o := out0 .coherence
    let line : DCLine := { key := 0, data := 3, writable := false }
    let ln : OutReq := { o with lane := some 3 }
    let ac : OutReq := { out0 .active with slot := 2 }
    let m (type : Nat) (kind grant : BitVec 2) (d : Option Block) : CohMsg := mkMsg 0 0x4000 0x40 type true 2 0 0x10000 kind grant d
    let s (m : CohMsg) : State :=
      { cohBench t m with outs := [(6, o)], cores := [(0, { core0 with dcache := [(0x200, line)] })] }
    let e := cohBench t (m 4 kData 2 (some 9))
    (∀ x ∈ [m 4 kData 2 (some 9), m 4 kAck 2 none, m 4 kAck 0 none, m 4 kPoison 0 none, m 9 kNack 0 none],
      (∃ v, (s x).takeMsg 4 = some (x, v) ∧ v.slotReq 0 x.slot = some (6, o)) ∧ (s x).keyLive o.key = true ∧ x.reply = true ∧
      (s x).node x.dst = some (.core 0)) ∧
    o.isWb = false ∧ o.size ≠ 0 ∧ o.waits = true ∧
    (∀ y ∈ [ln, ac], let x := m 4 kAck 0 none
     let r : State := { s x with outs := [(6, y)] }
     (∃ v, r.takeMsg 4 = some (x, v) ∧ v.slotReq 0 x.slot = some (6, y)) ∧ y.isWb = false) ∧
    (ln.kind = .coherence ∧ ln.lane = some 3 ∧ (t.ctx ln.acc).refused = none ∧ ln.acckind ≠ .store ∧ ac.kind = .active) ∧
    (let x := m 4 kData 2 (some 9)
     x.type = 4 ∧ x.kind = kData ∧ x.data = some 9 ∧ x.bad = false ∧ x.key = o.key ∧ (s x).stdDraft ((s x).draftAt o.loc) = false ∧
       (s x).isComm ((s x).draftAt o.loc) = false ∧ (((s x).core 0).dcSet (blockNo o.loc)).length < 8) ∧
    (let x := m 4 kData 2 (some 9)
     let p : State := { s x with drafts := State.reset.drafts }
     (∃ v, p.takeMsg 4 = some (x, v) ∧ v.slotReq 0 x.slot = some (6, o)) ∧ p.stdDraft (p.draftAt o.loc) = true ∧
       p.draftAt o.loc ≠ 6 ∧ p.readable (blockNo o.loc) o.key = true ∧ o.acckind = .load) ∧
    (let x := m 4 kAck 2 none
     x.type = 4 ∧ x.kind = kAck ∧ x.grant ≠ 0 ∧ alGet ((s x).core 0).dcache (blockNo o.loc) = some line ∧ line.key = o.key) ∧
    (e.thread? 1 = some t ∧ (t.ctx o.acc).phase = .sent) ∧ (m 9 kNack 0 none).kind = kNack := by
  have lift : ∀ {r : State} {x : CohMsg} {y : OutReq}, (match r.takeMsg 4 with
      | some (z, v) => z == x && v.slotReq 0 x.slot == some (6, y)
      | none => false) = true → ∃ v, r.takeMsg 4 = some (x, v) ∧ v.slotReq 0 x.slot = some (6, y) := by
    intro r x y h
    split at h
    · rename_i z v hv
      simp only [Bool.and_eq_true, beq_iff_eq] at h
      exact ⟨v, by rw [hv, h.1], h.2⟩
    · cases h
  refine ⟨fun x hx => ⟨lift ?_, ?_⟩, ?_, ?_, ?_, fun y hy => ⟨lift ?_, ?_⟩, ?_, ?_, ⟨lift ?_, ?_⟩, ?_⟩
  case refine_1 => revert x; decide +kernel
  case refine_2 => revert x; decide +kernel
  case refine_6 => revert y; decide +kernel
  case refine_7 => revert y; decide +kernel
  all_goals decide +kernel

/-- A retry that still needs its home, computed. -/
def retries (s : State) (o : OutReq) : Bool :=
  match s.checkGlobal o.core o.dom o.ea 1 false (o.acckind != .load) with
  | (.ok (_, l), v) => decide (l.loc = 0) && !v.stdDraft (v.draftAt l.pa) &&
      (v.needType o.core (blockNo l.pa) l.key (o.acckind != .load) (v.isComm (v.draftAt l.pa))
        (o.op.contributes (v.commOf l.pa).1 (v.commOf l.pa).2)).isSome
  | _ => false

/-- O43: a refused load whose time has come, and its block is in no cache. -/
theorem test_premise_retry :
    let o := { out0 .coherence with retryAt := some 0 }
    let s : State := { cohBench (full []) (coh 0 false) with outs := [(6, o)] }
    alGet s.outs 6 = some o ∧ o.retryAt = some 0 ∧ 0 ≤ s.tick ∧ o.kind = .coherence ∧ o.isWb = false ∧
    ∃ v e l ty, s.checkGlobal o.core o.dom o.ea 1 false (o.acckind != .load) = (.ok (e, l), v) ∧ l.loc = 0 ∧
      v.stdDraft (v.draftAt l.pa) = false ∧ v.needType o.core (blockNo l.pa) l.key (o.acckind != .load) (v.isComm (v.draftAt l.pa))
        (o.op.contributes (v.commOf l.pa).1 (v.commOf l.pa).2) = some ty := by
  refine ⟨by decide +kernel, by decide +kernel, by decide +kernel, by decide +kernel, by decide +kernel, ?_⟩
  have h : retries { cohBench (full []) (coh 0 false) with outs := [(6, { out0 .coherence with retryAt := some 0 })] }
      { out0 .coherence with retryAt := some 0 } = true := by decide +kernel
  unfold retries at h
  split at h
  · rename_i e l v hv
    simp only [Bool.and_eq_true, decide_eq_true_eq, Bool.not_eq_true', Option.isSome_iff_exists] at h
    obtain ⟨⟨h1, h2⟩, ty, h3⟩ := h
    exact ⟨v, e, l, ty, hv, h1, h2, h3⟩
  · cases h

/-- O44, the bridge from die 1 to die 0: an update, a beat, a write to this home, a reply, and a changed count. -/
theorem test_premise_bridges :
    let w : RemoteWrite := { id := 6, home := 1, acked := none, acc := false, pa := 2 ^ 38, key := 0, size := 8, data := none }
    let t := { full [] with writes := [w], exe := { stream [] with phase := .sent, pend := 32 } }
    let stamp : Clock := vset Clock.zero 1 1
    let b (l : List BridgeMsg) : State :=
      { bench t with
        bridges := [(bridgeKey 1 0, l)], outs := [(6, out0 .dieRead), (8, { out0 .dieRead with waits := false })],
        dies := vset (vset (bench t).dies 0 { (bench t).die 0 with copies := [(0x200, (0, 4))] }) 1 { Die.init with vc := stamp } }
    let buf (l : List BridgeMsg) := ((b l).land 1 0).buffer 1 0
    let up := BridgeMsg.update stamp 0x200 (some (0, 7))
    let wr (miss : Option MissTag) := BridgeMsg.write Clock.zero 1 6 0 0x10040 (leBytes 8 5) miss
    let tag : MissTag := { idx := 1, bits := 12, pin := false }
    let re (id : Nat) := BridgeMsg.reply Clock.zero id 5 (some (0x200, (0, 7)))
    (frontMsg (buf [.beat 3, up]) = some up ∧ stamp.at 1 = ((b [.beat 3, up]).die 0).vc.at 1 + 1 ∧
      (∀ k, k < 4 → k ≠ 1 → stamp.at k ≤ ((b [.beat 3, up]).die 0).vc.at k) ∧ alGet ((b [.beat 3, up]).die 0).copies 0x200 = some (0, 4)) ∧
    ((buf [wr none, .beat 3]).find? BridgeMsg.isBeat = some (.beat 3) ∧ updateBefore 1 3 (buf [wr none, .beat 3]) = false) ∧
    ((b [wr none]).MemoryWf ∧ (b [wr (some tag)]).MemoryWf) ∧ NoSleeper (b [wr none]) ∧
    (∀ x ∈ [none, some tag], frontMsg (buf [wr x]) = some (wr x) ∧
      (∀ k, k < 4 → k ≠ 0 → Clock.zero.at k ≤ ((b [wr x]).die 0).vc.at k) ∧
      ((b [wr x]).countIf 1 0x10040 x).writable 0 0x10040 8 = true ∧ paDie 0x10040 = 0) ∧
    (frontMsg (buf [.ack 1 6 3]) = some (.ack 1 6 3) ∧ (b [.ack 1 6 3]).thread? 1 = some t ∧ w ∈ t.writes ∧ w.id = 6) ∧
    ((∀ id ∈ [6, 8], frontMsg (buf [re id]) = some (re id)) ∧ alGet (b [re 6]).outs 6 = some (out0 .dieRead) ∧
      alGet (b [re 8]).outs 8 = some { out0 .dieRead with waits := false } ∧ (out0 .dieRead).waits = true ∧ (out0 .dieRead).lane = none ∧
      (t.ctx false).phase = .sent ∧ (out0 .dieRead).dest = .reg false 5 ∧ (t.ctx false).pend.getLsbD 5 = true ∧
      (b [re 8]).thread? 1 = some t) ∧ NoRecords (unmap (b [re 6])) ∧
    ((b []).die 1).announced ≠ vget ((b []).die 1).vc 1 0 := by
  refine ⟨by decide +kernel, by decide +kernel, ⟨by unfold State.MemoryWf; decide +kernel, by unfold State.MemoryWf; decide +kernel⟩,
    noSleeper_of (by decide +kernel), ?_, by decide +kernel, by decide +kernel, noRecords_unmap _, by decide +kernel⟩
  intro x hx
  revert x
  decide +kernel

theorem ok_of {x : Except Cause (Word × State)} (h : (match x with | .ok _ => true | _ => false) = true) : ∃ w u, x = .ok (w, u) := by
  cases x with
  | ok p => exact ⟨p.1, p.2, rfl⟩
  | error c => cases h

/-- O44: an active message that passes and one that its window refuses; a host and a peer load; a refused peer store; a peer device's
access that is not admitted, that its page refuses, and that is performed. -/
theorem test_premise_answers :
    let a : ActiveMsg := { id := 6, tid := 1, acc := false, checked := false, dom := 0, loc := lsLoc 0 0x100, size := 8, kind := .store, signed := false, data := 5,
                           compare := 0, ea := lsWord, key := 0, src := 0, stamp := Clock.zero }
    let far : ActiveMsg := { a with src := 1 }
    let ao : OutReq := { out0 .active with acckind := .store, dest := .none }
    let s : State := { bench (full []) with cores := [(0, { core0 with remote := [a] })], outs := [(6, ao)] }
    let fs : State := { s with cores := [(0, { core0 with remote := [far] })], bridges := [(bridgeKey 1 0, [.tag 6])] }
    let z : State := { s with cores := [(0, { core0 with remote := [a], pwl := Vector.replicate 8 0 })] }
    let y : State := { s with cores := [(0, { core0 with remote := [{ a with stamp := vset Clock.zero 2 1 }] })] }
    let pd := { full [] with exe := { stream [] with pend := 32 } }
    let o (k : OutKind) : OutReq := { out0 k with waits := false }
    let st : OutReq := { o .peer with acckind := .store }
    let x : State := { bench pd with
      outs := [(6, o .host), (7, o .peer), (8, st), (9, o .home)], mgmt := { (bench pd).mgmt with admitted := [(o .peer).device] } }
    let p : PeerAccess := { device := 9, port := 23, va := 0x10000, size := 8, kind := .load, data := 0, compare := 0, tag := 1,
                            dom := 0 }
    let q : PeerAccess := { p with port := 5 }
    let n : State := bench (full [])
    let m : State := { n with mgmt := { n.mgmt with admitted := [9] } }
    let g : State := { m with mem := m.mem.putBytes 0x200A [0x10] }
    let hp : State := { g with mem := g.mem.putBytes 0x6001 [1] }
    ((s.core 0).remote = a :: [] ∧ s.activeReady a = true ∧ alGet s.outs a.id = some ao ∧ ∃ w u, (s.updCore 0 (fun k => { k with remote := [] })).activeOp a = .ok (w, u)) ∧
    ((fs.core 0).remote = far :: [] ∧ fs.activeReady far = true ∧ far.src ≠ far.place ∧
      ∃ w u, ((fs.updCore 0 (fun k => { k with remote := [] })).takeFront far.src far.place).activeOp far = .ok (w, u)) ∧
    ((y.core 0).remote = { a with stamp := vset Clock.zero 2 1 } :: [] ∧ y.activeReady { a with stamp := vset Clock.zero 2 1 } = false) ∧
    ((z.core 0).remote = a :: [] ∧ z.activeReady a = true ∧ (2 ^ 52 ≤ a.loc ∨ a.kind ≠ .load ∧ a.checked = false) ∧
      (match (z.updCore 0 (fun k => { k with remote := [] })).activeOp a with | .error c => decide (c = 0x11) | _ => false) = true) ∧
    (∀ e ∈ [(6, o .host), (7, o .peer), (9, o .home)], alGet x.outs e.1 = some e.2 ∧ e.2.unit = none ∧
      e.2.acckind = .load ∧ e.2.waits = false ∧ e.2.dest = .reg false 5 ∧ x.thread? e.2.tid = some pd ∧ pd.kind = .full ∧
      (pd.ctx false).pend.getLsbD 5 = true) ∧
    ((o .host).kind = .host ∧ (x.mem.num (o .host).loc 8) % 2 ^ 64 = x.mem.num (o .host).loc 8 ∧
      x.mgmt.fclk.leBut (x.die (coreDie (o .host).core)).vc [] = true ∧ (o .peer).kind = .peer ∧
      (o .peer).device ∈ x.mgmt.admitted ∧ (o .home).kind = .home ∧
      (x.homeOp (o .home).key (o .home).loc (o .home).op).isSome = true) ∧
    (alGet x.outs 8 = some st ∧ st.kind = .peer ∧ st.acckind = .store ∧ st.unit = none ∧ st.gone = none ∧ st.device ∈ x.mgmt.admitted ∧ x.thread? st.tid = some pd) ∧
    (p.port.toNat < 24 ∧ p.device ∉ n.mgmt.admitted) ∧
    (p.device ∈ m.mgmt.admitted ∧ (match m.peerLeaf (p.port.toNat / 6) p with | .error _ => true | _ => false) = true) ∧
    (∀ op ∈ [AmoOp.xor, .add], let r : PeerAccess := { q with kind := .atomic op }
      r.device ∈ hp.mgmt.admitted ∧ hp.mgmt.atomicReq = false ∧
      (match hp.peerLeaf (r.port.toNat / 6) r with | .ok l => decide (l.loc = 1) | _ => false) = true) ∧
    (q.device ∈ g.mgmt.admitted ∧ q.kind = .load ∧
      (match g.peerLeaf (q.port.toNat / 6) q with
      | .ok l => decide (l.loc = 0) && !g.shut l.pa && decide (g.draftAt l.pa < 4) && g.stdDraft (g.draftAt l.pa) &&
          g.readable (blockNo l.pa) l.key
      | _ => false) = true) := by
  refine ⟨⟨?_, ?_, ?_, ok_of ?_⟩, ⟨?_, ?_, ?_, ok_of ?_⟩, ?_, ?_, ?_, ?_, ?_, ?_, ?_, ?_, ?_⟩ <;> decide +kernel

/-- A runnable pick of domain 0 with bobbin 0x1000000. -/
def ready (held : Option Nat) : Thread := { pick [] with status := .runnable, heldTo := held }

/-- A run-queue entry of that pick. -/
def entry0 : RunEntry := { tid := 0x1000000, die := 0, prio := 3, since := 0 }

/-- `n` keys from `j` on, each with the same value. -/
def allFrom {α : Type} (x : α) : Nat → Nat → AList α
  | 0, _ => []
  | n + 1, j => (j, x) :: allFrom x n (j + 1)

theorem allFrom_get {α : Type} (x : α) (n : Nat) : ∀ j c, j ≤ c → c < j + n → alGet (allFrom x n j) c = some x := by
  induction n with
  | zero => intro j c h1 h2; omega
  | succ n ih =>
    intro j c h1 h2
    simp only [allFrom, alGet]
    split
    · rfl
    · rw [if_neg (by omega)]
      exact ih _ _ (by omega) (by omega)

/-- O45: a launch whose shuttle is free, a pick held to its core and one at the head of a list, a suspended full thread, a bobbin whose
list was full, a waiting spawn, and a migration record. -/
theorem test_premise_starts :
    let g : Gang := { gang0 with released := false, members := [0x1000001], args := Vector.replicate 6 9 }
    let hm : Thread := { Thread.init .full 0 0 0 image0 0x10000 with status := .taken, gang := some 7, member := true }
    let e := engBench (full []) [] core0
    let a : State := { (e.setThread 0x1000001 hm) with cores := [], gangs := [(7, g)] }
    let b (held : Option Nat) (d : Domain) : State := { (e.setThread 0x1000000 (ready held)) with doms := [(0, d)] }
    let q := { dom0 with runq := [entry0] }
    let f : Thread := { full [3] with status := .runnable, heldTo := some 0 }
    let w : State := { engBench f [] core0 with threads := [(1, f)] }
    let n : State := { b none { dom0 with unqueued := [entry0] } with births := [(4, { tid := 1, core := 0, dom := 0, image := image0,
                                                                                       entry := 0x10010, regs := Vector.replicate 6 2, dest := .none })] }
    let m : State := { b none dom0 with dies := vset (b none dom0).dies 0 { (b none dom0).die 0 with migbuf := [{ tid := 0x1000000, heddle := 0 }] },
                                        cores := (0, core0) :: allFrom { Core.init with gate := .closed } 1151 1 }
    (alGet a.gangs 7 = some g ∧ g.released = false ∧ g.single = false ∧ a.rectangleFree g = true ∧ a.firstInLine 7 g = true ∧
      g.members = [0x1000001] ∧ g.cores = [0] ∧ a.thread? 0x1000001 = some hm ∧ g.token = none) ∧
    ((e.core 0).preempt = none ∧ vget (e.core 0).slots 6 none = none ∧ (ready none).kind ≠ .full ∧
      (b (some 0) dom0).heldBobbin 0 false = some (0x1000000, ready (some 0)) ∧ (b none q).heldBobbin 0 false = none ∧
      (b none q).bestEntry 0 false = some (0, entry0) ∧ entry0.tid = 0x1000000) ∧
    (w.thread? 1 = some f ∧ f.kind = .full ∧ w.heldBobbin 0 true = some (1, f) ∧ (w.core 0).full = some 1 ∧ f.engFaults = [] ∧
      (w.core 0).preempt = none) ∧
    (n.doms.findSome? (fun d => (d.2.unqueued.find? (fun e => e.tid == 0x1000000)).map (fun e => (d.1, e))) = some (0, entry0) ∧
      n.runqFull 0 entry0.die.toNat entry0.prio = false ∧ n.tick < entry0.since + usCycles ∧
      entry0.since + usCycles ≤ ({ n with tick := 1750 } : State).tick) ∧
    ((∃ u, n.takeBobbin 0 (coreDie 0) false image0 = some (0x1000001, u)) ∧ freeSlot (n.core 0) = some 0) ∧ NoRecords (unmap (b none dom0)) ∧
    ((m.die (coreDie 0)).migbuf = [{ tid := 0x1000000, heddle := 0 }] ∧ coreDie 0 < 4 ∧ m.thread? 0x1000000 = some (ready none) ∧
      m.slotTakes 0 (ready none).dom = true ∧ (ready none).clock.leBut (m.die (coreDie 0)).vc [] = true) ∧
    ∀ i, i < 1152 → i = 0 ∨ m.slotFree (coreDie 0 * 1152 + i) (ready none).dom = false := by
  refine ⟨?_, ?_, ?_, ?_, ⟨taken_of ?_, ?_⟩, noRecords_unmap _, ?_, ?_⟩
  case refine_8 =>
    intro i hi
    by_cases h : i = 0
    · exact .inl h
    · right
      have hc : coreDie 0 * 1152 + i = i := by simp [coreDie]
      rw [hc]
      simp only [State.slotFree, State.slotTakes, State.core, alGetD, alGet, h, if_false, Nat.not_lt_zero, allFrom_get _ 1151 1 i (by omega) (by omega)]
      simp [Gate.admits]
  all_goals decide +kernel

/-- A state with firmware and the security core up. -/
def fwBench (s : State) : State := s.updMgmt (fun m => { m with treadleUp := true, securityUp := true, hostUp := true })

/-- A queue's PREEMPT names the shuttle on core 0. -/
def named (s : State) : State := s.updSlot 3 (fun x => { x with preempting := some [0] })

/-- An event for the supervisor of domain 0 at endpoint 3 of core 0. -/
def evEp : Endpoint := { ep0 with event := true }

/-- O46, pre-emption and entry: a thread at a boundary with picks and without, the deadline before and after, an event. -/
theorem test_premise_preempt :
    let t := full [3]
    let f := fwBench (engBench t [] core0)
    let s := named f
    let p : State := named (fwBench (engBench t [] { core0 with slots := vset core0.slots 2 (some 0x1000000) }))
    let sv : State := named (fwBench (engBench { t with mode := 1 } [] core0))
    let rf : State := engBench t [] { core0 with intr := true }
    let d (n : Nat) (k : Core) : State := { engBench t [] { k with preempt := some n, gate := .closed } with tick := 100 }
    let v : State := engBench t [] { core0 with tvec := 0x10011, eps := vset core0.eps 3 evEp }
    NoRecords (unmap s) ∧
    (s.firmware = true ∧ (s.core 0).preempt = none ∧ (s.core 0).full = some 1 ∧ s.thread? 1 = some t ∧ t.core = 0 ∧
      s.mayInterrupt 0 = true ∧ (s.stopShuttle 0).canSave 0 1 t = true ∧ (s.core 0).gate = .open ∧ (s.core 0).hasPicks = false ∧ (s.die (coreDie 0)).heldPosts = []) ∧
    ((p.core 0).hasPicks = true ∧ (p.stopShuttle 0).canSave 0 1 t = true ∧ p.mayInterrupt 0 = true) ∧
    (f.firmware = true ∧ f.mayInterrupt 0 = false) ∧
    ((sv.core 0).preempt = none ∧ sv.firmware = true ∧ sv.mayInterrupt 0 = true ∧ sv.supervising 0 = true) ∧
    ((rf.core 0).preempt = none ∧ (rf.core 0).intr = true ∧ rf.supervising 0 = false) ∧
    (let k := { core0 with slots := vset core0.slots 2 (some 0x1000000) }
     let e := { k with full := none }
     ((d 0 k).core 0).preempt = some 0 ∧ (((d 0 k).saveStopped 0).core 0).hasPicks = true ∧ (d 0 k).tick < 0 + 2048 ∧
       ((d 0 e).core 0).full = none ∧ ((d 0 e).core 0).hasPicks = true) ∧
    (let e := { core0 with full := none }
     ((d 0 e).core 0).full = none ∧ ((d 0 e).core 0).hasPicks = false ∧ ((d 0 e).core 0).last = none ∧ ((d 0 e).core 0).gate = .closed) ∧
    (v.eventWaiting 0 t.dom = some msg0 ∧ (v.core 0).tvec ≠ 0 ∧ t.mode = 0 ∧ t.status = .running ∧ (v.core 0).preempt = none ∧
      t.exe.atBoundary = true ∧ t.exe.arrived = false) := by
  refine ⟨noRecords_unmap _, ?_, ?_, ?_, ?_, ?_, ?_, ?_, ?_⟩ <;> decide +kernel

/-- O46, times: a waiter whose time has come, a `wfm` after its time, an expired slice and its claim window, and a line to fetch. -/
theorem test_premise_times :
    let w : Thread := { full [] with status := .waiting (.address 0x10000) }
    let b := bench w
    let s : State := { b with dies := vset b.dies 0 { b.die 0 with timed := [(1, 0)] } }
    let m : Thread := { full [] with exe := { stream [] with wait := .wfm 5 } }
    let x : State := { bench m with tick := 65541 }
    let o : Thread := { full [] with status := .runnable, heldTo := some 0, dom := 5 }
    let e : State := { (fwBench (engBench (full []) [] core0)).setThread 9 o with doms := [(0, dom0), (5, dom0)], tick := 17500 }
    let r : State := { engBench (full []) [] { core0 with full := none, gate := .reserved 5 9 0 } with tick := 1750 }
    let line : ICLine := { pa := 0x10000, key := 0, text := 0, map := BitVec.allOnes 64 }
    let f : Thread := { full [] with image := { image0 with tsize := 256 } }
    let u : State := { bench f with cores := [(0, { core0 with icache := [line] })] }
    let t : State := { u with blocks := alSet u.blocks 513 { BlockMeta.init with sealedUnder := some 0 } }
    let wants (s : State) (l : VAddr) := (s.fetchStreams 0).find? (fun x => (s.aheadLines x.2 x.1.acc).contains l)
    NoRecords (unmap s) ∧
    (s.thread? 1 = some w ∧ w.status = .waiting (.address 0x10000) ∧ alGet (s.die (coreDie w.core)).timed 1 = some 0 ∧ 0 ≤ s.tick) ∧
    (x.thread? 1 = some m ∧ m.status = .running ∧ m.exe.wait = .wfm 5 ∧ 5 + 65536 ≤ x.tick) ∧
    (e.firmware = true ∧ (e.core 0).preempt = none ∧ (e.core 0).full = some 1 ∧ e.thread? 1 = some (full []) ∧ (e.core 0).gate = .open ∧
      (e.effSlice 0).toNat * usCycles ≤ e.tick - (e.core 0).placedAt ∧ e.bestWaiting 0 0 = some (9, 5, 0) ∧ (e.effPrio 0).toNat ≤ 0) ∧
    ((r.core 0).gate = .reserved 5 9 0 ∧ (r.core 0).full = none ∧ (r.core 0).preempt = none ∧ 0 + usCycles ≤ r.tick) ∧
    (wants t 0x10080 = some ({ tid := 1, acc := false }, f) ∧ wants u 0x10080 = some ({ tid := 1, acc := false }, f) ∧
      wants t 0x20000 = none ∧ (match t.fetchLine 0 0 f.image 0x10080 0x10080 with | (.ok _, _) => true | _ => false) = true ∧
      (match u.fetchLine 0 0 f.image 0x10080 0x10080 with | (.error _, _) => true | _ => false) = true) := by
  refine ⟨noRecords_unmap _, ?_, ?_, ?_, ?_, ?_⟩ <;> decide +kernel

/-- With no launch there is none that waits for a delivery. -/
theorem unawaited_of {s : State} {k : Nat} (h : s.gangs = []) : s.Unawaited k := by
  intro g hg
  rw [h] at hg
  cases hg

/-- A message to endpoint 0 of core 0 whose sender waits for its token in r5. -/
def msg1 : ChanMsg := { msg0 with handle := mkHandle 0 0 0 9, stid := 1, dest := .reg false 5 }

/-- O47: a message for an open endpoint with room, a bound endpoint with a message, a flow's next index, and a held fault entry. -/
theorem test_premise_deliveries :
    let e : Endpoint := { ep0 with msgs := [] }
    let b : Endpoint := { ep0 with handler := 0x10010, image := image0 }
    let k := { core0 with eps := vset (vset core0.eps 0 e) 3 b }
    let f : Flow := { cores := [0, 5], next := 4 }
    let h : FaultEntry := { rec0 := 1, rec1 := 2, rec2 := 3, rec3 := 4, w4 := 5, resumeh := 6, w6 := 7, stamp := 8 }
    let t := { full [] with exe := { stream [] with pend := 32 } }
    let z := engBench t [] k
    let s : State := unmap
      { z with chans := [(4, msg1)], dies := vset z.dies 0 { z.die 0 with flows := [(2, f)], heldPosts := [h], frbase := 0x100001 } }
    (alGet s.chans 4 = some msg1 ∧ s.nextInOrder 4 msg1 = true ∧ msg1.handle.extractLsb' 49 15 = s.mgmt.device ∧
      bit msg1.handle 31 = false ∧ handleCore msg1.handle = some 0 ∧ field msg1.handle 35 32 = 0 ∧ s.ep 0 0 = e ∧
      e.check = msg1.handle.extractLsb' 0 32 ∧ e.state = .open ∧ e.owner = some 0 ∧ e.msgs.length < 4 ∧ msg1.dest = .reg false 5 ∧
      s.thread? msg1.stid = some t ∧ t.kind = .full ∧ (t.ctx false).pend.getLsbD 5 = true) ∧ NoRecords s ∧ s.Unawaited 4 ∧
    (let g : Gang := { gang0 with ended := 1, sends := [4] }
     let x : State := { s with gangs := [(7, g)] }
     x.gangs = [(7, g)] ∧ g.sends = [4] ∧ g.ended = g.members.length ∧ g.cword = 0 ∧ alGet x.chans 4 = some msg1 ∧
       x.nextInOrder 4 msg1 = true ∧ x.ep 0 0 = e) ∧
    ((s.ep 0 3).owner = some 0 ∧ s.epHead 0 3 = some msg0 ∧ freeSlot (s.core 0) = some 0 ∧ (s.ep 0 3).handler ≠ 0 ∧
      s.ownerRuns 0 = true ∧ msg0.stamp.leBut (s.die (coreDie 0)).vc [] = true ∧
      ∃ v, s.takeBobbin 0 (coreDie 0) false b.image = some (0x1000000, v)) ∧
    (alGet (s.die 0).flows 2 = some f ∧ f.cores[f.next % f.cores.length]? = some 0 ∧ 0 < 4656) ∧
    ((s.die 0).heldPosts[0]? = some h ∧ (s.die 0).frRoom = true ∧ earlierHeld (s.die 0).heldPosts 0 h = false) ∧
    (let x : FaultEntry := { h with holds := some (heddleTid 0 0) }
     let v := s.updDie 0 (fun d => { d with heldPosts := [h, x] })
     (v.die 0).heldPosts[1]? = some x ∧ (v.die 0).frRoom = true) := by
  refine ⟨?_, noRecords_unmap _, unawaited_of ?_, ?_, ⟨?_, ?_, ?_, ?_, ?_, ?_, taken_of ?_⟩, ?_, ?_⟩ <;> decide +kernel

/-- What a packet holds, computed. -/
theorem packet_of {s : State} {k : Nat} {m : ChanMsg} {r : Repair}
    (h : (match s.packet k with | some p => decide (p.data = m.data) && decide (p.stamp = m.stamp) && decide (p.rep = r) && p.ok | none => false) = true) :
    ∃ p, s.packet k = some p ∧ (p.data = m.data ∧ p.stamp = m.stamp) ∧ p.rep = r ∧ p.ok = true := by
  split at h
  · rename_i p hp
    simp only [Bool.and_eq_true, decide_eq_true_eq] at h
    exact ⟨p, hp, h.1.1, h.1.2, h.2⟩
  · cases h

/-- O47, resume packets: RESUME of a stopped thread and of a faulted operation, ABORT of an operation, DISCARD of a thread. -/
theorem test_premise_resumes :
    let t : Thread := { full [] with status := .stopped }
    let x := { op0 .copy with state := .faulted 0x11 lsWord, num := 2, held := [{ row := 0, off := 0, len := 128 }] }
    let r (src : BitVec 4) (op : Nat) : Repair :=
      { handle := 0x80000005, src := src, tid := 1, acc := false, core := 0, eng := 0, op := op, dom := 0 }
    let m (data : BitVec 512) : ChanMsg := { msg0 with handle := 0x80000005, data := data }
    let s (src : BitVec 4) (op : Nat) (data : BitVec 512) : State :=
      let z := engBench t [(3, x)] core0
      { z with chans := [(4, m data)], dies := vset z.dies 0 { z.die 0 with repairs := [r src op] } }
    let words (a b c : Word) : BitVec 512 := c.setWidth 512 <<< 128 ||| b.setWidth 512 <<< 64 ||| a.setWidth 512
    let d : State := { s 0 0 (words 2 0 0) with cores := [(0, core0)] }
    (∃ p, (s 0 0 (words 0 0x10010 0)).packet 4 = some p ∧ (p.data = (m (words 0 0x10010 0)).data ∧ p.stamp = (m (words 0 0x10010 0)).stamp) ∧ p.rep = r 0 0 ∧ p.ok = true) ∧
    (∀ x ∈ [s 0 0 (words 0 0x10010 0), s 1 2 (words 0 0 2), s 1 2 (words 0x1101 0 2), d], x.Unawaited 4) ∧
    ((s 0 0 (words 0 0x10010 0)).thread? 1 = some t ∧ t.status = .stopped ∧ t.kind = .full ∧
      ((s 0 0 (words 0 0x10010 0)).core t.core).full = some 1 ∧
      (m 0).stamp.leBut ((s 0 0 (words 0 0x10010 0)).die (coreDie 0)).vc [] = true) ∧ NoRecords (unmap (s 0 0 (words 0 0x10010 0))) ∧
    (∃ p, (s 1 2 (words 0 0 2)).packet 4 = some p ∧ (p.data = (m (words 0 0 2)).data ∧ p.stamp = (m (words 0 0 2)).stamp) ∧ p.rep = r 1 2 ∧ p.ok = true) ∧
    ((s 1 2 (words 0 0 2)).packetOp (r 1 2) = some (3, x) ∧ (s 1 2 (words 0 0 2)).op? 0 3 = some x ∧ x.chain = false) ∧
    (∃ p, (s 1 2 (words 0x1101 0 2)).packet 4 = some p ∧ (p.data = (m (words 0x1101 0 2)).data ∧ p.stamp = (m (words 0x1101 0 2)).stamp) ∧ p.rep = r 1 2 ∧ p.ok = true) ∧
    (x.inflight = [] ∧ x.state = .faulted 0x11 lsWord ∧ (s 1 2 (words 0x1101 0 2)).thread? x.tid = some t) ∧
    (∃ p, d.packet 4 = some p ∧ (p.data = (m (words 2 0 0)).data ∧ p.stamp = (m (words 2 0 0)).stamp) ∧ p.rep = r 0 0 ∧ p.ok = true) ∧
    (d.thread? 1 = some t ∧ d.exitBusy 1 t = false ∧ d.released 1 t false 4 = true ∧ d.released 1 t true 4 = true) := by
  refine ⟨packet_of ?_, fun x hx => unawaited_of ?_, ?_, noRecords_unmap _, packet_of ?_, ?_, packet_of ?_, ?_, packet_of ?_, ?_⟩
  case refine_2 => revert x; decide +kernel
  all_goals decide +kernel

/-- The words of a ring at 0x10000, as bytes. -/
def ringBytes (l : List (BitVec 32)) : List Byte := l.flatMap (fun w => leBytes 4 w.toNat)

/-- A bound slot of domain 0 whose ring holds n words, taken by its parse core. -/
def slot0 (n : Nat) : Slot :=
  { Slot.empty with state := .bound, parsing := some 0, priv := true, ring := 0x10000, rsize := 8, wptr := BitVec.ofNat 32 (4 * n), qcb := 0x200 }

/-- The bench with the domain of `dom0`, the next block of memory writable too, and a slot 0 that holds some words. -/
def ringBench (x : Slot) (l : List (BitVec 32)) : State :=
  let s := engBench (full []) [] core0
  { s with mem := s.mem.putBytes 0x10000 (ringBytes l), blocks := alSet s.blocks 513 { BlockMeta.init with sealedUnder := some 0 },
           slots := vset s.slots 0 x }

/-- A packet of a ring's start. -/
def pkt (h : BitVec 32) (l : List (BitVec 32)) : Pkt := { hdr := h, words := l, at_ := 0, past := false }

theorem parsed_of {s : State} {x : Slot} {p : Pkt}
    (h : (match s.parse x with
      | .packet q => decide (q.hdr = p.hdr ∧ q.words = p.words ∧ q.at_ = p.at_ ∧ q.past = p.past)
      | _ => false) = true) : s.parse x = .packet p := by
  split at h
  · rename_i q hq
    obtain ⟨h1, h2, h3, h4⟩ := of_decide_eq_true h
    rw [hq]
    congr 1
    cases q
    cases p
    simp only at h1 h2 h3 h4
    subst h1 h2 h3 h4
    rfl
  · cases h

/-- The conditions of `PacketReady`, computed. -/
def packetReady (s : State) (type : Nat) (p : Pkt) : Bool :=
  (s.slot 0).open && decide (p.type = type) && !(s.slot 0).flawed && (p.bad (s.slot 0)).isNone && (match s.parse (s.slot 0) with
    | .packet q => decide (q.hdr = p.hdr ∧ q.words = p.words ∧ q.at_ = p.at_ ∧ q.past = p.past)
    | _ => false)

theorem packetReady_of {s : State} {type : Nat} {p : Pkt} (h : packetReady s type p = true) : PacketReady s 0 type p := by
  simp only [packetReady, Bool.and_eq_true, decide_eq_true_eq, Option.isNone_iff_eq_none, Bool.not_eq_true'] at h
  obtain ⟨⟨⟨⟨h1, h2⟩, h5⟩, h3⟩, h4⟩ := h
  exact ⟨h1, parsed_of h4, h2, h5, h3⟩

/-- A packet of each type whose operands are legal. -/
def packets : List (Nat × Pkt) :=
  [(0, pkt 0 []), (1, pkt 0x01120000 ([0x10080, 0, 0x01010000, 0, 0, 0] ++ List.replicate 12 3)),
   (2, pkt 0x02110010 ([0x10080, 0, 0, 0, 0] ++ List.replicate 12 3)),
   (2, pkt 0x02130000 ([0x10010, 0, 0, 0, 0] ++ List.replicate 12 3 ++ [0x10080, 0])), (3, pkt 0x03030000 [0x10080, 0, 8]),
   (5, pkt 0x05040000 [0x10080, 0, 0, 0]), (5, pkt 0x05040002 [0x10080, 0, 0, 0]), (6, pkt 0x06040002 [0x10080, 0, 9, 0]),
   (7, pkt 0x07030000 [0x10080, 0, 5]), (8, pkt 0x08000001 []), (9, pkt 0x09030000 [0, 0x10080, 0]),
   (10, pkt 0x0A060000 [0, 0, 2, 0, 0, 0]), (10, pkt 0x0A060000 [0, 0, 2, 0, 1, 0]), (11, pkt 0x0B010000 [0]), (11, pkt 0x0B010000 [7])]

/-- The state in which a packet stands at slot 0. -/
def packetBench (p : Pkt) : State := ringBench (slot0 (1 + p.words.length)) (p.hdr :: p.words)

/-- A state whose table maps the third GiB to a peer device and the fourth to host memory. -/
def withPeer (s : State) : State := { s with mem := (s.mem.putBytes 0x6020 (leBytes 8 0x20F)).putBytes 0x6030 (leBytes 8 0x10F) }

/-- O48: a packet of each type stands at its parse point, in a buffer for RETURN; a waiting slot; an unassigned type, a wrong COUNT, a
packet that the two decoders read differently, a ring that cannot be fetched, and one on a peer device. -/
theorem test_premise_packets :
    let r := ringBench { slot0 0 with stack := [(0x10000, 0x10004)], ibd := 1 } [0x04000000]
    let h := pkt 0x05040000 [0x10080, 0, 0, 0]
    let w := ringBench { slot0 5 with state := .waiting, parsing := none, packet := some h } [0x05040000, 0x10080, 0, 0, 0]
    let f := ringBench { slot0 1 with ring := 0x40000000 } []
    let o := withPeer (ringBench { slot0 1 with ring := 0x80000000 } [])
    let d := ringBench { slot0 1 with flawed := true } [0]
    (∀ q ∈ packets, PacketReady (packetBench q.2) 0 q.1 q.2) ∧
    PacketReady r 0 4 { pkt 0x04000000 [] with at_ := 0x10000 } ∧ PacketReady w 0 5 h ∧
    (let p := pkt 0x0C000000 []
     ((packetBench p).slot 0).open = true ∧ (packetBench p).parse ((packetBench p).slot 0) = .packet p ∧ 12 ≤ p.type ∧
       ((packetBench p).slot 0).flawed = false) ∧
    (let p := pkt 0x04010000 [0]
     ((packetBench p).slot 0).open = true ∧ (packetBench p).parse ((packetBench p).slot 0) = .packet p ∧
       p.bad ((packetBench p).slot 0) = some 2 ∧ p.type = 4 ∧ ((packetBench p).slot 0).flawed = false) ∧
    ((d.slot 0).open = true ∧ d.parse (d.slot 0) = .packet (pkt 0 []) ∧ (d.slot 0).flawed = true) ∧
    ((f.slot 0).state = .bound ∧ (f.slot 0).parsing ≠ none ∧ (match f.parse (f.slot 0) with | .failed _ _ => true | _ => false) = true) ∧
    ((o.slot 0).open = true ∧
      (match o.parse (o.slot 0) with | .pending (some a) => decide (a = 0x80000000) | _ => false) = true) := by
  refine ⟨fun q hq => packetReady_of ?_, packetReady_of ?_, packetReady_of ?_, ⟨?_, parsed_of ?_, ?_⟩, ⟨?_, parsed_of ?_, ?_⟩,
    ⟨?_, parsed_of ?_, ?_⟩, ?_, ?_⟩
  case refine_1 =>
    have : packets.all (fun q => packetReady (packetBench q.2) q.1 q.2) = true := by decide +kernel
    exact List.all_eq_true.1 this q hq
  all_goals decide +kernel

theorem kdesc_of {s : State} {x : Slot} {a : Word} {q : KDesc → Bool}
    (h : (match s.frontKdesc x a with | .desc k => q k | _ => false) = true) : ∃ k, s.frontKdesc x a = .desc k ∧ q k = true := by
  split at h
  · rename_i k hk
    exact ⟨k, hk, h⟩
  · cases h

/-- O48: what the launch packets ask for, granted, refused for its domain, its descriptor and for want of bobbins, and a descriptor on a
peer device. -/
theorem test_premise_packet_launches :
    let p := pkt 0x01120000 ([0x10080, 0, 0x01010000, 0, 0, 0] ++ List.replicate 12 3)
    let o := pkt 0x01120000 ([0x10080, 0, 0x01010000, 7, 0, 0] ++ List.replicate 12 3)
    let b := pkt 0x02110010 ([0x10080, 0, 0, 0, 0] ++ List.replicate 12 3)
    let w := pkt 0x01120000 ([0x10080, 0, 0x01010000, 0, 0x40000000, 0] ++ List.replicate 12 3)
    let l := pkt 0x01120000 ([0x10080, 0, 0x08100000, 0, 0, 0] ++ List.replicate 12 3)
    let s := packetBench p
    let x := s.slot 0
    let g := gangReq x p (frontStamp s)
    let r := b.bobbinReq x (frontStamp s)
    let n : State := { s with doms := [(0, { dom0 with bobcnt := 0 })] }
    (s.mayLaunch g = true ∧ rectReserved ((p.w 3).setWidth 64) = false ∧ g.onDie = true ∧
      s.inBudget g = true ∧ g.width * g.height ≤ 64 ∧ g.cword = 0 ∧ s.cwordBad x.dom g.cword = none ∧ s.frontBusy 4 = false) ∧
    (let q := gangReq x l (frontStamp s)
     q.onDie = true ∧ s.inBudget q = true ∧ s.mayLaunch q = true ∧ 64 < q.width * q.height ∧ rectReserved ((l.w 3).setWidth 64) = false) ∧
    ((gangReq x w (frontStamp s)).cword = 0x40000000 ∧ (s.cwordBad x.dom 0x40000000).isSome = true) ∧
    (PacketReady (packetBench o) 0 1 o ∧
      (packetBench o).mayLaunch (gangReq ((packetBench o).slot 0) o (frontStamp (packetBench o))) = false) ∧
    (∃ k, s.frontKdesc x (p.w64 1) = .desc k ∧ (k.ok && k.image.floor && (s.acceptGang g k).isSome &&
      (s.takeBobbin r.dom r.die true k.image).isSome && (s.takeBobbin r.dom r.die false k.image).isSome) = true) ∧
    (∃ k, s.frontKdesc x 0x10000 = .desc k ∧ (!k.ok) = true) ∧
    (∃ k, n.frontKdesc x (p.w64 1) = .desc k ∧ (k.ok && (n.acceptGang g k).isNone && (n.takeBobbin r.dom r.die true k.image).isNone &&
      n.inBudget g) = true) ∧ PacketReady n 0 1 p ∧
    (match (withPeer s).frontKdesc x 0x80000000 with | .pending (some a) => decide (a = 0x80000000) | _ => false) = true ∧
    (s.mayLaunch r = true ∧ s.bobbinBudget r true = true ∧ r.cword = 0) := by
  refine ⟨?_, ?_, ?_, ⟨packetReady_of ?_, ?_⟩, kdesc_of ?_, kdesc_of ?_, kdesc_of ?_, packetReady_of ?_, ?_, ?_⟩ <;> decide +kernel

theorem stored_of {x : Except Bad State} (h : (match x with | .ok _ => true | _ => false) = true) : ∃ t, x = .ok t := by
  cases x with
  | ok t => exact ⟨t, rfl⟩
  | error b => cases h

theorem leaf_of {x : Except Bad Leaf} {q : Leaf → Bool} (h : (match x with | .ok l => q l | _ => false) = true) :
    ∃ l, x = .ok l ∧ q l = true := by
  cases x with
  | ok l => exact ⟨l, rfl, h⟩
  | error b => cases h

/-- What a load of the queue front end meets, as a number: 0 for data, 1 for a wait, 2 for a request to send, 3 for a failure. -/
def frontKind (s : State) (ea : Word) : Nat :=
  match s.frontLoad (s.slot 0) ea 8 with
  | .data _ => 0
  | .wait => 1
  | .ask => 2
  | .bad _ => 3

/-- O48: the words that WAIT_SEQ, SIGNAL and WRITE reach on each kind of page, a release begun and to begin, and launches not done. -/
theorem test_premise_packet_words :
    let s := withPeer (packetBench (pkt 0x06040002 [0x10080, 0, 9, 0]))
    let ask (o : Option MemAnswer) : OutReq :=
      { out0 .peer with unit := some (frontUnit, 0x200, 0, 0), ea := 0x80000000, answer := o, dest := .none }
    let a : State := { s with outs := [(9, ask (some (.ok 5)))] }
    let w : State := { s with outs := [(9, ask none)] }
    let g : State := { s with gangs := [(7, { gang0 with qcb := some 0x200 })] }
    let r := s.updSlot 0 (fun x => { x with rel := some (frontStamp s) })
    let c : Clock := vset Clock.zero 2 1
    (frontKind s 0x10080 = 0 ∧ frontKind w 0x80000000 = 1 ∧ frontKind s 0x80000000 = 2 ∧
      frontKind s 0x40000000 = 3) ∧
    ((s.slot 0).rel = none ∧ g.launchesDone (g.slot 0).qcb = false ∧ PacketReady g 0 6 (pkt 0x06040002 [0x10080, 0, 9, 0])) ∧
    ((∃ u, SignalReady s (s.slot 0) 0 (frontStamp s) u) ∧ SignalReady r (r.slot 0) 0 (frontStamp s) r) ∧
    ((∃ l, s.sysLeaf 0 0 0x10080 8 true = .ok l ∧ (decide (l.loc = 0) && s.readable (blockNo l.pa) l.key &&
        (frontStamp s).leBut (s.die (paDie l.pa)).vc [] && !c.leBut (s.die (paDie l.pa)).vc []) = true) ∧
      (∃ l, s.sysLeaf 0 0 0xC0000000 8 true = .ok l ∧ decide (l.loc = 1) = true) ∧
      (∃ l, s.sysLeaf 0 0 0x80000000 8 true = .ok l ∧ decide (l.loc = 2) = true) ∧ s.asked 0x200 0x80000000 8 = none ∧
      a.asked 0x200 0x80000000 8 = some (ask (some (.ok 5)))) ∧
    ((∃ t, s.sysStore 0 s.mgmt.fclk 0 0x10080 (leBytes 4 5) = .ok t) ∧ (pkt 0x07030000 [0x10080, 0, 5]).words.drop 2 = [5] ∧
      (match s.sysLeaf 0 0 0x40000000 4 true with | .error _ => true | .ok _ => false) = true) := by
  refine ⟨⟨?_, ?_, ?_, ?_⟩, ⟨?_, ?_, packetReady_of ?_⟩, ⟨⟨_, .inr ⟨?_, ?_, ?_, rfl, rfl⟩⟩, .inl ⟨?_, rfl⟩⟩,
    ⟨leaf_of ?_, leaf_of ?_, leaf_of ?_, ?_, ?_⟩, ⟨stored_of ?_, ?_, ?_⟩⟩
  all_goals decide +kernel

/-- A state in which the page at 0x11000, whose second block is sealed, is being rebound. -/
def rebinding (s : State) : State :=
  State.startBinding { s.updBlock 0x221 (fun m => { m with sealedUnder := some 0 }) with regions := [(2, { base := 0x11000, log2 := 12, cop := 0, cfmt := 0, fixhm := 0, hpol := 0, draft := 0 })] }
    { w0 := 0, w1 := 2, w2 := 0 }

/-- O48: packets whose word lies in a page that is being rebound, and the same words elsewhere; a front end that is busy. -/
theorem test_premise_packet_waits :
    let g := pkt 0x06040002 [0x11080, 0, 9, 0]
    let w := pkt 0x07030000 [0x11080, 0, 5]
    let k := pkt 0x09030000 [0, 0x11080, 0]
    let l := pkt 0x05040000 [0x11080, 0, 0, 0]
    let s (p : Pkt) := rebinding (packetBench p)
    let r := (s g).updSlot 0 (fun x => { x with rel := some (frontStamp (s g)) })
    let n := fwBench (packetBench (pkt 0x09030000 [0, 0x10080, 0]))
    (PacketReady r 0 6 g ∧ SignalReady r (r.slot 0) 0 (frontStamp (s g)) r ∧
      ∃ l, r.sysLeaf 0 0 0x11080 8 true = .ok l ∧ r.homeWaits l = true) ∧
    (PacketReady (s w) 0 7 w ∧ (s w).storeWaits 0 0x11080 4 = true) ∧ (PacketReady (s k) 0 9 k ∧ (s k).storeWaits 0 0x11080 8 = true) ∧
    (PacketReady (s l) 0 5 l ∧ frontKind (s l) 0x11080 = 1) ∧ (n.storeWaits 0 0x10080 4 = false ∧ n.storeWaits 0 0x10080 8 = false) := by
  refine ⟨⟨packetReady_of ?_, .inl ⟨?_, rfl⟩, leaf_of ?_⟩, ⟨packetReady_of ?_, ?_⟩, ⟨packetReady_of ?_, ?_⟩, ⟨packetReady_of ?_, ?_⟩, ?_⟩
  all_goals decide +kernel

/-- A key in slot 3 with a copy at peer 9. -/
def key9 (state : KeyState) : KeySlot := { KeySlot.init with state := state, kind := 1, exports := [9], closer := some (1, 0) }

/-- O48: what FENCE waits for and what it does not, a key for MAP_KEY and none, records accepted and refused, shuttles that a PREEMPT
finds and does not, and firmware and the security core up and not. -/
theorem test_premise_packet_agents :
    let s := fwBench (packetBench (pkt 0x09030000 [0, 0x10080, 0]))
    let g : State := { s with gangs := [(7, { gang0 with qcb := some 0x200 })] }
    let n := packetBench (pkt 0x0A060000 [0, 0, 2, 0, 0, 0])
    let r (w : Word) : RegionRecord := { w0 := 0, w1 := 2, w2 := w }
    let b : State := { s.setThread 9 (heddleT []) with
                       regions := [(2, { base := 0x10000, log2 := 12, cop := 0, cfmt := 0, fixhm := 0, hpol := 0, draft := 0 })] }
    let full : State := { s with keys := allFrom (key9 .live) 4096 0 }
    (s.launchesDone (s.slot 0).qcb = true ∧ g.launchesDone (g.slot 0).qcb = false ∧ s.frontBusy 5 = false) ∧
    (s.mgmt.securityUp = true ∧ n.mgmt.securityUp = false ∧ s.freeKeySlot = some 1 ∧ s.keysOf 0 < (s.effKeyq 0).toNat ∧
      ∃ t, (s.openKey 1 1 0).sysStore 0 s.mgmt.fclk 0 0x10080 (leBytes 8 (((s.openKey 1 1 0).keyRef 1).setWidth 64).toNat) = .ok t) ∧
    (s.firmware = true ∧ n.firmware = false ∧ s.regionBad (r 0) = none ∧ s.rangeBusy (s.rebound (r 0)) = false ∧
      s.regionBad (r 1) = some 5 ∧ b.regionBad (r 0) = none ∧ b.rangeBusy (b.rebound (r 0)) = true) ∧ full.freeKeySlot = none ∧
    ((s.slot 0).preempting.getD (s.shuttlesOf 0) = [0] ∧ (s.slot 0).preempting.getD (s.shuttlesOf 7) = [] ∧
      (n.slot 0).preempting = none) := by
  refine ⟨?_, ⟨?_, ?_, ?_, ?_, stored_of ?_⟩, ?_, List.find?_eq_none.2 (fun i hi => ?_), ?_⟩
  case refine_8 =>
    obtain ⟨j, hj, rfl⟩ := List.mem_map.1 hi
    have := List.mem_range.1 hj
    simp only [State.key, alGetD, allFrom_get (key9 .live) 4096 0 (j + 1) (by omega) (by omega)]
    decide
  all_goals decide +kernel

/-- A queue control block at 0x10080 with WPTR, RPTR, and its state word. -/
def withQcb (s : State) (wptr state : Word) : State :=
  { s with mem := s.mem.putBytes 0x10080 ([0x10000, 8, wptr, 0, state].flatMap (fun w : Word => leBytes 8 w.toNat)) }

/-- O49: kicks of no queue, of a queue no slot holds (pending or not, the ring full or not), and of one that a slot holds in each state. -/
theorem test_premise_kicks :
    let b := ringBench Slot.empty []
    let p := withQcb b 0 4
    let f := b.updMgmt (fun m => { m with pendring := List.replicate 4096 0 })
    let s (x : Slot) (wptr : Word) : State := withQcb (ringBench { x with qcb := 0x10080 } []) wptr 0
    field (1 : Word) 6 0 ≠ 0 ∧ (field (0x10080 : Word) 6 0 = 0 ∧ field (0x10080 : Word) 55 0 = 0x10080) ∧
    (∀ j, j < 64 → (b.slot j).state = .empty) ∧
    (let t := s { slot0 0 with state := .saving } 0
     (t.slot 0).qcb = 0x10080 ∧ ∀ j, j < 64 → (t.slot j).qcb = 0x10080 → (t.slot j).state = .empty ∨ (t.slot j).state = .saving) ∧
    bit (p.qcbRead 0x10080 32) 2 = true ∧ bit (b.qcbRead 0x10080 32) 2 = false ∧
    b.mgmt.pendring.length < 4096 ∧ 4096 ≤ f.mgmt.pendring.length ∧
    (let x := (s { slot0 0 with state := .binding } 4).slot 0; x.qcb = 0x10080 ∧ x.state = .binding) ∧
    (let t := s (slot0 0) 4
     let x := t.slot 0
     x.qcb = 0x10080 ∧ x.state ≠ .empty ∧ x.state ≠ .saving ∧ x.state ≠ .binding ∧
       ((t.qcbRead 0x10080 16).extractLsb' 0 32 - x.rptr).toNat ≤ 2 ^ x.rsize) ∧
    (let t := s (slot0 0) 257
     let x := t.slot 0
     x.state = .bound ∧ 2 ^ x.rsize < ((t.qcbRead 0x10080 16).extractLsb' 0 32 - x.rptr).toNat) := by
  refine ⟨?_, ?_, ?_, ?_, ?_, ?_, ?_, ?_, ?_, ?_, ?_⟩ <;> decide +kernel

/-- O49: times of a slot, the slot that arbitration takes, and binds and saves that it finishes. -/
theorem test_premise_slots :
    let r := { slot0 1 with parsing := none }
    let s (x : Slot) (tick : Nat) : State := { fwBench (ringBench x []) with tick := tick }
    (((s (slot0 1) 35000).slot 0).parsing = some 0 ∧ 0 + 35000 ≤ (s (slot0 1) 35000).tick ∧ (s (slot0 1) 34999).tick < 0 + 35000) ∧
    (let t := s r 175000
     let x := t.slot 0
     t.slotReady x = true ∧ t.mgmt.age ≠ 0 ∧ x.cprio.toNat < min 7 (x.bprio.toNat + (t.us32 - x.readyAt).toNat / t.mgmt.age.toNat)) ∧
    (let t := s { r with slice := 10 } 17500
     let x := t.slot 0
     t.firmware = true ∧ x.state = .bound ∧ x.slice ≠ 0 ∧ x.slice.toNat ≤ (t.us32 - x.boundAt).toNat) ∧
    (let t := s { r with wptr := 0 } 17500
     let x := t.slot 0
     t.firmware = true ∧ x.state = .bound ∧ x.parsing = none ∧ x.idle = true ∧ x.idleAt + 17500 ≤ t.tick ∧ t.slotsBusy = false) ∧
    (let t := s r 0
     t.slotReady (t.slot 0) = true ∧ (∀ j, j < 64 → j % 4 = 0 → (t.slot j).parsing = none ∧ (t.slot j).due = false) ∧
       ∀ j, j < 64 → j % 4 = 0 → t.slotReady (t.slot j) = true → (t.slot j).cprio = (t.slot 0).cprio ∧ 0 ≤ j) ∧
    (let b (latch : Bool) (n : Nat) := (s { slot0 n with state := .binding, parsing := none, klatch := latch } 0).slot 0
     (b true 1).state = .binding ∧ (b true 1).klatch = true ∧ (b false 1).klatch = false ∧
       ((b false 1).wptr - (b false 1).rptr).toNat ≤ 2 ^ (b false 1).rsize ∧
       2 ^ (b false 65).rsize < ((b false 65).wptr - (b false 65).rptr).toNat) ∧
    (let x := (s { slot0 1 with state := .saving, parsing := none, stack := [(0x10000, 0x10004)], ibd := 1 } 0).slot 0
     x.state = .saving ∧ x.packet = none ∧ x.ibd ≠ 0) := by
  refine ⟨?_, ?_, ?_, ?_, ?_, ?_, ?_⟩ <;> decide +kernel

/-- O49: a record of each operation, one with a nonzero word 3, and waiting queues with a slot empty, one to free and none. -/
theorem test_premise_binds :
    let b := fwBench (withQcb (ringBench Slot.empty []) 4 0)
    let f := fwBench (ringBench (slot0 1) [])
    let rec0 (op w3 w0 : Word) : BindRecord := { w0 := w0, w1 := op, w2 := 10, w3 := w3 }
    let w (x : Slot) : State :=
      let s := (fwBench (withQcb (ringBench Slot.empty []) 4 4)).updMgmt (fun m => { m with waitq := [0x10080] })
      { s with slots := Vector.replicate 64 x }
    ((ringBench (slot0 1) []).firmware = false ∧ (fwBench (ringBench { slot0 1 with state := .saving } [])).slotsBusy = true ∧
      field (rec0 0 0 0).w1 1 0 = 0) ∧
    (b.firmware = true ∧ b.slotsBusy = false ∧ field (rec0 1 0 0x10080).w1 1 0 = 1 ∧ (rec0 1 0 0x10080).w3 = 0 ∧ (b.slot (field (rec0 1 0 0).w1 13 8)).state = .empty ∧
      (∀ j, j < 64 → (b.slot j).state = .empty)) ∧
    (f.firmware = true ∧ f.slotsBusy = false ∧ f.atomicAsked (f.slot 0).qcb = false ∧ field (rec0 2 0 0).w1 1 0 = 2 ∧ field (rec0 3 0 0).w1 1 0 = 3 ∧ field (rec0 2 0 0).w0 55 7 = 0 ∧
      (f.slot (field (rec0 2 0 0).w1 13 8)).state ≠ .empty) ∧ (rec0 1 5 0).w3 ≠ 0 ∧
    ((w Slot.empty).firmware = true ∧ (w Slot.empty).slotsBusy = false ∧ (w Slot.empty).queueWaits 0x10080 = true ∧ (w Slot.empty).bestQueue = some 0x10080 ∧
      ((w Slot.empty).slot 0).state = .empty) ∧
    (let t := { w { slot0 0 with slice := 1 } with tick := 1750 }
     t.bestQueue = some 0x10080 ∧ (∀ j, j < 64 → (t.slot j).state ≠ .empty) ∧ t.slotsBusy = false ∧ t.slotToFree (t.queueRank 0x10080).1 = some 0) ∧
    (let t := w { slot0 0 with cprio := 7 }
     t.bestQueue = some 0x10080 ∧ t.queueWaits 0x10080 = true ∧ t.slotToFree (t.queueRank 0x10080).1 = none) := by
  refine ⟨?_, ?_, ?_, ?_, ?_, ?_, ?_⟩ <;> decide +kernel

/-- A draft image for an id with no table, start map and text, and a signature of zeros. -/
def image1 (id : Byte) : List Byte := [0x01, 0x1A, 0xF7, 0x0D, id] ++ List.replicate 1275 0

/-- O50: an invalidation with no access in its range, a move asked for and under way, the scans, an image of each outcome (whether a
signature is accepted is a free value), grants and cores. -/
theorem test_premise_tables :
    let z := bench (full [])
    let b := fwBench { z with dies := vset z.dies 0 { z.die 0 with tinvs := [(0x10000, 12, 1)] } }
    let j : MigJob := { va := 0x10000, old := 0x10000, new := 0x30000, idx := 2, bits := 12, result := 0 }
    let m := b.updMgmt (fun m => { m with migjobs := [(4, j)], migcmd := [0x10000, 0x10000, 0x30000] })
    let e (w v : Word) : TlbEntry := { va := 0, bits := 12, w0 := w, w1 := v, top := 0 }
    let p (w : Word) := m.updDie 0 (fun d => { d with ptroot := 1, walks := [(0, e 1 0), (256, e w 0x200000)] })
    let q := (p 0x47).updStack 0 0 (fun x => { x with retiredFrames := [16] })
    let r : MigReq := { va := 0x10000, old := 0x10000, new := 0x30000, idx := 2 }
    let c := fwBench (chanBench (full []))
    let g : State := { c with doms := [(0, { dom0 with grant := 0x18000 })] }
    (b.firmware = true ∧ z.firmware = false) ∧ ((b.die 0).tinvs = [(0x10000, 12, 1)] ∧ b.accessesIn (fun d => (1 : BitVec 4).getLsbD d) 0x10000 12 = false) ∧
    ((∀ x ∈ [m, p 7, p 0x47, q], (x.us32 - BitVec.ofNat 32 (x.mem.num (x.migEntry 2 + 8) 4)).toNat ≤ x.mgmt.thrw.toNat) ∧ m.mem.num (m.migEntry 2 + 16) 1 < m.mgmt.thrn.toNat ∧
      (m.updMgmt (fun m => { m with thrn := 0 })).mgmt.thrn.toNat ≤ m.mem.num (m.migEntry 2 + 16) 1 ∧
      m.frameRetired 0x10000 (m.pageOf 0x10000).1 = false ∧ m.migBad r false = true ∧ ((p 7).pageOf 0x10000).1 = 12 ∧
      ((p 7).migBad r false = false ∧ (p 7).pinRefuses 0x10000 0x10000 = false) ∧
      ((p 0x47).migBad r false = false ∧ (p 0x47).pinRefuses 0x10000 0x10000 = true) ∧
      (q.frameRetired 0x10000 12 = true ∧ q.migBad r true = false ∧ q.pinRefuses 0x10000 0x10000 = false)) ∧
    (alGet m.mgmt.migjobs 4 = some j ∧ m.pageBusy (fun pa => decide (j.old ≤ pa) && decide (pa < j.old + 2 ^ j.bits)) = false ∧
      Rising m.mgmt.migjobs) ∧
    (b.us % 1000 = 0 ∧ ({ b with tick := 1750 } : State).us % 1000 ≠ 0) ∧
    ((b.draftBad 7 (image1 7) = none ∨ b.draftBad 7 (image1 7) = some 7) ∧ b.draftBad 7 [] = some 6) ∧
    (c.mgmt.securityUp = true ∧ c.grantable (mkHandle 0 0 3 9) = true ∧ c.grantable (mkHandle 0 0 3 8) = false ∧
      (c.dom 0).grant.toNat = 0 ∧ (g.dom 0).grant.toNat ≠ 0 ∧ hbmBacked (g.dom 0).grant.toNat = true) ∧ g.MemoryWf ∧
    (4608 ≤ 4655 ∧ 4655 < 4656) := by
  refine ⟨?_, ?_, ?_, ⟨?_, ?_, ?_⟩, ?_, ⟨?_, ?_⟩, ?_, ?_, ?_⟩
  case refine_6 => unfold Rising; decide +kernel
  case refine_11 => unfold State.MemoryWf; decide +kernel
  case refine_8 =>
    unfold State.draftBad
    rw [if_neg (by decide +kernel), if_neg (by decide +kernel)]
    cases Config.signatureOk (image1 7) <;> simp
  all_goals decide +kernel

/-- O51: a key to export, one imported, one closing with one peer and with two, a lost session, a key to sweep, a roster. -/
theorem test_premise_security :
    let imp : KeySlot := { KeySlot.init with state := .live, kind := 3, origin := some (9, 5, 6) }
    let b := (fwBench (bench (full []))).updMgmt (fun m => { m with admitted := [9], roster := [9] })
    let s (k : KeySlot) (tick : Nat) : State := { b with keys := [(3, k)], tick := tick }
    let l : KeySlot := { key9 .live with exports := [] }
    (((s l 0).key 3).state = .live ∧ (9 : BitVec 15) ∈ (s l 0).mgmt.admitted ∧ (9 : BitVec 15) ∉ ((s l 0).key 3).exports ∧
      ((s l 0).key 3).exports.length < 511 ∧ (s l 0).mgmt.securityUp = true) ∧
    ((s imp 0).imported 9 5 6 = some 3 ∧ ∀ i, (s imp 0).keyBusy ((s imp 0).keyOf i) = false) ∧ (∀ e ∈ (s imp 0).cores, e.2.dcache = []) ∧
    (let k := (s (key9 .closing) 1750000).key 3
     (s (key9 .closing) 1750000).imported 9 3 0 = none ∧ k.state = .closing ∧ k.gen = 0 ∧ (9 : BitVec 15) ∈ k.exports ∧
       k.exports.erase 9 = [] ∧ k.closer = some (1, 0) ∧ ((s (key9 .closing) 0).thread? 1).isSome = true ∧ 0 + 1750000 ≤ (s (key9 .closing) 1750000).tick ∧ k.exports = [9]) ∧
    (let x := s { key9 .closing with closer := some (77, 0) } 1750000
     (x.key 3).state = .closing ∧ (x.key 3).closer = some (77, 0) ∧ x.thread? 77 = none ∧ x.imported 9 3 0 = none) ∧
    (let k := (s { key9 .closing with exports := [9, 8] } 0).key 3
     k.exports.erase 9 ≠ [] ∧ (s (key9 .closing) 0).tick < 0 + 1750000) ∧
    ((3, imp) ∈ (s imp 0).keys ∧ imp.state = .live ∧ imp.kind = 3 ∧ imp.origin = some (9, 5, 6)) ∧
    (((s (key9 .sweep) 0).key 3).state = .sweep ∧ (s (key9 .sweep) 0).firmware = true ∧ (s (key9 .sweep) 0).outs = []) ∧
    (b.mgmt.securityUp = true ∧ ([9, 8] : List (BitVec 15)).length ≤ 512) := by
  refine ⟨?_, ⟨?_, fun i => rfl⟩, ?_, ?_, ?_, ?_, ?_, ?_, ?_⟩ <;> decide +kernel

/-- O51: images of a boot that completes and that halts, and a host write and atomic to a block sealed under the window's key. -/
theorem test_premise_host :
    let g : BootImage := { bytes := [], ecdsaOk := true, lmsOk := true, svnOk := true }
    let i : BootInputs := { rom := [], secfw := g, treadle := g, parse := g, drafts := List.replicate 7 g }
    let h : BootInputs := { i with parse := { g with svnOk := false } }
    let b := (bench (full [])).updMgmt (fun m => { m with bar2base := 0x10000 })
    let op (c : BitVec 2) : HostAtomic := { op := c, width := 1, off := 0x78, operand := 5, compare := 0 }
    (g.ecdsaOk = true ∧ g.lmsOk = true ∧ g.svnOk = true ∧ i.drafts.length = 7) ∧ h.parse.svnOk = false ∧ (b.MemoryWf ∧ NoSleeper b) ∧
    (([1, 2] : List Byte) ≠ [] ∧ ([1, 2] : List Byte).length ≤ 128 - (b.mgmt.bar2base.toNat + (0x7E : BitVec 36).toNat) % 128 ∧
      hbmBacked 0x1007E = true ∧ b.writable b.mgmt.bar2key 0x1007E 2 = true) ∧
    (∀ c ∈ [(0 : BitVec 2), 1, 2], (op c).op ≠ 3 ∧ (op c).width.toNat < 2 ∧ (b.mgmt.bar2base.toNat + (op c).off.toNat) % 8 = 0 ∧
      hbmBacked (b.mgmt.bar2base.toNat + (op c).off.toNat) = true ∧
      b.readable (blockNo (b.mgmt.bar2base.toNat + (op c).off.toNat)) b.mgmt.bar2key = true) ∧ (op 3).op = 3 := by
  refine ⟨?_, ?_, ⟨?_, noSleeper_of ?_⟩, ?_, ?_, ?_⟩
  case refine_3 => unfold State.MemoryWf; decide +kernel
  all_goals decide +kernel

/-- The answer of an instruction, if a next state meets a test. -/
noncomputable def answers (i : Instr) (s : State) (p : State → Bool) : Bool :=
  match exec i s with
  | .next u => p u
  | _ => false

/-- The scalar register of a number after an instruction of the bench's thread. -/
noncomputable def leaves (i : Instr) (s : State) (d : Nat) (x : Word) : Bool :=
  answers i s (fun u => match u.thread? 1 with
    | some r => decide (r.getReg false d = x)
    | none => false)

/-- R104: addition wraps modulo 2^64; a shift amount is B<5:0>, so bit 6 of 0x41 is ignored. -/
theorem test_add_shl :
    leaves (.add 3 1 2 gNone) (bench (full [0xFFFFFFFFFFFFFFFF, 2])) 3 1 = true ∧
    leaves (.shl 3 1 2 gNone) (bench (full [3, 0x41])) 3 6 = true := by decide +kernel

/-- R107: `lih` puts its 20 bits at <31:12>, sign-extended. -/
theorem test_lih : leaves (.lih 3 0x80000) (bench (full [])) 3 0xFFFFFFFF80000000 = true := by decide +kernel

/-- R109: a division by zero gives -1, -2^63 by -1 gives -2^63, and a remainder by zero gives the dividend. -/
theorem test_division :
    leaves (.divS64 3 1 2 gNone) (bench (full [7, 0])) 3 0xFFFFFFFFFFFFFFFF = true ∧
    leaves (.divS64 3 1 2 gNone) (bench (full [0x8000000000000000, 0xFFFFFFFFFFFFFFFF])) 3 0x8000000000000000 = true ∧
    leaves (.remS64 3 1 2 gNone) (bench (full [7, 0])) 3 7 = true := by decide +kernel

/-- R111, R112: `lea` wraps within the 56-bit address and keeps the upper byte; `ptag` takes 4 bits of colour and clears <59:56>. -/
theorem test_pointers :
    leaves (.lea 3 1 2 3) (bench (full [0xA0FFFFFFFFFFFFFF, 1])) 3 0xA000000000000007 = true ∧
    leaves (.ptag 3 1 2) (bench (full [0x5F00000000001234, 0x1C])) 3 0xC000000000001234 = true := by decide +kernel

/-- R98, R154: the tree adds (2^24 + 1) + (1 + 0), each sum rounded to nearest even, so the scalar is 2^24. -/
theorem test_reduction :
    let t := full []
    let x := vecOf (fun k => if k = 0 then 0x4B800000 else if k < 3 then 0x3F800000 else 0)
    leaves (.vredsumF32 3 1 gNone) (bench { t with v := vset t.v 1 x }) 3 0x4B800000 = true := by decide +kernel

/-- R50, R74, R104: a step fetches the word of `add s3, s4, s5` after reset, executes it, and the PC moves by 4. -/
theorem test_step_add :
    (match step (State.reset.withFetchWord 32 0x000A4183) with
     | .next u => decide ((u.thread? 1).map (fun r => (r.exe.pc, r.status)) = some (0x10004, .running))
     | _ => false) = true := by decide +kernel

/-- A request to the responder. -/
def req (peer : Option (BitVec 15)) (p2 : Byte) : SpdmRequest :=
  { peer := peer, session := 1, param1 := 0, param2 := p2, nonce := 0, payload := [] }

/-- The bench with the responder up, peer 9 in the roster, and the connections of the host and of peer 9 at a point of the exchange. -/
def spdmBench (c : SpdmConn) : State :=
  (fwBench (bench (full []))).updMgmt (fun m => { m with admitted := [9], roster := [9], spdm := [(0, c), (10, c)] })

/-- A connection that has passed the first three stages, with its sessions. -/
def conn0 (l : AList Bool) : SpdmConn := { version := true, caps := true, algs := true, sessions := l, updates := 0 }

/-- The connections of the host and of peer 9 are what the bench holds. -/
theorem spdmBench_conn (c : SpdmConn) : (spdmBench c).conn none = c ∧ (spdmBench c).conn (some 9) = c := ⟨rfl, rfl⟩

/-- O52: the host, an admitted device and one of the roster (whether a proof is accepted is a free value); `SpdmConn.init` and `conn0` show a stage not reached and reached, with a session begun,
finished, and none. -/
theorem test_premise_spdm :
    (∀ c ∈ [SpdmConn.init, conn0 [], conn0 [(1, false)], conn0 [(1, true)]], ∀ j ∈ [true, false],
      (spdmBench c).spdmOpen (req none 0).peer j = true ∧ (spdmBench c).spdmOpen (req (some 9) 0).peer j = true) ∧
    (let s := (spdmBench (conn0 [])).updMgmt (fun m => { m with admitted := [] })
     s.spdmOpen (some 9) true = true ∧ s.spdmOpen (some 9) false = false ∧ s.spdmOpen (some 8) true = false) ∧
    (∀ i, (spdmBench (conn0 [(1, true)])).keyBusy ((spdmBench (conn0 [(1, true)])).keyOf i) = false) ∧
    (Config.finishOk 9 (req (some 9) 0).payload = true ∨ Config.finishOk 9 (req (some 9) 0).payload = false) ∧
    (SpdmConn.init.version = false ∧ SpdmConn.init.caps = false ∧ SpdmConn.init.algs = false) ∧
    (alGet (conn0 []).sessions (req none 0).session = none ∧ alGet (conn0 [(1, false)]).sessions 1 = some false ∧
      alGet (conn0 [(1, true)]).sessions 1 = some true ∧ (alErase (conn0 [(1, true)]).sessions 1).any (fun e => e.2) = false) ∧
    (req none 0).param2 = 0 ∧ (req none 1).param2 = BitVec.ofNat 8 1 ∧ (req none 5).param2 = BitVec.ofNat 8 5 := by
  refine ⟨?_, ?_, fun i => rfl, by cases Config.finishOk 9 (req (some 9) 0).payload <;> simp, ?_, ?_, ?_⟩ <;> decide +kernel

/-- A fabric port in a state with some lanes. -/
def portAt (state : BitVec 2) (lanes : BitVec 3) : FabricPort := { FabricPort.init with state := state, lanes := lanes }

/-- The bench with port 23 so. -/
def portBench (state : BitVec 2) (lanes : BitVec 3) : State := (bench (full [])).updMgmt (fun m => { m with ports := vset m.ports 23 (portAt state lanes) })

/-- The bench with die 3 so. -/
def dieBench (f : Die → Die) : State := (bench (full [])).updDie 3 f

/-- O53: a handler at its limits and below, a stack at each end of the range, a port in each state, links with spares left and without,
a hot die and a cool one, and the host's link up. -/
theorem test_premise_failures :
    let h (n since : Nat) : Thread := { heddleT [3] with heddle := some { handler with hsteps := n, since := since } }
    let b := fwBench (bench (full []))
    let l : State := b.updMgmt (fun m => { m with raslog := 0x10000 })
    ((bench (full [3])).thread? (bench (full [3])).cur.tid = some (full [3])) ∧
    (∀ n ∈ [512, 511], (bench (h n 0)).thread? 1 = some (h n 0) ∧ (h n 0).heddle = some { handler with hsteps := n, since := 0 }) ∧
    (16384 ≤ ({ bench (h 0 0) with tick := 16384 } : State).tick - 0 ∧ ({ bench (h 0 0) with tick := 16384 } : State).tick - 1 < 16384) ∧
    ((0 : BitVec 4).toNat < 12 ∧ (11 : BitVec 4).toNat < 12) ∧ b.firmware = true ∧
    (l.mgmt.rasheld = [] ∧ l.mgmt.rasopen = [] ∧ rasRoom l.mgmt = true) ∧
    (∀ p ∈ ([(2, 4), (2, 2), (0, 0), (3, 0)] : List (BitVec 2 × BitVec 3)), ((portBench p.1 p.2).port 23).state = p.1 ∧ ((portBench p.1 p.2).port 23).lanes = p.2) ∧
    ((3 : BitVec 2) ≠ 0 ∧ (vget ((dieBench id).die 3).brSpared 0 0).toNat < 2 ∧
      2 ≤ (vget ((dieBench (fun d => { d with brSpared := vset d.brSpared 0 2 })).die 3).brSpared 0 0).toNat) ∧
    (((dieBench id).die 3).throt = false ∧ ((dieBench (fun d => { d with throt := true })).die 3).throt = true) ∧
    (b.mgmt.hostUp = true ∧ (vget (b.die 3).hbmStacks 2 StackState.init).lost = false) ∧ NoSleeper b ∧
    (let x := vget (b.die 3).hbmStacks 2 StackState.init
     let f : Nat := (3 * 2 ^ 38 + 2 * 2 ^ 36 + 128 * x.pos) / 4096
     let old (l : List Nat) : Nat := ((alGetD [(f, l)] f []).filter (fun t => decide (b.tick - t ≤ 86400 * 1750000000))).length
     old [] < 2 ∧ 2 ≤ old [0, 0] ∧ x.retiredFrames.contains f = false ∧
       blockNo (3 * 2 ^ 38 + 2 * 2 ^ 36 + 128 * x.pos) ≠ blockNo (field (b.die 3).frbase 51 12 * 4096 + 64 * ((b.die 3).frtail % 4096))) ∧
    (let p (n : Nat) : State := { portBench 3 0 with tick := n }
     ((p 0).port 23).failedAt = 0 ∧ (p 0).tick < 0 + 175000000 ∧ 0 + 175000000 ≤ (p 175000000).tick) ∧ b.stopping = none ∧
    (let m : State := { b.updMgmt (fun m => { m with powerHigh := some 0 }) with tick := 1750000 }
     m.mgmt.powerHigh = some 0 ∧ 0 + 1750000 ≤ m.tick ∧ b.mgmt.powerHigh = none ∧ (m.die 3).throt = false) := by
  refine ⟨?_, ?_, ?_, ?_, ?_, ?_, ?_, ?_, ?_, ?_, noSleeper_of ?_, ?_, ?_, ?_, ?_⟩ <;> decide +kernel

/-- The checks of `PredicatedOff`, computed. -/
def switchedOff (n : Need) (s : State) (t : Thread) : Bool :=
  decide (s.thread? s.cur.tid = some t) && n.legal && decide (n.cls.bad t s.cur.acc = none) &&
    n.uses.all (fun u => u.inView t s.cur.acc) && !govOn (t.ctx s.cur.acc) n.gov && !(t.ctx s.cur.acc).midway

theorem predicatedOff_of {n : Need} {s : State} {t : Thread} (h : switchedOff n s t = true) : PredicatedOff n s t := by
  simp only [switchedOff, Bool.and_eq_true, decide_eq_true_eq, Bool.not_eq_true'] at h
  obtain ⟨⟨⟨⟨⟨h1, h2⟩, h3⟩, h4⟩, h5⟩, h6⟩ := h
  exact ⟨h1, h2, h3, h4, h5, h6⟩

/-- O54, memory and predicates: its issue premises are those of O1 to O12 and of the vector statements; memory is canonical, and p3 is 0. -/
theorem test_premise_frames :
    let t := full [lsWord, 8]
    ((bench t).MemoryWf ∧ NoSleeper (bench t)) ∧ (isReg 0 ∧ isReg 23) ∧
    ∀ n ∈ [governed true gP3 [.sR 1, .sR 2, .sW 3], governed true gP3 [.sR 2, .sW 3], governed (predField 2) gP3 [.sR 1, .sR 2],
      fpNeed true gP3 [.sR 1, .sR 2, .sW 3] 4], PredicatedOff n (bench t) t := by
  refine ⟨⟨?_, noSleeper_of (by decide +kernel)⟩, by unfold isReg; decide, ?_⟩
  · unfold State.MemoryWf; decide +kernel
  · intro n hn
    refine predicatedOff_of ?_
    simp only [List.mem_cons, List.not_mem_nil, or_false] at hn
    rcases hn with rfl | rfl | rfl | rfl <;> decide +kernel

/-- O55: a full thread, a ring with room and one without, and causes of both kinds. -/
theorem test_premise_trap :
    let t := full [3]
    let s := unmap ((bench t).updDie 0 (fun d => { d with frbase := 0x100001 }))
    let x (c : Cause) (e : Word) : Trap := { cause := c, addr := 0, extra := e, pc := none }
    let y := mkEntry (t.poster s.cur.tid false) 0 1 (t.ctx s.cur.acc).pc 0 0 0 s.tick
    (s.thread? s.cur.tid = some t ∧ t.heddle = none ∧ t.kind = .full ∧ Rising s.threads ∧ coreDie t.core < 4) ∧
    (s.MemoryWf ∧ (s.die 0).frRoom = true) ∧ (((bench t).die 0).frRoom = false ∧ ((bench t).die 0).waits y = false ∧ (s.die 0).waits y = false ∧
      ((s.updDie 0 (fun d => { d with heldPosts := [y] })).die 0).waits y = true ∧ s.readable (blockNo 0x100000) (s.keyOf 0) = false) ∧ NoRecords s ∧
    ((x 1 0).cause ≠ 0x15 ∧ (x 0x15 9).extra ≠ 0 ∧ (x 0x15 9).lane = none) := by
  refine ⟨⟨?_, ?_, ?_, ?_, ?_⟩, ⟨?_, ?_⟩, ?_, noRecords_unmap _, ?_⟩
  case refine_4 => unfold Rising; decide +kernel
  case refine_6 => unfold State.MemoryWf; decide +kernel
  all_goals decide +kernel

/-- What a fetch of thread 1 gives and how it decodes, computed. -/
noncomputable def fetches (s : State) (p : Except (FetchFail) (Except Reject (Instr × Nat)) → Bool) : Bool :=
  match s.thread? 1 with
  | some t => s.canIssue s.cur t && t.heddle.isNone && (match (s.fetch s.cur t).1 with
    | .bytes bs => p (.ok (decode bs))
    | .fail f => p (.error f)
    | _ => false)
  | none => false

/-- O56: the fetch after a word is placed, which decodes; one that decodes to nothing; one whose PC no page maps; a stopped thread, an
absent one, an event, a stopped device, and a step that answers. -/
theorem test_premise_step :
    let s := State.reset.withFetchWord 32 0x000A4183
    (fetches { s with tick := s.tick + 1 } (fun r => match r with
      | .ok (.ok p) => decide (p = (Instr.add 3 4 5 gNone, 4))
      | _ => false) = true ∧ s.agenda = [] ∧ s.dead = none ∧ s.groupOf 1 = none) ∧
    fetches (State.reset.withFetchWord 32 0x0000007F) (fun r => match r with
      | .ok (.error (.illegal _)) => true
      | _ => false) = true ∧
    fetches (s.setThread 1 { full [] with exe := { stream [] with pc := 0x4000010000 } }) (fun r => match r with
      | .error _ => true
      | _ => false) = true ∧
    (let w : Thread := { full [] with exe := { stream [] with phase := .sent, word := [1, 2, 3, 4] } }
     let b := s.setThread 1 w
     b.thread? 1 = some w ∧ w.heddle = none ∧ (w.ctx false).midway = true ∧ (w.ctx false).word ≠ [] ∧ b.armedWord s.cur = none) ∧
    (let v : State := (State.reset.withFetchWord 32 0x000A41B3).updDie 0 (fun d => { d with throt := true })
     let odd : State := { v with tick := 1 }
     fetches odd (fun r => match r with
       | .ok (.ok p) => decide (p = (Instr.vaddS32 3 4 5 gNone, 4))
       | _ => false) = true ∧ odd.throttles s.cur (leBytes 4 0x000A41B3) = true ∧ v.throttles s.cur (leBytes 4 0x000A41B3) = false) ∧
    (let a : Ctx := { stream [] with phase := .sent, wait := .memory }
     let b := s.setThread 1 { full [] with exe := { stream [] with pc := 0x4000010000 }, acc := a }
     fetches b (fun r => match r with
       | .error _ => true
       | _ => false) = true ∧ b.trapWaits s.cur = true) ∧
    (s.thread? 2 = none ∧ s.canIssue s.cur { full [] with status := .stopped } = false) ∧
    isEvent .heartbeatMiss = true ∧ ({ s with dead := some .thermal } : State).dead = some .thermal := by decide +kernel

/-- O58, O59: an instruction that has an encoding, and a canonical state from which a step answers. -/
theorem test_premise_encode :
    ((Instr.add 3 4 5 gNone).wf = true ∧ encodeBytes (.add 3 4 5 gNone) ≠ []) ∧ (State.reset.withFetchWord 32 0x000A4183).MemoryWf := by
  refine ⟨?_, ?_⟩
  · decide +kernel
  · unfold State.MemoryWf; decide +kernel

end Sys2Proof.Tests
end

section
/-! PROOFS. The status register moves (R32, R35, R131, R237). -/

namespace Sys2Proof.Machine

/-! ### What reading a source leaves unchanged -/

/-- Reading a source changes at most the inbound ports of a core. -/
theorem ReadFrom.core {s u : State} (h : ReadFrom s u) (n : Nat) : ∃ p, u.core n = { s.core n with ports := p } := by
  rcases h with rfl | ⟨k, l, rfl⟩ | ⟨t, d, l, _, rfl⟩
  · exact ⟨_, rfl⟩
  · exact ⟨_, by rw [State.core_updThread]⟩
  · by_cases hn : n = t.core
    · subst hn
      exact ⟨_, State.core_updCore_same _ _ _⟩
    · exact ⟨_, State.core_updCore_other _ _ hn⟩

theorem ReadFrom.tick {s u : State} (h : ReadFrom s u) : u.tick = s.tick := by
  rcases h with rfl | ⟨k, l, rfl⟩ | ⟨t, d, l, _, rfl⟩ <;> simp

theorem State.updCore_congr {s : State} {i : Nat} {f g : Core → Core} (h : f (s.core i) = g (s.core i)) :
    s.updCore i f = s.updCore i g := by
  simp [State.updCore, h]

/-! ### `mfs` -/

/-- What `mfs` of number n reads (R131, R237, Table 1.5a). -/
def mfsValue (n : Nat) : Exec Word := do
  let t ← self
  let a ← me
  let s ← get
  if t.heddle.isSome then mfsHeddle s t n
  else if 0x800 ≤ n then raise 0x02 0 0
  else match s.statusRead t a.acc n with
    | some w => pure w
    | none => raise 0x01 0 0

/-- `mfs` issues, reads its number and writes D. -/
theorem exec_mfs (d : BitVec 5) (n : BitVec 12) (s : State) :
    exec (.mfs d n) s = issue (plain true [.sW d]) (do let w ← mfsValue n.toNat; setS d w; pure .seq) s := by
  change execMfs d n s = _
  unfold execMfs
  congr 1
  funext u
  simp only [mfsValue, bindRun]
  cases self u with
  | error e => rfl
  | ok r =>
    simp only [meRun, getRun]
    split
    · simp only [bindRun]
    · split
      · simp only [bindRun]
      · cases r.2.statusRead r.1 r.2.cur.acc n.toNat <;> simp only [bindRun]

/-- The effect of `mts` of number n (R131, R237, Table 1.5a). -/
def mtsEffect (n : Nat) (w : Word) : Exec Unit := do
  let t ← self
  if 0x800 ≤ n then raise 0x02 0 0
  else if t.heddle.isSome then
    if n = 0x050 then updCtx (fun c => { c with fstat := fstatOf w }) else raise 0x01 0 0
  else mtsWrite n w

/-- `mts` issues, reads A and writes its number. -/
theorem exec_mts (a : BitVec 5) (n : BitVec 12) (s : State) :
    exec (.mts a n) s = issue (plain true [.sR a]) (do let w ← getS a; mtsEffect n.toNat w; pure .seq) s := by
  change execMts a n s = _
  unfold execMts
  congr 1
  funext u
  simp only [mtsEffect, bindRun]
  cases getS a u with
  | error e => rfl
  | ok r =>
    cases hr : self r.2 with
    | error e => simp only [hr]
    | ok q =>
      simp only [hr]
      split
      · simp only [bindRun]
      · split
        · split <;> simp only [bindRun]
        · simp only [bindRun]

/-! ### `mfs` -/

section
variable {s : State} {t : Thread} {n : Nat}

theorem mfsValue_assigned {w : Word} (ht : s.thread? s.cur.tid = some t) (hh : t.heddle = none) (hn : n < 0x800)
    (hw : s.statusRead t s.cur.acc n = some w) : mfsValue n s = .ok (w, s) := by
  have : ¬0x800 ≤ n := by omega
  simp [mfsValue, selfRun ht, hh, this, hw]

theorem mfsValue_heddle (ht : s.thread? s.cur.tid = some t) (hh : t.heddle.isSome = true) (hn : n < 0x80) :
    mfsValue n s = .ok (if n = 0x051 then BitVec.ofNat 64 s.tick else if n = 0x050 then t.exe.fstat.setWidth 64 else 0, s) := by
  simp only [mfsValue, bindRun, selfRun ht, meRun, getRun, hh, if_true, mfsHeddle, hn]
  split
  · rfl
  · split <;> rfl

theorem mfsValue_privileged (ht : s.thread? s.cur.tid = some t) (hh : t.heddle = none) (hn : 0x800 ≤ n) :
    mfsValue n s = .error (.trap { cause := 0x02, addr := 0, extra := 0, pc := none } id) := by
  simp [mfsValue, selfRun ht, hh, hn]

theorem mfsValue_unassigned (ht : s.thread? s.cur.tid = some t) (hh : t.heddle = none) (hn : n < 0x800)
    (hw : s.statusRead t s.cur.acc n = none) :
    mfsValue n s = .error (.trap { cause := 0x01, addr := 0, extra := 0, pc := none } id) := by
  have : ¬0x800 ≤ n := by omega
  simp [mfsValue, selfRun ht, hh, this, hw]

end

/-- `mfs` writes the value that it reads to D. -/
theorem mfs_writes {s : State} {t : Thread} {d : BitVec 5} {n : BitVec 12} {w : Word} (h : CanIssue (plain true [.sW d]) s t)
    (hw : mfsValue n.toNat s = .ok (w, s)) : Writes (.mfs d n) 4 d w s s := by
  obtain ⟨u, hu, -, -⟩ := h.room.setS w
  refine ⟨u, hu, ?_⟩
  rw [Retires, exec_mfs]
  exact issue_completes h rfl (by simp [hw, hu])

/-- `mfs` of a number that it may not read traps. -/
theorem mfs_traps {s : State} {t : Thread} {d : BitVec 5} {n : BitVec 12} {x : Trap} (h : CanIssue (plain true [.sW d]) s t)
    (hw : mfsValue n.toNat s = .error (.trap x id)) : Traps (.mfs d n) s x := by
  rw [Traps, exec_mfs]
  exact issue_traps (keep := id) h rfl (by simp [hw])

/-! ### `mts` -/

/-- `mts` completes with the effect that its number has. -/
theorem mts_retires {s s1 u : State} {t : Thread} {a : BitVec 5} {n : BitVec 12} {x : Word} (h : CanIssue (plain true [.sR a]) s t)
    (hx : getS a s = .ok (x, s1)) (hu : mtsEffect n.toNat x s1 = .ok ((), u)) : Retires (.mts a n) 4 s u := by
  rw [Retires, exec_mts]
  exact issue_completes h rfl (by simp [hx, hu])

/-- `mts` of a number that it may not write traps. -/
theorem mts_traps {s s1 : State} {t : Thread} {a : BitVec 5} {n : BitVec 12} {w : Word} {x : Trap}
    (h : CanIssue (plain true [.sR a]) s t) (hx : getS a s = .ok (w, s1)) (hu : mtsEffect n.toNat w s1 = .error (.trap x id)) :
    Traps (.mts a n) s x := by
  rw [Traps, exec_mts]
  exact issue_traps (keep := id) h rfl (by simp [hx, hu])

/-- What a write of `%fstat` keeps: the rounding mode and the five flags. -/
theorem fstatOf_eq (w : Word) : fstatOf w = BitVec.ofNat 10 (w.toNat / 256 % 4 * 256 + w.toNat % 32) := by
  have hlow : w.toNat % 2 ^ 5 < 2 ^ 8 := by omega
  have hsum : w.toNat / 256 % 4 * 256 + w.toNat % 32 = 2 ^ 8 * (w.toNat / 2 ^ 8 % 2 ^ 2) + w.toNat % 2 ^ 5 := by omega
  refine BitVec.eq_of_getLsbD_eq fun i hi => ?_
  rw [hsum, BitVec.getLsbD_ofNat, Nat.testBit_two_pow_mul_add _ hlow]
  simp only [Nat.testBit_mod_two_pow, Nat.testBit_div_two_pow, BitVec.testBit_toNat, fstatOf, fstatMask, BitVec.getLsbD_and,
    BitVec.getLsbD_extractLsb']
  interval_cases i <;> simp

section
variable {s : State} {t : Thread} {w : Word}

theorem mtsEffect_fstat (ht : s.thread? s.cur.tid = some t) :
    mtsEffect 0x050 w s = .ok ((), s.updThread s.cur.tid (fun r => r.updCtx s.cur.acc (fun c => { c with fstat := fstatOf w }))) := by
  by_cases hh : t.heddle.isSome = true <;> simp [mtsEffect, mtsWrite, selfRun ht, hh, updCtx]

theorem mtsEffect_mstat (ht : s.thread? s.cur.tid = some t) (hh : t.heddle = none) :
    mtsEffect 0x033 w s = writeMstat w s := by
  simp [mtsEffect, mtsWrite, selfRun ht, hh]

theorem mtsEffect_mailbox (ht : s.thread? s.cur.tid = some t) (hh : t.heddle = none) (dir : BitVec 2) :
    mtsEffect (0x060 + dir.setWidth 12 : BitVec 12).toNat w s = writeMailbox dir.toNat w s := by
  have hdir : dir.toNat < 4 := dir.isLt
  have hn : (0x060 + dir.setWidth 12 : BitVec 12).toNat = 0x060 + dir.toNat := by
    simp [BitVec.toNat_add]
    omega
  rw [hn]
  generalize dir.toNat = k at hdir
  interval_cases k <;> simp [mtsEffect, mtsWrite, selfRun ht, hh]

theorem mtsEffect_privileged (ht : s.thread? s.cur.tid = some t) {n : Nat} (hn : 0x800 ≤ n) :
    mtsEffect n w s = .error (.trap { cause := 0x02, addr := 0, extra := 0, pc := none } id) := by
  simp [mtsEffect, selfRun ht, hn]

/-- Outside heddle mode a number that no status register of Table 1.5 may be written by traps: 0x02 for an assigned one. -/
theorem mtsEffect_other (ht : s.thread? s.cur.tid = some t) (hh : t.heddle = none) {n : Nat} (hn : n < 0x800)
    (hw : n ∉ [0x033, 0x050, 0x060, 0x061, 0x062, 0x063]) :
    mtsEffect n w s = .error (.trap
      { cause := if (s.statusRead t s.cur.acc n).isSome then 0x02 else 0x01, addr := 0, extra := 0, pc := none } id) := by
  have : ¬0x800 ≤ n := by omega
  simp only [mtsEffect, mtsWrite, bindRun, selfRun ht, hh, this, if_false, Option.isSome_none, Bool.false_eq_true, meRun, getRun]
  split
  case h_7 => split <;> rfl
  all_goals simp at hw

end

section
variable {s s1 : State} {t : Thread} {a : BitVec 5} {x : Word}

theorem mts_fstat_retires (h : CanIssue (plain true [.sR a]) s t) (hx : getS a s = .ok (x, s1)) :
    Retires (.mts a 0x050) 4 s (s1.updThread s.cur.tid (fun r =>
      r.updCtx s.cur.acc (fun c => { c with fstat := BitVec.ofNat 10 (x.toNat / 256 % 4 * 256 + x.toNat % 32) }))) := by
  have hread := getS_inv hx
  obtain ⟨q, hq⟩ := hread.thread h.self
  rw [← fstatOf_eq, ← hread.cur]
  exact mts_retires h hx (mtsEffect_fstat (by rwa [hread.cur]))

/-- The sticky bits of `%mstat` take A's low bits; one that the array has set in this cycle stays set (R35). -/
theorem mts_mstat_retires (h : CanIssue (plain true [.sR a]) s t) (hh : t.heddle = none) (hx : getS a s = .ok (x, s1)) :
    Retires (.mts a 0x033) 4 s (s1.updCore t.core (fun k =>
      let k0 := s.core t.core
      { k with array := { k.array with
          spx := x.getLsbD 0 || (k0.array.spx && decide (k0.flagged.1 = some s.tick)),
          ainf := x.getLsbD 1 || (k0.array.ainf && decide (k0.flagged.2 = some s.tick)) } })) := by
  have hread := getS_inv hx
  obtain ⟨q, hq⟩ := hread.thread h.self
  obtain ⟨p, hp⟩ := hread.core t.core
  have hself : s1.thread? s1.cur.tid = some { t with q := q } := by rwa [hread.cur]
  refine mts_retires h hx ?_
  refine (mtsEffect_mstat hself hh).trans ?_
  simp only [writeMstat, bindRun, selfRun hself, modifyRun]
  refine congrArg (fun u => Except.ok ((), u)) (State.updCore_congr ?_)
  simp [hp, hread.tick, bit, beq_eq_decide]

/-- A mailbox counter takes A's low bits and the arrivals of this cycle (R35). -/
theorem mts_mailbox_retires (h : CanIssue (plain true [.sR a]) s t) (hh : t.heddle = none) (hx : getS a s = .ok (x, s1))
    (dir : BitVec 2) : Retires (.mts a (0x060 + dir.setWidth 12)) 4 s
      ((s1.updCore t.core (fun k => { k with
        mb := vset k.mb dir.toNat (x.setWidth 32 + BitVec.ofNat 32 ((s.core t.core).countedNow s.tick dir.toNat)) })).wakeMailbox
          t.core) := by
  have hread := getS_inv hx
  obtain ⟨q, hq⟩ := hread.thread h.self
  obtain ⟨p, hp⟩ := hread.core t.core
  have hself : s1.thread? s1.cur.tid = some { t with q := q } := by rwa [hread.cur]
  refine mts_retires h hx ?_
  refine (mtsEffect_mailbox hself hh dir).trans ?_
  simp only [writeMailbox, bindRun, selfRun hself, modifyRun]
  refine congrArg (fun u => Except.ok ((), State.wakeMailbox u t.core)) (State.updCore_congr ?_)
  simp [hp, hread.tick, Core.countedNow]

end

/-! ### The obligation -/

/-- Settles O10: the clauses of what completes, then the traps of `mfs` and of `mts`. -/
theorem statusMoves : Obligations.StatusMoves := by
  unfold Obligations.StatusMoves
  refine ⟨⟨?_, ?_, ?_⟩, ?_⟩
  · intro s t d n w h hh hn hw
    exact mfs_writes h (mfsValue_assigned h.self hh hn hw)
  · intro s t d n h hh hn
    refine mfs_writes h ((mfsValue_heddle h.self hh hn).trans ?_)
    simp [BitVec.toNat_eq]
  · intro s t a h
    obtain ⟨x, s1, hx, -, -⟩ := h.room.getS
    exact ⟨x, s1, hx, mts_fstat_retires h hx, fun hh => mts_mstat_retires h hh hx,
      fun hh dir => mts_mailbox_retires h hh hx dir⟩
  · intro s t r n c ht hh
    refine ⟨fun h hc hn => mfs_traps h ?_, fun h hr hc hn => mts_traps h (getS_reg ht hr) ?_⟩
    · by_cases hp : 0x800 ≤ n.toNat
      · rw [hc, if_pos hp]
        exact mfsValue_privileged ht hh hp
      · rw [hc, if_neg hp]
        exact mfsValue_unassigned ht hh (by omega) (hn.resolve_left hp)
    · by_cases hp : 0x800 ≤ n.toNat
      · rw [hc, if_pos (.inl hp)]
        exact mtsEffect_privileged ht hp
      · have hm : n.toNat ∉ [0x033, 0x050, 0x060, 0x061, 0x062, 0x063] := by
          simpa [BitVec.toNat_eq] using hn
        rw [hc, mtsEffect_other ht hh (by omega) hm]
        simp only [hp, false_or]

end Sys2Proof.Machine
end

section
/-! PROOFS. The integer lane operations (R23, R24, R136, R137, R144, R145). -/

namespace Sys2Proof.Machine

/-! ### Lanes of a vector value -/

/-- The bits of a vector built from lanes: bit 32 i + j is bit j of lane i. -/
theorem getLsbD_ofLanes (f : Nat → W32) (n j : Nat) (hn : n ≤ 64) :
    (ofLanes f n).getLsbD j = (decide (j < 32 * n) && (f (j / 32)).getLsbD (j % 32)) := by
  induction n with
  | zero => simp [ofLanes]
  | succ n ih =>
    rw [ofLanes, BitVec.getLsbD_or, ih (by omega), BitVec.getLsbD_shiftLeft, BitVec.getLsbD_setWidth]
    by_cases h1 : j < 32 * n
    · have h2 : j < 32 * (n + 1) := by omega
      simp [h1, h2]
    · by_cases h2 : j < 32 * (n + 1)
      · have hq : j / 32 = n := by omega
        have hr : j - 32 * n = j % 32 := by omega
        have h3 : j < 2048 := by omega
        have h4 : j % 32 < 2048 := by omega
        simp [h1, h2, h3, h4, hq, hr]
      · have h3 : 32 ≤ j - 32 * n := by omega
        simp [h1, h2, BitVec.getLsbD_of_ge _ _ h3]

theorem lane_vecOf (f : Nat → W32) {k : Nat} (hk : k < 64) : lane (vecOf f) k = f k := by
  refine BitVec.eq_of_getLsbD_eq fun j hj => ?_
  have h1 : 32 * k + j < 32 * 64 := by omega
  have hq : (32 * k + j) / 32 = k := by omega
  have hr : (32 * k + j) % 32 = j := by omega
  rw [lane, BitVec.getLsbD_extractLsb', vecOf, getLsbD_ofLanes _ _ _ (Nat.le_refl _), hq, hr]
  simp [hj, h1]

theorem lane_mergeV (on : BitVec 64) (old : VWord) (f : Nat → W32) {k : Nat} (hk : k < 64) :
    lane (mergeV on old f) k = if on.getLsbD k then f k else lane old k :=
  lane_vecOf _ hk

theorem lane_zero (k : Nat) : lane 0 k = 0 :=
  BitVec.extractLsb'_zero ..

/-! ### Active lanes and the write of a vector destination -/

/-- The active lanes of the issuing thread, one bit per lane (R23). -/
theorem activeLanes_run {s : State} {t : Thread} (g : Gov) (h : s.thread? s.cur.tid = some t) :
    ∃ on, activeLanes g s = .ok (on, s) ∧ ∀ k, k < 64 → on.getLsbD k = laneOn t s.cur.acc g k := by
  refine ⟨_, by simp [activeLanes, selfRun h]; rfl, fun k hk => ?_⟩
  rw [BitVec.getLsbD_setWidth, BitVec.getLsbD_ofBoolListLE]
  simp [hk]

/-- What the lanes of a vector destination keep where they are not written (R23, R24). -/
theorem oldV_run {s : State} {t : Thread} (d : BitVec 5) (h : s.thread? s.cur.tid = some t) :
    oldV d s = .ok (if d.toNat < 28 then vget t.v d.toNat 0 else 0, s) := by
  by_cases hd : d.toNat < 28 <;> simp [oldV, hd, selfRun h]

/-- A lane-wise write of a vector destination that is ready. -/
theorem putLanes_run {s : State} {t : Thread} {us : List Use} {d : BitVec 5} (on : BitVec 64) (f : Nat → W32)
    (hroom : Room (.vW d :: us) s) (h : s.thread? s.cur.tid = some t) :
    ∃ x u, (∀ k, k < 64 → lane x k = if on.getLsbD k then f k else if d.toNat < 28 then lane (vget t.v d.toNat 0) k else 0) ∧
      setV d x s = .ok ((), u) ∧ putLanes d on f s = .ok ((), u) := by
  obtain ⟨u, hu, -, -⟩ := hroom.setV (mergeV on (if d.toNat < 28 then vget t.v d.toNat 0 else 0) f)
  refine ⟨_, u, fun k hk => ?_, hu, by simp only [putLanes, bindRun, oldV_run d h, hu]⟩
  rw [lane_mergeV _ _ _ hk]
  split
  · rfl
  · split
    · rfl
    · exact lane_zero k

/-- An instruction that can issue can issue under the predicate of its lanes: its lanes only take away a deferred fault (R67). -/
theorem CanIssue.withLanes {n : Need} {s : State} {t : Thread} (g : Gov) (h : CanIssue n s t) (hn : n.lanes = none) :
    CanIssue { n with lanes := some g } s t where
  self := h.self
  legal := h.legal
  cls := h.cls
  view := h.view
  gov := h.gov
  row6 := h.row6
  noFault := by
    have hf := h.noFault
    simp only [hn, anyLane, if_true] at hf
    simp only [hf, ite_self]
  ready := h.ready

/-! ### The two-source integer lane operations -/

/-- Table 5.2: the exact result of each operation, wrapped into its lane. -/
def VI.exact (o : VI) (x y : W32) : W32 :=
  match o with
  | .add => BitVec.ofInt 32 (x.toInt + y.toInt)
  | .sub => BitVec.ofInt 32 (x.toInt - y.toInt)
  | .mul => BitVec.ofInt 32 (x.toInt * y.toInt)
  | .mulh => BitVec.ofInt 32 (x.toInt * y.toInt / 2 ^ 32)
  | .minS => BitVec.ofInt 32 (min x.toInt y.toInt)
  | .maxS => BitVec.ofInt 32 (max x.toInt y.toInt)
  | .minN => BitVec.ofNat 32 (min x.toNat y.toNat)
  | .maxN => BitVec.ofNat 32 (max x.toNat y.toNat)
  | .and => x &&& y
  | .or => x ||| y
  | .xor => x ^^^ y
  | .shl => BitVec.ofNat 32 (x.toNat * 2 ^ (y.toNat % 32))
  | .shr => BitVec.ofNat 32 (x.toNat / 2 ^ (y.toNat % 32))
  | .sar => BitVec.ofInt 32 (x.toInt / 2 ^ (y.toNat % 32))

theorem field_shift (y : W32) : field y 4 0 = y.toNat % 32 := by
  simp [field]

/-- Without a modifier each operation gives the result of Table 5.2. -/
theorem VI.lane_eq_exact (o : VI) (x y : W32) : o.lane none x y = o.exact x y := by
  cases o with
  | add | sub | mul | mulh | and | or | xor => rfl
  | minS =>
    simp only [VI.lane, VI.exact, BitVec.sle_iff_toInt_le, min_def]
    split <;> rw [BitVec.ofInt_toInt]
  | maxS =>
    simp only [VI.lane, VI.exact, BitVec.sle_iff_toInt_le, max_def]
    split <;> rw [BitVec.ofInt_toInt]
  | minN =>
    simp only [VI.lane, VI.exact, BitVec.ule_iff_toNat_le, min_def]
    split <;> rw [BitVec.ofNat_toNat, BitVec.setWidth_eq]
  | maxN =>
    simp only [VI.lane, VI.exact, BitVec.ule_iff_toNat_le, max_def]
    split <;> rw [BitVec.ofNat_toNat, BitVec.setWidth_eq]
  | shl =>
    refine BitVec.eq_of_toNat_eq ?_
    rw [VI.lane, VI.exact, field_shift, BitVec.toNat_shiftLeft, Nat.shiftLeft_eq, BitVec.toNat_ofNat]
  | shr =>
    rw [VI.lane, VI.exact, field_shift, ← Nat.shiftRight_eq_div_pow, ← BitVec.toNat_ushiftRight, BitVec.ofNat_toNat,
      BitVec.setWidth_eq]
  | sar =>
    rw [VI.lane, VI.exact, field_shift, ← BitVec.ofInt_toInt (x := x.sshiftRight _), BitVec.toInt_sshiftRight,
      Int.shiftRight_eq_div_pow]
    norm_cast

/-- A two-source integer lane operation whose sources have been read completes: it writes its results to the active lanes of D. -/
theorem vintRR_writesLanes {s s1 s2 : State} {t : Thread} {d a b : BitVec 5} {g : Gov} {i : Instr} {len : Nat} {scalar : Bool}
    {x : VWord} {y : Nat → W32} {o : VI} (h : CanIssue (vecNeed g.legal [.vR a, useB scalar b, .vW d] len) s t)
    (hi : exec i s = vintRR o scalar none len d a b g s) (hx : getV a s = .ok (x, s1)) (hy : getB scalar b s1 = .ok (y, s2))
    (hroom : Room [.vW d] s2) (hcur : s2.cur = s.cur) (hself : ∃ q, s2.thread? s.cur.tid = some { t with q := q }) :
    WritesLanes i len d (laneOn t s.cur.acc g) (fun k => o.exact (lane x k) (y k)) t s s2 := by
  obtain ⟨on, hon, hlanes⟩ := activeLanes_run g h.self
  obtain ⟨q, hq⟩ := hself
  obtain ⟨r, u, hr, hset, hput⟩ := putLanes_run on (fun k => o.lane none (lane x k) (y k)) hroom (hcur ▸ hq)
  refine ⟨r, u, fun k hk => ?_, hset, ?_⟩
  · rw [hr k hk, hlanes k hk, VI.lane_eq_exact]
  · rw [Retires, hi, vintRR]
    exact issue_completes (h.withLanes g rfl) rfl (by simp [hon, hx, hy, hput])

/-- Both sources of a two-source lane operation with a vector B can be read. -/
theorem CanIssue.read_vector_vector {legal : Bool} {s : State} {t : Thread} {d a b : BitVec 5} {len : Nat}
    (h : CanIssue (vecNeed legal [.vR a, .vR b, .vW d] len) s t) :
    ∃ x s1 y s2, getV a s = .ok (x, s1) ∧ getV b s1 = .ok (y, s2) ∧ Room [.vW d] s2 ∧ s2.cur = s.cur ∧
      ∃ q, s2.thread? s.cur.tid = some { t with q := q } := by
  obtain ⟨x, s1, hx, hroom1, -⟩ := Room.getV h.room
  obtain ⟨y, s2, hy, hroom2, -⟩ := hroom1.getV
  obtain ⟨hcur, -, hself, -⟩ := (getV_inv hx).trans (getV_inv hy) h.self
  exact ⟨x, s1, y, s2, hx, hy, hroom2, hcur, hself⟩

/-- Both sources of a two-source lane operation with a scalar B can be read. -/
theorem CanIssue.read_vector_scalar {legal : Bool} {s : State} {t : Thread} {d a b : BitVec 5} {len : Nat}
    (h : CanIssue (vecNeed legal [.vR a, .sR b, .vW d] len) s t) :
    ∃ x s1 y s2, getV a s = .ok (x, s1) ∧ getS b s1 = .ok (y, s2) ∧ Room [.vW d] s2 ∧ s2.cur = s.cur ∧
      ∃ q, s2.thread? s.cur.tid = some { t with q := q } := by
  obtain ⟨x, s1, hx, hroom1, -⟩ := Room.getV h.room
  obtain ⟨y, s2, hy, hroom2, -⟩ := hroom1.getS
  obtain ⟨hcur, -, hself, -⟩ := (getV_inv hx).trans (getS_inv hy) h.self
  exact ⟨x, s1, y, s2, hx, hy, hroom2, hcur, hself⟩

/-- Each row of Table 5.2 is one operation, with a vector B and with a scalar B. -/
theorem vectorIntegerOps_operation {d a b : BitVec 5} {g : Gov} {p : Instr × Instr × (W32 → W32 → W32)}
    (hp : p ∈ vectorIntegerOps d a b g) : ∃ o : VI, (∀ s, exec p.1 s = vintRR o false none 4 d a b g s) ∧
      (∀ s, exec p.2.1 s = vintRR o true none 4 d a b g s) ∧ p.2.2 = o.exact := by
  simp only [vectorIntegerOps, List.mem_cons, List.not_mem_nil, or_false] at hp
  rcases hp with rfl | rfl | rfl | rfl | rfl | rfl | rfl | rfl | rfl | rfl | rfl | rfl | rfl | rfl
  · exact ⟨.add, fun _ => rfl, fun _ => rfl, rfl⟩
  · exact ⟨.sub, fun _ => rfl, fun _ => rfl, rfl⟩
  · exact ⟨.mul, fun _ => rfl, fun _ => rfl, rfl⟩
  · exact ⟨.mulh, fun _ => rfl, fun _ => rfl, rfl⟩
  · exact ⟨.minS, fun _ => rfl, fun _ => rfl, rfl⟩
  · exact ⟨.maxS, fun _ => rfl, fun _ => rfl, rfl⟩
  · exact ⟨.minN, fun _ => rfl, fun _ => rfl, rfl⟩
  · exact ⟨.maxN, fun _ => rfl, fun _ => rfl, rfl⟩
  · exact ⟨.and, fun _ => rfl, fun _ => rfl, rfl⟩
  · exact ⟨.or, fun _ => rfl, fun _ => rfl, rfl⟩
  · exact ⟨.xor, fun _ => rfl, fun _ => rfl, rfl⟩
  · exact ⟨.shl, fun _ => rfl, fun _ => rfl, rfl⟩
  · exact ⟨.shr, fun _ => rfl, fun _ => rfl, rfl⟩
  · exact ⟨.sar, fun _ => rfl, fun _ => rfl, rfl⟩

/-- Each compact form is one operation whose A is D (R56). -/
theorem compactIntegerOps_operation {d b : BitVec 5} {p1 : Bool} {p : Instr × (W32 → W32 → W32)}
    (hp : p ∈ compactIntegerOps d b p1) :
    ∃ o : VI, (∀ s, exec p.1 s = vintRR o false none 2 d d b (compactGov p1) s) ∧ p.2 = o.exact := by
  simp only [compactIntegerOps, List.mem_cons, List.not_mem_nil, or_false] at hp
  rcases hp with rfl | rfl | rfl | rfl | rfl | rfl | rfl | rfl | rfl
  · exact ⟨.add, fun _ => rfl, rfl⟩
  · exact ⟨.sub, fun _ => rfl, rfl⟩
  · exact ⟨.mul, fun _ => rfl, rfl⟩
  · exact ⟨.and, fun _ => rfl, rfl⟩
  · exact ⟨.or, fun _ => rfl, rfl⟩
  · exact ⟨.xor, fun _ => rfl, rfl⟩
  · exact ⟨.shl, fun _ => rfl, rfl⟩
  · exact ⟨.shr, fun _ => rfl, rfl⟩
  · exact ⟨.sar, fun _ => rfl, rfl⟩

theorem compactGov_legal (p1 : Bool) : (compactGov p1).legal = true := by
  cases p1 <;> rfl

/-! ### The obligation -/

/-- Settles O21: the forms with a vector B, with a scalar B, and the compact forms. -/
theorem vectorIntegerResults : Obligations.VectorIntegerResults := by
  unfold Obligations.VectorIntegerResults
  refine ⟨?_, ?_, ?_⟩
  · intro s t d a b g h
    obtain ⟨x, s1, y, s2, hx, hy, hroom, hcur, hself⟩ := h.read_vector_vector
    refine ⟨x, s1, y, s2, hx, hy, fun p hp => ?_⟩
    obtain ⟨o, hvec, -, ho⟩ := vectorIntegerOps_operation hp
    rw [ho]
    exact vintRR_writesLanes (scalar := false) h (hvec s) hx (by simp [getB, hy]) hroom hcur hself
  · intro s t d a b g h
    obtain ⟨x, s1, y, s2, hx, hy, hroom, hcur, hself⟩ := h.read_vector_scalar
    refine ⟨x, s1, y, s2, hx, hy, fun p hp => ?_⟩
    obtain ⟨o, -, hsc, ho⟩ := vectorIntegerOps_operation hp
    rw [ho]
    exact vintRR_writesLanes (y := fun _ => y.setWidth 32) (scalar := true) h (hsc s) hx (by simp [getB, hy]) hroom hcur hself
  · intro s t d b p1 h
    obtain ⟨x, s1, y, s2, hx, hy, hroom, hcur, hself⟩ := h.read_vector_vector
    refine ⟨x, s1, y, s2, hx, hy, fun p hp => ?_⟩
    obtain ⟨o, hvec, ho⟩ := compactIntegerOps_operation hp
    have hg : CanIssue (vecNeed (compactGov p1).legal [.vR d, .vR b, .vW d] 2) s t := by rwa [compactGov_legal]
    rw [ho]
    exact vintRR_writesLanes (scalar := false) hg (hvec s) hx (by simp [getB, hy]) hroom hcur hself

end Sys2Proof.Machine
end

section
/-! PROOFS. Reading an instruction's sources in turn, and delivering a result with its flags (R83, R84). -/

namespace Sys2Proof.Machine

/-! ### A run of source reads -/

/-- A step that answers hands its answer to the next one. -/
theorem bindRun_ok {α β : Type} {m : Exec α} {f : α → Exec β} {s u : State} {x : α} (h : m s = .ok (x, u)) :
    (m >>= f) s = f x u := by
  rw [bindRun, h]

/-- State u comes from s by reading sources of the issuing thread t, and the uses us can still be served. -/
structure Reading (us : List Use) (s u : State) (t : Thread) : Prop where
  room : Room us u
  cur : u.cur = s.cur
  self : ∃ q, u.thread? s.cur.tid = some { t with q := q }

theorem CanIssue.reading {n : Need} {s : State} {t : Thread} (h : CanIssue n s t) : Reading n.uses s s t :=
  ⟨h.room, rfl, t.q, h.self⟩

section
variable {us vs : List Use} {s u v : State} {t : Thread}

theorem Reading.next (h : Reading vs s u t) (hv : ReadFrom u v) (hroom : Room us v) : Reading us s v t := by
  obtain ⟨q, hq⟩ := h.self
  obtain ⟨q', hq'⟩ := hv.thread (h.cur ▸ hq)
  exact ⟨hroom, hv.cur.trans h.cur, q', h.cur ▸ hq'⟩

/-- A scalar source that is ready can be read. -/
theorem Reading.getS {c : BitVec 5} (h : Reading (.sR c :: us) s u t) : ∃ x v, getS c u = .ok (x, v) ∧ Reading us s v t := by
  obtain ⟨x, v, hx, hroom, -⟩ := h.room.getS
  exact ⟨x, v, hx, h.next (getS_inv hx) hroom⟩

/-- A vector source that is ready can be read. -/
theorem Reading.getV {c : BitVec 5} (h : Reading (.vR c :: us) s u t) : ∃ x v, getV c u = .ok (x, v) ∧ Reading us s v t := by
  obtain ⟨x, v, hx, hroom, -⟩ := h.room.getV
  exact ⟨x, v, hx, h.next (getV_inv hx) hroom⟩

/-- Without a modifier an instruction rounds by the mode of `%fstat`, which reading its sources leaves as it was. -/
theorem Reading.modeOf (h : Reading us s u t) : modeOf none u = .ok (rmOf (t.ctx s.cur.acc).fstat, u) := by
  obtain ⟨q, hq⟩ := h.self
  have hself : u.thread? u.cur.tid = some { t with q := q } := h.cur ▸ hq
  simp only [Machine.modeOf, ctx, bindRun, selfRun hself, meRun, pureRun, h.cur]
  rfl

/-! ### Merging flags and writing the result -/

/-- Merging flags keeps the operands that can be served, and the vector registers. -/
theorem Reading.mergeFlags (h : Reading us s u t) (f : FF) :
    ∃ v, mergeFlags f u = .ok ((), v) ∧ Room us v ∧ ∃ r, v.thread? v.cur.tid = some r ∧ r.v = t.v := by
  obtain ⟨q, hq⟩ := h.self
  have hself : u.thread? u.cur.tid = some { t with q := q } := h.cur ▸ hq
  refine ⟨_, rfl, h.room.updThread _ (fun r k => ?_) (fun r => getCtx_core _ _ _), _,
    by rw [State.updThread_cur]; exact State.thread?_updThread_same _ hself, ?_⟩
  · rw [getCtx_q]
  · cases u.cur.acc <;> rfl

/-- Merge the flags of a result and write its word to a scalar destination. -/
def putFlagged (d : BitVec 5) (r : FF × Word) : Exec Next := do
  mergeFlags r.1
  setS d r.2
  pure .seq

/-- An instruction whose sources have been read up to u, and that then rounds, merges flags and writes scalar D, completes. -/
theorem retires_putFlagged {n : Need} {i : Instr} {body : Exec Next} {d : BitVec 5} (r : RM → FF × Word) (h : CanIssue n s t)
    (hsys : n.sysRel = false) (hread : Reading [.sW d] s u t) (hi : exec i s = issue n body s)
    (hbody : body s = (do let rm ← modeOf none; putFlagged d (r rm)) u) :
    let w := r (rmOf (t.ctx s.cur.acc).fstat)
    ∃ v x, mergeFlags w.1 u = .ok ((), v) ∧ setS d w.2 v = .ok ((), x) ∧ Retires i n.len s x := by
  intro w
  obtain ⟨v, hv, hroom, -⟩ := hread.mergeFlags w.1
  obtain ⟨x, hx, -⟩ := hroom.setS w.2
  have hput : putFlagged d w u = .ok (.seq, x) := (bindRun_ok hv).trans (bindRun_ok hx)
  refine ⟨v, x, hv, hx, ?_⟩
  rw [Retires, hi]
  exact issue_completes h hsys (hbody.trans ((bindRun_ok hread.modeOf).trans hput))

/-- An instruction whose sources have been read up to u, and that then rounds and delivers an f32 to scalar D, completes. -/
theorem writesF32_of_body {n : Need} {i : Instr} {body : Exec Next} {d : BitVec 5} (r : RM → W32 × FF) (h : CanIssue n s t)
    (hsys : n.sysRel = false) (hread : Reading [.sW d] s u t) (hi : exec i s = issue n body s)
    (hbody : body s = (do let rm ← modeOf none; putF32 d (r rm)) u) :
    WritesF32 i n.len d (r (rmOf (t.ctx s.cur.acc).fstat)) s u :=
  retires_putFlagged (fun rm => ((r rm).2, (r rm).1.setWidth 64)) h hsys hread hi hbody

end

end Sys2Proof.Machine
end

section
/-! PROOFS. The scalar FP32 instructions (R87, R88, R102, R132). -/

namespace Sys2Proof.Machine

/-! ### Which operation each instruction is (Table 4.10) -/

theorem exec_fpBinary {d a b : BitVec 5} {g : Gov} {p : Instr × FOp} (hp : p ∈ fpBinary d a b g) (s : State) :
    exec p.1 s = fpRR p.2 none 4 d a b g s := by
  simp only [fpBinary, List.mem_cons, List.not_mem_nil, or_false] at hp
  rcases hp with rfl | rfl | rfl | rfl | rfl | rfl <;> rfl

theorem exec_fpUnary {d b : BitVec 5} {g : Gov} {p : Instr × FOp} (hp : p ∈ fpUnary d b g) (s : State) :
    exec p.1 s = fpR p.2 none 4 d b g s := by
  simp only [fpUnary, List.mem_cons, List.not_mem_nil, or_false] at hp
  rcases hp with rfl | rfl | rfl <;> rfl

theorem exec_fpCompares {d a b : BitVec 5} {g : Gov} {p : Instr × FCmp} (hp : p ∈ fpCompares d a b g) (s : State) :
    exec p.1 s = fpCmp p.2 none 4 d a b g s := by
  simp only [fpCompares, List.mem_cons, List.not_mem_nil, or_false] at hp
  rcases hp with rfl | rfl | rfl | rfl <;> rfl

/-! ### Results to a scalar D -/

section
variable {s s1 s2 s3 : State} {t : Thread} {d a b : BitVec 5} {g : Gov} {i : Instr} {x y z : Word}

theorem fpRR_writesF32 {o : FOp} (h : CanIssue (fpNeed true g [.sR a, .sR b, .sW d] 4) s t)
    (hi : exec i s = fpRR o none 4 d a b g s) (hx : getS a s = .ok (x, s1)) (hy : getS b s1 = .ok (y, s2))
    (hread : Reading [.sW d] s s2 t) :
    WritesF32 i 4 d (fop o none (rmOf (t.ctx s.cur.acc).fstat) (x.setWidth 32) (y.setWidth 32) 0) s s2 :=
  writesF32_of_body (fun rm => fop o none rm (x.setWidth 32) (y.setWidth 32) 0) h rfl hread hi
    ((bindRun_ok hx).trans (bindRun_ok hy))

theorem fpR_writesF32 {o : FOp} (h : CanIssue (fpNeed true g [.sR b, .sW d] 4) s t) (hi : exec i s = fpR o none 4 d b g s)
    (hy : getS b s = .ok (y, s1)) (hread : Reading [.sW d] s s1 t) :
    WritesF32 i 4 d (fop o none (rmOf (t.ctx s.cur.acc).fstat) 0 (y.setWidth 32) 0) s s1 :=
  writesF32_of_body (fun rm => fop o none rm 0 (y.setWidth 32) 0) h rfl hread hi
    (bindRun_ok hy)

theorem fpFma_writesF32 (h : CanIssue (fpNeed true g [.sR a, .sR b, .sR d, .sW d] 4) s t)
    (hi : exec i s = fpFma none 4 d a b g s) (hx : getS a s = .ok (x, s1)) (hy : getS b s1 = .ok (y, s2))
    (hz : getS d s2 = .ok (z, s3)) (hread : Reading [.sW d] s s3 t) :
    WritesF32 i 4 d (fop .fma none (rmOf (t.ctx s.cur.acc).fstat) (x.setWidth 32) (y.setWidth 32) (z.setWidth 32)) s s3 :=
  writesF32_of_body (fun rm => fop .fma none rm (x.setWidth 32) (y.setWidth 32) (z.setWidth 32)) h rfl hread hi
    ((bindRun_ok hx).trans ((bindRun_ok hy).trans (bindRun_ok hz)))

/-- R88: an integer becomes the f32 that its exact value rounds to. -/
theorem fpFromInt_writesF32 {signed : Bool} (h : CanIssue (fpNeed true g [.sR b, .sW d] 4) s t)
    (hi : exec i s = fpFromInt signed none 4 d b g s) (hy : getS b s = .ok (y, s1)) (hread : Reading [.sW d] s s1 t) :
    WritesF32 i 4 d
      (intToFloat none (rmOf (t.ctx s.cur.acc).fstat) false false (if signed then y.toInt else (y.toNat : Int))) s s1 :=
  writesF32_of_body (fun rm => intToFloat none rm false false (if signed then y.toInt else (y.toNat : Int))) h rfl hread hi
    (bindRun_ok hy)

/-- The flags of an integer result and its word. -/
def intFlagged (r : Int × FF) : FF × Word := (r.2, BitVec.ofInt 64 r.1)

/-- R87: an f32 becomes its rounded value within the integer's range. -/
theorem fpToInt_writesInt {signed : Bool} (h : CanIssue (fpNeed true g [.sR b, .sW d] 4) s t)
    (hi : exec i s = fpToInt signed none 4 d b g s) (hy : getS b s = .ok (y, s1)) (hread : Reading [.sW d] s s1 t) :
    WritesInt i 4 d (floatToInt (if signed then -2 ^ 63 else 0) (if signed then 2 ^ 63 - 1 else 2 ^ 64 - 1) none
      (rmOf (t.ctx s.cur.acc).fstat) false false (y.setWidth 32)) s s1 :=
  retires_putFlagged (fun rm => intFlagged (floatToInt (if signed then -2 ^ 63 else 0)
    (if signed then 2 ^ 63 - 1 else 2 ^ 64 - 1) none rm false false (y.setWidth 32))) h rfl hread hi (bindRun_ok hy)

/-! ### Comparisons -/

/-- Without NEG and ABS a source keeps its value. -/
@[simp] theorem FVal.mod_false_false (v : FVal) : v.mod false false = v := by
  cases v <;> simp [FVal.mod]

/-- A predicate can always be written. -/
theorem setP_run (k : Nat) (w : Word) (s : State) : ∃ u, setP k w s = .ok ((), u) := by
  unfold setP
  split
  · exact ⟨s, rfl⟩
  · exact ⟨_, rfl⟩

/-- R102: the comparison of A and B goes to every lane position of predicate D. -/
theorem fpCmp_retires {c : FCmp} {r : Bool × FF} (h : CanIssue (fpNeed (predField d) g [.sR a, .sR b] 4) s t)
    (hi : exec i s = fpCmp c none 4 d a b g s) (hx : getS a s = .ok (x, s1)) (hy : getS b s1 = .ok (y, s2))
    (hread : Reading [] s s2 t) (hr : fcmp c (f32Val (x.setWidth 32)) (f32Val (y.setWidth 32)) = r) :
    ∃ v u, mergeFlags r.2 s2 = .ok ((), v) ∧ setP d.toNat (if r.1 then BitVec.allOnes 64 else 0) v = .ok ((), u) ∧
      Retires i 4 s u := by
  obtain ⟨v, hv, -⟩ := hread.mergeFlags r.2
  obtain ⟨u, hu⟩ := setP_run d.toNat (allLanes r.1) v
  refine ⟨v, u, hv, hu, ?_⟩
  rw [Retires, hi]
  exact issue_completes h rfl (by simp [hx, hy, negA, absA, negB, absB, hr, hv, hu])

end

/-! ### The obligation -/

/-- Settles O11: the operations of two, one and three sources, the conversions, and the comparisons. -/
theorem scalarFpResults : Obligations.ScalarFpResults := by
  unfold Obligations.ScalarFpResults
  refine ⟨⟨?_, ?_, ?_⟩, ?_, ?_⟩
  · intro s t d a b g h
    obtain ⟨x, s1, hx, hread⟩ := h.reading.getS
    obtain ⟨y, s2, hy, hread⟩ := hread.getS
    exact ⟨x, s1, y, s2, hx, hy, fun p hp => fpRR_writesF32 h (exec_fpBinary hp s) hx hy hread⟩
  · intro s t d b g h
    obtain ⟨y, s1, hy, hread⟩ := h.reading.getS
    exact ⟨y, s1, hy, fun p hp => fpR_writesF32 h (exec_fpUnary hp s) hy hread⟩
  · intro s t d a b g h
    obtain ⟨x, s1, hx, hread⟩ := h.reading.getS
    obtain ⟨y, s2, hy, hread⟩ := hread.getS
    obtain ⟨z, s3, hz, hread⟩ := hread.getS
    exact ⟨x, s1, y, s2, z, s3, hx, hy, hz, fpFma_writesF32 h rfl hx hy hz hread⟩
  · intro s t d b g h
    obtain ⟨y, s1, hy, hread⟩ := h.reading.getS
    exact ⟨y, s1, hy, fpFromInt_writesF32 (signed := true) h rfl hy hread,
      fpFromInt_writesF32 (signed := false) h rfl hy hread, fpToInt_writesInt (signed := true) h rfl hy hread,
      fpToInt_writesInt (signed := false) h rfl hy hread⟩
  · intro s t d a b g h
    obtain ⟨x, s1, hx, hread⟩ := h.reading.getS
    obtain ⟨y, s2, hy, hread⟩ := hread.getS
    exact ⟨x, s1, y, s2, hx, hy, fun p hp => fpCmp_retires h (exec_fpCompares hp s) hx hy hread rfl⟩

end Sys2Proof.Machine
end

section
/-! PROOFS. The lane conversions (R86 to R88, R138, R150, R151). -/

namespace Sys2Proof.Machine

/-! ### Delivering lanes with their flags -/

/-- A flag merged from the lanes below n is raised by an active one of them (R138). -/
theorem orFlags_any {p : FF → Bool} (hnone : p FF.none = false) (hor : ∀ x y, p (x.or y) = (p x || p y)) {on : BitVec 64}
    {active : Nat → Bool} (f : Nat → FF) {n : Nat} (h : ∀ k, k < n → on.getLsbD k = active k) :
    p (orFlags on f n) = (List.range n).any (fun k => active k && p (f k)) := by
  induction n with
  | zero => exact hnone
  | succ n ih =>
    rw [orFlags, hor, ih fun k hk => h k (by omega), h n (by omega), List.range_succ, List.any_append]
    cases ha : active n <;> simp [ha, hnone]

theorem FF.eq_of_flags {x y : FF} (hnx : x.nx = y.nx) (huf : x.uf = y.uf) (hof : x.of = y.of) (hdz : x.dz = y.dz)
    (hnv : x.nv = y.nv) : x = y := by
  cases x
  cases y
  exact (FF.mk.injEq ..).mpr ⟨hnx, huf, hof, hdz, hnv⟩

/-- The flags that the model merges are those that any active lane raises. -/
theorem orFlags_eq_laneFlags {on : BitVec 64} {active : Nat → Bool} (h : ∀ k, k < 64 → on.getLsbD k = active k) (f : Nat → FF) :
    orFlags on f 64 = laneFlags active f :=
  FF.eq_of_flags (orFlags_any rfl (fun _ _ => rfl) f h) (orFlags_any rfl (fun _ _ => rfl) f h)
    (orFlags_any rfl (fun _ _ => rfl) f h) (orFlags_any rfl (fun _ _ => rfl) f h) (orFlags_any rfl (fun _ _ => rfl) f h)

/-- A lane operation whose sources have been read up to u, and that then rounds, merges flags and writes lanes of D, completes. -/
theorem writesLanesF_of_body {s u : State} {t : Thread} {n : Need} {i : Instr} {body : Exec Next} {d : BitVec 5} {g : Gov}
    {on : BitVec 64} (f : RM → Nat → W32 × FF) (h : CanIssue n s t) (hsys : n.sysRel = false)
    (hon : ∀ k, k < 64 → on.getLsbD k = laneOn t s.cur.acc g k) (hread : Reading [.vW d] s u t) (hi : exec i s = issue n body s)
    (hbody : body s = (do let rm ← modeOf none; putLanesF d on (f rm); pure Next.seq) u) :
    WritesLanesF i n.len d (laneOn t s.cur.acc g) (f (rmOf (t.ctx s.cur.acc).fstat)) t s u := by
  let w := f (rmOf (t.ctx s.cur.acc).fstat)
  obtain ⟨v, hv, hroom, r, hself, hvec⟩ := hread.mergeFlags (orFlags on (fun k => (w k).2) 64)
  obtain ⟨x, y, hx, hset, hput⟩ := putLanes_run on (fun k => (w k).1) hroom hself
  have hputF : putLanesF d on w u = .ok ((), y) := (bindRun_ok hv).trans hput
  refine ⟨v, by rw [← orFlags_eq_laneFlags hon]; exact hv, x, y, fun k hk => ?_, hset, ?_⟩
  · rw [hx k hk, hon k hk, hvec]
  · rw [Retires, hi]
    exact issue_completes h hsys (hbody.trans ((bindRun_ok hread.modeOf).trans (bindRun_ok hputF)))

/-! ### The conversions -/

section
variable {s s1 s2 : State} {t : Thread} {d a : BitVec 5} {g : Gov} {i : Instr} {x c : VWord}

theorem vconv_writesLanesF {f : Option Mod → RM → W32 → W32 → W32 × FF} (h : CanIssue (vecNeed g.legal [.vR a, .vW d] 4) s t)
    (hi : exec i s = vconv f true none 4 d a g s) (hx : getV a s = .ok (x, s1)) (hread : Reading [.vW d] s s1 t) :
    WritesLanesF i 4 d (laneOn t s.cur.acc g) (fun k => f none (rmOf (t.ctx s.cur.acc).fstat) 0 (lane x k)) t s s1 := by
  obtain ⟨on, hon, hlanes⟩ := activeLanes_run g h.self
  exact writesLanesF_of_body (fun rm k => f none rm 0 (lane x k)) (h.withLanes g rfl) rfl hlanes hread hi
    ((bindRun_ok hon).trans (bindRun_ok hx))

theorem vnarrow_writesLanesF {f : Fmt} {w : Nat} (h : CanIssue (vecNeed g.legal [.vR a, .vR d, .vW d] 4) s t)
    (hi : exec i s = vnarrow f w none 4 d a g s) (hx : getV a s = .ok (x, s1)) (hc : getV d s1 = .ok (c, s2))
    (hread : Reading [.vW d] s s2 t) :
    WritesLanesF i 4 d (laneOn t s.cur.acc g)
      (fun k => narrow f w none (rmOf (t.ctx s.cur.acc).fstat) (lane c k) (lane x k)) t s s2 := by
  obtain ⟨on, hon, hlanes⟩ := activeLanes_run g h.self
  exact writesLanesF_of_body (fun rm k => narrow f w none rm (lane c k) (lane x k)) (h.withLanes g rfl) rfl hlanes hread hi
    ((bindRun_ok hon).trans ((bindRun_ok hx).trans (bindRun_ok hc)))

end

/-- R150: each conversion that does not read D, with an element that exists, is one lane function. -/
theorem exec_wideningForms {d a k : BitVec 5} {g : Gov} {p : Instr × Bool × (RM → W32 → W32 × FF)}
    (hp : p ∈ wideningForms none d a k g) (hk : p.2.1 = true) :
    ∃ f : Option Mod → RM → W32 → W32 → W32 × FF, (∀ s, exec p.1 s = vconv f true none 4 d a g s) ∧
      ∀ rm x, p.2.2 rm x = f none rm 0 x := by
  simp only [wideningForms, List.mem_cons, List.not_mem_nil, or_false] at hp
  rcases hp with rfl | rfl | rfl | rfl | rfl | rfl
  · exact ⟨fun m rm _ x => intToFloat m rm (negA m) (absA m) x.toInt, fun _ => rfl, fun _ _ => rfl⟩
  · exact ⟨toS32, fun _ => rfl, fun _ _ => rfl⟩
  · exact ⟨widen .bf16 16 k.toNat, fun s => congrArg (vconv _ · none 4 d a g s) hk, fun _ _ => rfl⟩
  · exact ⟨widen .f16 16 k.toNat, fun s => congrArg (vconv _ · none 4 d a g s) hk, fun _ _ => rfl⟩
  · exact ⟨widen .e4m3 8 k.toNat, fun s => congrArg (vconv _ · none 4 d a g s) hk, fun _ _ => rfl⟩
  · exact ⟨widen .e5m2 8 k.toNat, fun s => congrArg (vconv _ · none 4 d a g s) hk, fun _ _ => rfl⟩

/-- R151: each narrowing conversion by its format and width. -/
theorem exec_narrowingForms {d a : BitVec 5} {g : Gov} {p : Instr × Fmt × Nat} (hp : p ∈ narrowingForms d a g) (s : State) :
    exec p.1 s = vnarrow p.2.1 p.2.2 none 4 d a g s := by
  simp only [narrowingForms, List.mem_cons, List.not_mem_nil, or_false] at hp
  rcases hp with rfl | rfl | rfl | rfl <;> rfl

/-! ### The obligation -/

/-- Settles O24: the conversions that do not read D, then the narrowing ones. -/
theorem vectorConversions : Obligations.VectorConversions := by
  unfold Obligations.VectorConversions
  refine ⟨?_, ?_⟩
  · intro s t d a k g h
    obtain ⟨x, s1, hx, hread⟩ := h.reading.getV
    refine ⟨x, s1, hx, fun p hp hk => ?_⟩
    obtain ⟨f, hexec, hf⟩ := exec_wideningForms hp hk
    simp only [hf]
    exact vconv_writesLanesF h (hexec s) hx hread
  · intro s t d a g h
    obtain ⟨x, s1, hx, hread⟩ := h.reading.getV
    obtain ⟨c, s2, hc, hread⟩ := hread.getV
    exact ⟨x, s1, c, s2, hx, hc, fun p hp => vnarrow_writesLanesF h (exec_narrowingForms hp s) hx hc hread⟩

end Sys2Proof.Machine
end

section
/-! PROOFS. The reductions (R98, R154). -/

namespace Sys2Proof.Machine

/-! ### Merging no flags -/

/-- Storing what a map already holds leaves it as it is. -/
theorem alSet_of_alGet {α : Type} {l : AList α} {k : Nat} {x : α} (h : alGet l k = some x) : alSet l k x = l := by
  induction l with
  | nil => cases h
  | cons p l ih =>
    obtain ⟨j, y⟩ := p
    simp only [alGet] at h
    simp only [alSet]
    by_cases hj : k = j
    · rw [if_pos hj] at h
      have hlt : ¬k < j := by omega
      rw [if_neg hlt, if_pos hj, hj, Option.some.inj h]
    · rw [if_neg hj] at h
      by_cases hlt : k < j
      · rw [if_pos hlt] at h
        cases h
      · rw [if_neg hlt] at h
        rw [if_neg hlt, if_neg hj, ih h]

theorem State.updThread_of_fixed {s : State} {k : Nat} {t : Thread} {f : Thread → Thread} (h : s.thread? k = some t)
    (hf : f t = t) : s.updThread k f = s := by
  have hset : alSet s.threads k t = s.threads := alSet_of_alGet h
  simp only [State.updThread, h, hf, State.setThread, hset]

/-- An operation that raises no flag leaves `%fstat` as it is. -/
theorem mergeFlags_none {s : State} {t : Thread} (h : s.thread? s.cur.tid = some t) : mergeFlags FF.none s = .ok ((), s) := by
  have hbits (b : BitVec 10) : b ||| FF.none.bits = b := BitVec.or_zero
  have hfix : t.updCtx s.cur.acc (fun c => { c with fstat := c.fstat ||| FF.none.bits }) = t := by
    simp only [hbits]
    cases s.cur.acc <;> rfl
  exact congrArg (fun u => Except.ok ((), u)) (State.updThread_of_fixed h hfix)

/-! ### The tree of R98 -/

/-- Only the leaves that the tree covers matter. -/
theorem redTree_congr {f : W32 → W32 → W32 × FF} {leaf leaf' : Nat → Option W32} {n k : Nat}
    (h : ∀ j, k ≤ j → j < k + 2 ^ n → leaf j = leaf' j) : redTree f leaf n k = redTree f leaf' n k := by
  induction n generalizing k with
  | zero => rw [redTree, redTree, h k (Nat.le_refl k) (by omega)]
  | succ n ih =>
    have hpow : 2 ^ (n + 1) = 2 ^ n + 2 ^ n := by omega
    rw [redTree, redTree, ih fun j hl hr => h j hl (by omega), ih fun j hl hr => h j (by omega) (by omega)]

/-- An operation that raises no flag raises none at a node. -/
theorem redNode_flags (op : W32 → W32 → W32) (x y : Option W32) : (redNode (fun a b => (op a b, FF.none)) x y).2 = FF.none := by
  cases x <;> cases y <;> rfl

/-- A tree whose operation raises no flag raises none. -/
theorem redTree_flags (op : W32 → W32 → W32) (leaf : Nat → Option W32) (n k : Nat) :
    (redTree (fun x y => (op x y, FF.none)) leaf n k).2 = FF.none := by
  induction n generalizing k with
  | zero => rfl
  | succ n ih =>
    simp only [redTree, ih, redNode_flags]
    rfl

section
variable {op : W32 → W32 → W32} {e : W32} [Std.LawfulIdentity op e]

/-- With the identity for an absent child, a node is the operation. -/
theorem redNode_getD (x y : Option W32) :
    (redNode (fun a b => (op a b, FF.none)) x y).1.getD e = op (x.getD e) (y.getD e) := by
  have hleft := Std.LawfulLeftIdentity.left_id (op := op) (o := e)
  have hright := Std.LawfulRightIdentity.right_id (op := op) (o := e)
  cases x <;> cases y <;> simp [redNode, hleft, hright]

theorem foldl_append_identity [Std.Associative op] (l l' : List W32) : (l ++ l').foldl op e = op (l.foldl op e) (l'.foldl op e) := by
  rw [List.foldl_append, ← List.foldl_assoc (op := op), Std.LawfulRightIdentity.right_id (op := op) (o := e)]

/-- With an associative operation the tree combines its present leaves from left to right. -/
theorem redTree_getD [Std.Associative op] (leaf : Nat → Option W32) (n k : Nat) :
    (redTree (fun x y => (op x y, FF.none)) leaf n k).1.getD e = ((List.range' k (2 ^ n)).filterMap leaf).foldl op e := by
  induction n generalizing k with
  | zero =>
    have hleft := Std.LawfulLeftIdentity.left_id (op := op) (o := e)
    cases hl : leaf k <;> simp [redTree, hl, hleft]
  | succ n ih =>
    have hpow : 2 ^ (n + 1) = 2 ^ n + 2 ^ n := by omega
    rw [redTree, redNode_getD, ih, ih, ← foldl_append_identity (op := op), ← List.filterMap_append, List.range'_append_1, hpow]

end

/-- The present leaves are the active lanes. -/
theorem filterMap_active (on : Nat → Bool) (f : Nat → W32) (l : List Nat) :
    l.filterMap (fun k => if on k then some (f k) else none) = (l.filter on).map f := by
  rw [← List.filterMap_eq_map, List.filterMap_filter]
  rfl

/-! ### One reduction -/

/-- The flags of a tree and the word of its root, or of the identity when no lane is active. -/
def rootFlagged (e : W32) (sx : Bool) (r : Option W32 × FF) : FF × Word :=
  (r.2, if sx then (r.1.getD e).signExtend 64 else (r.1.getD e).setWidth 64)

section
variable {s s1 : State} {t : Thread} {d a : BitVec 5} {g : Gov} {i : Instr} {x : VWord} {e : W32} {sx : Bool}

/-- A reduction merges the flags of its tree and writes the root, or the identity when no lane is active. -/
theorem vreduce_retires {f : RM → W32 → W32 → W32 × FF} (h : CanIssue (vecNeed g.legal [.vR a, .sW d] 4) s t)
    (hi : exec i s = vreduce f e sx d a g s) (hx : getV a s = .ok (x, s1)) (hread : Reading [.sW d] s s1 t) :
    let r := redTree (f (rmOf (t.ctx s.cur.acc).fstat)) (fun k => if laneOn t s.cur.acc g k then some (lane x k) else none) 6 0
    ∃ v u, mergeFlags r.2 s1 = .ok ((), v) ∧
      setS d (if sx then (r.1.getD e).signExtend 64 else (r.1.getD e).setWidth 64) v = .ok ((), u) ∧ Retires i 4 s u := by
  obtain ⟨on, hon, hlanes⟩ := activeLanes_run g h.self
  have htree : redTree (f (rmOf (t.ctx s.cur.acc).fstat)) (fun k => if on.getLsbD k then some (lane x k) else none) 6 0 =
      redTree (f (rmOf (t.ctx s.cur.acc).fstat)) (fun k => if laneOn t s.cur.acc g k then some (lane x k) else none) 6 0 :=
    redTree_congr fun k _ hk => by rw [hlanes k (by omega)]
  rw [← htree]
  exact retires_putFlagged
    (fun rm => rootFlagged e sx (redTree (f rm) (fun k => if on.getLsbD k then some (lane x k) else none) 6 0))
    (h.withLanes g rfl) rfl hread hi ((bindRun_ok hon).trans (bindRun_ok hx))

/-- A reduction by an associative operation without flags folds the active lanes from its identity. -/
theorem vreduce_writes {op : W32 → W32 → W32} [Std.Associative op] [Std.LawfulIdentity op e]
    (h : CanIssue (vecNeed g.legal [.vR a, .sW d] 4) s t)
    (hi : exec i s = vreduce (fun _ x y => (op x y, FF.none)) e sx d a g s) (hx : getV a s = .ok (x, s1))
    (hread : Reading [.sW d] s s1 t) :
    let w := (((List.range 64).filter (laneOn t s.cur.acc g)).map (lane x)).foldl op e
    Writes i 4 d (if sx then w.signExtend 64 else w.setWidth 64) s s1 := by
  obtain ⟨v, u, hv, hu, hret⟩ := vreduce_retires h hi hx hread
  obtain ⟨q, hq⟩ := hread.self
  rw [redTree_flags, mergeFlags_none (hread.cur ▸ hq)] at hv
  cases hv
  refine ⟨u, ?_, hret⟩
  rw [← filterMap_active, List.range_eq_range']
  rwa [redTree_getD] at hu

end

/-! ### The signed extremes -/

/-- The signed larger of two lanes. -/
def laneMax (x y : W32) : W32 := if x.sle y then y else x

/-- The signed smaller of two lanes. -/
def laneMin (x y : W32) : W32 := if x.sle y then x else y

@[simp] theorem toInt_laneMax (x y : W32) : (laneMax x y).toInt = max x.toInt y.toInt := by
  simp only [laneMax, BitVec.sle_iff_toInt_le, max_def]
  split <;> rfl

@[simp] theorem toInt_laneMin (x y : W32) : (laneMin x y).toInt = min x.toInt y.toInt := by
  simp only [laneMin, BitVec.sle_iff_toInt_le, min_def]
  split <;> rfl

theorem laneMax_associative : Std.Associative laneMax where
  assoc x y z := BitVec.eq_of_toInt_eq (by simp only [toInt_laneMax, max_assoc])

theorem laneMin_associative : Std.Associative laneMin where
  assoc x y z := BitVec.eq_of_toInt_eq (by simp only [toInt_laneMin, min_assoc])

theorem toInt_least : (0x80000000 : W32).toInt = -2 ^ 31 := by decide

theorem toInt_greatest : (0x7FFFFFFF : W32).toInt = 2 ^ 31 - 1 := by decide

theorem laneMax_identity : Std.LawfulIdentity laneMax 0x80000000 where
  left_id x := BitVec.eq_of_toInt_eq (by rw [toInt_laneMax, toInt_least, max_eq_right (BitVec.le_toInt x)])
  right_id x := BitVec.eq_of_toInt_eq (by rw [toInt_laneMax, toInt_least, max_eq_left (BitVec.le_toInt x)])

theorem toInt_le_greatest (x : W32) : x.toInt ≤ 2 ^ 31 - 1 := by
  have := BitVec.toInt_lt (x := x)
  omega

theorem laneMin_identity : Std.LawfulIdentity laneMin 0x7FFFFFFF where
  left_id x := BitVec.eq_of_toInt_eq (by rw [toInt_laneMin, toInt_greatest, min_eq_right (toInt_le_greatest x)])
  right_id x := BitVec.eq_of_toInt_eq (by rw [toInt_laneMin, toInt_greatest, min_eq_left (toInt_le_greatest x)])

/-- Folding lanes folds their values. -/
theorem foldl_toInt {op : W32 → W32 → W32} {f : Int → Int → Int} (h : ∀ x y, (op x y).toInt = f x.toInt y.toInt) (e : W32)
    (l : List W32) : (l.map BitVec.toInt).foldl f e.toInt = (l.foldl op e).toInt := by
  rw [List.foldl_map]
  exact List.foldl_hom BitVec.toInt fun x y => (h x y).symm

/-! ### Which reduction each instruction is -/

/-- R154: the FP32 reductions by their operation and identity. -/
theorem exec_fpReductions {d a : BitVec 5} {g : Gov} {p : Instr × FOp × W32} (hp : p ∈ fpReductions d a g) (s : State) :
    exec p.1 s = vreduce (fun rm x y => fop p.2.1 none rm x y 0) p.2.2 false d a g s := by
  simp only [fpReductions, List.mem_cons, List.not_mem_nil, or_false] at hp
  rcases hp with rfl | rfl | rfl <;> rfl

/-- R154: the integer reductions fold the active lanes. -/
theorem integerReductions_writes {s s1 : State} {t : Thread} {d a : BitVec 5} {g : Gov} {x : VWord} {p : Instr × Word}
    (h : CanIssue (vecNeed g.legal [.vR a, .sW d] 4) s t) (hx : getV a s = .ok (x, s1)) (hread : Reading [.sW d] s s1 t)
    (hp : p ∈ integerReductions d a g (((List.range 64).filter (laneOn t s.cur.acc g)).map (lane x))) :
    Writes p.1 4 d p.2 s s1 := by
  simp only [integerReductions, List.mem_cons, List.not_mem_nil, or_false] at hp
  rcases hp with rfl | rfl | rfl | rfl | rfl
  · exact vreduce_writes (op := (· + ·)) (sx := true) h rfl hx hread
  · have := laneMax_associative
    have := laneMax_identity
    rw [← toInt_least, foldl_toInt toInt_laneMax]
    exact vreduce_writes (op := laneMax) (sx := true) h rfl hx hread
  · have := laneMin_associative
    have := laneMin_identity
    rw [← toInt_greatest, foldl_toInt toInt_laneMin]
    exact vreduce_writes (op := laneMin) (sx := true) h rfl hx hread
  · exact vreduce_writes (op := (· &&& ·)) (sx := false) h rfl hx hread
  · exact vreduce_writes (op := (· ||| ·)) (sx := false) h rfl hx hread

/-! ### The obligation -/

/-- Settles O26: the integer reductions, then the FP32 ones by the fixed tree. -/
theorem vectorReductions : Obligations.VectorReductions := by
  unfold Obligations.VectorReductions
  intro s t d a g h
  obtain ⟨x, s1, hx, hread⟩ := h.reading.getV
  refine ⟨x, s1, hx, fun p hp => integerReductions_writes h hx hread hp, fun p hp => ?_⟩
  obtain ⟨v, u, hv, hu, hret⟩ := vreduce_retires h (exec_fpReductions hp s) hx hread
  exact ⟨v, u, hv, hu, hret⟩

end Sys2Proof.Machine
end

section
/-! PROOFS. The integer register and immediate instructions (R101 to R109, Tables 4.2 and 4.3). -/

namespace Sys2Proof.Machine

/-! ### Each operation of the model as the spec's arithmetic -/

theorem sh_eq_mod (y : Word) : sh y = y.toNat % 64 := by
  simp [sh, field]

theorem shl_eq_ofNat (x : Word) (k : Nat) : x <<< k = BitVec.ofNat 64 (x.toNat * 2 ^ k) := by
  refine BitVec.eq_of_toNat_eq ?_
  rw [BitVec.toNat_shiftLeft, Nat.shiftLeft_eq, BitVec.toNat_ofNat]

theorem shr_eq_ofNat (x : Word) (k : Nat) : x >>> k = BitVec.ofNat 64 (x.toNat / 2 ^ k) := by
  rw [← Nat.shiftRight_eq_div_pow, ← BitVec.toNat_ushiftRight, BitVec.ofNat_toNat, BitVec.setWidth_eq]

theorem sar_eq_ofInt (x : Word) (k : Nat) : x.sshiftRight k = BitVec.ofInt 64 (x.toInt / 2 ^ k) := by
  rw [← BitVec.ofInt_toInt (x := x.sshiftRight k), BitVec.toInt_sshiftRight, Int.shiftRight_eq_div_pow]
  norm_cast

theorem add_eq_ofNat (x y : Word) : x + y = BitVec.ofNat 64 (x.toNat + y.toNat) := by
  rw [BitVec.ofNat_add, BitVec.ofNat_toNat, BitVec.ofNat_toNat, BitVec.setWidth_eq, BitVec.setWidth_eq]

theorem sub_eq_ofInt (x y : Word) : x - y = BitVec.ofInt 64 (x.toInt - y.toInt) := by
  exact BitVec.eq_of_toInt_eq (by rw [BitVec.toInt_sub, BitVec.toInt_ofInt])

theorem mul_eq_ofNat (x y : Word) : x * y = BitVec.ofNat 64 (x.toNat * y.toNat) := by
  rw [BitVec.ofNat_mul, BitVec.ofNat_toNat, BitVec.ofNat_toNat, BitVec.setWidth_eq, BitVec.setWidth_eq]

/-- The upper half of the signed product. -/
theorem mulhS_eq_ofInt (x y : Word) :
    (x.signExtend 128 * y.signExtend 128).extractLsb' 64 64 = BitVec.ofInt 64 (x.toInt * y.toInt / 2 ^ 64) := by
  have hprod : x.signExtend 128 * y.signExtend 128 = BitVec.ofInt 128 (x.toInt * y.toInt) := by
    rw [BitVec.ofInt_mul]
    rfl
  rw [hprod]
  refine BitVec.eq_of_toNat_eq ?_
  simp only [BitVec.extractLsb'_toNat, BitVec.toNat_ofInt, Nat.shiftRight_eq_div_pow]
  generalize x.toInt * y.toInt = z
  omega

/-- The upper half of the unsigned product. -/
theorem mulhN_eq_ofNat (x y : Word) :
    (x.setWidth 128 * y.setWidth 128).extractLsb' 64 64 = BitVec.ofNat 64 (x.toNat * y.toNat / 2 ^ 64) := by
  have hx : x.toNat < 2 ^ 64 := x.isLt
  have hy : y.toNat < 2 ^ 64 := y.isLt
  have hlt : x.toNat * y.toNat < 2 ^ 128 := by
    calc x.toNat * y.toNat < 2 ^ 64 * 2 ^ 64 := Nat.mul_lt_mul'' hx hy
      _ = 2 ^ 128 := by norm_num
  refine BitVec.eq_of_toNat_eq ?_
  simp only [BitVec.extractLsb'_toNat, BitVec.toNat_mul, BitVec.toNat_setWidth, BitVec.toNat_ofNat, Nat.shiftRight_eq_div_pow]
  rw [Nat.mod_eq_of_lt (a := x.toNat) (by omega), Nat.mod_eq_of_lt (a := y.toNat) (by omega), Nat.mod_eq_of_lt hlt]

theorem divS_eq_ofInt (x y : Word) : divS x y = if y = 0 then BitVec.allOnes 64 else BitVec.ofInt 64 (x.toInt.tdiv y.toInt) := by
  have : x.sdiv y = BitVec.ofInt 64 (x.toInt.tdiv y.toInt) :=
    BitVec.eq_of_toInt_eq (by rw [BitVec.toInt_sdiv, BitVec.toInt_ofInt])
  rw [divS, this]

theorem remS_eq_ofInt (x y : Word) : remS x y = if y = 0 then x else BitVec.ofInt 64 (x.toInt.tmod y.toInt) := by
  rw [remS, ← BitVec.toInt_srem, BitVec.ofInt_toInt]

theorem divN_eq_ofNat (x y : Word) : divN x y = if y = 0 then BitVec.allOnes 64 else BitVec.ofNat 64 (x.toNat / y.toNat) := by
  have : x.udiv y = BitVec.ofNat 64 (x.toNat / y.toNat) := by
    rw [← BitVec.toNat_udiv, BitVec.ofNat_toNat, BitVec.setWidth_eq]
    rfl
  rw [divN, this]

theorem remN_eq_ofNat (x y : Word) : remN x y = if y = 0 then x else BitVec.ofNat 64 (x.toNat % y.toNat) := by
  have : x.umod y = BitVec.ofNat 64 (x.toNat % y.toNat) := by
    rw [← BitVec.toNat_umod, BitVec.ofNat_toNat, BitVec.setWidth_eq]
    rfl
  rw [remN, this]

theorem boolWord_decide (p : Prop) [Decidable p] : boolWord (decide p) = if p then 1 else 0 := by
  simp [boolWord]

/-! ### Which function each two-source instruction computes (Table 4.2) -/

/-- Each row of Table 4.2 with two sources is one function of A and B. -/
theorem integerResults_operation {d a b : BitVec 5} {g : Gov} {x y : Word} {p : Instr × Word}
    (hp : p ∈ integerResults d a b g x y) :
    ∃ f : Word → Word → Word, (∀ s, exec p.1 s = aluRR f d a b g s) ∧ f x y = p.2 := by
  simp only [integerResults, List.mem_cons, List.not_mem_nil, or_false] at hp
  rcases hp with rfl | rfl | rfl | rfl | rfl | rfl | rfl | rfl | rfl | rfl | rfl | rfl | rfl | rfl | rfl | rfl | rfl | rfl |
    rfl | rfl | rfl | rfl | rfl | rfl | rfl | rfl | rfl | rfl
  · exact ⟨_, fun _ => rfl, add_eq_ofNat x y⟩
  · exact ⟨_, fun _ => rfl, sub_eq_ofInt x y⟩
  · exact ⟨_, fun _ => rfl, rfl⟩
  · exact ⟨_, fun _ => rfl, rfl⟩
  · exact ⟨_, fun _ => rfl, rfl⟩
  · exact ⟨_, fun _ => rfl, rfl⟩
  · exact ⟨_, fun _ => rfl, rfl⟩
  · exact ⟨_, fun _ => rfl, rfl⟩
  · exact ⟨_, fun _ => rfl, by rw [sh_eq_mod, shl_eq_ofNat]⟩
  · exact ⟨_, fun _ => rfl, by rw [sh_eq_mod, shr_eq_ofNat]⟩
  · exact ⟨_, fun _ => rfl, by rw [sh_eq_mod, sar_eq_ofInt]⟩
  · exact ⟨_, fun _ => rfl, by rw [sh_eq_mod]⟩
  · exact ⟨_, fun _ => rfl, by rw [sh_eq_mod]⟩
  · exact ⟨_, fun _ => rfl, by simp only [BitVec.sle_iff_toInt_le]⟩
  · exact ⟨_, fun _ => rfl, by simp only [BitVec.sle_iff_toInt_le]⟩
  · exact ⟨_, fun _ => rfl, by simp only [BitVec.ule_iff_toNat_le]⟩
  · exact ⟨_, fun _ => rfl, by simp only [BitVec.ule_iff_toNat_le]⟩
  · exact ⟨_, fun _ => rfl, boolWord_decide _⟩
  · exact ⟨_, fun _ => rfl, boolWord_decide _⟩
  · exact ⟨_, fun _ => rfl, by simp [boolWord]⟩
  · exact ⟨_, fun _ => rfl, by simp [boolWord]⟩
  · exact ⟨_, fun _ => rfl, mul_eq_ofNat x y⟩
  · exact ⟨_, fun _ => rfl, mulhS_eq_ofInt x y⟩
  · exact ⟨_, fun _ => rfl, mulhN_eq_ofNat x y⟩
  · exact ⟨_, fun _ => rfl, divS_eq_ofInt x y⟩
  · exact ⟨_, fun _ => rfl, divN_eq_ofNat x y⟩
  · exact ⟨_, fun _ => rfl, remS_eq_ofInt x y⟩
  · exact ⟨_, fun _ => rfl, remN_eq_ofNat x y⟩

/-! ### Writing a result -/

/-- An instruction that any thread may issue, whose sources have been read up to u, and that then writes scalar D, completes. -/
theorem writes_of_body {n : Need} {i : Instr} {body : Exec Next} {d : BitVec 5} {w : Word} {s u : State} {t : Thread}
    (h : CanIssue n s t) (hsys : n.sysRel = false) (hread : Reading [.sW d] s u t) (hi : exec i s = issue n body s)
    (hbody : body s = (do setS d w; pure Next.seq) u) : Writes i n.len d w s u := by
  obtain ⟨v, hv, -⟩ := hread.room.setS w
  refine ⟨v, hv, ?_⟩
  rw [Retires, hi]
  exact issue_completes h hsys (hbody.trans (bindRun_ok hv))

/-- An instruction that reads A, then B, and writes a function of them to D completes with it. -/
theorem writes_of_two_sources {n : Need} {i : Instr} {d a b : BitVec 5} {x y : Word} {s s1 s2 : State} {t : Thread}
    {f : Word → Word → Word} (h : CanIssue n s t) (hsys : n.sysRel = false) (hread : Reading [.sW d] s s2 t)
    (hi : exec i s = issue n (do
      let x ← getS a
      let y ← getS b
      setS d (f x y)
      pure .seq) s) (hx : getS a s = .ok (x, s1)) (hy : getS b s1 = .ok (y, s2)) : Writes i n.len d (f x y) s s2 :=
  writes_of_body h hsys hread hi ((bindRun_ok hx).trans (bindRun_ok hy))

/-- Two scalar sources that are ready can be read, A before B. -/
theorem CanIssue.read_scalar_scalar {n : Need} {s : State} {t : Thread} {a b : BitVec 5} {us : List Use} (h : CanIssue n s t)
    (huses : n.uses = .sR a :: .sR b :: us) :
    ∃ x s1 y s2, getS a s = .ok (x, s1) ∧ getS b s1 = .ok (y, s2) ∧ Reading us s s2 t := by
  obtain ⟨x, s1, hx, hread⟩ := (huses ▸ h.reading).getS
  obtain ⟨y, s2, hy, hread⟩ := hread.getS
  exact ⟨x, s1, y, s2, hx, hy, hread⟩

/-- Settles O1: A and B are read, then the instruction's function of them is written to D. -/
theorem integerRegisterResults : Obligations.IntegerRegisterResults := by
  unfold Obligations.IntegerRegisterResults
  intro s t d a b g h
  obtain ⟨x, s1, y, s2, hx, hy, hread⟩ := h.read_scalar_scalar rfl
  refine ⟨x, s1, y, s2, hx, hy, fun p hp => ?_⟩
  obtain ⟨f, hexec, hf⟩ := integerResults_operation hp
  rw [← hf]
  exact writes_of_two_sources h rfl hread (hexec s) hx hy

/-! ### Counting bits (R104) -/

theorem leadingZeros_eq_firstSet (y : Word) (n : Nat) :
    leadingZeros y n = firstSet ((List.range n).map (fun i => y.getLsbD i)).reverse := by
  induction n with
  | zero => rfl
  | succ n ih =>
    rw [leadingZeros, List.range_succ, List.map_append, List.reverse_append]
    cases hy : y.getLsbD n <;> simp [firstSet, hy, ih, Nat.add_comm]

theorem trailingZeros_eq_firstSet (y : Word) (k n : Nat) :
    trailingZeros y k n = firstSet ((List.range' k n).map (fun i => y.getLsbD i)) := by
  induction n generalizing k with
  | zero => rfl
  | succ n ih =>
    rw [trailingZeros, List.range'_succ, List.map_cons]
    cases hy : y.getLsbD k <;> simp [firstSet, ih, Nat.add_comm]

theorem popcount_eq_count (y : Word) (n : Nat) : popcount y n = ((List.range n).map (fun i => y.getLsbD i)).count true := by
  induction n with
  | zero => rfl
  | succ n ih =>
    rw [popcount, List.range_succ, List.map_append, List.count_append, ih]
    cases hy : y.getLsbD n <;> simp [hy]

/-! ### Which function each one-source instruction computes (Tables 4.2 and 4.3) -/

/-- Each row of Table 4.2 with one source is one function of B. -/
theorem unaryResults_operation {d b : BitVec 5} {g : Gov} {y : Word} {p : Instr × Word} (hp : p ∈ unaryResults d b g y) :
    ∃ f : Word → Word, (∀ s, exec p.1 s = aluR f d b g s) ∧ f y = p.2 := by
  simp only [unaryResults, List.mem_cons, List.not_mem_nil, or_false] at hp
  rcases hp with rfl | rfl | rfl | rfl | rfl | rfl | rfl
  · exact ⟨_, fun _ => rfl, congrArg _ (leadingZeros_eq_firstSet y 64)⟩
  · exact ⟨_, fun _ => rfl, by rw [trailingZeros_eq_firstSet, List.range_eq_range']⟩
  · exact ⟨_, fun _ => rfl, congrArg _ (popcount_eq_count y 64)⟩
  · exact ⟨_, fun _ => rfl, by rw [← BitVec.setWidth_eq_extractLsb' (by decide)]⟩
  · exact ⟨_, fun _ => rfl, by rw [← BitVec.setWidth_eq_extractLsb' (by decide)]⟩
  · exact ⟨_, fun _ => rfl, by rw [← BitVec.setWidth_eq_extractLsb' (by decide)]⟩
  · exact ⟨_, fun _ => rfl, by rw [← BitVec.setWidth_eq_extractLsb' (by decide)]⟩

/-- Each row of Table 4.3 is one function of A. -/
theorem immediateResults_operation {d a : BitVec 5} {imm : BitVec 12} {k : BitVec 6} {x : Word} {p : Instr × Word}
    (hp : p ∈ immediateResults d a imm k x) : ∃ f : Word → Word, (∀ s, exec p.1 s = aluI f d a s) ∧ f x = p.2 := by
  simp only [immediateResults, List.mem_cons, List.not_mem_nil, or_false] at hp
  rcases hp with rfl | rfl | rfl | rfl | rfl | rfl | rfl | rfl
  · exact ⟨_, fun _ => rfl, rfl⟩
  · exact ⟨_, fun _ => rfl, rfl⟩
  · exact ⟨_, fun _ => rfl, rfl⟩
  · exact ⟨_, fun _ => rfl, rfl⟩
  · refine ⟨_, fun _ => rfl, (boolWord_decide _).trans ?_⟩
    rw [imm12, BitVec.toInt_signExtend_of_le (by decide)]
  · exact ⟨_, fun _ => rfl, shl_eq_ofNat x k.toNat⟩
  · exact ⟨_, fun _ => rfl, shr_eq_ofNat x k.toNat⟩
  · exact ⟨_, fun _ => rfl, sar_eq_ofInt x k.toNat⟩

theorem lih_value (imm : BitVec 20) : (imm.signExtend 64) <<< 12 = BitVec.ofInt 64 (4096 * imm.toInt) := by
  rw [BitVec.shiftLeft_eq_mul_twoPow, BitVec.ofInt_mul, BitVec.mul_comm]
  rfl

/-- Settles O2: the one-source instructions, the immediate ones, then `lih`. -/
theorem unaryAndImmediateResults : Obligations.UnaryAndImmediateResults := by
  unfold Obligations.UnaryAndImmediateResults
  refine ⟨?_, ?_, ?_⟩
  · intro s t d b g h
    obtain ⟨y, s1, hy, hread⟩ := h.reading.getS
    refine ⟨y, s1, hy, fun p hp => ?_⟩
    obtain ⟨f, hexec, hf⟩ := unaryResults_operation hp
    rw [← hf]
    exact writes_of_body h rfl hread (hexec s) (bindRun_ok hy)
  · intro s t d a imm k h
    obtain ⟨x, s1, hx, hread⟩ := h.reading.getS
    refine ⟨x, s1, hx, fun p hp => ?_⟩
    obtain ⟨f, hexec, hf⟩ := immediateResults_operation hp
    rw [← hf]
    exact writes_of_body h rfl hread (hexec s) (bindRun_ok hx)
  · intro s t d imm h
    rw [← lih_value]
    exact writes_of_body h rfl h.reading rfl rfl

end Sys2Proof.Machine
end

section
/-! PROOFS. Compares, `sel`, pointers and descriptors (R102, R105, R111 to R115). -/

namespace Sys2Proof.Machine

/-! ### The issuing thread after its operands have been read -/

section
variable {us : List Use} {s u : State} {t : Thread}

/-- Reading sources leaves of the issuing thread all but its queues. -/
theorem Reading.thread (h : Reading us s u t) : ∃ q, u.thread? u.cur.tid = some { t with q := q } := by
  obtain ⟨q, hq⟩ := h.self
  exact ⟨q, by rwa [h.cur]⟩

/-- Reading sources leaves the issuing stream's registers. -/
theorem Reading.ctx (h : Reading us s u t) : Machine.ctx u = .ok (t.ctx s.cur.acc, u) := by
  obtain ⟨q, hq⟩ := h.thread
  simp only [Machine.ctx, bindRun, selfRun hq, meRun, pureRun, h.cur]
  rfl

end

/-! ### Compares and `sel` -/

/-- Each integer compare of Table 4.2 is one condition on A and B. -/
theorem compareConditions_operation {d a b : BitVec 5} {g : Gov} {x y : Word} {p : Instr × Bool}
    (hp : p ∈ compareConditions d a b g x y) :
    ∃ f : Word → Word → Bool, (∀ s, exec p.1 s = cmpRR f d a b g s) ∧ f x y = p.2 := by
  simp only [compareConditions, List.mem_cons, List.not_mem_nil, or_false] at hp
  rcases hp with rfl | rfl | rfl | rfl | rfl | rfl
  · exact ⟨_, fun _ => rfl, rfl⟩
  · exact ⟨_, fun _ => rfl, rfl⟩
  · exact ⟨_, fun _ => rfl, rfl⟩
  · exact ⟨_, fun _ => rfl, BitVec.sle_eq_not_slt.symm⟩
  · exact ⟨_, fun _ => rfl, rfl⟩
  · exact ⟨_, fun _ => rfl, (BitVec.ule_eq_not_ult y x).symm⟩

/-- R102, R105: a compare whose sources have been read writes its condition to predicate D. -/
theorem cmpRR_writesPred {s s1 s2 : State} {t : Thread} {d a b : BitVec 5} {g : Gov} {i : Instr} {x y : Word}
    {f : Word → Word → Bool} (h : CanIssue (governed (predField d) g [.sR a, .sR b]) s t)
    (hi : exec i s = cmpRR f d a b g s) (hx : getS a s = .ok (x, s1)) (hy : getS b s1 = .ok (y, s2)) :
    WritesPred i 4 d (f x y) s s2 := by
  obtain ⟨u, hu⟩ := setP_run d.toNat (allLanes (f x y)) s2
  refine ⟨u, hu, ?_⟩
  rw [Retires, hi]
  exact issue_completes h rfl ((bindRun_ok hx).trans ((bindRun_ok hy).trans (bindRun_ok hu)))

/-- R105: the P and PN fields of `sel` choose A exactly when a governing predicate of them would be on. -/
theorem govOn_some (c : Ctx) (g : Gov) : govOn c (some g) = true ↔ bit (c.pred g.p.toNat) 0 = !g.n := by
  rw [govOn, bne_iff_ne, Bool.eq_not]

/-- Settles O3: the compares, then `sel`. -/
theorem compareAndSelectResults : Obligations.CompareAndSelectResults := by
  unfold Obligations.CompareAndSelectResults
  refine ⟨?_, ?_⟩
  · intro s t d a b g h
    obtain ⟨x, s1, y, s2, hx, hy, -⟩ := h.read_scalar_scalar rfl
    refine ⟨x, s1, y, s2, hx, hy, fun p hp => ?_⟩
    obtain ⟨f, hexec, hf⟩ := compareConditions_operation hp
    rw [← hf]
    exact cmpRR_writesPred h (hexec s) hx hy
  · intro s t d a b g h
    obtain ⟨x, s1, y, s2, hx, hy, hread⟩ := h.read_scalar_scalar rfl
    refine ⟨x, s1, y, s2, hx, hy, ?_⟩
    simp only [← govOn_some]
    exact writes_of_body h rfl hread rfl ((bindRun_ok hx).trans ((bindRun_ok hy).trans (bindRun_ok hread.ctx)))

/-! ### Words built from fields -/

theorem toNat_append_eq_add {m n : Nat} (x : BitVec m) (y : BitVec n) : (x ++ y).toNat = x.toNat * 2 ^ n + y.toNat := by
  rw [BitVec.toNat_append, ← Nat.shiftLeft_add_eq_or_of_lt y.isLt, Nat.shiftLeft_eq]

theorem field_eq_mod {n : Nat} (w : BitVec n) (hi lo : Nat) : field w hi lo = w.toNat / 2 ^ lo % 2 ^ (hi + 1 - lo) := by
  rw [field, BitVec.extractLsb'_toNat, Nat.shiftRight_eq_div_pow]

theorem leaAdd_eq_ofNat (x y : Word) :
    leaAdd x y = BitVec.ofNat 64 (x.toNat / 2 ^ 56 * 2 ^ 56 + (x.toNat + y.toNat) % 2 ^ 56) := by
  refine BitVec.eq_of_toNat_eq ?_
  rw [leaAdd, toNat_append_eq_add]
  simp only [BitVec.extractLsb'_toNat, BitVec.toNat_add, BitVec.toNat_ofNat, Nat.shiftRight_eq_div_pow]
  omega

/-- R111: `lea` adds the shifted B within 56 bits. -/
theorem leaAdd_shifted (x y : Word) (k : Nat) :
    leaAdd x (y <<< k) = BitVec.ofNat 64 (x.toNat / 2 ^ 56 * 2 ^ 56 + (x.toNat + y.toNat * 2 ^ k) % 2 ^ 56) := by
  rw [leaAdd_eq_ofNat, BitVec.toNat_shiftLeft, Nat.shiftLeft_eq]
  congr 1
  omega

/-- R112: the pointer that `ptag` builds. -/
theorem ptag_value (x y : Word) :
    y.extractLsb' 0 4 ++ 0#4 ++ x.extractLsb' 0 56 = BitVec.ofNat 64 (y.toNat % 16 * 2 ^ 60 + x.toNat % 2 ^ 56) := by
  refine BitVec.eq_of_toNat_eq ?_
  rw [toNat_append_eq_add, toNat_append_eq_add]
  simp only [BitVec.extractLsb'_toNat, BitVec.toNat_ofNat, Nat.shiftRight_eq_div_pow]
  omega

/-- R115: the bound word that `bdesc` builds, 0 for a size that does not fit. -/
theorem bdesc_value (x y : Word) :
    (if field x 63 40 = 0 then y.extractLsb' 1 1 ++ y.extractLsb' 0 1 ++ 0#22 ++ x.extractLsb' 0 40 else 0) =
      if x.toNat < 2 ^ 40 then BitVec.ofNat 64 (y.toNat / 2 % 2 * 2 ^ 63 + y.toNat % 2 * 2 ^ 62 + x.toNat) else 0 := by
  have hfit : field x 63 40 = 0 ↔ x.toNat < 2 ^ 40 := by
    rw [field_eq_mod]
    omega
  simp only [hfit]
  split
  · refine BitVec.eq_of_toNat_eq ?_
    rw [toNat_append_eq_add, toNat_append_eq_add, toNat_append_eq_add]
    simp only [BitVec.extractLsb'_toNat, BitVec.toNat_ofNat, Nat.shiftRight_eq_div_pow]
    omega
  · rfl

/-! ### What a translation leaves unchanged -/

/-- A translation changes at most the translation caches of a core and of its die (R350). -/
theorem State.translate_cases (s : State) (core : Nat) (d : DomId) (instr : Bool) (va : VAddr) :
    (s.translate core d instr va).2 = s ∨
      ∃ die f k, (s.translate core d instr va).2 = (s.updDie die f).setCore core k ∧ k.ports = (s.core core).ports := by
  simp only [State.translate]
  split
  · exact .inl rfl
  · split
    · refine .inr ⟨_, _, _, rfl, ?_⟩
      split <;> rfl
    · exact .inl rfl

/-- Operands can be served in any state with the same threads and the same inbound ports. -/
theorem Room.of_same {us : List Use} {s u : State} (h : Room us s) (hcur : u.cur = s.cur) (hthreads : u.threads = s.threads)
    (hports : ∀ n, (u.core n).ports = (s.core n).ports) : Room us u := by
  obtain ⟨t, hself, hqueues, hin, hedge⟩ := h.self
  exact ⟨t, by simpa only [State.thread?, hcur, hthreads] using hself, hqueues, fun d => hports t.core ▸ hin d, hedge⟩

/-- After a translation the issuing thread and its operands are as before. -/
theorem Reading.lookup {us : List Use} {s u : State} {t : Thread} (h : Reading us s u t) (r : Thread) (va : VAddr) :
    Reading us s (u.lookup r va).2 t := by
  obtain ⟨q, hq⟩ := h.self
  have hsame (c : Nat) (d : DomId) (instr : Bool) : Reading us s (u.translate c d instr va).2 t := by
    rcases State.translate_cases u c d instr va with hu | ⟨die, f, k, hu, hk⟩
    · exact hu.symm ▸ h
    · rw [hu]
      refine ⟨h.room.of_same rfl rfl fun n => ?_, h.cur, q, hq⟩
      by_cases hn : n = c
      · rw [hn, State.core_setCore_same, hk]
      · exact congrArg Core.ports (State.core_setCore_other _ _ hn)
  unfold State.lookup
  split
  · exact h
  · exact hsame _ _ _

/-! ### `pchk` -/

section
variable {s s1 : State} {t : Thread} {d a : BitVec 5} {ea : Word}

/-- R113: `pchk` writes 0 for an address that is never translated. -/
theorem pchk_untranslated (h : CanIssue (plain true [.sR a, .sW d]) s t) (hx : getS a s = .ok (ea, s1))
    (hread : Reading [.sW d] s s1 t) (hbad : field ea 59 56 ≠ 0 ∨ field ea 55 32 = 0xFFFFFF) : Writes (.pchk d a) 4 d 0 s s1 := by
  obtain ⟨q, hq⟩ := hread.thread
  have hcond : (field ea 59 56 != 0 || inWindow ea) = true := by simpa [inWindow] using hbad
  refine writes_of_body h rfl hread rfl ((bindRun_ok hx).trans ((bindRun_ok (selfRun hq)).trans ?_))
  simp only [hcond, if_true]

/-- R113, Table 4.5: `pchk` describes the translation of a global address, 0 where there is none. -/
theorem pchk_translated (h : CanIssue (plain true [.sR a, .sW d]) s t) (hx : getS a s = .ok (ea, s1))
    (hread : Reading [.sW d] s s1 t) (hzero : field ea 59 56 = 0) (hglobal : field ea 55 32 ≠ 0xFFFFFF) :
    let l := s1.lookup t (ea.extractLsb' 0 56)
    Writes (.pchk d a) 4 d (match l.1 with
      | .error _ => 0
      | .ok e => l.2.pchkWord t.dom ea (e.leaf (ea.extractLsb' 0 56))) s l.2 := by
  intro l
  obtain ⟨q, hq⟩ := hread.thread
  have hcond : (field ea 59 56 != 0 || inWindow ea) = false := by simp [inWindow, hzero, hglobal]
  have hlook : s1.lookup { t with q := q } (ea.extractLsb' 0 56) = (l.1, l.2) := rfl
  refine writes_of_body h rfl (hread.lookup t _) rfl ((bindRun_ok hx).trans ((bindRun_ok (selfRun hq)).trans ?_))
  simp only [hcond, Bool.false_eq_true, if_false, bindRun, getRun, hlook]
  cases l.1 <;> simp only [bindRun, setRun]

end

/-- Settles O4: `lea`, `ptag` and `bdesc` by the words they build, then `pchk` by its cases. -/
theorem pointerResults : Obligations.PointerResults := by
  unfold Obligations.PointerResults
  refine ⟨?_, ?_⟩
  · intro s t d a b k h
    obtain ⟨x, s1, y, s2, hx, hy, hread⟩ := h.read_scalar_scalar rfl
    refine ⟨x, s1, y, s2, hx, hy, ?_, ?_, ?_⟩
    · rw [← leaAdd_shifted]
      exact writes_of_two_sources (f := fun x y => leaAdd x (y <<< k.toNat)) h rfl hread rfl hx hy
    · rw [← ptag_value]
      exact writes_of_two_sources (f := fun x y => y.extractLsb' 0 4 ++ 0#4 ++ x.extractLsb' 0 56) h rfl hread rfl hx hy
    · rw [← bdesc_value]
      exact writes_of_two_sources (f := fun x y =>
        if field x 63 40 = 0 then y.extractLsb' 1 1 ++ y.extractLsb' 0 1 ++ 0#22 ++ x.extractLsb' 0 40 else 0)
        h rfl hread rfl hx hy
  · intro s t d a h
    obtain ⟨x, s1, hx, hread⟩ := h.reading.getS
    exact ⟨x, s1, hx, pchk_untranslated h hx hread, fun hzero hglobal => ⟨_, _, rfl, pchk_translated h hx hread hzero hglobal⟩⟩

end Sys2Proof.Machine
end

section
/-! PROOFS. Branches, jumps and calls, and where transfers and privileged instructions trap (R116 to R121, R236). -/

namespace Sys2Proof.Machine

/-! ### Targets -/

/-- R50: the model's relative target lies the offset's halfwords from the instruction. -/
theorem relTarget_eq_halfwords {n : Nat} (pc : VAddr) (o : BitVec n) : relTarget pc o = halfwords pc o := by
  rw [relTarget, halfwords, BitVec.shiftLeft_eq_mul_twoPow, BitVec.ofInt_add, BitVec.ofInt_mul, BitVec.mul_comm]
  congr 1
  simp

theorem branchTo_run {n : Nat} {u : State} {c : Ctx} (taken : Bool) (o : BitVec n) (h : ctx u = .ok (c, u)) :
    branchTo taken o u = .ok (if taken then .jump (halfwords c.pc o) else .seq, u) := by
  rw [branchTo, bindRun_ok h, relTarget_eq_halfwords, pureRun]

theorem pcAfter_run {u : State} {c : Ctx} (h : ctx u = .ok (c, u)) : pcAfter u = .ok ((c.pc + 4).setWidth 64, u) :=
  bindRun_ok h

theorem checkTarget_good {x : Word} (h : GoodTarget x) (u : State) : checkTarget x u = .ok (x.extractLsb' 0 56, u) := by
  obtain ⟨hzero, heven⟩ := h
  simp [checkTarget, hzero, heven]

/-- R121: the trap of an address with nonzero bits 59 to 56. -/
theorem checkTarget_nonzero {x : Word} (h : field x 59 56 ≠ 0) (u : State) :
    checkTarget x u = .error (.trap { cause := 0x04, addr := x, extra := x, pc := none } id) := by
  simp [checkTarget, h]

/-- R121: the trap of an odd address. -/
theorem checkTarget_odd {x : Word} (hzero : field x 59 56 = 0) (h : bit x 0 = true) (u : State) :
    checkTarget x u = .error (.trap { cause := 0x03, addr := x, extra := 0, pc := none } id) := by
  simp [checkTarget, hzero, h]

/-- A step that stops ends what would follow it. -/
theorem bindRun_error {α β : Type} {m : Exec α} {f : α → Exec β} {s : State} {e : Stop} (h : m s = .error e) :
    (m >>= f) s = .error e := by
  rw [bindRun, h]

/-! ### Conditional branches -/

/-- Each compare-branch of Table 4.7 is one condition on A and B. -/
theorem branchConditions_operation {a b : BitVec 5} {o : BitVec 10} {hint : BitVec 2} {x y : Word} {p : Instr × Bool}
    (hp : p ∈ branchConditions a b o hint x y) :
    ∃ f : Word → Word → Bool, (∀ s, exec p.1 s = branchBC f a b o s) ∧ f x y = p.2 := by
  simp only [branchConditions, List.mem_cons, List.not_mem_nil, or_false] at hp
  rcases hp with rfl | rfl | rfl | rfl | rfl | rfl
  · exact ⟨_, fun _ => rfl, rfl⟩
  · exact ⟨_, fun _ => rfl, rfl⟩
  · exact ⟨_, fun _ => rfl, rfl⟩
  · exact ⟨_, fun _ => rfl, BitVec.sle_eq_not_slt.symm⟩
  · exact ⟨_, fun _ => rfl, rfl⟩
  · exact ⟨_, fun _ => rfl, (BitVec.ule_eq_not_ult y x).symm⟩

/-- Each zero-branch is one condition on A (R119). -/
theorem zeroConditions_operation {a : BitVec 5} {o : BitVec 15} {hint : BitVec 2} {x : Word} {p : Instr × Bool}
    (hp : p ∈ zeroConditions a o hint x) : ∃ f : Word → Bool, (∀ s, exec p.1 s = branchBZ f a o s) ∧ f x = p.2 := by
  simp only [zeroConditions, List.mem_cons, List.not_mem_nil, or_false] at hp
  rcases hp with rfl | rfl | rfl | rfl | rfl | rfl
  · exact ⟨_, fun _ => rfl, rfl⟩
  · exact ⟨_, fun _ => rfl, rfl⟩
  · exact ⟨_, fun _ => rfl, rfl⟩
  · exact ⟨_, fun _ => rfl, BitVec.sle_eq_not_slt.symm⟩
  · exact ⟨_, fun _ => rfl, rfl⟩
  · exact ⟨_, fun _ => rfl, BitVec.sle_eq_not_slt.symm⟩

/-- An instruction whose body leaves u and ends in a branch by the issuing stream's own program counter branches. -/
theorem branches_of_body {k : Nat} {n : Need} {i : Instr} {body : Exec Next} {taken : Bool} {o : BitVec k} {s u : State}
    {t : Thread} {c : Ctx} (h : CanIssue n s t) (hsys : n.sysRel = false) (hlen : n.len = 4) (hc : ctx u = .ok (c, u))
    (hi : exec i s = issue n body s) (hbody : body s = branchTo taken o u) : Branches i taken (halfwords c.pc o) s u := by
  rw [Branches, hi, ← hlen]
  exact issue_completes h hsys (hbody.trans (branchTo_run taken o hc))

/-- Settles O5: the compare-branches, then the zero-branches. -/
theorem conditionalBranches : Obligations.ConditionalBranches := by
  unfold Obligations.ConditionalBranches
  refine ⟨?_, ?_⟩
  · intro s t a b o hint h
    obtain ⟨x, s1, y, s2, hx, hy, hread⟩ := h.read_scalar_scalar rfl
    refine ⟨x, s1, y, s2, hx, hy, fun p hp => ?_⟩
    obtain ⟨f, hexec, hf⟩ := branchConditions_operation hp
    rw [← hf]
    exact branches_of_body h rfl rfl hread.ctx (hexec s) ((bindRun_ok hx).trans (bindRun_ok hy))
  · intro s t a o hint h
    obtain ⟨x, s1, hx, hread⟩ := h.reading.getS
    refine ⟨x, s1, hx, fun p hp => ?_⟩
    obtain ⟨f, hexec, hf⟩ := zeroConditions_operation hp
    rw [← hf]
    exact branches_of_body h rfl rfl hread.ctx (hexec s) (bindRun_ok hx)

/-! ### Jumps and calls -/

theorem Thread.putReg_pc (t : Thread) (acc : Bool) (r : Nat) (w : Word) : ((t.putReg acc r w).ctx acc).pc = (t.ctx acc).pc := by
  unfold Thread.putReg
  split
  · rfl
  · rw [Thread.ctx_updCtx]
    rfl

/-- Writing a scalar register leaves the program counter. -/
theorem ctx_putScalar {s : State} {t : Thread} (r : Nat) (w : Word) (h : s.thread? s.cur.tid = some t) :
    ∃ c, ctx (s.putScalar r w) = .ok (c, s.putScalar r w) ∧ c.pc = (t.ctx s.cur.acc).pc := by
  have hself : (s.putScalar r w).thread? (s.putScalar r w).cur.tid = some (t.putReg s.cur.acc r w) := by
    rw [State.putScalar, State.updThread_cur]
    exact State.thread?_updThread_same _ h
  refine ⟨(t.putReg s.cur.acc r w).ctx s.cur.acc, ?_, Thread.putReg_pc ..⟩
  simp only [ctx, bindRun, selfRun hself, meRun, pureRun]
  rw [State.putScalar, State.updThread_cur]

/-- R17: which register the link register is. -/
theorem Thread.lk_eq (t : Thread) : t.lk = if t.kind = .full then 23 else 15 := rfl

/-- Settles O7: `j`, `jal`, `jr`, `jalr` and `ret`. -/
theorem jumpsAndCalls : Obligations.JumpsAndCalls := by
  unfold Obligations.JumpsAndCalls
  refine ⟨?_, ?_, ?_, ?_, ?_⟩
  · intro s t o h
    exact branches_of_body (taken := true) h rfl rfl h.reading.ctx rfl rfl
  · intro s t o h pc
    obtain ⟨c, hc, hpc⟩ := ctx_putScalar (if t.kind = .full then 23 else 15) ((pc + 4).setWidth 64) h.self
    have hlink : setLink ((pc + 4).setWidth 64) s = .ok ((), s.putScalar (if t.kind = .full then 23 else 15)
        ((pc + 4).setWidth 64)) := by simp only [setLink, bindRun, selfRun h.self, modifyRun, Thread.lk_eq]
    have := branches_of_body (taken := true) (i := .jal o) h rfl rfl hc rfl
      ((bindRun_ok (pcAfter_run h.reading.ctx)).trans (bindRun_ok hlink))
    rwa [hpc] at this
  · intro s t a imm h
    obtain ⟨x, s1, hx, -⟩ := h.reading.getS
    exact ⟨x, s1, hx, fun hgood => issue_completes h rfl ((bindRun_ok hx).trans (bindRun_ok (checkTarget_good hgood s1)))⟩
  · intro s t d a imm h
    obtain ⟨x, s1, hx, hread⟩ := h.reading.getS
    obtain ⟨u, hu, -⟩ := hread.room.setS (((t.ctx s.cur.acc).pc + 4).setWidth 64)
    exact ⟨x, s1, u, hx, hu, fun hgood => issue_completes h rfl ((bindRun_ok hx).trans
      ((bindRun_ok (checkTarget_good hgood s1)).trans ((bindRun_ok (pcAfter_run hread.ctx)).trans (bindRun_ok hu))))⟩
  · intro s t imm h x hgood
    have hlink : getLink s = .ok (t.getReg s.cur.acc t.lk, s) := by simp only [getLink, bindRun, selfRun h.self, meRun, pureRun]
    exact issue_completes h rfl ((bindRun_ok hlink).trans (bindRun_ok (checkTarget_good hgood s)))

/-! ### Traps of transfers and of privileged instructions -/

/-- Table 2.8 rows 3 to 5: an instruction that is illegal, or whose class the thread may not issue, traps with that cause. -/
theorem issue_refused {n : Need} {s : State} {t : Thread} {c : Cause} (body : Exec Next) (ht : s.thread? s.cur.tid = some t)
    (hm : (t.ctx s.cur.acc).midway = false) (hc : (if n.legal then n.cls.bad t s.cur.acc else some 0x01) = some c) :
    issue n body s = .next (if s.trapWaits s.cur then s
      else s.takeTrap s.cur { cause := c, addr := 0, extra := 0, pc := none }) := by
  refine finish_trap (keep := id) ?_
  simp only [issueBody, bindRun, meRun, selfRun ht, getRun, hm, Bool.false_eq_true, if_false]
  cases hl : n.legal with
  | false =>
    rw [hl] at hc
    cases hc
    rfl
  | true =>
    rw [hl] at hc
    simp only [if_true] at hc
    simp only [hc]
    rfl

/-- An instruction whose body raises a trap takes it. -/
theorem traps_of_body {n : Need} {i : Instr} {body : Exec Next} {s : State} {t : Thread} {x : Trap} (h : CanIssue n s t)
    (hsys : n.sysRel = false) (hi : exec i s = issue n body s) (hbody : body s = .error (.trap x id)) : Traps i s x := by
  rw [Traps, hi]
  exact issue_traps (keep := id) h hsys hbody

/-- R121: `jr` traps at a bad target. -/
theorem jr_traps {s s1 : State} {t : Thread} {a : BitVec 5} {imm : BitVec 12} {w : Word} {x : Trap}
    (h : CanIssue (plain true [.sR a]) s t) (hw : getS a s = .ok (w, s1))
    (hx : checkTarget (w + imm12 imm) s1 = .error (.trap x id)) : Traps (.jr a imm) s x :=
  traps_of_body h rfl rfl ((bindRun_ok hw).trans (bindRun_error hx))

/-- R121: `jalr` traps at a bad target, before it writes D. -/
theorem jalr_traps {s s1 : State} {t : Thread} {d a : BitVec 5} {imm : BitVec 12} {w : Word} {x : Trap}
    (h : CanIssue (plain true [.sR a, .sW d]) s t) (hw : getS a s = .ok (w, s1))
    (hx : checkTarget (w + imm12 imm) s1 = .error (.trap x id)) : Traps (.jalr d a imm) s x :=
  traps_of_body h rfl rfl ((bindRun_ok hw).trans (bindRun_error hx))

/-- R236: the return from supervisor mode that the execution state or the address forbids. -/
theorem rfe_traps {s : State} {t : Thread} {x : Trap} (h : CanIssue { plain true [] with cls := .supervisor } s t)
    (hx : returnFromException s = .error (.trap x id)) : Traps .rfe s x :=
  traps_of_body h rfl rfl hx

/-- Table 8.12: `mfsp` and `mtsp` in user mode. -/
theorem spr_refused_in_user_mode {t : Thread} (n : Nat) (write acc : Bool) (hmode : t.mode = 0) :
    (if decide (0x800 ≤ n) then (Cls.spr n write).bad t acc else some 0x01) = some (if n < 0x800 then 0x01 else 0x02) := by
  by_cases hn : n < 0x800
  · have : ¬0x800 ≤ n := by omega
    simp [hn, this]
  · have : 0x800 ≤ n := by omega
    simp [hn, this, Cls.bad, sprBad, hmode]

/-- Settles O8: the indirect transfers, then user mode, then the checks of `rfe`. -/
theorem transferAndPrivilegeTraps : Obligations.TransferAndPrivilegeTraps := by
  unfold Obligations.TransferAndPrivilegeTraps
  refine ⟨?_, ?_, ?_⟩
  · intro s t d a imm i hi h
    simp only [List.mem_cons, List.not_mem_nil, or_false] at hi
    rcases hi with rfl | rfl
    · rw [if_pos rfl] at h
      obtain ⟨w, s1, hw, -⟩ := h.reading.getS
      exact ⟨w, s1, hw, fun hzero => jr_traps h hw (checkTarget_nonzero hzero s1),
        fun hzero hodd => jr_traps h hw (checkTarget_odd hzero hodd s1)⟩
    · rw [if_neg (by simp)] at h
      obtain ⟨w, s1, hw, -⟩ := h.reading.getS
      exact ⟨w, s1, hw, fun hzero => jalr_traps h hw (checkTarget_nonzero hzero s1),
        fun hzero hodd => jalr_traps h hw (checkTarget_odd hzero hodd s1)⟩
  · intro s t ht hm hkind hmode
    refine ⟨issue_refused _ ht hm ?_, fun r n i hi => ?_⟩
    · simp [plain, Cls.bad, hkind, hmode]
    · simp only [List.mem_cons, List.not_mem_nil, or_false] at hi
      rcases hi with rfl | rfl
      · exact issue_refused _ ht hm (spr_refused_in_user_mode _ _ _ hmode)
      · exact issue_refused _ ht hm (spr_refused_in_user_mode _ _ _ hmode)
  · intro s t h k m
    refine ⟨fun hm => rfe_traps h ?_, fun hm hzero => rfe_traps h ?_, fun hm hzero hodd => rfe_traps h ?_⟩
    · simp only [returnFromException, bindRun, selfRun h.self, getRun]
      rw [if_pos hm, raiseRun]
    · simp only [returnFromException, bindRun, selfRun h.self, getRun]
      rw [if_neg (Nat.not_le.mpr hm), if_pos hzero, raiseRun]
    · simp only [returnFromException, bindRun, selfRun h.self, getRun]
      rw [if_neg (Nat.not_le.mpr hm), if_neg (not_not.mpr hzero), if_pos hodd, raiseRun]

end Sys2Proof.Machine
end

section
/-! PROOFS. Branches on queues and outcomes, `loop`, and the stream and queue instructions (R119, R122, R125 to R130). -/

namespace Sys2Proof.Machine

/-! ### Updates of a thread that is there -/

theorem State.updThread_eq_setThread {s : State} {k : Nat} {t : Thread} (f : Thread → Thread) (h : s.thread? k = some t) :
    s.updThread k f = s.setThread k (f t) := by
  simp only [State.updThread, h]

theorem State.updThread_congr {s : State} {k : Nat} {t : Thread} {f g : Thread → Thread} (h : s.thread? k = some t)
    (hfg : f t = g t) : s.updThread k f = s.updThread k g := by
  rw [State.updThread_eq_setThread f h, State.updThread_eq_setThread g h, hfg]

theorem State.setThread_setThread (s : State) (k : Nat) (t r : Thread) : (s.setThread k t).setThread k r = s.setThread k r := by
  simp only [State.setThread, alSet_alSet]

theorem bne_eq_decide_ne (x y : Word) : (x != y) = decide (x ≠ y) := by
  rw [Bool.eq_iff_iff, bne_iff_ne, decide_eq_true_iff]

theorem ctx_run {s : State} {t : Thread} (h : s.thread? s.cur.tid = some t) : ctx s = .ok (t.ctx s.cur.acc, s) := by
  simp only [ctx, bindRun, selfRun h, meRun, pureRun]

/-! ### Stalls and the queue deadlock -/

/-- An instruction whose issue checks pass and whose body stalls records the wait. -/
theorem issue_stalls {n : Need} {s : State} {t : Thread} {body : Exec Next} {w : Wait} (h : CanIssue n s t)
    (hsys : n.sysRel = false) (hb : body s = .error (.stall w id)) :
    issue n body s = .next (((s.setWait s.cur w).reachWait s.cur w).deadlock s.cur) := by
  have hbody := issueBody_ready body h hsys
  cases hm : (t.ctx s.cur.acc).midway with
  | true =>
    rw [hm, if_pos rfl, hb] at hbody
    exact finish_stall hbody
  | false =>
    have hhold : holding n.uses body s = .error (.stall w (fun p => p.noteHeld n.uses)) := by simp [holding, hb]
    rw [hm, if_neg Bool.false_ne_true, hhold] at hbody
    rw [← setWait_noteHeld n.uses w h.self hm]
    exact finish_stall hbody

/-- Table 2.8 row 6: an instruction that passes rows 3 to 5 traps where no stream can serve its queues, or at an edge of the mesh. -/
theorem issue_row6_traps {n : Need} {s : State} {t : Thread} {c : Cause} (body : Exec Next) (ht : s.thread? s.cur.tid = some t)
    (hm : (t.ctx s.cur.acc).midway = false) (hlegal : n.legal = true) (hcls : n.cls.bad t s.cur.acc = none)
    (hview : n.uses.all (fun u => u.inView t s.cur.acc) = true) (hgov : govOn (t.ctx s.cur.acc) n.gov = true)
    (hc : row6 n.uses t s.cur.acc = some c) (hquiet : n.quiet = false) :
    issue n body s = .next (if s.trapWaits s.cur then s
      else s.takeTrap s.cur { cause := c, addr := 0, extra := 0, pc := none }) := by
  refine finish_trap (keep := id) ?_
  simp only [issueBody, bindRun, meRun, selfRun ht, getRun, hm, hlegal, hcls, hview, hgov, hc, hquiet, Bool.not_true,
    Bool.false_eq_true, if_false, raiseRun]

/-- R19: a full thread's execute stream that pops a queue with too few entries, its access stream stopped, meets the queue deadlock. -/
theorem row6_deadlock {us : List Use} {t : Thread} {u : Use} {k : Nat} (hu : u ∈ us) (hk : u.queue = some (k, false))
    (hstop : t.acc.running = false) (hshort : (vget t.q k []).length < pops us k) : row6 us t false = some 0x20 := by
  unfold row6
  rw [if_pos]
  exact List.any_eq_true.mpr ⟨u, hu, by simp [hk, hstop, hshort]⟩

theorem reachWait_boqRead (s : State) (a : Agent) : s.reachWait a .boqRead = s := by
  cases ht : s.thread? a.tid <;> simp only [State.reachWait, ht]

/-- R130: with the access stream stopped, an execute stream that waits for an outcome is deadlocked. -/
theorem deadlock_boqRead {s : State} {t : Thread} (ht : s.thread? s.cur.tid = some t) (hacc : s.cur.acc = false)
    (hfull : t.kind = .full) (hrun : t.exe.running = true) (hstop : t.acc.running = false) (hboq : t.boq = []) :
    (s.setWait s.cur .boqRead).deadlock s.cur = (s.setWait s.cur .boqRead).takeTrap s.cur
      { cause := 0x20, addr := 0, extra := 0, pc := some t.exe.pc } := by
  have hcur : ({ s.cur with acc := false } : Agent) = s.cur := by rw [← hacc]
  have hself : (s.setWait s.cur .boqRead).thread? s.cur.tid = some { t with exe := { t.exe with wait := .boqRead } } := by
    rw [State.setWait, State.thread?_updThread_same _ ht, hacc]
    rfl
  simp [State.deadlock, hself, hcur, hfull, hrun, hstop, stillWaits, Thread.ctx, hacc, hboq]

/-! ### Branches on queues and outcomes -/

theorem noPick_full {t : Thread} {acc : Bool} (h : Cls.noPick.bad t acc = none) : t.kind = .full := by
  by_contra hkind
  simp [Cls.bad, hkind] at h

/-- R119: a queue without a filled entry is one whose entries are all reserved. -/
theorem no_filled_eq_all_reserved (q : List QEntry) :
    (!q.any (fun e => match e with
      | .filled _ => true
      | .reserved _ => false)) = q.all (fun e => e matches .reserved _) := by
  rw [List.not_any_eq_all_not]
  congr 1
  funext e
  cases e <;> rfl

/-- A branch on a queue's state goes by what no issued instruction has popped. -/
theorem branchQueue_branches {s : State} {t : Thread} {i : Instr} {p : List QEntry → Bool} {a : BitVec 5} {o : BitVec 15}
    (h : CanIssue { plain (queueField a) [] with cls := .noPick } s t) (hi : exec i s = branchQueue p a o s) :
    Branches i (p (t.qRest (a.toNat - 24))) (halfwords (t.ctx s.cur.acc).pc o) s s :=
  branches_of_body h rfl rfl h.reading.ctx hi (bindRun_ok (selfRun h.self))

/-- R127: what is taken is the oldest outcome of the other stream. -/
theorem boqTake_oldest {acc x : Bool} {l m : List (Bool × Bool)} (hl : ∀ e ∈ l, e.1 = acc) :
    boqTake acc (l ++ (!acc, x) :: m) = some (x, l ++ m) := by
  induction l with
  | nil => simp [boqTake]
  | cons e l ih =>
    obtain ⟨own, y⟩ := e
    have hown : own = acc := hl _ (List.mem_cons_self ..)
    have hrest := ih fun e he => hl e (List.mem_cons_of_mem _ he)
    simp [boqTake, hown, hrest]

/-- R127: a branch on outcomes pops the other stream's oldest one. -/
theorem branchOutcome_branches {s : State} {t : Thread} {i : Instr} {want x : Bool} {o : BitVec 15} {l : List (Bool × Bool)}
    (h : CanIssue { plain true [] with cls := .noPick } s t) (hi : exec i s = branchOutcome want o s)
    (htake : boqTake s.cur.acc t.boq = some (x, l)) :
    Branches i (x == want) (halfwords (t.ctx s.cur.acc).pc o) s (s.setThread s.cur.tid { t with boq := l }) := by
  have hctx := ctx_run (s := s.setThread s.cur.tid { t with boq := l }) (State.thread?_setThread_same _ _ _)
  refine branches_of_body h rfl rfl hctx hi ?_
  simp only [bindRun, selfRun h.self, meRun, htake, updSelfRun, State.updThread_eq_setThread _ h.self]

/-- R127: a branch on outcomes without one waits. -/
theorem branchOutcome_stalls {s : State} {t : Thread} {want : Bool} {o : BitVec 15}
    (h : CanIssue { plain true [] with cls := .noPick } s t) (hboq : t.boq = []) :
    branchOutcome want o s = .next (((s.setWait s.cur .boqRead).reachWait s.cur .boqRead).deadlock s.cur) := by
  refine issue_stalls h rfl ?_
  simp only [bindRun, selfRun h.self, meRun, hboq, boqTake, stall]

/-- R122: `loop` writes A less one and branches while that is not zero. -/
theorem loop_branches {s s1 : State} {t : Thread} {a : BitVec 5} {o : BitVec 15} {hint : BitVec 2} {x : Word}
    (h : CanIssue (plain (loopField a) [.sR a, .sW a]) s t) (hx : getS a s = .ok (x, s1)) (hread : Reading [.sW a] s s1 t) :
    ∃ u, setS a (x - 1) s1 = .ok ((), u) ∧
      Branches (.loop a o hint) (decide (x ≠ 1)) (halfwords (t.ctx s.cur.acc).pc o) s u := by
  have hreg : a.toNat < 24 := by
    have := h.legal
    simp only [plain, loopField, Bool.and_eq_true, decide_eq_true_eq] at this
    omega
  obtain ⟨q, hq⟩ := hread.thread
  obtain ⟨c, hc, hpc⟩ := ctx_putScalar a.toNat (x - 1) hq
  have hset : setS a (x - 1) s1 = .ok ((), s1.putScalar a.toNat (x - 1)) := setS_reg hreg
  have htaken : (x - 1 != 0) = decide (x ≠ 1) := by
    rw [bne_eq_decide_ne, decide_eq_decide, ne_eq, ne_eq, sub_eq_zero]
  refine ⟨_, hset, ?_⟩
  have := branches_of_body (taken := x - 1 != 0) (o := o) (i := .loop a o hint) h rfl rfl hc rfl
    ((bindRun_ok hx).trans (bindRun_ok hset))
  rw [hpc, hread.cur, htaken] at this
  exact this

/-- R19: an `add` that pops an empty queue which no stream can fill meets the queue deadlock. -/
theorem add_deadlocked {s : State} {t : Thread} {d a b : BitVec 5} (ht : s.thread? s.cur.tid = some t) (hfull : t.kind = .full)
    (hacc : s.cur.acc = false) (hm : t.exe.midway = false) (hstop : t.acc.running = false) (hb : isReg b) (hd : isReg d)
    (ha : a = 24 ∨ a = 25) (hq : vget t.q (a.toNat - 24) [] = []) :
    Traps (.add d a b { p := 0, n := false }) s { cause := 0x20, addr := 0, extra := 0, pc := none } := by
  have hnum : a.toNat = 24 ∨ a.toNat = 25 := by rcases ha with rfl | rfl <;> simp
  have hb' : b.toNat < 24 := hb
  have hd' : d.toNat < 24 := hd
  have hpop : (Use.sR a).queue = some (a.toNat - 24, false) := by
    rw [Use.queue, if_pos (by omega)]
  refine issue_row6_traps _ ht (by rwa [hacc]) rfl rfl ?_ ?_ ?_ rfl
  · simp [governed, Use.inView, hfull, hacc, hb', hd', hnum]
  · simp [governed, govOn, Ctx.pred, bit]
  · rw [hacc]
    refine row6_deadlock (List.mem_cons_self ..) hpop hstop ?_
    rw [governed, pops_cons, hq, if_pos hpop]
    exact Nat.succ_pos _

/-- Settles O6: the branches on a queue's state and on outcomes, `loop`, then the two deadlocks. -/
theorem queueBranchesAndLoop : Obligations.QueueBranchesAndLoop := by
  unfold Obligations.QueueBranchesAndLoop
  refine ⟨⟨?_, ?_, ?_⟩, ?_, ?_⟩
  · intro s t a o hint h q
    have hempty := branchQueue_branches (i := .bqe a o hint) (p := fun q => !q.any (fun e => match e with
      | .filled _ => true
      | .reserved _ => false)) h rfl
    rw [no_filled_eq_all_reserved] at hempty
    exact ⟨hempty, branchQueue_branches (p := fun q => decide (16 ≤ q.length)) h rfl⟩
  · intro s t o hint l m x h hboq hl u
    have htake : boqTake s.cur.acc t.boq = some (x, l ++ m) := hboq ▸ boqTake_oldest hl
    have hb := branchOutcome_branches (i := .brq o hint) (want := true) h rfl htake
    have hbn := branchOutcome_branches (i := .brqn o hint) (want := false) h rfl htake
    rw [beq_true] at hb
    rw [beq_false] at hbn
    exact ⟨hb, hbn⟩
  · intro s t a o hint h
    obtain ⟨x, s1, hx, hread⟩ := h.reading.getS
    obtain ⟨u, hu, hb⟩ := loop_branches h hx hread
    exact ⟨x, s1, u, hx, hu, hb⟩
  · intro s t o hint h hacc hrun hstop hboq
    have hfull := noPick_full h.cls
    refine (branchOutcome_stalls h hboq).trans (congrArg _ ?_)
    rw [reachWait_boqRead, deadlock_boqRead h.self hacc hfull hrun hstop hboq]
  · intro s t d a b ht hfull hacc hm hstop hb hd ha hq
    exact add_deadlocked ht hfull hacc hm hstop hb hd ha hq

/-! ### Starting and stopping the access stream, and the queues -/

/-- R126: a stopped access stream is left as it is. -/
theorem stopAccess_stopped {s : State} {t : Thread} (ht : s.thread? s.cur.tid = some t) (hstop : t.acc.running = false) :
    stopAccess s = .ok ((), s) := by
  simp [stopAccess, selfRun ht, hstop]

/-- R126: an access in flight comes first. -/
theorem stopAccess_midway {s : State} {t : Thread} (ht : s.thread? s.cur.tid = some t) (hrun : t.acc.running = true)
    (hmid : t.acc.midway = true) : stopAccess s = .error (.stall .memory id) := by
  simp [stopAccess, selfRun ht, hrun, hmid, stall]

/-- The thread with its access stream stopped and no outcomes queued (R126). -/
def Thread.stopAcc (t : Thread) : Thread := { t with acc := { t.acc with running := false, wait := .none }, boq := [] }

theorem stopAccess_running {s : State} {t : Thread} (ht : s.thread? s.cur.tid = some t) (hrun : t.acc.running = true)
    (hidle : t.acc.midway = false) : stopAccess s = .ok ((), s.updThread s.cur.tid Thread.stopAcc) := by
  simp only [stopAccess, bindRun, selfRun ht, hrun, hidle, Bool.not_true, Bool.false_eq_true, if_false, updSelfRun]
  rfl

/-- The thread with its access stream started at pc with y in its s1 (R125). -/
def Thread.startAcc (pc : VAddr) (y : Word) (t : Thread) : Thread :=
  { t with acc := { t.acc.setReg 1 y with pc := pc, atTarget := true, running := true, wait := .none } }

/-- R125: what `astart` does once its target is known and the access stream is stopped. -/
def startAccess (pc : VAddr) (y : Word) : Exec Next := do
  let th ← self
  if th.acc.pend.getLsbD 1 then stall (.token 1)
  updSelf (Thread.startAcc pc y)
  pure .seq

theorem startAccess_run {s : State} {t : Thread} (pc : VAddr) (y : Word) (ht : s.thread? s.cur.tid = some t)
    (hdue : t.acc.pend.getLsbD 1 = false) :
    startAccess pc y s = .ok (.seq, s.updThread s.cur.tid (Thread.startAcc pc y)) := by
  simp only [startAccess, bindRun, selfRun ht, hdue, Bool.false_eq_true, if_false, pureRun, updSelfRun]

/-- R125, R126: `astart` stops a running access stream, then starts it. -/
theorem astart_retires {s s1 s2 : State} {t : Thread} {a b : BitVec 5} {x y : Word}
    (h : CanIssue { plain true [.sR a, .sR b] with cls := .exeOnly } s t) (hidle : t.acc.running = true → t.acc.midway = false)
    (hdue : t.acc.pend.getLsbD 1 = false) (hx : getS a s = .ok (x, s1)) (hy : getS b s1 = .ok (y, s2))
    (hread : Reading [] s s2 t) (hgood : GoodTarget x) :
    Retires (.astart a b) 4 s (s2.updThread s.cur.tid (fun r =>
      { r with boq := if t.acc.running then [] else t.boq,
               acc := { t.acc.setReg 1 y with pc := x.extractLsb' 0 56, atTarget := true, running := true, wait := .none } })) := by
  obtain ⟨q, hq⟩ := hread.thread
  let pc : VAddr := x.extractLsb' 0 56
  have hbody : (stopAccess >>= fun _ => startAccess pc y) s2 = .ok (.seq, s2.updThread s2.cur.tid (fun r =>
      { r with boq := if t.acc.running then [] else t.boq,
               acc := { t.acc.setReg 1 y with pc := pc, atTarget := true, running := true, wait := .none } })) := by
    cases hrun : t.acc.running with
    | false =>
      rw [bindRun_ok (stopAccess_stopped hq hrun), startAccess_run pc y hq hdue]
      exact congrArg (fun u => Except.ok (Next.seq, u)) (State.updThread_congr hq rfl)
    | true =>
      have hself : (s2.updThread s2.cur.tid Thread.stopAcc).thread? (s2.updThread s2.cur.tid Thread.stopAcc).cur.tid =
          some (Thread.stopAcc { t with q := q }) := by
        rw [State.updThread_cur]
        exact State.thread?_updThread_same _ hq
      rw [bindRun_ok (stopAccess_running hq hrun (hidle hrun)), startAccess_run pc y hself hdue, State.updThread_cur,
        State.updThread_updThread]
      exact congrArg (fun u => Except.ok (Next.seq, u)) (State.updThread_congr hq rfl)
  rw [← hread.cur]
  exact issue_completes h rfl ((bindRun_ok hx).trans ((bindRun_ok hy).trans
    ((bindRun_ok (checkTarget_good hgood s2)).trans hbody)))

/-- Settles O9: `astart`, `astop`, `pushb`, `qclr` and `qlen`. -/
theorem streamControl : Obligations.StreamControl := by
  unfold Obligations.StreamControl
  refine ⟨?_, ?_, ?_, ?_, ?_⟩
  · intro s t a b h hidle hdue
    obtain ⟨x, s1, y, s2, hx, hy, hread⟩ := h.read_scalar_scalar rfl
    exact ⟨x, s1, y, s2, hx, hy, astart_retires h hidle hdue hx hy hread⟩
  · intro s t h
    refine ⟨fun hstop => ?_, fun hrun hmid => ?_, fun hrun hidle => ?_⟩
    · exact issue_completes h rfl (bindRun_ok (stopAccess_stopped h.self hstop))
    · exact issue_stalls h rfl (bindRun_error (stopAccess_midway h.self hrun hmid))
    · have hstopped := State.updThread_eq_setThread Thread.stopAcc h.self
      exact issue_completes h rfl (bindRun_ok (hstopped ▸ stopAccess_running h.self hrun hidle))
  · intro s t a h hroom
    obtain ⟨x, s1, hx, hread⟩ := h.reading.getS
    obtain ⟨q, hq⟩ := hread.thread
    refine ⟨x, s1, hx, issue_completes h rfl ((bindRun_ok hx).trans ?_)⟩
    simp only [bindRun, selfRun hq, meRun, if_neg (Nat.not_le.mpr hroom), updSelfRun, pureRun, bne_eq_decide_ne]
    rw [← hread.cur]
    exact congrArg (fun u => Except.ok (Next.seq, u)) (State.updThread_congr hq rfl)
  · intro s t b h k
    refine issue_completes h rfl ?_
    simp only [bindRun, updSelfRun, pureRun, State.updThread_eq_setThread _ h.self]
    rfl
  · intro s t d b h
    exact writes_of_body h rfl h.reading rfl (bindRun_ok (selfRun h.self))

end Sys2Proof.Machine
end

section
/-! PROOFS. Vector compares and predicate operations (R102, R157, R158). -/

namespace Sys2Proof.Machine

/-! ### Writing the active bits of a predicate -/

theorem getP_run {s : State} {t : Thread} (k : Nat) (h : s.thread? s.cur.tid = some t) :
    getP k s = .ok ((t.ctx s.cur.acc).pred k, s) :=
  bindRun_ok (ctx_run h)

/-- Bit k of a predicate merged under the active lanes. -/
theorem getLsbD_mergeP (old on w : Word) {k : Nat} (hk : k < 64) :
    (old &&& ~~~on ||| w &&& on).getLsbD k = if on.getLsbD k then w.getLsbD k else old.getLsbD k := by
  rw [BitVec.getLsbD_or, BitVec.getLsbD_and, BitVec.getLsbD_and, BitVec.getLsbD_not]
  cases on.getLsbD k <;> simp [hk]

/-- R25, R157: what a write of a predicate's active bits leaves: the other bits as they were, and the thread's vector state written. -/
theorem setPLanes_run {s : State} {t : Thread} {on : Word} {active : Nat → Bool} (d : Nat) (w : Word)
    (h : s.thread? s.cur.tid = some t) (hon : ∀ k, k < 64 → on.getLsbD k = active k) :
    ∃ x u, (∀ k, k < 64 → x.getLsbD k = if active k then w.getLsbD k else bit ((t.ctx s.cur.acc).pred d) k) ∧
      setP d x s = .ok ((), u) ∧
      setPLanes d on w s = .ok ((), u.updThread s.cur.tid (fun r => { r with vdirty := r.vdirty || d != 0 })) := by
  let x := (t.ctx s.cur.acc).pred d &&& ~~~on ||| w &&& on
  obtain ⟨u, hu⟩ := setP_run d x s
  refine ⟨x, u, fun k hk => by rw [getLsbD_mergeP _ _ _ hk, hon k hk]; rfl, hu, ?_⟩
  have hcur : u.cur = s.cur := by
    unfold setP at hu
    split at hu
    · cases hu
      rfl
    · cases hu
      exact State.updThread_cur ..
  rw [setPLanes, bindRun_ok (getP_run d h), bindRun_ok hu, updSelfRun, hcur]

/-- Merging flags leaves the issuing stream's predicates. -/
theorem mergeFlags_preds {s : State} {t : Thread} (f : FF) (h : s.thread? s.cur.tid = some t) :
    ∃ v r, mergeFlags f s = .ok ((), v) ∧ v.cur = s.cur ∧ v.thread? v.cur.tid = some r ∧
      ∀ k, (r.ctx v.cur.acc).pred k = (t.ctx s.cur.acc).pred k := by
  let r := t.updCtx s.cur.acc (fun c => { c with fstat := c.fstat ||| f.bits })
  refine ⟨_, r, rfl, State.updThread_cur .., ?_, fun k => ?_⟩
  · rw [State.updThread_cur]
    exact State.thread?_updThread_same _ h
  · rw [State.updThread_cur, Thread.ctx_updCtx]
    rfl

/-- A vector instruction whose sources have been read up to u, and that then merges flags and writes predicate D, completes. -/
theorem writesPredLanes_of_body {n : Need} {i : Instr} {body : Exec Next} {d : BitVec 5} {g : Gov} {on w : Word}
    {f : Nat → Bool × FF} {s u : State} {t : Thread} (h : CanIssue n s t) (hsys : n.sysRel = false) (hlen : n.len = 4)
    (hon : ∀ k, k < 64 → on.getLsbD k = laneOn t s.cur.acc g k) (hread : Reading [] s u t) (hi : exec i s = issue n body s)
    (hw : ∀ k, k < 64 → w.getLsbD k = (f k).1)
    (hbody : body s = (do
      mergeFlags (orFlags on (fun k => (f k).2) 64)
      setPLanes d.toNat on w
      pure Next.seq) u) : WritesPredLanes i d (laneOn t s.cur.acc g) f t s u := by
  obtain ⟨q, hq⟩ := hread.thread
  obtain ⟨v, r, hv, hcur, hr, hpred⟩ := mergeFlags_preds (orFlags on (fun k => (f k).2) 64) hq
  obtain ⟨x, y, hx, hset, hput⟩ := setPLanes_run d.toNat w hr hon
  refine ⟨v, x, y, by rw [← orFlags_eq_laneFlags hon]; exact hv, fun k hk => ?_, hset, ?_⟩
  · rw [hx k hk, hw k hk, hpred, hread.cur]
    rfl
  · rw [Retires, hi, ← hlen, ← hread.cur, ← hcur]
    exact issue_completes h hsys (hbody.trans ((bindRun_ok hv).trans (bindRun_ok hput)))

/-! ### Compares -/

theorem getLsbD_bitsOf (f : Nat → Bool) {n : Nat} (hn : n ≤ 64) (k : Nat) : (bitsOf f n).getLsbD k = (decide (k < n) && f k) := by
  induction n with
  | zero => simp [bitsOf]
  | succ n ih =>
    have hbit : (if f n then 1#64 <<< n else 0).getLsbD k = (decide (k = n) && f n) := by
      cases f n with
      | false => simp
      | true =>
        have hlt : n < 64 := by omega
        rw [if_pos rfl, ← BitVec.twoPow, BitVec.getLsbD_twoPow]
        simp [hlt, eq_comm]
    rw [bitsOf, BitVec.getLsbD_or, ih (by omega), hbit]
    rcases Nat.lt_trichotomy k n with hk | rfl | hk
    · simp [hk, Nat.lt_succ_of_lt hk, Nat.ne_of_lt hk]
    · simp
    · have : ¬k < n + 1 := by omega
      simp [this, Nat.ne_of_gt hk, Nat.not_lt_of_gt hk]

/-- R157: each vector compare goes by its condition, with a vector and with a scalar B. -/
theorem exec_vectorCompares {d a b : BitVec 5} {g : Gov} {p : Instr × Instr × (W32 → W32 → Bool × FF)}
    (hp : p ∈ vectorCompares d a b g) :
    (∀ s, exec p.1 s = vcompare p.2.2 false d a b g s) ∧ ∀ s, exec p.2.1 s = vcompare p.2.2 true d a b g s := by
  simp only [vectorCompares, List.mem_cons, List.not_mem_nil, or_false] at hp
  rcases hp with rfl | rfl | rfl | rfl | rfl | rfl | rfl | rfl | rfl | rfl <;> exact ⟨fun _ => rfl, fun _ => rfl⟩

/-- R157: a vector compare whose sources have been read writes the active bits of D. -/
theorem vcompare_writesPredLanes {s s1 s2 : State} {t : Thread} {d a b : BitVec 5} {g : Gov} {i : Instr} {scalar : Bool}
    {f : W32 → W32 → Bool × FF} {x : VWord} {y : Nat → W32}
    (h : CanIssue (vecNeed (g.legal && predField d) [.vR a, useB scalar b] 4) s t)
    (hi : exec i s = vcompare f scalar d a b g s) (hx : getV a s = .ok (x, s1)) (hy : getB scalar b s1 = .ok (y, s2))
    (hread : Reading [] s s2 t) : WritesPredLanes i d (laneOn t s.cur.acc g) (fun k => f (lane x k) (y k)) t s s2 := by
  obtain ⟨on, hon, hlanes⟩ := activeLanes_run g h.self
  refine writesPredLanes_of_body (h.withLanes g rfl) rfl rfl hlanes hread hi (fun k hk => ?_)
    ((bindRun_ok hon).trans ((bindRun_ok hx).trans (bindRun_ok hy)))
  rw [getLsbD_bitsOf _ (Nat.le_refl _)]
  simp [hk]

/-! ### Operations on predicates -/

/-- Lanes that raise no flag merge none. -/
theorem orFlags_none (on : BitVec 64) (n : Nat) : orFlags on (fun _ => FF.none) n = FF.none := by
  induction n with
  | zero => rfl
  | succ n ih =>
    rw [orFlags, ih]
    split <;> rfl

/-- R158: an operation on predicates A and B writes the active bits of D. -/
theorem predOp_writesPredLanes {s : State} {t : Thread} {d a b : BitVec 5} {g : Gov} {i : Instr} {legal : Bool}
    {f : Word → Word → Word} (hlegal : legal = true) (h : CanIssue (vecNeed g.legal [] 4) s t)
    (hi : exec i s = predOp f legal d a b g s) :
    WritesPredLanes i d (laneOn t s.cur.acc g)
      (fun k => (bit (f ((t.ctx s.cur.acc).pred a.toNat) ((t.ctx s.cur.acc).pred b.toNat)) k, FF.none)) t s s := by
  obtain ⟨on, hon, hlanes⟩ := activeLanes_run g h.self
  subst hlegal
  have hneed : CanIssue (vecNeed (g.legal && true) [] 4) s t := by rwa [Bool.and_true]
  refine writesPredLanes_of_body (hneed.withLanes g rfl) rfl rfl hlanes h.reading hi (fun k _ => rfl) ?_
  rw [orFlags_none, bindRun_ok (mergeFlags_none h.self)]
  exact (bindRun_ok hon).trans ((bindRun_ok (getP_run _ h.self)).trans (bindRun_ok (getP_run _ h.self)))

/-! ### Counting and finding set bits -/

/-- The set bits of a word under the active lanes, lowest first. -/
theorem filter_active_bits {on y : Word} {active : Nat → Bool} (hon : ∀ k, k < 64 → on.getLsbD k = active k) :
    (List.range 64).filter (fun k => (on &&& y).getLsbD k) = (List.range 64).filter (fun k => active k && bit y k) :=
  List.filter_congr fun k hk => by rw [BitVec.getLsbD_and, hon k (List.mem_range.mp hk)]; rfl

theorem popcount_eq_length_filter (z : Word) (n : Nat) : popcount z n = ((List.range n).filter (fun k => z.getLsbD k)).length := by
  rw [popcount_eq_count, List.count, List.countP_map, List.countP_eq_length_filter]
  simp [Function.comp_def]

/-- The lowest set bit from k upward stands after the zeros. -/
theorem trailingZeros_of_filter {z : Word} {k n j : Nat} {l : List Nat}
    (h : (List.range' k n).filter (fun i => z.getLsbD i) = j :: l) : k + trailingZeros z k n = j := by
  induction n generalizing k with
  | zero => simp at h
  | succ n ih =>
    rw [List.range'_succ, List.filter_cons] at h
    rw [trailingZeros]
    cases hz : z.getLsbD k with
    | true =>
      rw [if_pos hz] at h
      injection h
    | false =>
      rw [if_neg (by simp [hz])] at h
      have := ih h
      rw [if_neg Bool.false_ne_true]
      omega

theorem eq_zero_of_filter_nil {z : Word} (h : (List.range 64).filter (fun k => z.getLsbD k) = []) : z = 0 := by
  refine BitVec.eq_of_getLsbD_eq fun k hk => ?_
  simpa using List.filter_eq_nil_iff.mp h k (List.mem_range.mpr hk)

/-- R158: the lowest set bit, all ones where none is set. -/
theorem lowest_set_bit (z : Word) :
    (if z = 0 then BitVec.allOnes 64 else BitVec.ofNat 64 (trailingZeros z 0 64)) =
      match (List.range 64).filter (fun k => z.getLsbD k) with
      | k :: _ => BitVec.ofNat 64 k
      | [] => BitVec.allOnes 64 := by
  cases hl : (List.range 64).filter (fun k => z.getLsbD k) with
  | nil => rw [if_pos (eq_zero_of_filter_nil hl)]
  | cons k l =>
    have hne : z ≠ 0 := by
      rintro rfl
      simp at hl
    rw [List.range_eq_range'] at hl
    rw [if_neg hne, ← trailingZeros_of_filter hl, Nat.zero_add]

/-- Settles O28: the vector compares, the operations on predicates, then `pcnt` and `pfirst`. -/
theorem vectorComparesAndPredicates : Obligations.VectorComparesAndPredicates := by
  unfold Obligations.VectorComparesAndPredicates
  refine ⟨?_, ?_, ?_⟩
  · intro s t d a b g
    refine ⟨fun h => ?_, fun h => ?_⟩
    · obtain ⟨x, s1, hx, hread⟩ := h.reading.getV
      obtain ⟨y, s2, hy, hread⟩ := hread.getV
      exact ⟨x, s1, y, s2, hx, hy, fun p hp => vcompare_writesPredLanes (scalar := false) h ((exec_vectorCompares hp).1 s) hx
        (bindRun_ok hy) hread⟩
    · obtain ⟨x, s1, hx, hread⟩ := h.reading.getV
      obtain ⟨y, s2, hy, hread⟩ := hread.getS
      exact ⟨x, s1, y, s2, hx, hy, fun p hp => vcompare_writesPredLanes (scalar := true) h ((exec_vectorCompares hp).2 s) hx
        (bindRun_ok hy) hread⟩
  · intro s t d a b g hd ha hb h x y p hp
    have hthree : (predField d && predField a && predField b) = true := by simp [hd, ha, hb]
    have htwo : (predField d && predField b) = true := by simp [hd, hb]
    simp only [List.mem_cons, List.not_mem_nil, or_false] at hp
    rcases hp with rfl | rfl | rfl | rfl
    · exact predOp_writesPredLanes (f := fun x y => x &&& y) hthree h rfl
    · exact predOp_writesPredLanes (f := fun x y => x ||| y) hthree h rfl
    · exact predOp_writesPredLanes (f := fun x y => x ^^^ y) hthree h rfl
    · exact predOp_writesPredLanes (f := fun _ y => ~~~y) htwo h rfl
  · intro s t d b g hb h l
    obtain ⟨on, hon, hlanes⟩ := activeLanes_run g h.self
    have hneed : CanIssue (vecNeed (g.legal && predField b) [.sW d] 4) s t := by rwa [hb, Bool.and_true]
    have hl : (List.range 64).filter (fun k => (on &&& (t.ctx s.cur.acc).pred b.toNat).getLsbD k) = l :=
      filter_active_bits hlanes
    refine ⟨?_, ?_⟩
    · rw [← hl, ← popcount_eq_length_filter]
      exact writes_of_body (hneed.withLanes g rfl) rfl h.reading rfl ((bindRun_ok hon).trans (bindRun_ok (getP_run _ h.self)))
    · have hw := writes_of_body (i := .pfirst d b g) (hneed.withLanes g rfl) rfl h.reading rfl
        ((bindRun_ok hon).trans (bindRun_ok (getP_run _ h.self)))
      rw [lowest_set_bit, hl] at hw
      exact hw

end Sys2Proof.Machine
end

section
/-! PROOFS. What an instruction leaves unchanged of the issuing thread and of the state (R101, R144). -/

namespace Sys2Proof.Machine

/-! ### Two threads that differ only where an instruction may write -/

/-- Thread r is t but for what an instruction of stream acc may change: the scalar registers of `regs`, the predicates of `preds` and,
where `flags` says so, the sticky bits of `%fstat` of that stream; the vector registers of `vecs`; and where the stream stands. -/
structure OnlyChanged (acc : Bool) (t r : Thread) (regs preds vecs : Nat → Bool) (flags : Bool) : Prop where
  scalars : ∀ k, k < 24 → regs k = false → r.getReg acc k = t.getReg acc k
  predicates : ∀ k, k < 8 → preds k = false → (r.ctx acc).pred k = (t.ctx acc).pred k
  vectors : ∀ k, k < 28 → vecs k = false → vget r.v k 0 = vget t.v k 0
  sticky : flags = false → (r.ctx acc).fstat = (t.ctx acc).fstat
  rounding : field (r.ctx acc).fstat 9 8 = field (t.ctx acc).fstat 9 8
  other : r.ctx (!acc) = t.ctx (!acc)
  pending : (r.ctx acc).pend = (t.ctx acc).pend
  rest : r = { t with exe := r.exe, acc := r.acc, v := r.v, vdirty := r.vdirty, heddle := r.heddle }

section
variable {acc : Bool} {t r q : Thread} {regs preds vecs : Nat → Bool} {flags : Bool}

theorem OnlyChanged.refl (acc : Bool) (t : Thread) (regs preds vecs : Nat → Bool) (flags : Bool) :
    OnlyChanged acc t t regs preds vecs flags :=
  ⟨fun _ _ _ => rfl, fun _ _ _ => rfl, fun _ _ _ => rfl, fun _ => rfl, rfl, rfl, rfl, rfl⟩

theorem OnlyChanged.trans (h : OnlyChanged acc t r regs preds vecs flags) (h' : OnlyChanged acc r q regs preds vecs flags) :
    OnlyChanged acc t q regs preds vecs flags where
  scalars k hk hr := (h'.scalars k hk hr).trans (h.scalars k hk hr)
  predicates k hk hr := (h'.predicates k hk hr).trans (h.predicates k hk hr)
  vectors k hk hr := (h'.vectors k hk hr).trans (h.vectors k hk hr)
  sticky hf := (h'.sticky hf).trans (h.sticky hf)
  rounding := h'.rounding.trans h.rounding
  other := h'.other.trans h.other
  pending := h'.pending.trans h.pending
  rest := h'.rest.trans (by rw [h.rest])

/-- A change of the issuing stream's registers alone. -/
theorem OnlyChanged.updCtx (f : Ctx → Ctx)
    (hregs : ∀ k, k < 24 → regs k = false → (f (t.ctx acc)).reg k = (t.ctx acc).reg k)
    (hpreds : ∀ k, k < 8 → preds k = false → (f (t.ctx acc)).pred k = (t.ctx acc).pred k)
    (hsticky : flags = false → (f (t.ctx acc)).fstat = (t.ctx acc).fstat)
    (hrounding : field (f (t.ctx acc)).fstat 9 8 = field (t.ctx acc).fstat 9 8)
    (hpending : (f (t.ctx acc)).pend = (t.ctx acc).pend) : OnlyChanged acc t (t.updCtx acc f) regs preds vecs flags where
  scalars k hk hr := by
    have hzero : (t.updCtx acc f).zeroReg k = t.zeroReg k := by cases acc <;> rfl
    rw [Thread.getReg, Thread.getReg, hzero, Thread.ctx_updCtx, hregs k hk hr]
  predicates k hk hr := by rw [Thread.ctx_updCtx, hpreds k hk hr]
  vectors k _ _ := by cases acc <;> rfl
  sticky hf := by rw [Thread.ctx_updCtx, hsticky hf]
  rounding := by rw [Thread.ctx_updCtx, hrounding]
  other := Thread.ctx_updCtx_other ..
  pending := by rw [Thread.ctx_updCtx, hpending]
  rest := by cases acc <;> rfl

theorem Thread.putReg_onlyChanged (r : Nat) (w : Word) (hr : regs r = true) :
    OnlyChanged acc t (t.putReg acc r w) regs preds vecs flags := by
  unfold Thread.putReg
  split
  · exact .refl ..
  · refine .updCtx _ (fun k _ hk => vget_vset_other _ _ _ ?_) (fun _ _ _ => rfl) (fun _ => rfl) rfl rfl
    rintro rfl
    rw [hr] at hk
    cases hk

theorem Thread.putPred_onlyChanged (d : Nat) (w : Word) (hd : preds d = true) :
    OnlyChanged acc t (t.updCtx acc (fun c => { c with p := vset c.p d w })) regs preds vecs flags := by
  refine .updCtx _ (fun _ _ _ => rfl) (fun k _ hk => ?_) (fun _ => rfl) rfl rfl
  have hne : k ≠ d := by
    rintro rfl
    rw [hd] at hk
    cases hk
  simp only [Ctx.pred, vget_vset_other _ _ _ hne]

/-- The sticky bits lie below the rounding mode (Table 1.6). -/
theorem field_fstat_or_bits (x : BitVec 10) (f : FF) : field (x ||| f.bits) 9 8 = field x 9 8 := by
  have hsmall : f.bits.toNat < 2 ^ 8 := by
    have hnx := Bool.toNat_le f.nx
    have huf := Bool.toNat_le f.uf
    have hof := Bool.toNat_le f.of
    have hdz := Bool.toNat_le f.dz
    have hnv := Bool.toNat_le f.nv
    simp only [FF.bits, toNat_append_eq_add, BitVec.toNat_ofBool, BitVec.toNat_ofNat]
    omega
  have hlow : f.bits.extractLsb' 8 2 = 0#2 := by
    refine BitVec.eq_of_toNat_eq ?_
    rw [BitVec.extractLsb'_toNat, Nat.shiftRight_eq_div_pow, Nat.div_eq_of_lt hsmall]
    rfl
  rw [field, field, BitVec.extractLsb'_or, hlow, BitVec.or_zero]

theorem Thread.mergeFlags_onlyChanged (f : FF) :
    OnlyChanged acc t (t.updCtx acc (fun c => { c with fstat := c.fstat ||| f.bits })) regs preds vecs true :=
  .updCtx _ (fun _ _ _ => rfl) (fun _ _ _ => rfl) (fun hf => nomatch hf) (field_fstat_or_bits _ _) rfl

theorem Thread.putVector_onlyChanged (d : Nat) (x : VWord) (hd : vecs d = true) :
    OnlyChanged acc t { t with v := vset t.v d x, vdirty := true } regs preds vecs flags where
  scalars _ _ _ := rfl
  predicates _ _ _ := rfl
  vectors k _ hk := by
    refine vget_vset_other _ _ _ ?_
    rintro rfl
    rw [hd] at hk
    cases hk
  sticky _ := rfl
  rounding := rfl
  other := rfl
  pending := rfl
  rest := rfl

end

/-- The thread with its issuing stream past an instruction of len bytes (R116, R241). -/
def Thread.past (acc : Bool) (len : Nat) (t : Thread) : Thread :=
  { t.updCtx acc (fun c => c.advance len .seq) with heddle := t.heddle.map (fun h => { h with hsteps := h.hsteps + 1 }) }

theorem State.advance_seq (s : State) (len : Nat) : s.advance len .seq = s.updThread s.cur.tid (Thread.past s.cur.acc len) := by
  simp only [State.advance, reduceCtorEq, if_false]
  congr 1
  funext t
  cases s.cur.acc <;> rfl

theorem Thread.past_onlyChanged {acc : Bool} {t : Thread} {regs preds vecs : Nat → Bool} {flags : Bool} (len : Nat) :
    OnlyChanged acc t (t.past acc len) regs preds vecs flags := by
  cases acc <;>
    exact ⟨fun _ _ _ => rfl, fun _ _ _ => rfl, fun _ _ _ => rfl, fun _ => rfl, rfl, rfl, rfl, rfl⟩

/-! ### Two states that differ only in the issuing thread -/

/-- State u is s but for the issuing thread t, of which only what an instruction may write has changed. -/
def Alters (s : State) (t : Thread) (u : State) (regs preds vecs : Nat → Bool) (flags : Bool) : Prop :=
  ∃ r, u = s.setThread s.cur.tid r ∧ OnlyChanged s.cur.acc t r regs preds vecs flags

section
variable {s u v : State} {t : Thread} {regs preds vecs : Nat → Bool} {flags : Bool} {d : BitVec 5}

theorem Alters.refl (ht : s.thread? s.cur.tid = some t) : Alters s t s regs preds vecs flags := by
  refine ⟨t, ?_, .refl ..⟩
  rw [State.setThread, alSet_of_alGet ht]

theorem Alters.updThread {f : Thread → Thread} (h : Alters s t u regs preds vecs flags)
    (hf : ∀ r, OnlyChanged u.cur.acc r (f r) regs preds vecs flags) :
    Alters s t (u.updThread u.cur.tid f) regs preds vecs flags := by
  obtain ⟨r, rfl, hr⟩ := h
  refine ⟨f r, ?_, hr.trans (hf r)⟩
  rw [State.setThread_cur, State.updThread_eq_setThread _ (State.thread?_setThread_same _ _ _), State.setThread_setThread]

theorem Alters.setS {w : Word} (h : Alters s t u regs preds vecs flags) (hd : isReg d) (hreg : regs d.toNat = true)
    (hv : setS d w u = .ok ((), v)) : Alters s t v regs preds vecs flags := by
  rw [setS_reg hd] at hv
  cases hv
  exact h.updThread fun r => Thread.putReg_onlyChanged _ _ hreg

theorem Alters.setP {k : Nat} {w : Word} (h : Alters s t u regs preds vecs flags) (hk : preds k = true)
    (hv : setP k w u = .ok ((), v)) : Alters s t v regs preds vecs flags := by
  unfold Machine.setP at hv
  split at hv
  · cases hv
    exact h
  · cases hv
    exact h.updThread fun r => Thread.putPred_onlyChanged _ _ hk

theorem Alters.mergeFlags {f : FF} (h : Alters s t u regs preds vecs true) (hv : mergeFlags f u = .ok ((), v)) :
    Alters s t v regs preds vecs true := by
  cases hv
  exact h.updThread fun r => Thread.mergeFlags_onlyChanged f

theorem Alters.setV {x : VWord} (h : Alters s t u regs preds vecs flags) (hd : d.toNat < 28) (hvec : vecs d.toNat = true)
    (hv : setV d x u = .ok ((), v)) : Alters s t v regs preds vecs flags := by
  simp only [Machine.setV, hd, if_true, updSelfRun] at hv
  cases hv
  exact h.updThread fun r => Thread.putVector_onlyChanged _ _ hvec

/-- An instruction that completes in a state which differs only in the issuing thread changes only that thread. -/
theorem Alters.changesOnly {i : Instr} {len : Nat} (h : Alters s t u regs preds vecs flags) (hret : Retires i len s u) :
    ChangesOnly i s t regs preds vecs flags := by
  obtain ⟨r, hu, hr⟩ := h.updThread fun r => Thread.past_onlyChanged len
  refine ⟨r, ?_, hr.scalars, hr.predicates, hr.vectors, hr.sticky, hr.rounding, hr.other, hr.pending, hr.rest⟩
  rw [hret, State.advance_seq, hu]

end

end Sys2Proof.Machine
end

section
/-! PROOFS. Frames of register, vector and memory instructions, and predicated-off instructions (R101, R104, R138, R144, R197, R199). -/

namespace Sys2Proof.Machine

/-! ### Registers as sources and destinations -/

/-- A register source leaves the state as it is. -/
theorem getS_isReg_state {s u : State} {c : BitVec 5} {x : Word} (hc : isReg c) (h : getS c s = .ok (x, u)) : u = s := by
  cases ht : s.thread? s.cur.tid with
  | none => simp [getS, show c.toNat < 24 from hc, self, ht] at h
  | some t =>
    rw [getS_reg ht hc] at h
    cases h
    rfl

/-- A vector register source leaves the state as it is. -/
theorem getV_register_state {s u : State} {c : BitVec 5} {x : VWord} (hc : c.toNat < 28) (h : getV c s = .ok (x, u)) : u = s := by
  cases ht : s.thread? s.cur.tid with
  | none => simp [getV, hc, self, ht] at h
  | some t =>
    simp only [getV, hc, if_true, bindRun, selfRun ht, pureRun] at h
    cases h
    rfl

section
variable {s : State} {t : Thread} {us : List Use} {a b d : BitVec 5} {g : Gov} {i : Instr} {len : Nat}

theorem Reading.getS_reg (h : Reading (.sR a :: us) s s t) (ha : isReg a) : ∃ x, Machine.getS a s = .ok (x, s) ∧ Reading us s s t := by
  obtain ⟨x, u, hx, hread⟩ := h.getS
  cases getS_isReg_state ha hx
  exact ⟨x, hx, hread⟩

theorem Reading.getV_reg (h : Reading (.vR a :: us) s s t) (ha : a.toNat < 28) :
    ∃ x, Machine.getV a s = .ok (x, s) ∧ Reading us s s t := by
  obtain ⟨x, u, hx, hread⟩ := h.getV
  cases getV_register_state ha hx
  exact ⟨x, hx, hread⟩

/-- The scalar register that a field names. -/
def fieldOf (d : BitVec 5) : Nat → Bool := fun k => decide (k = d.toNat)

theorem fieldOf_self (d : BitVec 5) : fieldOf d d.toNat = true := decide_eq_true rfl

/-! ### Frames of what completes -/

theorem Writes.changesOnly {w : Word} (h : Writes i len d w s s) (ht : s.thread? s.cur.tid = some t) (hd : isReg d) :
    ChangesOnly i s t (fieldOf d) noneOf noneOf false := by
  obtain ⟨u, hu, hret⟩ := h
  exact ((Alters.refl ht).setS hd (fieldOf_self d) hu).changesOnly hret

theorem WritesPred.changesOnly {c : Bool} (h : WritesPred i len d c s s) (ht : s.thread? s.cur.tid = some t) :
    ChangesOnly i s t noneOf (fieldOf d) noneOf false := by
  obtain ⟨u, hu, hret⟩ := h
  exact ((Alters.refl ht).setP (fieldOf_self d) hu).changesOnly hret

theorem WritesF32.changesOnly {r : W32 × FF} (h : WritesF32 i len d r s s) (ht : s.thread? s.cur.tid = some t) (hd : isReg d) :
    ChangesOnly i s t (fieldOf d) noneOf noneOf true := by
  obtain ⟨v, u, hv, hu, hret⟩ := h
  exact (((Alters.refl ht).mergeFlags hv).setS hd (fieldOf_self d) hu).changesOnly hret

theorem WritesLanes.changesOnly {on : Nat → Bool} {f : Nat → W32} (h : WritesLanes i len d on f t s s)
    (ht : s.thread? s.cur.tid = some t) (hd : d.toNat < 28) : ChangesOnly i s t noneOf noneOf (fieldOf d) false := by
  obtain ⟨x, u, -, hu, hret⟩ := h
  exact ((Alters.refl ht).setV hd (fieldOf_self d) hu).changesOnly hret

theorem WritesLanesF.changesOnly {on : Nat → Bool} {f : Nat → W32 × FF} (h : WritesLanesF i len d on f t s s)
    (ht : s.thread? s.cur.tid = some t) (hd : d.toNat < 28) : ChangesOnly i s t noneOf noneOf (fieldOf d) true := by
  obtain ⟨v, hv, x, u, -, hu, hret⟩ := h
  exact (((Alters.refl ht).mergeFlags hv).setV hd (fieldOf_self d) hu).changesOnly hret

/-! ### The register instructions -/

theorem aluRR_changesOnly {f : Word → Word → Word} (ha : isReg a) (hb : isReg b) (hd : isReg d)
    (h : CanIssue (governed true g [.sR a, .sR b, .sW d]) s t) (hi : ∀ s, exec i s = aluRR f d a b g s) :
    ChangesOnly i s t (fieldOf d) noneOf noneOf false := by
  obtain ⟨x, hx, hread⟩ := h.reading.getS_reg ha
  obtain ⟨y, hy, hread⟩ := hread.getS_reg hb
  exact (writes_of_two_sources h rfl hread (hi s) hx hy).changesOnly h.self hd

theorem aluR_changesOnly {f : Word → Word} (hb : isReg b) (hd : isReg d) (h : CanIssue (governed true g [.sR b, .sW d]) s t)
    (hi : ∀ s, exec i s = aluR f d b g s) : ChangesOnly i s t (fieldOf d) noneOf noneOf false := by
  obtain ⟨y, hy, hread⟩ := h.reading.getS_reg hb
  exact (writes_of_body h rfl hread (hi s) (bindRun_ok hy)).changesOnly h.self hd

theorem aluI_changesOnly {f : Word → Word} (ha : isReg a) (hd : isReg d) (h : CanIssue (plain true [.sR a, .sW d]) s t)
    (hi : ∀ s, exec i s = aluI f d a s) : ChangesOnly i s t (fieldOf d) noneOf noneOf false := by
  obtain ⟨x, hx, hread⟩ := h.reading.getS_reg ha
  exact (writes_of_body h rfl hread (hi s) (bindRun_ok hx)).changesOnly h.self hd

theorem cmpRR_changesOnly {f : Word → Word → Bool} (ha : isReg a) (hb : isReg b)
    (h : CanIssue (governed (predField d) g [.sR a, .sR b]) s t) (hi : ∀ s, exec i s = cmpRR f d a b g s) :
    ChangesOnly i s t noneOf (fieldOf d) noneOf false := by
  obtain ⟨x, hx, hread⟩ := h.reading.getS_reg ha
  obtain ⟨y, hy, -⟩ := hread.getS_reg hb
  exact (cmpRR_writesPred h (hi s) hx hy).changesOnly h.self

theorem fpRR_changesOnly {o : FOp} (ha : isReg a) (hb : isReg b) (hd : isReg d)
    (h : CanIssue (fpNeed true g [.sR a, .sR b, .sW d] 4) s t) (hi : ∀ s, exec i s = fpRR o none 4 d a b g s) :
    ChangesOnly i s t (fieldOf d) noneOf noneOf true := by
  obtain ⟨x, hx, hread⟩ := h.reading.getS_reg ha
  obtain ⟨y, hy, hread⟩ := hread.getS_reg hb
  exact (fpRR_writesF32 h (hi s) hx hy hread).changesOnly h.self hd

theorem fpCmp_changesOnly {c : FCmp} (ha : isReg a) (hb : isReg b)
    (h : CanIssue (fpNeed (predField d) g [.sR a, .sR b] 4) s t) (hi : ∀ s, exec i s = fpCmp c none 4 d a b g s) :
    ChangesOnly i s t noneOf (fieldOf d) noneOf true := by
  obtain ⟨x, hx, hread⟩ := h.reading.getS_reg ha
  obtain ⟨y, hy, hread⟩ := hread.getS_reg hb
  obtain ⟨v, u, hv, hu, hret⟩ := fpCmp_retires h (hi s) hx hy hread rfl
  exact (((Alters.refl h.self).mergeFlags hv).setP (fieldOf_self d) hu).changesOnly hret

/-! ### The vector instructions -/

/-- Each row of Table 5.3 with two sources is one operation. -/
theorem exec_vectorFpOps {p : Instr × Instr × FOp} (hp : p ∈ vectorFpOps d a b g) :
    (∀ s, exec p.1 s = vfpRR p.2.2 false none 4 d a b g s) ∧ ∀ s, exec p.2.1 s = vfpRR p.2.2 true none 4 d a b g s := by
  simp only [vectorFpOps, List.mem_cons, List.not_mem_nil, or_false] at hp
  rcases hp with rfl | rfl | rfl | rfl | rfl | rfl <;> exact ⟨fun _ => rfl, fun _ => rfl⟩

/-- A two-source FP32 lane operation whose sources have been read rounds, merges the active lanes' flags and writes them. -/
theorem vfpRR_writesLanesF {s1 s2 : State} {o : FOp} {scalar : Bool} {x : VWord} {y : Nat → W32}
    (h : CanIssue (vecNeed g.legal [.vR a, useB scalar b, .vW d] len) s t)
    (hi : exec i s = vfpRR o scalar none len d a b g s) (hx : getV a s = .ok (x, s1)) (hy : getB scalar b s1 = .ok (y, s2))
    (hread : Reading [.vW d] s s2 t) :
    WritesLanesF i len d (laneOn t s.cur.acc g) (fun k => fop o none (rmOf (t.ctx s.cur.acc).fstat) (lane x k) (y k) 0) t s s2 := by
  obtain ⟨on, hon, hlanes⟩ := activeLanes_run g h.self
  exact writesLanesF_of_body (fun rm k => fop o none rm (lane x k) (y k) 0) (h.withLanes g rfl) rfl hlanes hread hi
    ((bindRun_ok hon).trans ((bindRun_ok hx).trans (bindRun_ok hy)))

theorem vintRR_changesOnly {o : VI} (hd : d.toNat < 28) (ha : a.toNat < 28) (hb : b.toNat < 28)
    (h : CanIssue (vecNeed g.legal [.vR a, .vR b, .vW d] 4) s t) (hi : ∀ s, exec i s = vintRR o false none 4 d a b g s) :
    ChangesOnly i s t noneOf noneOf (fieldOf d) false := by
  obtain ⟨x, hx, hread⟩ := h.reading.getV_reg ha
  obtain ⟨y, hy, hread⟩ := hread.getV_reg hb
  exact (vintRR_writesLanes (scalar := false) h (hi s) hx (bindRun_ok hy) hread.room rfl hread.self).changesOnly h.self hd

theorem vfpRR_changesOnly {o : FOp} (hd : d.toNat < 28) (ha : a.toNat < 28) (hb : b.toNat < 28)
    (h : CanIssue (vecNeed g.legal [.vR a, .vR b, .vW d] 4) s t) (hi : ∀ s, exec i s = vfpRR o false none 4 d a b g s) :
    ChangesOnly i s t noneOf noneOf (fieldOf d) true := by
  obtain ⟨x, hx, hread⟩ := h.reading.getV_reg ha
  obtain ⟨y, hy, hread⟩ := hread.getV_reg hb
  exact (vfpRR_writesLanesF (scalar := false) h (hi s) hx (bindRun_ok hy) hread).changesOnly h.self hd

end

/-! ### Accesses to the core's own local store -/

section
variable {s : State} {t : Thread} {ea : Word} {off : Nat}

/-- An instruction that has not issued finds no answer to an access (R196). -/
theorem answered_fresh (ht : s.thread? s.cur.tid = some t) (hf : Fresh s t) : answered s = .ok (none, s) := by
  rw [answered, bindRun_ok (ctx_run ht)]
  simp [hf.idle, hf.none]

theorem clearMoved_still (ht : s.thread? s.cur.tid = some t) (hm : t.moved = false) : clearMoved s = .ok ((), s) := by
  simp [clearMoved, selfRun ht, hm]

/-- R192, R193: an access to the own local store that a window permits is made at once. -/
theorem accessNow_own {k : Taker} {o : MemOp} (ht : s.thread? s.cur.tid = some t) (h : OwnLocal s t ea o.size o.writes off) :
    accessNow k o ea s = .ok (.value (s.plainOp (lsLoc t.core off) o).1, (s.plainOp (lsLoc t.core off) o).2) := by
  simp [accessNow, selfRun ht, h.route, h.aligned, h.window]

/-- R195: so is that of an instruction which has not issued before, in a thread that the access leaves where it is. -/
theorem accessAt_own {k : Taker} {o : MemOp} {w : Word} {u : State} {r : Thread} (ht : s.thread? s.cur.tid = some t)
    (hf : Fresh s t) (h : OwnLocal s t ea o.size o.writes off) (hop : s.plainOp (lsLoc t.core off) o = (w, u))
    (hr : u.thread? u.cur.tid = some r) (hm : r.moved = false) : accessAt k o ea s = .ok (.value w, u) := by
  have hnow := accessNow_own (k := k) ht h
  rw [hop] at hnow
  rw [accessAt, bindRun_ok (answered_fresh ht hf)]
  exact (bindRun_ok hnow).trans (bindRun_ok (clearMoved_still hr hm))

/-- R197: a load from the own local store gives D the bytes at its address, extended. -/
theorem loadTo_own {signed : Bool} {n : Nat} (d : BitVec 5) (ht : s.thread? s.cur.tid = some t) (hf : Fresh s t)
    (h : OwnLocal s t ea n false off) :
    loadTo signed n ea d s = (do setS d (extend signed n (s.mem.num (lsLoc t.core off) n)); pure Next.seq) s := by
  have hop : s.plainOp (lsLoc t.core off) { kind := .load, signed := signed, size := n, data := 0, compare := 0 } =
      (extend signed n (s.mem.num (lsLoc t.core off) n), s) := rfl
  exact bindRun_ok (accessAt_own ht hf h hop ht hf.still)

/-- Steps that each leave every state as it is leave it so together. -/
theorem foldl_of_fixed {α β : Type} {f : β → α → β} {l : List α} (h : ∀ e ∈ l, ∀ u, f u e = u) (u : β) : l.foldl f u = u := by
  induction l with
  | nil => rfl
  | cons e l ih =>
    rw [List.foldl_cons, h e (List.mem_cons_self ..)]
    exact ih fun e he => h e (List.mem_cons_of_mem _ he)

/-- Nobody waits, so nobody is woken (R253). -/
theorem State.wakeIf_of_noSleeper (p : Thread → WaitKey → Bool) (h : NoSleeper s) : s.wakeIf p = s := by
  refine foldl_of_fixed (fun e he u => ?_) s
  obtain ⟨tid, t⟩ := e
  dsimp only
  split
  · exact absurd (by assumption) (h _ he _)
  · rfl

theorem State.plainWrite_of_noSleeper (loc : Nat) (bs : List Byte) (h : NoSleeper s) :
    s.plainWrite loc bs = { s with mem := s.mem.putBytes loc bs } := by
  rw [State.plainWrite, State.wakeAddr]
  exact State.wakeIf_of_noSleeper _ h

theorem leBytes_length (n w : Nat) : (leBytes n w).length = n := by
  induction n generalizing w with
  | zero => rfl
  | succ n ih => rw [leBytes, List.length_cons, ih]

/-- The low n bytes of a number are those of its residue. -/
theorem leBytes_mod (n w : Nat) : leBytes n (w % 2 ^ (8 * n)) = leBytes n w := by
  induction n generalizing w with
  | zero => rfl
  | succ n ih =>
    have hpow : 2 ^ (8 * (n + 1)) = 256 * 2 ^ (8 * n) := by ring
    have hlow : BitVec.ofNat 8 (w % 2 ^ (8 * (n + 1))) = BitVec.ofNat 8 w := by
      refine BitVec.eq_of_toNat_eq ?_
      rw [BitVec.toNat_ofNat, BitVec.toNat_ofNat, hpow, Nat.mod_mul_right_mod]
    have hhigh : w % 2 ^ (8 * (n + 1)) / 256 = w / 256 % 2 ^ (8 * n) := by
      rw [hpow, Nat.mod_mul_right_div_self]
    rw [leBytes, leBytes, hlow, hhigh, ih]

/-- R197: a store into the own local store, with no thread waiting, writes the low bytes of its operand. -/
theorem storeFrom_own {n : Nat} {w : Word} (ht : s.thread? s.cur.tid = some t) (hf : Fresh s t) (hs : NoSleeper s)
    (h : OwnLocal s t ea n true off) :
    storeFrom n ea w s = .ok (.seq, { s with mem := s.mem.putBytes (lsLoc t.core off) (leBytes n w.toNat) }) := by
  have hop : s.plainOp (lsLoc t.core off) { kind := .store, signed := false, size := n, data := w, compare := 0 } =
      (0, { s with mem := s.mem.putBytes (lsLoc t.core off) (leBytes n w.toNat) }) := by
    rw [← leBytes_mod, ← State.plainWrite_of_noSleeper _ _ hs]
    rfl
  exact bindRun_ok (accessAt_own ht hf h hop ht hf.still)

/-- Table 7.3: the base-plus-offset loads by size and extension. -/
theorem exec_loadForms {d a : BitVec 5} {imm : BitVec 12} {p : Instr × Bool × Nat} (hp : p ∈ loadForms d a imm) (s : State) :
    exec p.1 s = loadMI p.2.1 p.2.2 d a imm s := by
  simp only [loadForms, List.mem_cons, List.not_mem_nil, or_false] at hp
  rcases hp with rfl | rfl | rfl | rfl | rfl | rfl | rfl <;> rfl

/-- Table 7.3: the base-plus-offset stores by size. -/
theorem exec_storeForms {d a : BitVec 5} {imm : BitVec 12} {p : Instr × Nat} (hp : p ∈ storeForms d a imm) (s : State) :
    exec p.1 s = storeMI p.2 d a imm s := by
  simp only [storeForms, List.mem_cons, List.not_mem_nil, or_false] at hp
  rcases hp with rfl | rfl | rfl | rfl <;> rfl

/-- R197: a base-plus-offset load from the own local store changes its destination alone. -/
theorem loadMI_changesOnly {d a : BitVec 5} {imm : BitVec 12} {signed : Bool} {n : Nat} {i : Instr} (ha : isReg a) (hd : isReg d)
    (hf : Fresh s t) (h : CanIssue (memNeed true [.sR a, .sW d]) s t)
    (hown : OwnLocal s t (leaAdd (t.getReg s.cur.acc a.toNat) (imm.signExtend 64)) n false off)
    (hi : exec i s = loadMI signed n d a imm s) : ChangesOnly i s t (fieldOf d) noneOf noneOf false :=
  have ⟨_, _, hread⟩ := h.reading.getS_reg ha
  (writes_of_body h rfl hread hi ((bindRun_ok (getS_reg h.self ha)).trans (loadTo_own d h.self hf hown))).changesOnly h.self hd

/-- R197: a base-plus-offset store into the own local store completes in the state whose memory has its bytes. -/
theorem storeMI_retires {d a : BitVec 5} {imm : BitVec 12} {n : Nat} {i : Instr} (ha : isReg a) (hd : isReg d)
    (hf : Fresh s t) (hs : NoSleeper s) (h : CanIssue (memNeed true [.sR a, .sR d]) s t)
    (hown : OwnLocal s t (leaAdd (t.getReg s.cur.acc a.toNat) (imm.signExtend 64)) n true off)
    (hi : exec i s = storeMI n d a imm s) :
    Retires i 4 s { s with mem := s.mem.putBytes (lsLoc t.core off) (leBytes n (t.getReg s.cur.acc d.toNat).toNat) } := by
  rw [Retires, hi]
  exact issue_completes h rfl ((bindRun_ok (getS_reg h.self ha)).trans ((bindRun_ok (getS_reg h.self hd)).trans
    (storeFrom_own h.self hf hs hown)))

end

/-- Past an instruction the registers of both streams are as they were. -/
theorem Thread.getReg_past (t : Thread) (acc : Bool) (len : Nat) (stream : Bool) (k : Nat) :
    (t.past acc len).getReg stream k = t.getReg stream k := by
  cases acc <;> cases stream <;> rfl

theorem Thread.past_v (t : Thread) (acc : Bool) (len : Nat) : (t.past acc len).v = t.v := by cases acc <;> rfl

theorem Thread.past_q (t : Thread) (acc : Bool) (len : Nat) : (t.past acc len).q = t.q := by cases acc <;> rfl

/-- R197: an instruction that completes with bytes written at a location changes those bytes and no register. -/
theorem retires_putBytes_frame {s : State} {t : Thread} {i : Instr} {loc n w : Nat} (hwf : s.MemoryWf) (ht : s.thread? s.cur.tid = some t)
    (hret : Retires i 4 s { s with mem := s.mem.putBytes loc (leBytes n w) }) :
    ∃ u r, exec i s = .next u ∧ u.thread? s.cur.tid = some r ∧
      (∀ k, k < n → u.mem.get (loc + k) = (leBytes n w).getD k 0) ∧
      (∀ c, c < loc ∨ loc + n ≤ c → u.mem.get c = s.mem.get c) ∧
      (∀ acc k, k < 24 → r.getReg acc k = t.getReg acc k) ∧ r.v = t.v ∧ r.q = t.q ∧ u.cores = s.cores ∧ u.keys = s.keys ∧
      u.blocks = s.blocks ∧ u.mgmt = s.mgmt := by
  let v : State := { s with mem := s.mem.putBytes loc (leBytes n w) }
  have hv : v.thread? v.cur.tid = some t := ht
  refine ⟨v.setThread s.cur.tid (t.past s.cur.acc 4), t.past s.cur.acc 4, ?_, State.thread?_setThread_same _ _ _, fun k hk => ?_,
    fun c hc => ?_, fun acc k _ => Thread.getReg_past .., Thread.past_v .., Thread.past_q .., rfl, rfl, rfl, rfl⟩
  · rw [hret, State.advance_seq, State.updThread_eq_setThread _ hv]
  · have hlen : k < (leBytes n w).length := by rwa [leBytes_length]
    rw [List.getD_eq_getElem _ _ hlen]
    exact Memory.get_putBytes_same hwf hlen
  · exact Memory.get_putBytes_other hwf (by rwa [leBytes_length])

/-! ### The obligation -/

/-- R101: a predicated-off instruction only moves its stream past itself. -/
theorem retires_off {n : Need} {i : Instr} {body : Exec Next} {s : State} {t : Thread} (h : PredicatedOff n s t)
    (hi : exec i s = issue n body s) : Retires i n.len s s := by
  rw [Retires, hi, issue_off body h]

/-- Settles O54: register instructions, immediates, vector instructions, accesses of local store, predicated-off instructions. -/
theorem frames : Obligations.Frames := by
  unfold Obligations.Frames
  refine ⟨?_, ?_, ?_, ?_, ?_⟩
  · intro s t d a b g x y ha hb dst
    refine ⟨fun hd h p hp => ?_, fun hd h p hp => ?_, fun h p hp => ?_, fun hd h p hp => ?_, fun h p hp => ?_⟩
    · obtain ⟨f, hexec, -⟩ := integerResults_operation hp
      exact aluRR_changesOnly ha hb hd h hexec
    · obtain ⟨f, hexec, -⟩ := unaryResults_operation hp
      exact aluR_changesOnly hb hd h hexec
    · obtain ⟨f, hexec, -⟩ := compareConditions_operation hp
      exact cmpRR_changesOnly ha hb h hexec
    · exact fpRR_changesOnly ha hb hd h (exec_fpBinary hp)
    · exact fpCmp_changesOnly ha hb h (exec_fpCompares hp)
  · intro s t d a imm k x ha hd h p hp
    obtain ⟨f, hexec, -⟩ := immediateResults_operation hp
    exact aluI_changesOnly ha hd h hexec
  · intro s t d a b g hd ha hb h
    refine ⟨fun p hp => ?_, fun p hp => ?_⟩
    · obtain ⟨o, hvec, -, -⟩ := vectorIntegerOps_operation hp
      exact vintRR_changesOnly hd ha hb h hvec
    · exact vfpRR_changesOnly hd ha hb h (exec_vectorFpOps hp).1
  · intro s t d a imm ha hd hf ea
    refine ⟨fun off h p hp hown => loadMI_changesOnly ha hd hf h hown (exec_loadForms hp s), fun off hwf hs h p hp hown => ?_⟩
    exact retires_putBytes_frame hwf h.self (storeMI_retires ha hd hf hs h hown (exec_storeForms hp s))
  · intro s t d a b g x y
    refine ⟨fun h p hp => ?_, fun h p hp => ?_, fun h p hp => ?_, fun h p hp => retires_off h (exec_fpBinary hp s)⟩
    · obtain ⟨f, hexec, -⟩ := integerResults_operation hp
      exact retires_off h (hexec s)
    · obtain ⟨f, hexec, -⟩ := unaryResults_operation hp
      exact retires_off h (hexec s)
    · obtain ⟨f, hexec, -⟩ := compareConditions_operation hp
      exact retires_off h (hexec s)

end Sys2Proof.Machine
end

section
/-! PROOFS. Writing lanes of a vector destination; vector moves, splat, lane index and vector length (R23, R138, R141, R144). -/

namespace Sys2Proof.Machine

/-! ### Delivering lanes -/

section
variable {s u : State} {t : Thread} {n : Need} {i : Instr} {body : Exec Next} {d : BitVec 5} {on : BitVec 64} {active : Nat → Bool}

/-- A lane operation whose sources have been read up to u, and that then writes lanes of D, completes. -/
theorem writesLanes_of_body (f : Nat → W32) (h : CanIssue n s t) (hsys : n.sysRel = false)
    (hon : ∀ k, k < 64 → on.getLsbD k = active k) (hread : Reading [.vW d] s u t) (hi : exec i s = issue n body s)
    (hbody : body s = (do putLanes d on f; pure Next.seq) u) : WritesLanes i n.len d active f t s u := by
  obtain ⟨q, hq⟩ := hread.thread
  obtain ⟨x, v, hx, hset, hput⟩ := putLanes_run on f hread.room hq
  refine ⟨x, v, fun k hk => by rw [hx k hk, hon k hk], hset, ?_⟩
  rw [Retires, hi]
  exact issue_completes h hsys (hbody.trans (bindRun_ok hput))

/-- A lane operation whose sources have been read up to u, and that then merges flags and writes lanes of D, completes. -/
theorem writesLanesF_of_putLanesF (f : Nat → W32 × FF) (h : CanIssue n s t) (hsys : n.sysRel = false)
    (hon : ∀ k, k < 64 → on.getLsbD k = active k) (hread : Reading [.vW d] s u t) (hi : exec i s = issue n body s)
    (hbody : body s = (do putLanesF d on f; pure Next.seq) u) : WritesLanesF i n.len d active f t s u := by
  obtain ⟨v, hv, hroom, r, hself, hvec⟩ := hread.mergeFlags (orFlags on (fun k => (f k).2) 64)
  obtain ⟨x, y, hx, hset, hput⟩ := putLanes_run on (fun k => (f k).1) hroom hself
  have hputF : putLanesF d on f u = .ok ((), y) := (bindRun_ok hv).trans hput
  refine ⟨v, by rw [← orFlags_eq_laneFlags hon]; exact hv, x, y, fun k hk => by rw [hx k hk, hon k hk, hvec], hset, ?_⟩
  rw [Retires, hi]
  exact issue_completes h hsys (hbody.trans (bindRun_ok hputF))

end

/-! ### Moves, splat and lane index -/

section
variable {s s1 : State} {t : Thread} {d a b : BitVec 5} {g : Gov} {i : Instr} {len : Nat}

/-- A one-source integer lane operation writes its function of B to the active lanes of D. -/
theorem vintR_writesLanes {f : W32 → W32} {y : VWord} (h : CanIssue (vecNeed g.legal [.vR b, .vW d] len) s t)
    (hi : exec i s = vintR f len d b g s) (hy : getV b s = .ok (y, s1)) (hread : Reading [.vW d] s s1 t) :
    WritesLanes i len d (laneOn t s.cur.acc g) (fun k => f (lane y k)) t s s1 := by
  obtain ⟨on, hon, hlanes⟩ := activeLanes_run g h.self
  exact writesLanes_of_body (fun k => f (lane y k)) (h.withLanes g rfl) rfl hlanes hread hi ((bindRun_ok hon).trans (bindRun_ok hy))

/-- R137: a scalar B gives every lane its low 32 bits. -/
theorem vsplat_writesLanes {y : Word} (h : CanIssue (vecNeed g.legal [.sR b, .vW d] 4) s t) (hy : getS b s = .ok (y, s1))
    (hread : Reading [.vW d] s s1 t) :
    WritesLanes (.vsplat d b g) 4 d (laneOn t s.cur.acc g) (fun _ => y.setWidth 32) t s s1 := by
  obtain ⟨on, hon, hlanes⟩ := activeLanes_run g h.self
  have hB : getB true b s = .ok (fun _ => y.setWidth 32, s1) := bindRun_ok hy
  exact writesLanes_of_body (fun _ => y.setWidth 32) (h.withLanes g rfl) rfl hlanes hread rfl
    ((bindRun_ok hon).trans (bindRun_ok hB))

theorem vid_writesLanes (h : CanIssue (vecNeed g.legal [.vW d] 4) s t) :
    WritesLanes (.vid d g) 4 d (laneOn t s.cur.acc g) (fun k => BitVec.ofNat 32 k) t s s := by
  obtain ⟨on, hon, hlanes⟩ := activeLanes_run g h.self
  exact writesLanes_of_body (fun k => BitVec.ofNat 32 k) (h.withLanes g rfl) rfl hlanes h.reading rfl (bindRun_ok hon)

/-- The magnitude of a lane; that of -2^31 wraps to itself. -/
theorem laneAbs_eq_ofInt (y : W32) : (if y.msb then -y else y) = BitVec.ofInt 32 y.toInt.natAbs := by
  rw [BitVec.msb_eq_toInt]
  by_cases hneg : y.toInt < 0
  · rw [if_pos (decide_eq_true hneg), Int.ofNat_natAbs_of_nonpos hneg.le, BitVec.ofInt_neg, BitVec.ofInt_toInt]
  · rw [if_neg (by simpa using hneg), Int.natAbs_of_nonneg (not_lt.mp hneg), BitVec.ofInt_toInt]

/-! ### Vector length (R141) -/

/-- A vector length read from A as 0 is left alone. -/
theorem vsetl_zero_writes (h : CanIssue (vecNeed true [.sR a, .sW d] 4) s t) (hn : getS a s = .ok (0, s1))
    (hread : Reading [.sW d] s s1 t) : Writes (.vsetl d a) 4 d 0 s s1 :=
  writes_of_body h rfl hread rfl (bindRun_ok hn)

/-- Another one sets VL to the smaller of it and 64. -/
theorem vsetl_nonzero_writes {n : Word} (h : CanIssue (vecNeed true [.sR a, .sW d] 4) s t) (hn : getS a s = .ok (n, s1))
    (hread : Reading [.sW d] s s1 t) (hne : n ≠ 0) :
    Writes (.vsetl d a) 4 d (BitVec.ofNat 64 (min n.toNat 64)) s
      (s1.updThread s.cur.tid (fun r => { r with vl := min n.toNat 64 })) := by
  have hroom := hread.room.updThread (fun r => { r with vl := min n.toNat 64 }) (fun _ _ => Nat.le_refl _) (fun _ => rfl)
  rw [hread.cur] at hroom
  obtain ⟨u, hu, -⟩ := hroom.setS (BitVec.ofNat 64 (min n.toNat 64))
  refine ⟨u, hu, issue_completes h rfl (f := .seq) ?_⟩
  rw [bindRun_ok hn, if_neg hne]
  exact (bindRun_ok (by rw [updSelfRun, hread.cur])).trans (bindRun_ok hu)

end

/-! ### The obligation -/

/-- Settles O22: the moves and `vabs.s32`, the compact move, `vsplat`, `vid`, then `vsetl`. -/
theorem vectorMovesAndLength : Obligations.VectorMovesAndLength := by
  unfold Obligations.VectorMovesAndLength
  refine ⟨?_, ?_, ?_, ?_, ?_⟩
  · intro s t d b g h
    obtain ⟨y, s1, hy, hread⟩ := h.reading.getV
    refine ⟨y, s1, hy, vintR_writesLanes (f := id) h rfl hy hread, ?_⟩
    simp only [← laneAbs_eq_ofInt]
    exact vintR_writesLanes (f := fun y => if y.msb then -y else y) h rfl hy hread
  · intro s t d b p1 h
    obtain ⟨y, s1, hy, hread⟩ := h.reading.getV
    have hg : CanIssue (vecNeed (compactGov p1).legal [.vR b, .vW d] 2) s t := by rwa [compactGov_legal]
    exact ⟨y, s1, hy, vintR_writesLanes (f := id) hg rfl hy hread⟩
  · intro s t d b g h
    obtain ⟨y, s1, hy, hread⟩ := h.reading.getS
    exact ⟨y, s1, hy, vsplat_writesLanes h hy hread⟩
  · intro s t d g h
    exact vid_writesLanes h
  · intro s t d a h
    obtain ⟨n, s1, hn, hread⟩ := h.reading.getS
    exact ⟨n, s1, hn, fun hzero => vsetl_zero_writes h (hzero ▸ hn) hread, vsetl_nonzero_writes h hn hread⟩

end Sys2Proof.Machine
end

section
/-! PROOFS. The FP32 lane operations: rounded, approximating, fused and dot-product ones (R138, R146 to R149). -/

namespace Sys2Proof.Machine

/-! ### Which operation each instruction is (Table 5.3) -/

section
variable {d a b : BitVec 5} {g : Gov}

theorem exec_vectorFpUnary {p : Instr × FOp} (hp : p ∈ vectorFpUnary d b g) (s : State) :
    exec p.1 s = vfpR p.2 none 4 d b g s := by
  simp only [vectorFpUnary, List.mem_cons, List.not_mem_nil, or_false] at hp
  rcases hp with rfl | rfl | rfl | rfl <;> rfl

/-- R46: of the halfwords of the compact forms, one is illegal. -/
theorem exec_vaddF32Compact {p1 : Bool} (hlegal : ¬(d = 0 ∧ b = 0 ∧ p1 = false)) (s : State) :
    exec (.vaddF32Compact d b p1) s = vfpRR .add false none 2 d d b (compactGov p1) s := by
  refine if_neg ?_
  simpa using hlegal

/-- R56: each compact form is one operation whose A is D. -/
theorem exec_compactFpOps {p1 : Bool} {p : Instr × FOp} (hlegal : ¬(d = 0 ∧ b = 0 ∧ p1 = false))
    (hp : p ∈ compactFpOps d b p1) (s : State) : exec p.1 s = vfpRR p.2 false none 2 d d b (compactGov p1) s := by
  simp only [compactFpOps, List.mem_cons, List.not_mem_nil, or_false] at hp
  rcases hp with rfl | rfl | rfl | rfl | rfl
  · exact exec_vaddF32Compact hlegal s
  all_goals rfl

theorem exec_approxOps {p : Instr × Approx} (hp : p ∈ approxOps d b g) (s : State) :
    exec p.1 s = vapprox p.2 none 4 d b g s := by
  simp only [approxOps, List.mem_cons, List.not_mem_nil, or_false] at hp
  rcases hp with rfl | rfl | rfl | rfl | rfl <;> rfl

theorem exec_fusedOps {p : Instr × Instr × FOp} (hp : p ∈ fusedOps d a b g) (s : State) :
    exec p.1 s = vfused (fop p.2.2) false none 4 d a b g s ∧ exec p.2.1 s = vfused (fop p.2.2) true none 4 d a b g s := by
  simp only [fusedOps, List.mem_cons, List.not_mem_nil, or_false] at hp
  rcases hp with rfl | rfl | rfl | rfl <;> exact ⟨rfl, rfl⟩

end

/-! ### Results in the active lanes -/

section
variable {s s1 s2 s3 : State} {t : Thread} {d a b : BitVec 5} {g : Gov} {i : Instr} {len : Nat} {x y z : VWord}

theorem vfpR_writesLanesF {o : FOp} (h : CanIssue (vecNeed g.legal [.vR b, .vW d] len) s t)
    (hi : exec i s = vfpR o none len d b g s) (hy : getV b s = .ok (y, s1)) (hread : Reading [.vW d] s s1 t) :
    WritesLanesF i len d (laneOn t s.cur.acc g) (fun k => fop o none (rmOf (t.ctx s.cur.acc).fstat) 0 (lane y k) 0) t s s1 := by
  obtain ⟨on, hon, hlanes⟩ := activeLanes_run g h.self
  exact writesLanesF_of_body (fun rm k => fop o none rm 0 (lane y k) 0) (h.withLanes g rfl) rfl hlanes hread hi
    ((bindRun_ok hon).trans (bindRun_ok hy))

/-- R147: an approximation takes no rounding mode. -/
theorem vapprox_writesLanesF {o : Approx} (h : CanIssue (vecNeed g.legal [.vR b, .vW d] len) s t)
    (hi : exec i s = vapprox o none len d b g s) (hy : getV b s = .ok (y, s1)) (hread : Reading [.vW d] s s1 t) :
    WritesLanesF i len d (laneOn t s.cur.acc g) (fun k => o.lane none (lane y k)) t s s1 := by
  obtain ⟨on, hon, hlanes⟩ := activeLanes_run g h.self
  exact writesLanesF_of_putLanesF (fun k => o.lane none (lane y k)) (h.withLanes g rfl) rfl hlanes hread hi
    ((bindRun_ok hon).trans (bindRun_ok hy))

/-- R148: a fused operation reads D, after A and B, as the addend. -/
theorem vfused_writesLanesF {f : Option Mod → RM → W32 → W32 → W32 → W32 × FF} {scalar : Bool} {y : Nat → W32}
    (h : CanIssue (vecNeed g.legal [.vR a, useB scalar b, .vR d, .vW d] len) s t)
    (hi : exec i s = vfused f scalar none len d a b g s) (hx : getV a s = .ok (x, s1)) (hy : getB scalar b s1 = .ok (y, s2))
    (hz : getV d s2 = .ok (z, s3)) (hread : Reading [.vW d] s s3 t) :
    WritesLanesF i len d (laneOn t s.cur.acc g) (fun k => f none (rmOf (t.ctx s.cur.acc).fstat) (lane x k) (y k) (lane z k))
      t s s3 := by
  obtain ⟨on, hon, hlanes⟩ := activeLanes_run g h.self
  exact writesLanesF_of_body (fun rm k => f none rm (lane x k) (y k) (lane z k)) (h.withLanes g rfl) rfl hlanes hread hi
    ((bindRun_ok hon).trans ((bindRun_ok hx).trans ((bindRun_ok hy).trans (bindRun_ok hz))))

/-- Lanes that raise no flag leave `%fstat` as it is. -/
theorem WritesLanesF.writesLanes {on : Nat → Bool} {f : Nat → W32} (h : WritesLanesF i len d on (fun k => (f k, FF.none)) t s s1)
    (hread : Reading [.vW d] s s1 t) : WritesLanes i len d on f t s s1 := by
  obtain ⟨v, hv, x, u, hx, hset, hret⟩ := h
  obtain ⟨q, hq⟩ := hread.thread
  have hnone : laneFlags on (fun _ => FF.none) = FF.none := by simp [laneFlags, FF.none]
  rw [hnone, mergeFlags_none hq] at hv
  cases hv
  exact ⟨x, u, hx, hset, hret⟩

end

/-! ### The s8 dot product (R149) -/

/-- Scaling by 2^0 is exact. -/
theorem scaleInt_zero (rm : RM) (i : Int) : scaleInt rm i 0 = i := by
  have hround : (roundMul rm (decide (i < 0)) i.natAbs 0 false 0).1 = i.natAbs := by simp [roundMul]
  rw [scaleInt, hround, signed]
  by_cases hneg : i < 0
  · rw [if_pos (decide_eq_true hneg)]
    omega
  · rw [if_neg (by simpa using hneg)]
    omega

/-- Without a modifier a lane of `vdot.s8` is the four products plus the addend, wrapped. -/
theorem dotS8_none (rm : RM) (x y z : W32) :
    dotS8 none rm x y z = (BitVec.ofInt 32 (((List.range 4).map (fun j =>
      (x.extractLsb' (8 * j) 8).toInt * (y.extractLsb' (8 * j) 8).toInt)).sum + z.toInt), FF.none) := by
  have hsum (p : Nat → Int) : ((List.range 4).map p).sum = p 0 + p 1 + p 2 + p 3 := by
    simp [List.range_succ, add_assoc]
  have hlane (w : W32) (j : Nat) : s8Mod w j false false = (w.extractLsb' (8 * j) 8).toInt := rfl
  rw [hsum]
  simp only [dotS8, tailOf, Tail.none, scaleInt_zero, negA, absA, negB, absB, hlane]
  rfl

/-! ### The obligation -/

/-- Settles O23: the rounded operations of two and of one source with their compact forms, then the approximations, and the fused and
dot-product operations. -/
theorem vectorFpResults : Obligations.VectorFpResults := by
  unfold Obligations.VectorFpResults
  refine ⟨⟨?_, ?_, ?_, ?_, ?_⟩, ?_, ?_, ?_⟩
  · intro s t d a b g h
    obtain ⟨x, s1, hx, hread⟩ := h.reading.getV
    obtain ⟨y, s2, hy, hread⟩ := hread.getV
    exact ⟨x, s1, y, s2, hx, hy, fun p hp =>
      vfpRR_writesLanesF (scalar := false) h ((exec_vectorFpOps hp).1 s) hx (bindRun_ok hy) hread⟩
  · intro s t d a b g h
    obtain ⟨x, s1, hx, hread⟩ := h.reading.getV
    obtain ⟨y, s2, hy, hread⟩ := hread.getS
    exact ⟨x, s1, y, s2, hx, hy, fun p hp =>
      vfpRR_writesLanesF (scalar := true) h ((exec_vectorFpOps hp).2 s) hx (bindRun_ok hy) hread⟩
  · intro s t d b g h
    obtain ⟨y, s1, hy, hread⟩ := h.reading.getV
    exact ⟨y, s1, hy, fun p hp => vfpR_writesLanesF h (exec_vectorFpUnary hp s) hy hread⟩
  · intro s t d b p1 h hlegal
    obtain ⟨x, s1, hx, hread⟩ := h.reading.getV
    obtain ⟨y, s2, hy, hread⟩ := hread.getV
    have hg : CanIssue (vecNeed (compactGov p1).legal [.vR d, .vR b, .vW d] 2) s t := by rwa [compactGov_legal]
    exact ⟨x, s1, y, s2, hx, hy, fun p hp =>
      vfpRR_writesLanesF (scalar := false) hg (exec_compactFpOps hlegal hp s) hx (bindRun_ok hy) hread⟩
  · intro s t d b p1 h
    obtain ⟨y, s1, hy, hread⟩ := h.reading.getV
    have hg : CanIssue (vecNeed (compactGov p1).legal [.vR b, .vW d] 2) s t := by rwa [compactGov_legal]
    exact ⟨y, s1, hy, vfpR_writesLanesF hg rfl hy hread⟩
  · intro s t d b g h
    obtain ⟨y, s1, hy, hread⟩ := h.reading.getV
    exact ⟨y, s1, hy, fun p hp => vapprox_writesLanesF h (exec_approxOps hp s) hy hread⟩
  · intro s t d a b g h
    obtain ⟨x, s1, hx, hread⟩ := h.reading.getV
    obtain ⟨y, s2, hy, hread⟩ := hread.getV
    obtain ⟨z, s3, hz, hread⟩ := hread.getV
    have hfused {f i} (hi : exec i s = vfused f false none 4 d a b g s) :=
      vfused_writesLanesF (scalar := false) h hi hx (bindRun_ok hy) hz hread
    refine ⟨x, s1, y, s2, z, s3, hx, hy, hz, fun p hp => hfused (exec_fusedOps hp s).1, hfused rfl, ?_⟩
    have hdot := hfused (f := dotS8) (i := .vdotS8 d a b g) rfl
    simp only [dotS8_none] at hdot
    exact hdot.writesLanes hread
  · intro s t d a b g h
    obtain ⟨x, s1, hx, hread⟩ := h.reading.getV
    obtain ⟨y, s2, hy, hread⟩ := hread.getS
    obtain ⟨z, s3, hz, hread⟩ := hread.getV
    exact ⟨x, s1, y, s2, z, s3, hx, hy, hz, fun p hp =>
      vfused_writesLanesF (scalar := true) h (exec_fusedOps hp s).2 hx (bindRun_ok hy) hz hread⟩

end Sys2Proof.Machine
end

section
/-! PROOFS. Block quantisation and dequantisation (R89 to R91, R152, R153). -/

namespace Sys2Proof.Machine

/-! ### The payload of a coded block (R81, Table 5.6) -/

theorem packNibbles_length (l : List Nat) : (packNibbles l).length = (l.length + 1) / 2 := by
  induction l using packNibbles.induct with
  | case1 a b l ih =>
    rw [packNibbles, List.length_cons, ih, List.length_cons, List.length_cons]
    omega
  | case2 a => simp [packNibbles]
  | case3 => simp [packNibbles]

/-- A BX4 block of 32 values has 4 words of codes. -/
theorem bx4Rule_payload_length {l : List FVal} (hl : l.length = 32) : (bx4Rule l).payload.length = 4 * 4 := by
  simp only [bx4Rule]
  split
  · exact List.length_replicate
  · split <;> simp [packNibbles_length, hl]

/-- A BX8I block of 32 values has 8 words of codes. -/
theorem bx8iRule_payload_length {l : List FVal} (hl : l.length = 32) : (bx8iRule l).payload.length = 4 * 8 := by
  simp only [bx8iRule]
  split
  · exact List.length_replicate
  · split
    · exact List.length_replicate
    · simp [hl]

/-! ### Merging the flags of several blocks -/

/-- The operands us can be served in u, and the issuing thread has the vector registers of t there. -/
structure KeepsVectors (us : List Use) (t : Thread) (u : State) : Prop where
  room : Room us u
  self : ∃ r, u.thread? u.cur.tid = some r ∧ r.v = t.v

theorem Reading.keepsVectors {us : List Use} {s u : State} {t : Thread} (h : Reading us s u t) : KeepsVectors us t u := by
  obtain ⟨q, hq⟩ := h.thread
  exact ⟨h.room, _, hq, rfl⟩

section
variable {us : List Use} {t : Thread} {u : State}

theorem KeepsVectors.mergeFlags (h : KeepsVectors us t u) (f : FF) : ∃ v, mergeFlags f u = .ok ((), v) ∧ KeepsVectors us t v := by
  obtain ⟨r, hr, hvec⟩ := h.self
  refine ⟨_, rfl, h.room.updThread _ (fun r k => by rw [getCtx_q]) (fun r => getCtx_core _ _ _), _,
    by rw [State.updThread_cur]; exact State.thread?_updThread_same _ hr, ?_⟩
  rw [← hvec]
  cases u.cur.acc <;> rfl

/-- Merge the flags of coded blocks, in order, after what m does. -/
def mergeBlocks (bs : List Coded) (m : Exec Unit) : Exec Unit :=
  bs.foldl (fun e c => do
    e
    Machine.mergeFlags c.flags) m

theorem mergeBlocks_run {s : State} {m : Exec Unit} (bs : List Coded) (hm : m s = .ok ((), u)) (h : KeepsVectors us t u) :
    ∃ v, mergeBlocks bs m s = .ok ((), v) ∧ KeepsVectors us t v := by
  induction bs generalizing m u with
  | nil => exact ⟨u, hm, h⟩
  | cons c bs ih =>
    obtain ⟨v, hv, hkeep⟩ := h.mergeFlags c.flags
    exact ih ((bindRun_ok hm).trans hv) hkeep

end

/-! ### Quantisation (R152) -/

/-- The mask of the lanes below n. -/
theorem getLsbD_lanesBelow (n : Nat) {k : Nat} (hk : k < 64) : (BitVec.ofNat 64 (2 ^ n - 1)).getLsbD k = decide (k < n) := by
  rw [BitVec.getLsbD_ofNat, Nat.testBit_two_pow_sub_one, decide_eq_true hk, Bool.true_and]

/-- The coded blocks of n times 32 lanes, of which only the active ones keep their value. -/
def quantBlocks (rule : List FVal → Coded) (m : Option Mod) (on : Nat → Bool) (x : VWord) (n : Nat) : List Coded :=
  (List.range n).map (fun k => rule ((List.range 32).map (fun i => quantSource m (on (32 * k + i)) (lane x (32 * k + i)))))

theorem quantBlocks_congr {rule : List FVal → Coded} {m : Option Mod} {on active : Nat → Bool} {x : VWord} {n : Nat}
    (h : ∀ k, k < 32 * n → on k = active k) : quantBlocks rule m on x n = quantBlocks rule m active x n := by
  refine List.map_congr_left fun k hk => congrArg rule (List.map_congr_left fun i hi => ?_)
  rw [List.mem_range] at hk hi
  rw [h _ (by omega)]

/-- The words of codes of each block, as the first block of a list tells. -/
def wordsPerBlock (bs : List Coded) : Nat :=
  match bs with
  | c :: _ => c.payload.length / 4
  | [] => 0

theorem wordsPerBlock_quantBlocks {rule : List FVal → Coded} {per : Nat}
    (hrule : ∀ l : List FVal, l.length = 32 → (rule l).payload.length = 4 * per) (m : Option Mod) (on : Nat → Bool) (x : VWord)
    {n : Nat} (hn : n ≠ 0) : wordsPerBlock (quantBlocks rule m on x n) = per := by
  obtain ⟨n, rfl⟩ := Nat.exists_eq_succ_of_ne_zero hn
  rw [quantBlocks, List.range_succ_eq_map (n := n), List.map_cons, wordsPerBlock, hrule _ (by simp)]
  omega

section
variable {s s1 : State} {t : Thread} {d a : BitVec 5} {g : Gov} {i : Instr} {x : VWord} {len : Nat}

/-- What a quantisation does once its source has been read: with no whole block a port receives zeros, a register nothing. -/
def putBlocks (vl : Nat) (bs : List Coded) (d : BitVec 5) : Exec Next := do
  if vl / 32 = 0 then
    if 28 ≤ d.toNat then setV d 0
    pure .seq
  else
    mergeBlocks bs (pure ())
    putLanes d (BitVec.ofNat 64 (2 ^ vl - 1)) (blockLanes bs (wordsPerBlock bs))
    pure .seq

/-- The meaning of a quantisation: A is read, then its blocks are put. -/
theorem vquant_eq (rule : List FVal → Coded) (m : Option Mod) (s : State) :
    vquant rule m len d a g s = vecIssue g (vecNeed g.legal [.vR a, .vW d] len) (do
      let t ← self
      let on ← activeLanes g
      let x ← getV a
      putBlocks t.vl (quantBlocks rule m on.getLsbD x (t.vl / 32)) d) s := rfl

/-- R152: with no whole block below VL no register is written. -/
theorem putBlocks_none {u : State} {vl : Nat} (bs : List Coded) (hvl : vl < 32) (hd : d.toNat < 28) :
    putBlocks vl bs d u = .ok (.seq, u) := by
  have hzero : vl / 32 = 0 := Nat.div_eq_of_lt hvl
  have hport : ¬28 ≤ d.toNat := by omega
  simp [putBlocks, hzero, hport]

/-- R152: else the flags of the blocks are merged and every lane below VL is written. -/
theorem putBlocks_run {u : State} {vl : Nat} (bs : List Coded) (hvl : 32 ≤ vl) (hkeep : KeepsVectors [.vW d] t u) :
    ∃ v w y, mergeBlocks bs (pure ()) u = .ok ((), v) ∧
      (∀ k, k < 64 → lane w k = if k < vl then blockLanes bs (wordsPerBlock bs) k
        else if d.toNat < 28 then lane (vget t.v d.toNat 0) k else 0) ∧
      setV d w v = .ok ((), y) ∧ putBlocks vl bs d u = .ok (.seq, y) := by
  have hpos : ¬vl / 32 = 0 := by omega
  obtain ⟨v, hv, hroom, r, hr, hvec⟩ := mergeBlocks_run bs (pureRun () u) hkeep
  obtain ⟨w, y, hw, hset, hput⟩ := putLanes_run (BitVec.ofNat 64 (2 ^ vl - 1)) (blockLanes bs (wordsPerBlock bs)) hroom hr
  refine ⟨v, w, y, hv, fun k hk => ?_, hset, ?_⟩
  · simp only [hw k hk, getLsbD_lanesBelow _ hk, decide_eq_true_eq, hvec]
  · rw [putBlocks, if_neg hpos]
    exact (bindRun_ok hv).trans (bindRun_ok hput)

/-- A quantisation whose source has been read completes (R152). -/
theorem vquant_quantises {rule : List FVal → Coded} {per : Nat}
    (hrule : ∀ l : List FVal, l.length = 32 → (rule l).payload.length = 4 * per)
    (h : CanIssue (vecNeed g.legal [.vR a, .vW d] len) s t) (hi : exec i s = vquant rule none len d a g s)
    (hx : getV a s = .ok (x, s1)) (hread : Reading [.vW d] s s1 t) : Quantises none i rule per len d g x t s s1 := by
  obtain ⟨on, hon, hlanes⟩ := activeLanes_run g h.self
  let bs := quantBlocks rule none on.getLsbD x (t.vl / 32)
  have hbody {v : State} (hput : putBlocks t.vl bs d s1 = .ok (.seq, v)) : Retires i len s v := by
    rw [Retires, hi, vquant_eq]
    exact issue_completes (h.withLanes g rfl) rfl
      ((bindRun_ok (selfRun h.self)).trans ((bindRun_ok hon).trans ((bindRun_ok hx).trans hput)))
  refine ⟨fun hvl hd => hbody (putBlocks_none bs hvl hd), fun hvl hmax => ?_⟩
  have hbs : bs = quantBlocks rule none (laneOn t s.cur.acc g) x (t.vl / 32) :=
    quantBlocks_congr fun k hk => hlanes k (by omega)
  obtain ⟨v, w, u, hv, hw, hset, hput⟩ := putBlocks_run bs hvl hread.keepsVectors
  rw [wordsPerBlock_quantBlocks hrule _ _ _ (by omega)] at hw
  rw [hbs] at hv hw
  exact ⟨v, w, u, hv, hw, hset, hbody hput⟩

/-! ### Dequantisation (R153) -/

/-- Element k mod 32 of block k / 32 of n coded ones, as an f32 (R91). -/
def dequantLane (bx4 : Bool) (m : Option Mod) (x : VWord) (n : Nat) (rm : RM) (k : Nat) : W32 × FF :=
  let c := codedOf bx4 n (k / 32) x
  let v := (if bx4 then c.bx4 (k % 32) else c.bx8i (k % 32)).mod (negA m) (absA m)
  let r := Fmt.f32.deliver rm (tailOf m) v.exact
  (BitVec.ofNat 32 r.1, r.2)

/-- A dequantisation whose source has been read completes (R153). -/
theorem vdequant_dequantises {bx4 : Bool} (h : CanIssue (vecNeed g.legal [.vR a, .vW d] len) s t)
    (hi : exec i s = vdequant bx4 none len d a g s) (hx : getV a s = .ok (x, s1)) (hread : Reading [.vW d] s s1 t) :
    Dequantises none (rmOf (t.ctx s.cur.acc).fstat) i bx4 len d g x t s s1 := by
  obtain ⟨on, hon, hlanes⟩ := activeLanes_run g h.self
  have hactive : ∀ k, k < 64 → (on &&& BitVec.ofNat 64 (2 ^ (32 * (t.vl / 32)) - 1)).getLsbD k =
      (laneOn t s.cur.acc g k && decide (k < t.vl / 32 * 32)) := fun k hk => by
    rw [BitVec.getLsbD_and, hlanes k hk, getLsbD_lanesBelow _ hk, Nat.mul_comm]
  exact writesLanesF_of_putLanesF (dequantLane bx4 none x (t.vl / 32) (rmOf (t.ctx s.cur.acc).fstat)) (h.withLanes g rfl) rfl
    hactive hread hi
    ((bindRun_ok (selfRun h.self)).trans ((bindRun_ok hon).trans ((bindRun_ok hx).trans (bindRun_ok hread.modeOf))))

end

/-! ### The obligation -/

/-- Settles O25: the two quantisations, then the two dequantisations. -/
theorem blockQuantisation : Obligations.BlockQuantisation := by
  unfold Obligations.BlockQuantisation
  intro s t d a g h
  obtain ⟨x, s1, hx, hread⟩ := h.reading.getV
  exact ⟨x, s1, hx, vquant_quantises (fun _ => bx4Rule_payload_length) h rfl hx hread,
    vquant_quantises (fun _ => bx8iRule_payload_length) h rfl hx hread, vdequant_dequantises h rfl hx hread,
    vdequant_dequantises h rfl hx hread⟩

end Sys2Proof.Machine
end

section
/-! PROOFS. Permutes, compress and expand (R155, R156). -/

namespace Sys2Proof.Machine

section
variable {s s1 s2 : State} {t : Thread} {d a b : BitVec 5} {g : Gov} {i : Instr} {x y : VWord}

/-! ### Permutes (R155) -/

theorem permVector_writesLanes {f : Nat → VWord → VWord → Nat → W32} (h : CanIssue (vecNeed g.legal [.vR a, .vR b, .vW d] 4) s t)
    (hi : exec i s = permVector f d a b g s) (hx : getV a s = .ok (x, s1)) (hy : getV b s1 = .ok (y, s2))
    (hread : Reading [.vW d] s s2 t) : WritesLanes i 4 d (laneOn t s.cur.acc g) (f t.vl x y) t s s2 := by
  obtain ⟨on, hon, hlanes⟩ := activeLanes_run g h.self
  exact writesLanes_of_body (f t.vl x y) (h.withLanes g rfl) rfl hlanes hread hi
    ((bindRun_ok (selfRun h.self)).trans ((bindRun_ok hon).trans ((bindRun_ok hx).trans (bindRun_ok hy))))

theorem permScalar_writesLanes {f : Nat → VWord → Nat → Nat → W32} {n : Word}
    (h : CanIssue (vecNeed g.legal [.vR a, .sR b, .vW d] 4) s t) (hi : exec i s = permScalar f d a b g s)
    (hx : getV a s = .ok (x, s1)) (hn : getS b s1 = .ok (n, s2)) (hread : Reading [.vW d] s s2 t) :
    WritesLanes i 4 d (laneOn t s.cur.acc g) (f t.vl x n.toNat) t s s2 := by
  obtain ⟨on, hon, hlanes⟩ := activeLanes_run g h.self
  exact writesLanes_of_body (f t.vl x n.toNat) (h.withLanes g rfl) rfl hlanes hread hi
    ((bindRun_ok (selfRun h.self)).trans ((bindRun_ok hon).trans ((bindRun_ok hx).trans (bindRun_ok hn))))

/-- Each permute by a vector B moves the lanes of A and B by one function. -/
theorem exec_vectorPermutes {vl : Nat} {p : Instr × (Nat → W32)} (hp : p ∈ vectorPermutes d a b g vl x y) :
    ∃ f : Nat → VWord → VWord → Nat → W32, (∀ s, exec p.1 s = permVector f d a b g s) ∧ f vl x y = p.2 := by
  simp only [vectorPermutes, List.mem_cons, List.not_mem_nil, or_false] at hp
  rcases hp with rfl | rfl | rfl
  · exact ⟨fun vl x y k => laneBelow vl x ((lane y k).toNat % 64), fun _ => rfl, rfl⟩
  · exact ⟨fun vl x y k => laneBelow vl (if k % 2 = 0 then x else y) (k / 2), fun _ => rfl, rfl⟩
  · exact ⟨fun vl x y k => if 2 * k < vl then lane x (2 * k) else laneBelow vl y (2 * k - vl), fun _ => rfl, rfl⟩

/-- Each permute by a scalar B moves the lanes of A by one function. -/
theorem exec_scalarPermutes {vl n : Nat} {p : Instr × (Nat → W32)} (hp : p ∈ scalarPermutes d a b g vl x n) :
    ∃ f : Nat → VWord → Nat → Nat → W32, (∀ s, exec p.1 s = permScalar f d a b g s) ∧ f vl x n = p.2 := by
  simp only [scalarPermutes, List.mem_cons, List.not_mem_nil, or_false] at hp
  rcases hp with rfl | rfl | rfl
  · exact ⟨fun vl x n k => if n ≤ k then laneBelow vl x (k - n) else 0, fun _ => rfl, rfl⟩
  · exact ⟨fun vl x n k => laneBelow vl x (k + n), fun _ => rfl, rfl⟩
  · exact ⟨fun vl x n _ => laneBelow vl x (n % 64), fun _ => rfl, rfl⟩

/-! ### Compress and expand (R156) -/

/-- The active lanes below n, in ascending order. -/
theorem lanesUpTo_eq_filter {on : BitVec 64} {active : Nat → Bool} {n : Nat} (h : ∀ k, k < n → on.getLsbD k = active k) :
    lanesUpTo on n = (List.range n).filter active :=
  List.filter_congr fun k hk => h k (List.mem_range.mp hk)

/-- Lane k of a vector that holds listed lanes of x at its bottom and zeros above. -/
def packedLane (l : List Nat) (x : VWord) (k : Nat) : W32 :=
  match l[k]? with
  | some j => lane x j
  | none => 0

theorem packedLane_eq_getD (l : List Nat) (x : VWord) (k : Nat) : packedLane l x k = ((l.map (lane x))[k]?).getD 0 := by
  rw [packedLane, List.getElem?_map]
  cases l[k]? <;> rfl

/-- Only what is written to the active lanes matters. -/
theorem WritesLanes.congr {len : Nat} {active : Nat → Bool} {f f' : Nat → W32} (h : WritesLanes i len d active f t s s1)
    (hf : ∀ k, k < 64 → active k = true → f k = f' k) : WritesLanes i len d active f' t s s1 := by
  obtain ⟨w, u, hw, hset, hret⟩ := h
  exact ⟨w, u, fun k hk => (hw k hk).trans (ite_congr rfl (hf k hk) fun _ => rfl), hset, hret⟩

/-- `vcomp` packs the active lanes of A at the bottom of the lanes below VL, and zeros above them. -/
theorem vcomp_writesLanes (h : CanIssue (vecNeed g.legal [.vR a, .vW d] 4) s t) (hx : getV a s = .ok (x, s1))
    (hread : Reading [.vW d] s s1 t) :
    WritesLanes (.vcomp d a g) 4 d (fun k => decide (k < t.vl))
      (fun k => ((((List.range 64).filter (laneOn t s.cur.acc g)).map (lane x))[k]?).getD 0) t s s1 := by
  obtain ⟨on, hon, hlanes⟩ := activeLanes_run g h.self
  have hpacked := writesLanes_of_body (packedLane (lanesUpTo on 64) x) (h.withLanes g rfl) rfl
    (fun k hk => getLsbD_lanesBelow t.vl hk) hread (i := .vcomp d a g) rfl
    ((bindRun_ok (selfRun h.self)).trans ((bindRun_ok hon).trans (bindRun_ok hx)))
  exact hpacked.congr fun k _ _ => by rw [packedLane_eq_getD, lanesUpTo_eq_filter hlanes]

/-- `vexpd` gives the active lanes of D the lanes of A in turn. -/
theorem vexpd_writesLanes (h : CanIssue (vecNeed g.legal [.vR a, .vW d] 4) s t) (hx : getV a s = .ok (x, s1))
    (hread : Reading [.vW d] s s1 t) :
    WritesLanes (.vexpd d a g) 4 d (laneOn t s.cur.acc g)
      (fun k => lane x ((List.range k).filter (laneOn t s.cur.acc g)).length) t s s1 := by
  obtain ⟨on, hon, hlanes⟩ := activeLanes_run g h.self
  have hspread := writesLanes_of_body (fun k => lane x (lanesUpTo on k).length) (h.withLanes g rfl) rfl hlanes hread
    (i := .vexpd d a g) rfl ((bindRun_ok hon).trans (bindRun_ok hx))
  exact hspread.congr fun k hk _ => by rw [lanesUpTo_eq_filter fun j hj => hlanes j (by omega)]

end

/-! ### The obligation -/

/-- Settles O27: the permutes by a vector and by a scalar B, then `vcomp` and `vexpd`. -/
theorem vectorPermutes_complete : Obligations.VectorPermutes := by
  unfold Obligations.VectorPermutes
  refine ⟨?_, ?_, ?_⟩
  · intro s t d a b g h
    obtain ⟨x, s1, hx, hread⟩ := h.reading.getV
    obtain ⟨y, s2, hy, hread⟩ := hread.getV
    refine ⟨x, s1, y, s2, hx, hy, fun p hp => ?_⟩
    obtain ⟨f, hexec, hf⟩ := exec_vectorPermutes hp
    rw [← hf]
    exact permVector_writesLanes h (hexec s) hx hy hread
  · intro s t d a b g h
    obtain ⟨x, s1, hx, hread⟩ := h.reading.getV
    obtain ⟨n, s2, hn, hread⟩ := hread.getS
    refine ⟨x, s1, n, s2, hx, hn, fun p hp => ?_⟩
    obtain ⟨f, hexec, hf⟩ := exec_scalarPermutes hp
    rw [← hf]
    exact permScalar_writesLanes h (hexec s) hx hn hread
  · intro s t d a g h
    obtain ⟨x, s1, hx, hread⟩ := h.reading.getV
    exact ⟨x, s1, hx, vcomp_writesLanes h hx hread, vexpd_writesLanes h hx hread⟩

end Sys2Proof.Machine
end

section
/-! PROOFS. Lane-slice loads and stores (R142, R143). -/

namespace Sys2Proof.Machine

/-! ### The check of the slice offsets -/

/-- Every active lane's slice offset is a multiple of 4 and at most 508 (R143). -/
def GoodSlices (active : Nat → Bool) (off : Nat → Nat) : Prop := ∀ k, k < 64 → active k = true → off k % 4 = 0 ∧ off k ≤ 508

theorem sliceFault_none {on : BitVec 64} {off : Nat → Nat} {k n : Nat}
    (h : ∀ j, k ≤ j → j < k + n → on.getLsbD j = true → off j % 4 = 0 ∧ off j ≤ 508) : sliceFault on off k n = none := by
  induction n generalizing k with
  | zero => rfl
  | succ n ih =>
    have hrest : sliceFault on off (k + 1) n = none := ih fun j hl hr => h j (by omega) (by omega)
    rw [sliceFault]
    by_cases hk : on.getLsbD k = true
    · obtain ⟨haligned, hsmall⟩ := h k (Nat.le_refl k) (by omega) hk
      simp [haligned, hsmall, hrest]
    · simp [hk, hrest]

theorem checkSlices_good {on : BitVec 64} {active : Nat → Bool} {off : Nat → Nat} (hon : ∀ k, k < 64 → on.getLsbD k = active k)
    (h : GoodSlices active off) (u : State) : checkSlices on off u = .ok ((), u) := by
  have hnone : sliceFault on off 0 64 = none := sliceFault_none fun j _ hj ha => h j (by omega) (hon j (by omega) ▸ ha)
  rw [checkSlices, hnone]
  rfl

/-! ### Loads -/

/-- What a lane-slice load gives lane k. -/
def sliceWord (m : Memory) (core : Nat) (off : Nat → Nat) (k : Nat) : W32 := BitVec.ofNat 32 (m.num (sliceLoc core k (off k)) 4)

section
variable {s u : State} {t : Thread} {d : BitVec 5} {on : BitVec 64} {g : Gov} {n : Need} {i : Instr} {body : Exec Next}
  {off : Nat → Nat}

/-- A lane-slice load whose offsets have been read, and are good, gives each active lane of D a word of its slice. -/
theorem writesLanes_of_sliceLoad (h : CanIssue n s t) (hsys : n.sysRel = false)
    (hon : ∀ k, k < 64 → on.getLsbD k = laneOn t s.cur.acc g k) (hread : Reading [.vW d] s u t) (hmem : u.mem = s.mem)
    (hgood : GoodSlices (laneOn t s.cur.acc g) off) (hi : exec i s = issue n body s) (hbody : body s = sliceLoad d on off u) :
    WritesLanes i n.len d (laneOn t s.cur.acc g) (sliceWord s.mem t.core off) t s u := by
  obtain ⟨q, hq⟩ := hread.thread
  refine writesLanes_of_body _ h hsys hon hread hi (hbody.trans ?_)
  rw [sliceLoad, bindRun_ok (selfRun hq), bindRun_ok (checkSlices_good hon hgood u), bindRun_ok (getRun u), hmem]
  rfl

/-! ### Stores -/

/-- Memory after the listed lanes have each stored a word into their slices. -/
def slicesPut (core : Nat) (off : Nat → Nat) (v : VWord) (l : List Nat) (m : Memory) : Memory :=
  l.foldl (fun m k => m.putNum (sliceLoc core k (off k)) 4 (lane v k).toNat) m

theorem lanesUpTo_succ (on : BitVec 64) (n : Nat) : lanesUpTo on (n + 1) = lanesUpTo on n ++ if on.getLsbD n then [n] else [] := by
  rw [lanesUpTo, List.range_succ, List.filter_append, List.filter_singleton, Bool.cond_eq_ite]
  rfl

theorem State.sliceStores_eq (u : State) (core : Nat) (on : BitVec 64) (off : Nat → Nat) (v : VWord) (n : Nat) :
    u.sliceStores core on off v n = { u with mem := slicesPut core off v (lanesUpTo on n) u.mem } := by
  induction n with
  | zero => rfl
  | succ n ih =>
    rw [State.sliceStores, ih, lanesUpTo_succ, slicesPut, slicesPut, List.foldl_append]
    split <;> rfl

/-- A lane-slice store whose offsets and data have been read, and whose offsets are good, stores a word per active lane. -/
theorem retires_of_sliceStore {v : VWord} (h : CanIssue n s t) (hsys : n.sysRel = false)
    (hon : ∀ k, k < 64 → on.getLsbD k = laneOn t s.cur.acc g k) (hread : Reading [] s u t) (hmem : u.mem = s.mem)
    (hgood : GoodSlices (laneOn t s.cur.acc g) off) (hi : exec i s = issue n body s) (hbody : body s = sliceStore v on off u) :
    Retires i n.len s { u with mem := sliceStored s t g off v } := by
  obtain ⟨q, hq⟩ := hread.thread
  have hstored : u.sliceStores t.core on off v 64 = { u with mem := sliceStored s t g off v } := by
    rw [State.sliceStores_eq, lanesUpTo_eq_filter hon, hmem]
    rfl
  rw [Retires, hi]
  refine issue_completes h hsys (hbody.trans ?_)
  rw [sliceStore, bindRun_ok (selfRun hq), bindRun_ok (checkSlices_good hon hgood u), bindRun_ok (modifyRun _ u), hstored]
  rfl

end

/-! ### The obligation -/

/-- Settles O29: the loads at one offset and at an offset per lane, then the stores. -/
theorem laneSliceAccesses : Obligations.LaneSliceAccesses := by
  unfold Obligations.LaneSliceAccesses
  refine ⟨?_, ?_, ?_, ?_⟩
  · intro s t d a g h
    obtain ⟨x, s1, hx, hread⟩ := h.reading.getS
    obtain ⟨on, hon, hlanes⟩ := activeLanes_run g h.self
    exact ⟨x, s1, hx, fun haligned hsmall => writesLanes_of_sliceLoad (off := fun _ => x.toNat) (h.withLanes g rfl) rfl hlanes
      hread (getS_inv hx).mem (fun _ _ _ => ⟨haligned, hsmall⟩) rfl ((bindRun_ok hon).trans (bindRun_ok hx))⟩
  · intro s t d b g h
    obtain ⟨y, s1, hy, hread⟩ := h.reading.getV
    obtain ⟨on, hon, hlanes⟩ := activeLanes_run g h.self
    exact ⟨y, s1, hy, fun hgood => writesLanes_of_sliceLoad (off := fun k => (lane y k).toNat) (h.withLanes g rfl) rfl hlanes
      hread (getV_inv hy).mem hgood rfl ((bindRun_ok hon).trans (bindRun_ok hy))⟩
  · intro s t d a g h
    obtain ⟨x, s1, hx, hread⟩ := h.reading.getS
    obtain ⟨v, s2, hv, hread⟩ := hread.getV
    obtain ⟨on, hon, hlanes⟩ := activeLanes_run g h.self
    exact ⟨x, s1, v, s2, hx, hv, fun haligned hsmall => retires_of_sliceStore (h.withLanes g rfl) rfl hlanes hread
      ((getV_inv hv).mem.trans (getS_inv hx).mem) (fun _ _ _ => ⟨haligned, hsmall⟩) rfl
      ((bindRun_ok hon).trans ((bindRun_ok hx).trans (bindRun_ok hv)))⟩
  · intro s t d b g h
    obtain ⟨y, s1, hy, hread⟩ := h.reading.getV
    obtain ⟨v, s2, hv, hread⟩ := hread.getV
    obtain ⟨on, hon, hlanes⟩ := activeLanes_run g h.self
    exact ⟨y, s1, v, s2, hy, hv, fun hgood => retires_of_sliceStore (h.withLanes g rfl) rfl hlanes hread
      ((getV_inv hv).mem.trans (getV_inv hy).mem) hgood rfl
      ((bindRun_ok hon).trans ((bindRun_ok hy).trans (bindRun_ok hv)))⟩

end Sys2Proof.Machine
end

section
/-! PROOFS. What writes of the device's records and the wakes of a store leave undisturbed (R253, R257, R275, R283, R340). -/

namespace Sys2Proof.Machine

/-- State u has the agent of s, its threads but for their status, and its cores but for the lines of their data caches. -/
structure Undisturbed (s u : State) : Prop where
  cur : u.cur = s.cur
  threads : ∀ k t, s.thread? k = some t → ∃ st, u.thread? k = some { t with status := st }
  cores : ∀ c, ∃ l, u.core c = { s.core c with dcache := l }

section
variable {s u v : State}

/-- A change of other parts of the state disturbs neither threads nor cores. -/
theorem Undisturbed.of_eq (hcur : u.cur = s.cur) (hthreads : u.threads = s.threads) (hcores : u.cores = s.cores) :
    Undisturbed s u where
  cur := hcur
  threads k t ht := ⟨t.status, by rw [State.thread?, hthreads]; exact ht⟩
  cores c := ⟨(s.core c).dcache, by rw [State.core, hcores]; rfl⟩

theorem Undisturbed.refl (s : State) : Undisturbed s s := .of_eq rfl rfl rfl

theorem Undisturbed.trans (h : Undisturbed s u) (h' : Undisturbed u v) : Undisturbed s v where
  cur := h'.cur.trans h.cur
  threads k t ht := by
    obtain ⟨st, hst⟩ := h.threads k t ht
    obtain ⟨st', hst'⟩ := h'.threads k _ hst
    exact ⟨st', hst'⟩
  cores c := by
    obtain ⟨l, hl⟩ := h.cores c
    obtain ⟨l', hl'⟩ := h'.cores c
    exact ⟨l', by rw [hl', hl]⟩

/-- Steps that each disturb nothing disturb nothing together. -/
theorem Undisturbed.foldl {α : Type} {f : State → α → State} (l : List α) (h : ∀ u e, Undisturbed u (f u e)) (s : State) :
    Undisturbed s (l.foldl f s) := by
  induction l generalizing s with
  | nil => exact .refl s
  | cons e l ih => exact (h s e).trans (ih (f s e))

/-! ### Writes at a home -/

theorem alGet_map {α : Type} (f : Nat × α → α) (l : AList α) (k : Nat) :
    alGet (l.map (fun c => (c.1, f c))) k = (alGet l k).map (fun x => f (k, x)) := by
  induction l with
  | nil => rfl
  | cons p l ih =>
    obtain ⟨j, x⟩ := p
    rw [List.map_cons, alGet, alGet, ih]
    by_cases hj : k = j
    · rw [if_pos hj, if_pos hj, hj]
      rfl
    · rw [if_neg hj, if_neg hj]
      split <;> rfl

/-- A change of the data caches of some cores. -/
theorem Undisturbed.mapCores (s : State) (f : Nat × Core → Core) (hf : ∀ c, ∃ l, f c = { c.2 with dcache := l }) :
    Undisturbed s { s with cores := s.cores.map (fun c => (c.1, f c)) } where
  cur := rfl
  threads k t ht := ⟨t.status, ht⟩
  cores c := by
    rw [State.core, State.core, alGetD, alGetD, alGet_map]
    cases alGet s.cores c with
    | none => exact ⟨_, rfl⟩
    | some x => exact hf (c, x)

/-- A data cache changed only where a condition holds. -/
theorem dcache_ite (p : Prop) [Decidable p] (x : Core) (l : AList DCLine) :
    ∃ l', (if p then { x with dcache := l } else x) = { x with dcache := l' } := by
  split
  · exact ⟨l, rfl⟩
  · exact ⟨x.dcache, rfl⟩

theorem Undisturbed.dropOn (s : State) (d b : Nat) : Undisturbed s (s.dropOn d b) := by
  unfold State.dropOn
  split
  · exact .mapCores s _ fun c => dcache_ite ..
  · exact .refl s

theorem Undisturbed.spreadLines (s : State) (b : Nat) (key : KeyId) : Undisturbed s (s.spreadLines b key) := by
  unfold State.spreadLines
  dsimp only
  split
  · exact .refl s
  · split
    · exact .mapCores s _ fun c => dcache_ite ..
    · exact .dropOn ..

theorem Undisturbed.sendBridge (s : State) (src dst : Nat) (m : BridgeMsg) : Undisturbed s (s.sendBridge src dst m) :=
  .of_eq rfl rfl rfl

theorem Undisturbed.homeEvent (s : State) (e b : Nat) (key : KeyId) : Undisturbed s (s.homeEvent e b key) := by
  refine .trans (u := s.updDie e _) (.of_eq rfl rfl rfl) (.foldl _ (fun u f => ?_) _)
  split
  · exact (Undisturbed.sendBridge ..).trans (.sendBridge ..)
  · exact .refl u

theorem Undisturbed.installHome (s : State) (b : Nat) (key : KeyId) : Undisturbed s (s.installHome b key) :=
  .of_eq rfl rfl rfl

theorem Undisturbed.homeWrite (s : State) (key : KeyId) (pa : Nat) (bs : List Byte) : Undisturbed s (s.homeWrite key pa bs) := by
  let v := ({ s with mem := s.mem.putBytes pa bs } : State).updBlock (blockNo pa)
    (fun m => { m with sealedUnder := some key, poison := m.poison && !decide (bs.length = 128) })
  have hv : Undisturbed s v := .of_eq rfl rfl rfl
  exact ((hv.trans (.spreadLines v ..)).trans (.installHome ..)).trans (.homeEvent ..)

/-! ### Records of the device -/

theorem Undisturbed.putPiece (s : State) (die : Nat) (d : DomId) (va : VAddr) (bs : List Byte) :
    Undisturbed s (s.putPiece die d va bs) := by
  unfold State.putPiece
  split
  · exact .refl s
  · split
    · exact .of_eq rfl rfl rfl
    · split
      · exact .homeWrite ..
      · exact .refl s

theorem Undisturbed.putRecord (s : State) (die : Nat) (d : DomId) (va : VAddr) (bs : List Byte) :
    Undisturbed s (s.putRecord die d va bs) := by
  unfold State.putRecord
  split
  · exact .refl s
  · exact .foldl _ (fun u i => .putPiece ..) s

theorem Undisturbed.putBobbin (s : State) (tid : Nat) : Undisturbed s (s.putBobbin tid) := by
  unfold State.putBobbin
  split
  · exact .refl s
  · split
    · exact .refl s
    · exact .putRecord ..

theorem Undisturbed.pushRun (s : State) (d : DomId) (e : RunEntry) : Undisturbed s (s.pushRun d e) := by
  unfold State.pushRun
  split
  · exact .refl s
  · exact (Undisturbed.putRecord ..).trans (.putRecord ..)

theorem Undisturbed.enqueue (s : State) (tid : Nat) (d : DomId) (die : Nat) : Undisturbed s (s.enqueue tid d die) := by
  refine (Undisturbed.putBobbin s tid).trans ?_
  unfold State.enqueue
  dsimp only
  split
  · exact .of_eq rfl rfl rfl
  · exact (Undisturbed.pushRun ..).trans (.of_eq rfl rfl rfl)

/-! ### Wakes -/

theorem Undisturbed.setStatus {tid : Nat} {t : Thread} (ht : s.thread? tid = some t) (st : Status) :
    Undisturbed s (s.setThread tid { t with status := st }) where
  cur := rfl
  threads k r hr := by
    by_cases hk : k = tid
    · subst hk
      cases ht.symm.trans hr
      exact ⟨st, State.thread?_setThread_same ..⟩
    · exact ⟨r.status, (State.thread?_setThread_other _ _ hk).trans hr⟩
  cores c := ⟨(s.core c).dcache, rfl⟩

theorem Undisturbed.makeRunnable (s : State) (tid : Nat) : Undisturbed s (s.makeRunnable tid) := by
  unfold State.makeRunnable
  split
  · next t ht =>
    let v := (s.setThread tid { t with status := .runnable }).updDie (coreDie t.core)
      (fun d => { d with timed := alErase d.timed tid })
    have hv : Undisturbed s v := (Undisturbed.setStatus ht .runnable).trans (.of_eq rfl rfl rfl)
    by_cases hheld : t.heldTo.isSome
    · rw [if_pos hheld]
      exact hv.trans (.putBobbin ..)
    · rw [if_neg hheld]
      exact hv.trans (.enqueue ..)
  · exact .refl s

theorem Undisturbed.wakeIf (s : State) (p : Thread → WaitKey → Bool) : Undisturbed s (s.wakeIf p) := by
  refine .foldl _ (fun u e => ?_) s
  obtain ⟨tid, t⟩ := e
  dsimp only
  split
  · split
    · exact .makeRunnable ..
    · exact .refl u
  · exact .refl u

theorem Undisturbed.wakeAddr (s : State) (loc : Nat) : Undisturbed s (s.wakeAddr loc) :=
  .wakeIf s _

/-- A store to plain storage disturbs no thread's registers and no core's windows or ports. -/
theorem Undisturbed.plainWrite (s : State) (loc : Nat) (bs : List Byte) : Undisturbed s (s.plainWrite loc bs) :=
  .trans (u := { s with mem := s.mem.putBytes loc bs }) (.of_eq rfl rfl rfl) (.wakeAddr ..)

theorem Undisturbed.plainOp (s : State) (loc : Nat) (o : MemOp) : Undisturbed s (s.plainOp loc o).2 := by
  unfold State.plainOp
  dsimp only
  split
  · exact .refl s
  · exact .plainWrite ..

/-! ### Reading operands of an undisturbed state -/

theorem Undisturbed.self {t : Thread} (h : Undisturbed s u) (ht : s.thread? s.cur.tid = some t) :
    ∃ st, u.thread? u.cur.tid = some { t with status := st } := by
  rw [h.cur]
  exact h.threads _ t ht

theorem Undisturbed.ports (h : Undisturbed s u) (c : Nat) : (u.core c).ports = (s.core c).ports := by
  obtain ⟨l, hl⟩ := h.cores c
  rw [hl]

/-- The same change of a queue of the issuing thread. -/
theorem Undisturbed.putQueue (h : Undisturbed s u) (k : Nat) (l : List QEntry) :
    Undisturbed (s.updThread s.cur.tid (fun t => { t with q := vset t.q k l }))
      (u.updThread u.cur.tid (fun t => { t with q := vset t.q k l })) where
  cur := by rw [State.updThread_cur, State.updThread_cur, h.cur]
  threads j t ht := by
    rw [h.cur]
    by_cases hj : j = s.cur.tid
    · subst hj
      cases hs : s.thread? s.cur.tid with
      | none => simp [State.updThread, hs] at ht
      | some r =>
        obtain ⟨st, hst⟩ := h.threads _ r hs
        rw [State.thread?_updThread_same _ hs] at ht
        cases ht
        exact ⟨st, State.thread?_updThread_same _ hst⟩
    · rw [State.thread?_updThread_other _ _ hj] at ht ⊢
      exact h.threads j t ht
  cores c := by
    rw [State.core_updThread, State.core_updThread]
    exact h.cores c

/-- The same change of an inbound port. -/
theorem Undisturbed.putPort (h : Undisturbed s u) (n d : Nat) (l : List PortEntry) :
    Undisturbed (s.updCore n (fun k => { k with ports := vset k.ports d l })) (u.updCore n (fun k => { k with ports := vset k.ports d l })) where
  cur := h.cur
  threads := h.threads
  cores c := by
    obtain ⟨x, hx⟩ := h.cores c
    by_cases hc : c = n
    · subst hc
      exact ⟨x, by rw [State.core_updCore_same, State.core_updCore_same, hx]⟩
    · exact ⟨x, by rw [State.core_updCore_other _ _ hc, State.core_updCore_other _ _ hc, hx]⟩

theorem Undisturbed.popQueue {k : Nat} {x : Word} (h : Undisturbed s u) (hx : popQueue k s = .ok (x, v)) :
    ∃ w, Machine.popQueue k u = .ok (x, w) ∧ Undisturbed v w := by
  cases ht : s.thread? s.cur.tid with
  | none => simp [Machine.popQueue, Machine.self, ht] at hx
  | some t =>
    obtain ⟨st, hst⟩ := h.self ht
    cases hq : vget t.q k [] with
    | nil => simp [Machine.popQueue, selfRun ht, hq, stall] at hx
    | cons e l =>
      rw [popQueue_cons ht hq] at hx
      cases hx
      exact ⟨_, popQueue_cons hst hq, h.putQueue k l⟩

theorem Undisturbed.popPort {d : Nat} {x : PortEntry} (h : Undisturbed s u) (hx : popPort d s = .ok (x, v)) :
    ∃ w, Machine.popPort d u = .ok (x, w) ∧ Undisturbed v w := by
  cases ht : s.thread? s.cur.tid with
  | none => simp [Machine.popPort, Machine.self, ht] at hx
  | some t =>
    obtain ⟨st, hst⟩ := h.self ht
    cases hq : vget (s.core t.core).ports d [] with
    | nil => simp [Machine.popPort, selfRun ht, hq, stall] at hx
    | cons e l =>
      rw [popPort_cons ht hq] at hx
      cases hx
      exact ⟨_, popPort_cons hst ((congrArg (vget · d []) (h.ports t.core)).trans hq), h.putPort t.core d l⟩

/-- A scalar source reads the same. -/
theorem Undisturbed.getS {c : BitVec 5} {x : Word} (h : Undisturbed s u) (hx : getS c s = .ok (x, v)) :
    ∃ w, Machine.getS c u = .ok (x, w) ∧ Undisturbed v w := by
  by_cases h1 : c.toNat < 24
  · cases ht : s.thread? s.cur.tid with
    | none => simp [Machine.getS, h1, Machine.self, ht] at hx
    | some t =>
      obtain ⟨st, hst⟩ := h.self ht
      rw [getS_reg ht h1] at hx
      cases hx
      refine ⟨u, ?_, h⟩
      rw [getS_reg hst h1, h.cur]
      rfl
  · by_cases h2 : c.toNat < 28
    · have hpop : Machine.popQueue (c.toNat - 24) s = .ok (x, v) := by simpa [Machine.getS, h1, h2] using hx
      obtain ⟨w, hw, hvw⟩ := h.popQueue hpop
      exact ⟨w, getS_queue h1 h2 hw, hvw⟩
    · cases hp : Machine.popPort (c.toNat - 28) s with
      | error e => simp [Machine.getS, h1, h2, hp] at hx
      | ok r =>
        obtain ⟨e, v'⟩ := r
        rw [getS_port h1 h2 hp] at hx
        cases hx
        obtain ⟨w, hw, hvw⟩ := h.popPort hp
        exact ⟨w, getS_port h1 h2 hw, hvw⟩

/-- A vector source reads the same. -/
theorem Undisturbed.getV {c : BitVec 5} {x : VWord} (h : Undisturbed s u) (hx : getV c s = .ok (x, v)) :
    ∃ w, Machine.getV c u = .ok (x, w) ∧ Undisturbed v w := by
  by_cases h1 : c.toNat < 28
  · cases ht : s.thread? s.cur.tid with
    | none => simp [Machine.getV, h1, Machine.self, ht] at hx
    | some t =>
      obtain ⟨st, hst⟩ := h.self ht
      simp only [Machine.getV, h1, if_true, bindRun, selfRun ht, pureRun] at hx
      cases hx
      exact ⟨u, by simp [Machine.getV, h1, selfRun hst], h⟩
  · cases hp : Machine.popPort (c.toNat - 28) s with
    | error e => simp [Machine.getV, h1, hp] at hx
    | ok r =>
      obtain ⟨e, v'⟩ := r
      rw [getV_port h1 hp] at hx
      cases hx
      obtain ⟨w, hw, hvw⟩ := h.popPort hp
      exact ⟨w, getV_port h1 hw, hvw⟩

end

end Sys2Proof.Machine
end

section
/-! PROOFS. Vector loads and stores of the own local store (R159, R161 to R163). -/

namespace Sys2Proof.Machine

/-! ### Lanes whose accesses lie in the own local store -/

/-- Every listed lane's access lies in the local store of t's core, where a window permits it. -/
def OwnLanes (s : State) (t : Thread) (o : MemOp) (lanes : List LaneReq) (off : Nat → Nat) : Prop :=
  ∀ r ∈ lanes, OwnLocal s t r.ea o.size o.writes (off r.lane)

section
variable {s u : State} {t : Thread} {o : MemOp} {lanes : List LaneReq} {r : LaneReq} {off : Nat → Nat} {k : Nat}

/-- Such an access is served by no HBM page. -/
theorem laneLeaf_own {n : Nat} {write : Bool} (h : OwnLocal s t r.ea n write k) (u : State) : u.laneLeaf t o r = none := by
  rw [State.laneLeaf, h.route]

/-- R160: it passes its checks, which change nothing. -/
theorem laneCheck_own (h : OwnLocal s t r.ea o.size o.writes k) : s.laneCheck t o r = (.ok, s) := by
  simp [State.laneCheck, h.route, h.aligned, h.window]

theorem laneBlock_own {n : Nat} {write : Bool} (h : OwnLocal s t r.ea n write k) (u : State) (all : List LaneReq) :
    u.laneBlock t o all r = none := by
  unfold State.laneBlock
  split
  · rfl
  · dsimp only
    split
    · rfl
    · rw [laneLeaf_own h]

theorem laneSealed_own {n : Nat} {write : Bool} (h : OwnLocal s t r.ea n write k) (u : State) (all : List LaneReq) :
    u.laneSealed t o all r = true := by
  rw [State.laneSealed, laneLeaf_own h]

theorem lineNeed_own {n : Nat} {write : Bool} (h : OwnLocal s t r.ea n write k) (u : State) (all : List LaneReq) :
    u.lineNeed t o all r = none := by
  rw [State.lineNeed, laneLeaf_own h]

theorem checkLanes_own (ht : s.thread? s.cur.tid = some t) (h : OwnLanes s t o lanes off) :
    checkLanes o lanes s = .ok (none, s) := by
  induction lanes with
  | nil => rfl
  | cons r lanes ih =>
    have hr := laneCheck_own (h r (List.mem_cons_self ..))
    have hrest := ih fun q hq => h q (List.mem_cons_of_mem _ hq)
    simp [checkLanes, selfRun ht, hr, hrest]

theorem checkSeals_own (ht : s.thread? s.cur.tid = some t) (h : OwnLanes s t o lanes off) :
    checkSeals o lanes s = .ok ((), s) := by
  have hnone : lanes.find? (fun r => !s.laneSealed t o lanes r) = none := by
    rw [List.find?_eq_none]
    intro r hr
    simp [laneSealed_own (h r hr)]
  simp [checkSeals, selfRun ht, hnone]

theorem takeLines_own {d : Option (BitVec 5)} (ht : s.thread? s.cur.tid = some t) (h : OwnLanes s t o lanes off) :
    takeLines o lanes d s = .ok ((), s) := by
  rw [takeLines, bindRun_ok (meRun s), bindRun_ok (selfRun ht), bindRun_ok (ctx_run ht), bindRun_ok (getRun s),
    List.findSome?_eq_none_iff.mpr]
  · rfl
  · intro r hr
    rw [lineNeed_own (h r hr)]

/-- The same access in a state that stores have left. -/
theorem OwnLocal.undisturbed {ea : Word} {n : Nat} {write : Bool} {st : Status} (h : OwnLocal s t ea n write k) (hu : Undisturbed s u) :
    OwnLocal u { t with status := st } ea n write k where
  route := h.route
  aligned := h.aligned
  window := by
    obtain ⟨l, hl⟩ := hu.cores t.core
    rw [hl]
    exact h.window

/-! ### Performing the lanes (R162, R163) -/

/-- The values of lanes that have been performed, each by its lane. -/
def laneValues (val : Nat → Word) (lanes : List LaneReq) (done : AList Word) : AList Word :=
  lanes.foldl (fun l r => alSet l r.lane (val r.lane)) done

theorem alGet_laneValues (val : Nat → Word) (lanes : List LaneReq) (done : AList Word) (k : Nat) :
    alGet (laneValues val lanes done) k = if k ∈ lanes.map LaneReq.lane then some (val k) else alGet done k := by
  induction lanes generalizing done with
  | nil => rfl
  | cons r lanes ih =>
    rw [laneValues, List.foldl_cons, ← laneValues, ih, List.map_cons]
    by_cases hk : k = r.lane
    · subst hk
      simp [alGet_alSet_same]
    · simp [hk, alGet_alSet_other _ _ hk]

/-- The state after lanes of t's core have been performed on its local store, in their order. -/
def lanesDone (core : Nat) (o : MemOp) (off : Nat → Nat) (lanes : List LaneReq) (s : State) : State :=
  lanes.foldl (fun u r => (u.plainOp (lsLoc core (off r.lane)) { o with data := r.data }).2) s

theorem lanesDone_undisturbed (core : Nat) (s : State) : Undisturbed s (lanesDone core o off lanes s) :=
  .foldl _ (fun u _ => .plainOp u ..) s

/-- Each listed lane's operation keeps P and, in a state of which P holds, has the value that `val` gives its lane. -/
def LaneVals (core : Nat) (o : MemOp) (off : Nat → Nat) (val : Nat → Word) (P : State → Prop) (lanes : List LaneReq) : Prop :=
  ∀ r ∈ lanes, ∀ u, P u → (u.plainOp (lsLoc core (off r.lane)) { o with data := r.data }).1 = val r.lane ∧
    P (u.plainOp (lsLoc core (off r.lane)) { o with data := r.data }).2

theorem laneLoop_own {val : Nat → Word} {P : State → Prop} {rest : List LaneReq} {begun sent : Bool} {done : AList Word}
    (ht : s.thread? s.cur.tid = some t) (h : OwnLanes s t o rest off) (hval : LaneVals t.core o off val P rest)
    (hu : Undisturbed s u) (hP : P u) :
    laneLoop o lanes begun rest done sent u = .ok ((laneValues val rest done, sent), lanesDone t.core o off rest u) := by
  induction rest generalizing u done with
  | nil => rfl
  | cons r rest ih =>
    obtain ⟨st, hst⟩ := hu.self ht
    have hown : OwnLocal s t r.ea o.size o.writes (off r.lane) := h r (List.mem_cons_self ..)
    have hown' := hown.undisturbed (st := st) hu
    obtain ⟨hv, hP'⟩ := hval r (List.mem_cons_self ..) u hP
    have hacc := accessNow_own (k := { Taker.none with lane := some r.lane }) (o := { o with data := r.data }) hst hown'
    refine (bindRun_ok (meRun u)).trans ((bindRun_ok (selfRun hst)).trans ((bindRun_ok (getRun u)).trans ?_))
    rw [laneLeaf_own hown', laneBlock_own hown']
    simp only [Bool.false_and, Bool.false_eq_true, if_false, hacc]
    rw [bindRun_ok (setRun _ u), hv]
    exact ih (fun q hq => h q (List.mem_cons_of_mem _ hq)) (fun q hq => hval q (List.mem_cons_of_mem _ hq))
      (hu.trans (.plainOp ..)) hP'

/-- A turn that makes its accesses at once (R279) counts none that is performed later. -/
theorem State.countSlow_eq_self (hslow : s.slow = false) (b : Bool) :
    ({ s with slow := s.slow && b, freeCtr := if s.slow then s.freeCtr + 1 else s.freeCtr } : State) = s := by
  cases s
  cases hslow
  rfl

theorem performLanes_own {val : Nat → Word} {P : State → Prop} {d : Option (BitVec 5)} (ht : s.thread? s.cur.tid = some t)
    (hf : Fresh s t) (hslow : s.slow = false) (h : OwnLanes s t o lanes off) (hval : LaneVals t.core o off val P lanes) (hP : P s) :
    performLanes o lanes d s = .ok (some (laneValues val lanes []), lanesDone t.core o off lanes s) := by
  have hleft : lanes.filter (fun r => (alGet (t.ctx s.cur.acc).lanes r.lane).isNone) = lanes := by
    rw [hf.lanes]
    exact List.filter_eq_self.mpr fun _ _ => rfl
  have hpick : pickLanes s o lanes = lanes := by simp [pickLanes, hslow]
  have hall : lanes.all (fun r => (alGet (laneValues val lanes []) r.lane).isSome) = true := by
    rw [List.all_eq_true]
    intro r hr
    rw [alGet_laneValues, if_pos (List.mem_map_of_mem hr)]
    rfl
  obtain ⟨st, hst⟩ := (lanesDone_undisturbed (o := o) (off := off) (lanes := lanes) t.core s).self ht
  refine (bindRun_ok (ctx_run ht)).trans ((bindRun_ok (getRun s)).trans ?_)
  rw [hleft, hpick]
  refine (bindRun_ok (modifyRun _ s)).trans ?_
  rw [State.countSlow_eq_self hslow, hf.lanes, bindRun_ok (laneLoop_own ht h hval (.refl s) hP)]
  simp only [hall, if_true]
  exact bindRun_ok (clearMoved_still hst hf.still)

/-- R161 to R163: lanes that all lie in the own local store are performed at once, in ascending order. -/
theorem vaccess_own {val : Nat → Word} {P : State → Prop} {d : Option (BitVec 5)} (ht : s.thread? s.cur.tid = some t)
    (hf : Fresh s t) (hslow : s.slow = false) (h : OwnLanes s t o lanes off) (hval : LaneVals t.core o off val P lanes) (hP : P s) :
    vaccess o lanes d s = .ok (some (laneValues val lanes []), lanesDone t.core o off lanes s) := by
  have hbegun : (t.ctx s.cur.acc).inLanes = false := by rw [Ctx.inLanes, hf.lanes, hf.seen]; rfl
  rw [vaccess, bindRun_ok (meRun s), bindRun_ok (ctx_run ht)]
  simp only [hf.idle, hbegun, Bool.false_eq_true, if_false]
  exact (bindRun_ok (checkLanes_own ht h)).trans ((bindRun_ok (checkSeals_own ht h)).trans
    ((bindRun_ok (takeLines_own ht h)).trans (performLanes_own ht hf hslow h hval hP)))

end

end Sys2Proof.Machine
end

section
/-! PROOFS. The vector loads and stores complete (R159, R162, R163). -/

namespace Sys2Proof.Machine

/-! ### Values (R9, R197) -/

theorem ofLE_lt (bs : List Byte) : ofLE bs < 2 ^ (8 * bs.length) := by
  induction bs with
  | nil => exact Nat.one_pos
  | cons b bs ih =>
    have hpow : 2 ^ (8 * (b :: bs).length) = 256 * 2 ^ (8 * bs.length) := by rw [List.length_cons]; ring
    have hb : b.toNat < 256 := b.isLt
    rw [ofLE, hpow]
    omega

theorem Memory.bytes_length (m : Memory) (a n : Nat) : (m.bytes a n).length = n := by
  induction n generalizing a with
  | zero => rfl
  | succ n ih => rw [Memory.bytes, List.length_cons, ih]

theorem Memory.num_lt (m : Memory) (a n : Nat) : m.num a n < 2 ^ (8 * n) := by
  have h := ofLE_lt (m.bytes a n)
  rwa [Memory.bytes_length] at h

/-- R197: n bytes extended to a register. -/
theorem extend_eq_loaded (signed : Bool) {n m : Nat} (hm : m < 2 ^ (8 * n)) : extend signed n m = loaded signed n m := by
  cases signed with
  | false => simp [extend, loaded]
  | true =>
    have hhalf : 2 * m < 2 ^ (8 * n) ↔ ¬2 ^ (8 * n - 1) ≤ m := by
      cases n with
      | zero => omega
      | succ n =>
        have hpow : 2 ^ (8 * (n + 1)) = 2 * 2 ^ (8 * (n + 1) - 1) := by rw [← pow_succ']; rfl
        omega
    simp only [extend, loaded, BitVec.toInt_eq_toNat_cond, BitVec.toNat_ofNat, Nat.mod_eq_of_lt hm, hhalf, true_and, if_true]
    congr 1
    by_cases h : 2 ^ (8 * n - 1) ≤ m <;> simp [h]

/-- The low 32 bits of a zero-extended value. -/
theorem loaded_low (n m : Nat) : (loaded false n m).setWidth 32 = BitVec.ofNat 32 m := by
  have hword : loaded false n m = BitVec.ofNat 64 m := by simp [loaded]
  rw [hword, BitVec.setWidth_ofNat_of_le (by decide)]

/-! ### Addresses -/

/-- R111: an address formed from a base has the base's upper byte. -/
theorem field_leaAdd (x y : Word) : field (leaAdd x y) 59 56 = field x 59 56 := by
  have hlow := (x.extractLsb' 0 56 + y.extractLsb' 0 56).isLt
  rw [field_eq_mod, field_eq_mod, leaAdd, toNat_append_eq_add, BitVec.extractLsb'_toNat, Nat.shiftRight_eq_div_pow]
  omega

/-- R192: an access that is routed to the own local store has zeros in bits 59 to 56 of its address. -/
theorem OwnLocal.field_zero {s : State} {t : Thread} {ea : Word} {n off : Nat} {write : Bool} (h : OwnLocal s t ea n write off) :
    field ea 59 56 = 0 := by
  by_contra hne
  have hroute := h.route
  simp [Machine.route, hne] at hroute

/-- The product of a lane index and a stride, signed or not. -/
theorem stride_mul (stride : Word) (k : Nat) : BitVec.ofNat 64 k * stride = BitVec.ofInt 64 (k * stride.toInt) := by
  rw [BitVec.ofInt_mul, BitVec.ofInt_toInt, BitVec.ofInt_natCast]

theorem vbase_strided (x y : Word) (n : Nat) (v : VWord) : vbase .strided n x y v = stridedAddr x y := by
  funext k
  rw [vbase, stride_mul, stridedAddr]

/-! ### The lanes of an instruction -/

/-- The accesses of the active lanes, in ascending order. -/
def laneReqs (on : BitVec 64) (ea data : Nat → Word) : List LaneReq :=
  (lanesUpTo on 64).map (fun k => { lane := k, ea := ea k, data := data k })

section
variable {s s1 s2 u1 u2 : State} {t : Thread} {d : BitVec 5} {g : Gov} {i : Instr} {on : BitVec 64} {uses : List Use}
  {addr : Word → Word → VWord → Nat → Word} {x : Word × Word × VWord} {off : Nat → Nat} {n : Nat} {ea data : Nat → Word}

theorem mem_lanesUpTo (hon : ∀ k, k < 64 → on.getLsbD k = laneOn t s.cur.acc g k) {k : Nat} :
    k ∈ lanesUpTo on 64 ↔ k < 64 ∧ laneOn t s.cur.acc g k = true := by
  rw [lanesUpTo_eq_filter hon, List.mem_filter, List.mem_range]

theorem map_lane_laneReqs (on : BitVec 64) (ea data : Nat → Word) : (laneReqs on ea data).map LaneReq.lane = lanesUpTo on 64 := by
  rw [laneReqs, List.map_map]
  exact List.map_id _

theorem ownLanes_laneReqs {o : MemOp} (hon : ∀ k, k < 64 → on.getLsbD k = laneOn t s.cur.acc g k)
    (h : LanesLocal s t g ea o.size o.writes off) : OwnLanes s t o (laneReqs on ea data) off := by
  intro r hr
  obtain ⟨k, hk, rfl⟩ := List.mem_map.mp hr
  obtain ⟨hlt, hactive⟩ := (mem_lanesUpTo hon).mp hk
  exact h k hlt hactive

/-- The base of lanes in the own local store raises no trap of its own. -/
theorem base_accepted {o : MemOp} (hon : ∀ k, k < 64 → on.getLsbD k = laneOn t s.cur.acc g k)
    (h : LanesLocal s t g ea o.size o.writes off) {base : Word} (hbase : ∀ k, field (ea k) 59 56 = field base 59 56) :
    ¬(on ≠ 0 ∧ field base 59 56 ≠ 0) := by
  rintro ⟨hne, hfield⟩
  refine hne (BitVec.eq_of_getLsbD_eq fun k hk => ?_)
  have hoff : laneOn t s.cur.acc g k = false := Bool.eq_false_iff.mpr fun hactive =>
    hfield ((hbase k).symm.trans (h k hk hactive).field_zero)
  exact (hon k hk).trans (hoff.trans BitVec.getLsbD_zero.symm)

/-! ### Loads (R162) -/

/-- The access of a vector load's lanes. -/
def loadOp (signed : Bool) (n : Nat) : MemOp := { kind := .load, signed := signed, size := n, data := 0, compare := 0 }

/-- What a load's lane k receives from the local store. -/
def lsValue (s : State) (core : Nat) (signed : Bool) (n : Nat) (off : Nat → Nat) (k : Nat) : Word :=
  extend signed n (s.mem.num (lsLoc core (off k)) n)

theorem lanesDone_load (core : Nat) (signed : Bool) (lanes : List LaneReq) (s : State) :
    lanesDone core (loadOp signed n) off lanes s = s :=
  foldl_of_fixed (fun _ _ _ => rfl) s

theorem laneVals_load (core : Nat) (signed : Bool) (lanes : List LaneReq) :
    LaneVals core (loadOp signed n) off (lsValue s core signed n off) (· = s) lanes := by
  rintro r - u rfl
  exact ⟨rfl, rfl⟩

/-- An instruction that has not issued holds no entry of a port for its values. -/
theorem portHeld_fresh (d : BitVec 5) (hf : Fresh s t) : t.portHeld d (t.ctx s.cur.acc) = none := by
  unfold Thread.portHeld
  split
  · rfl
  · rw [hf.none]
    cases neighbour t.core (d.toNat - 28) <;> rfl

/-- A vector load whose lanes lie in the own local store gives each active lane of D its bytes, extended. -/
theorem vload_writesLanes {signed : Bool} (h : CanIssue (vecNeed g.legal (uses ++ [.vW d]) 4) s t) (hf : Fresh s t)
    (hslow : s.slow = false) (hi : exec i s = vload signed n addr uses d g s) (haddr : vaddrOperands uses s = .ok (x, s1))
    (hread : Reading [.vW d] s s1 t) (hbase : ∀ k, field (addr x.1 x.2.1 x.2.2 k) 59 56 = field x.1 59 56)
    (hown : LanesLocal s t g (addr x.1 x.2.1 x.2.2) n false off) :
    WritesLanes i 4 d (laneOn t s.cur.acc g)
      (fun k => (loaded signed n (s.mem.num (lsLoc t.core (off k)) n)).setWidth 32) t s s1 := by
  obtain ⟨on, hon, hlanes⟩ := activeLanes_run g h.self
  let lanes := laneReqs on (addr x.1 x.2.1 x.2.2) (fun _ => 0)
  let vals := laneValues (lsValue s t.core signed n off) lanes []
  have hacc : vaccess (loadOp signed n) lanes (some d) s = .ok (some vals, s) := by
    have := vaccess_own (d := some d) h.self hf hslow (ownLanes_laneReqs (o := loadOp signed n) (data := fun _ => 0) hlanes hown)
      (laneVals_load t.core signed _) rfl
    rwa [lanesDone_load] at this
  have hvals : WritesLanes i 4 d (laneOn t s.cur.acc g) (fun k => (alGetD vals k 0).setWidth 32) t s s1 := by
    refine writesLanes_of_body _ (h.withLanes g rfl) rfl hlanes hread hi ?_
    refine (bindRun_ok (getRun s)).trans ((bindRun_ok (selfRun h.self)).trans ((bindRun_ok (ctx_run h.self)).trans
      ((bindRun_ok hon).trans ((bindRun_ok haddr).trans ?_))))
    rw [if_neg (base_accepted (o := loadOp signed n) hlanes hown hbase), portHeld_fresh d hf]
    exact (bindRun_ok (setRun s s1)).trans ((bindRun_ok hacc).trans (bindRun_ok haddr))
  refine hvals.congr fun k hk hactive => ?_
  have hmem : k ∈ lanes.map LaneReq.lane := by
    rw [map_lane_laneReqs]
    exact (mem_lanesUpTo hlanes).mpr ⟨hk, hactive⟩
  rw [alGetD, alGet_laneValues, if_pos hmem, Option.getD_some, lsValue, extend_eq_loaded _ (Memory.num_lt ..)]

/-! ### Stores (R163) -/

/-- The access of a vector store's lanes. -/
def storeOp : MemOp := { kind := .store, signed := false, size := 4, data := 0, compare := 0 }

theorem laneVals_store (core : Nat) (lanes : List LaneReq) :
    LaneVals core storeOp off (fun _ => 0) (fun _ => True) lanes :=
  fun _ _ _ _ => ⟨rfl, trivial⟩

/-- A lane's store writes the bytes of its word. -/
theorem plainOp_storeLane (u : State) (loc : Nat) (w : W32) :
    (u.plainOp loc { storeOp with data := w.setWidth 64 }).2 = u.plainWrite loc (leBytes 4 w.toNat) := by
  have hmod : (w.setWidth 64).toNat % 2 ^ (8 * 4) = w.toNat % 2 ^ (8 * 4) := by
    rw [BitVec.toNat_setWidth]
    omega
  rw [← leBytes_mod 4 w.toNat, ← hmod]
  rfl

theorem lanesDone_store (hon : ∀ k, k < 64 → on.getLsbD k = laneOn t s.cur.acc g k) (ea : Nat → Word) (v : VWord) :
    lanesDone t.core storeOp off (laneReqs on ea (fun k => (lane v k).setWidth 64)) s = laneStores s t g off v := by
  rw [lanesDone, laneReqs, lanesUpTo_eq_filter hon, List.foldl_map]
  simp only [plainOp_storeLane]
  rfl

/-- A vector store whose lanes lie in the own local store completes: its operands are popped in the state that its stores leave. -/
theorem vstore_retires {v : VWord} (h : CanIssue (vecNeed g.legal (uses ++ [.vR d]) 4) s t) (hf : Fresh s t) (hslow : s.slow = false)
    (hi : exec i s = vstore addr uses d g s) (haddr : vaddrOperands uses s = .ok (x, s1)) (hv : getV d s1 = .ok (v, s2))
    (hbase : ∀ k, field (addr x.1 x.2.1 x.2.2 k) 59 56 = field x.1 59 56)
    (hown : LanesLocal s t g (addr x.1 x.2.1 x.2.2) 4 true off)
    (haddr' : vaddrOperands uses (laneStores s t g off v) = .ok (x, u1)) (hv' : getV d u1 = .ok (v, u2)) : Retires i 4 s u2 := by
  obtain ⟨on, hon, hlanes⟩ := activeLanes_run g h.self
  have hacc := vaccess_own (d := none) h.self hf hslow (ownLanes_laneReqs (o := storeOp)
    (data := fun k => (lane v k).setWidth 64) hlanes hown) (laneVals_store t.core _) trivial
  rw [lanesDone_store hlanes] at hacc
  rw [Retires, hi]
  refine issue_completes (h.withLanes g rfl) rfl ?_
  refine (bindRun_ok (getRun s)).trans ((bindRun_ok hon).trans ((bindRun_ok haddr).trans ((bindRun_ok hv).trans ?_)))
  rw [if_neg (base_accepted (o := storeOp) hlanes hown hbase)]
  exact (bindRun_ok (setRun s s2)).trans ((bindRun_ok hacc).trans ((bindRun_ok haddr').trans (bindRun_ok hv')))

theorem laneStores_undisturbed (s : State) (t : Thread) (g : Gov) (off : Nat → Nat) (v : VWord) :
    Undisturbed s (laneStores s t g off v) :=
  .foldl _ (fun u _ => .plainWrite u ..) s

/-- The address of lane k in each form keeps the base's upper bits. -/
theorem field_vbase (f : VAddrForm) (m : Nat) (base stride : Word) (idx : VWord) (k : Nat) :
    field (vbase f m base stride idx k) 59 56 = field base 59 56 := by
  cases f <;> exact field_leaAdd ..

end

/-- Table 5.7: the loads at consecutive addresses, by size and extension. -/
theorem exec_unitLoads {d a : BitVec 5} {g : Gov} {p : Instr × Bool × Nat}
    (hp : p ∈ [(Instr.vldB32 d a g, false, 4), (.vldS16 d a g, true, 2), (.vldS8 d a g, true, 1)]) (s : State) :
    exec p.1 s = vload p.2.1 p.2.2 (vbase .unit p.2.2) [.sR a] d g s := by
  simp only [List.mem_cons, List.not_mem_nil, or_false] at hp
  rcases hp with rfl | rfl | rfl <;> rfl

/-! ### The obligation -/

/-- Settles O30: the loads at consecutive, strided and indexed addresses, then the stores. -/
theorem vectorMemory : Obligations.VectorMemory := by
  unfold Obligations.VectorMemory
  refine ⟨⟨?_, ?_, ?_⟩, ?_, ?_, ?_⟩
  · intro s t d a g h hf hslow
    obtain ⟨x, s1, hx, hread⟩ := h.reading.getS
    have haddr : vaddrOperands [.sR a] s = .ok ((x, 0, 0), s1) := bindRun_ok hx
    exact ⟨x, s1, hx, fun p hp off hown => vload_writesLanes (uses := [.sR a]) h hf hslow (exec_unitLoads hp s) haddr hread
      (field_vbase .unit p.2.2 x 0 0) hown⟩
  · intro s t d a b g h hf hslow
    obtain ⟨x, s1, hx, hread⟩ := h.reading.getS
    obtain ⟨y, s2, hy, hread⟩ := hread.getS
    have haddr : vaddrOperands [.sR a, .sR b] s = .ok ((x, y, 0), s2) := (bindRun_ok hx).trans (bindRun_ok hy)
    refine ⟨x, s1, y, s2, hx, hy, fun off hown => ?_⟩
    rw [← vbase_strided x y 4 0] at hown
    simp only [← loaded_low 4]
    exact vload_writesLanes (uses := [.sR a, .sR b]) h hf hslow rfl haddr hread (field_vbase .strided 4 x y 0) hown
  · intro s t d a b g h hf hslow
    obtain ⟨x, s1, hx, hread⟩ := h.reading.getS
    obtain ⟨y, s2, hy, hread⟩ := hread.getV
    have haddr : vaddrOperands [.sR a, .vR b] s = .ok ((x, 0, y), s2) := (bindRun_ok hx).trans (bindRun_ok hy)
    refine ⟨x, s1, y, s2, hx, hy, fun off hown => ?_⟩
    simp only [← loaded_low 4]
    exact vload_writesLanes (uses := [.sR a, .vR b]) h hf hslow rfl haddr hread (field_vbase .indexed 4 x 0 y) hown
  · intro s t d a g h hf hslow
    obtain ⟨x, s1, hx, hread⟩ := h.reading.getS
    obtain ⟨v, s2, hv, -⟩ := hread.getV
    refine ⟨x, s1, v, s2, hx, hv, fun off hown => ?_⟩
    obtain ⟨u1, hx', hu⟩ := (laneStores_undisturbed s t g off v).getS hx
    obtain ⟨u2, hv', -⟩ := hu.getV hv
    exact ⟨u1, u2, hx', hv', vstore_retires (uses := [.sR a]) (x := (x, 0, 0)) h hf hslow rfl (bindRun_ok hx) hv
      (field_vbase .unit 4 x 0 0) hown (bindRun_ok hx') hv'⟩
  · intro s t d a b g h hf hslow
    obtain ⟨x, s1, hx, hread⟩ := h.reading.getS
    obtain ⟨y, s2, hy, hread⟩ := hread.getS
    obtain ⟨v, s3, hv, -⟩ := hread.getV
    refine ⟨x, s1, y, s2, v, s3, hx, hy, hv, fun off hown => ?_⟩
    obtain ⟨u1, hx', hu⟩ := (laneStores_undisturbed s t g off v).getS hx
    obtain ⟨u2, hy', hu⟩ := hu.getS hy
    obtain ⟨u3, hv', -⟩ := hu.getV hv
    rw [← vbase_strided x y 4 0] at hown
    exact ⟨u1, u2, u3, hx', hy', hv', vstore_retires (uses := [.sR a, .sR b]) (x := (x, y, 0)) h hf hslow rfl
      ((bindRun_ok hx).trans (bindRun_ok hy)) hv (field_vbase .strided 4 x y 0) hown
      ((bindRun_ok hx').trans (bindRun_ok hy')) hv'⟩
  · intro s t d a b g h hf hslow
    obtain ⟨x, s1, hx, hread⟩ := h.reading.getS
    obtain ⟨y, s2, hy, hread⟩ := hread.getV
    obtain ⟨v, s3, hv, -⟩ := hread.getV
    refine ⟨x, s1, y, s2, v, s3, hx, hy, hv, fun off hown => ?_⟩
    obtain ⟨u1, hx', hu⟩ := (laneStores_undisturbed s t g off v).getS hx
    obtain ⟨u2, hy', hu⟩ := hu.getV hy
    obtain ⟨u3, hv', -⟩ := hu.getV hv
    exact ⟨u1, u2, u3, hx', hy', hv', vstore_retires (uses := [.sR a, .vR b]) (x := (x, 0, y)) h hf hslow rfl
      ((bindRun_ok hx).trans (bindRun_ok hy)) hv (field_vbase .indexed 4 x 0 y) hown
      ((bindRun_ok hx').trans (bindRun_ok hy')) hv'⟩

end Sys2Proof.Machine
end

section
/-! PROOFS. The array's instructions: the commands that enter its queue, its operations, its waits, `mrow`, `mgeom` and the block
additions (R167 to R188). -/

namespace Sys2Proof.Machine

/-! ### What reading sources leaves of the cores -/

/-- State u has the cores of s, but for their inbound ports, the memory of s and the domains of its threads: what a run of source
reads keeps. -/
structure SourcesRead (s u : State) : Prop where
  core : ∀ n, ∃ p, u.core n = { s.core n with ports := p }
  mem : u.mem = s.mem
  doms : ∀ k, (u.thread? k).map Thread.dom = (s.thread? k).map Thread.dom

section
variable {s u v : State} {t : Thread}

theorem SourcesRead.refl (s : State) : SourcesRead s s := ⟨fun _ => ⟨_, rfl⟩, rfl, fun _ => rfl⟩

/-- A change of a thread that keeps its domain keeps the domains of all. -/
theorem State.map_dom_updThread (s : State) (i : Nat) {f : Thread → Thread} (hf : ∀ t, (f t).dom = t.dom) (k : Nat) :
    ((s.updThread i f).thread? k).map Thread.dom = (s.thread? k).map Thread.dom := by
  by_cases hk : k = i
  · subst hk
    cases ht : s.thread? k with
    | none => rw [State.updThread, ht, ht]
    | some t => rw [State.thread?_updThread_same f ht, Option.map_some, Option.map_some, hf]
  · rw [State.thread?_updThread_other _ _ hk]

theorem ReadFrom.doms (h : ReadFrom s u) (k : Nat) : (u.thread? k).map Thread.dom = (s.thread? k).map Thread.dom := by
  rcases h with rfl | ⟨j, l, rfl⟩ | ⟨t, d, l, _, rfl⟩
  · rfl
  · refine State.map_dom_updThread s s.cur.tid ?_ k
    exact fun _ => rfl
  · rfl

theorem ReadFrom.sources (h : ReadFrom s u) : SourcesRead s u := ⟨h.core, h.mem, h.doms⟩

theorem SourcesRead.trans (h : SourcesRead s u) (h' : SourcesRead u v) : SourcesRead s v where
  core n := by
    obtain ⟨p, hp⟩ := h.core n
    obtain ⟨q, hq⟩ := h'.core n
    exact ⟨q, by rw [hq, hp]⟩
  mem := h'.mem.trans h.mem
  doms k := (h'.doms k).trans (h.doms k)

theorem SourcesRead.array (h : SourcesRead s u) (n : Nat) : (u.core n).array = (s.core n).array := by
  obtain ⟨p, hp⟩ := h.core n
  rw [hp]

theorem SourcesRead.windowOk (h : SourcesRead s u) (c off n : Nat) (write remote : Bool) :
    windowOk (u.core c) off n write remote = windowOk (s.core c) off n write remote := by
  obtain ⟨p, hp⟩ := h.core c
  rw [hp]
  rfl

/-- The group registers that a thread sees stand on its core and show themselves to the domain of its full thread (Table 1.6). -/
theorem SourcesRead.groupRegs (h : SourcesRead s u) {t r : Thread} (hcore : r.core = t.core) (hdom : r.dom = t.dom) :
    u.groupRegs r = s.groupRegs t := by
  obtain ⟨p, hp⟩ := h.core t.core
  simp only [State.groupRegs, hcore, hdom, hp]
  cases (s.core t.core).full with
  | none => rfl
  | some f =>
    have hf := h.doms f
    cases hu : u.thread? f <;> cases hs : s.thread? f <;> simp [hu, hs] at hf ⊢
    rw [hf]

/-! ### The steps that array instructions share -/

/-- The array instructions that a thread may use find it usable: reading its sources comes after the check (R167). -/
theorem mayUseArray_run (ht : s.thread? s.cur.tid = some t) (h : UsesArray s t) : mayUseArray s = .ok ((), s) := by
  simp only [mayUseArray, bindRun, selfRun ht, getRun]
  rcases h with hk | ⟨hk, f, m, hf, hm, hd⟩
  · simp [hk]
  · simp [hk, hf, hm, hd]

theorem queueRoom_run (ht : u.thread? u.cur.tid = some t) (h : (u.core t.core).array.queue.length < 8) :
    queueRoom u = .ok ((), u) := by
  simp [queueRoom, selfRun ht, Nat.not_le.mpr h]

theorem arrayOperand_run {a : Word} {n : Nat} (ht : u.thread? u.cur.tid = some t) (h : ArrayBytes u t a n) :
    arrayOperand a n u = .ok ((), u) := by
  simp [arrayOperand, selfRun ht, h.1, h.2]

theorem enter_run (c : ArrCmd) (ht : u.thread? u.cur.tid = some t) :
    enter c u = .ok ((), State.enterCmd { u with nextId := u.nextId + 1 } t.core u.cur.tid none u.nextId c) := by
  simp [enter, selfRun ht, State.fresh]

theorem ArrayBytes.ofSources {a : Word} {n : Nat} {q : Vector (List QEntry) 4} (h : ArrayBytes s t a n) (hsrc : SourcesRead s u) :
    ArrayBytes u { t with q := q } a n :=
  ⟨h.1, (hsrc.windowOk ..).trans h.2⟩

/-- What every array setup command does once its operand is found legal (R168). -/
def enterWithRoom (c : ArrCmd) : Exec Next := do
  queueRoom
  enter c
  pure .seq

/-- An array setup command whose sources have been read up to u, and that then finds room, enters its command. -/
theorem enqueues_of_body {us : List Use} {n : Need} {i : Instr} {body : Exec Next} {c : ArrCmd} (h : CanIssue n s t)
    (hsys : n.sysRel = false) (hlen : n.len = 4) (hread : Reading us s u t) (hsrc : SourcesRead s u) (hroom : ArrayRoom s t)
    (hi : exec i s = issue n body s) (hbody : body s = enterWithRoom c u) : Enqueues i c t s u := by
  obtain ⟨q, hq⟩ := hread.thread
  have hlength : (u.core t.core).array.queue.length < 8 := by rw [hsrc.array]; exact hroom
  rw [Enqueues, Retires, hi, ← hlen, ← hread.cur]
  exact issue_completes h hsys (hbody.trans ((bindRun_ok (queueRoom_run hq hlength)).trans
    (bindRun_ok (enter_run (t := { t with q := q }) c hq))))

end

/-! ### The setup commands (R172 to R176, R184) -/

section
variable {s s1 s2 : State} {t : Thread} {a b d : BitVec 5} {x y : Word}

/-- The stored planes of Table 3.6. -/
theorem planesOf_eq {f : Nat} (h : f ≤ 5) : [8, 8, 12, 12, 16, 16].getD f 0 = planesOf f := by
  interval_cases f <;> rfl

/-- The default plane counts of Table 3.6. -/
theorem defaultPlanes_eq {f : Nat} (h : f ≤ 5) : [5, 8, 10, 10, 12, 12].getD f 0 = defaultPlanes f := by
  interval_cases f <;> rfl

/-- The extents of Table 6.3. -/
theorem imageBytes_eq {f : Nat} (h : f ≤ 4) : [9216, 16896, 16384, 16384, 32768].getD f 0 = imageBytes f := by
  interval_cases f <;> rfl

theorem mfmt_enqueues (h : CanIssue (setupNeed [.sR a]) s t) (hroom : ArrayRoom s t) (hx : getS a s = .ok (x, s1))
    (hread : Reading [] s s1 t) (hfmt : field x 3 0 ≤ 5) (hzero : field x 7 4 = 0)
    (hp : field x 12 8 ≤ [8, 8, 12, 12, 16, 16].getD (field x 3 0) 0) (hhigh : field x 63 13 = 0) :
    Enqueues (.mfmt a) (.mfmt (BitVec.ofNat 4 (field x 3 0)) (BitVec.ofNat 5
      (if field x 12 8 = 0 then [5, 8, 10, 10, 12, 12].getD (field x 3 0) 0 else field x 12 8))) t s s1 := by
  rw [planesOf_eq hfmt] at hp
  rw [defaultPlanes_eq hfmt]
  refine enqueues_of_body h rfl rfl hread (getS_inv hx).sources hroom rfl ((bindRun_ok hx).trans ?_)
  rw [if_neg (by simp [hzero, hhigh]; omega)]
  rfl

theorem mspar_enqueues (h : CanIssue (setupNeed [.sR a]) s t) (hroom : ArrayRoom s t) (hx : getS a s = .ok (x, s1))
    (hread : Reading [] s s1 t) (hbytes : ArrayBytes s t x 4096) : Enqueues (.mspar a) (.mspar (x.setWidth 19)) t s s1 := by
  obtain ⟨q, hq⟩ := hread.thread
  have hsrc := (getS_inv hx).sources
  exact enqueues_of_body h rfl rfl hread hsrc hroom rfl
    ((bindRun_ok hx).trans (bindRun_ok (arrayOperand_run hq (hbytes.ofSources hsrc))))

theorem mscale_enqueues (h : CanIssue (setupNeed [.sR a]) s t) (hroom : ArrayRoom s t) (hx : getS a s = .ok (x, s1))
    (hread : Reading [] s s1 t) (hhigh : field x 63 8 = 0) : Enqueues (.mscale a) (.mscale (x.extractLsb' 0 8)) t s s1 := by
  refine enqueues_of_body h rfl rfl hread (getS_inv hx).sources hroom rfl ((bindRun_ok hx).trans ?_)
  rw [if_neg (not_not.mpr hhigh)]
  rfl

theorem mzero_enqueues (h : CanIssue (setupNeed []) s t) (hroom : ArrayRoom s t) : Enqueues .mzero .mzero t s s :=
  enqueues_of_body h rfl rfl h.reading (.refl s) hroom rfl rfl

theorem mlatch_enqueues (h : CanIssue (setupNeed [.sR a, .sR b]) s t) (hroom : ArrayRoom s t) (hx : getS a s = .ok (x, s1))
    (hy : getS b s1 = .ok (y, s2)) (hread : Reading [] s s2 t) (hfmt : field y 3 0 ≤ 4) (hhigh : field y 63 5 = 0)
    (hbytes : ArrayBytes s t x (imageBytes (field y 3 0))) :
    Enqueues (.mlatch a b) (.mlatch (s.mem.bytes (lsLoc t.core x.toNat) (imageBytes (field y 3 0))) (y.extractLsb' 0 4) (bit y 4))
      t s s2 := by
  obtain ⟨q, hq⟩ := hread.thread
  have hsrc := (getS_inv hx).sources.trans (getS_inv hy).sources
  refine enqueues_of_body h rfl rfl hread hsrc hroom rfl
    ((bindRun_ok hx).trans ((bindRun_ok hy).trans ((bindRun_ok (selfRun hq)).trans ?_)))
  rw [if_neg (by simp [hhigh]; omega)]
  refine (bindRun_ok (arrayOperand_run hq (hbytes.ofSources hsrc))).trans ?_
  have hlength : (s2.core t.core).array.queue.length < 8 := by rw [hsrc.array]; exact hroom
  simp only [enterWithRoom, bindRun_ok (queueRoom_run hq hlength)]
  refine (bindRun_ok (getRun s2)).trans ?_
  rw [State.lsRead, hsrc.mem]

theorem mrowst_enqueues {v : VWord} (h : CanIssue (setupNeed [.sR a, .vR d]) s t) (hroom : ArrayRoom s t)
    (hx : getS a s = .ok (x, s1)) (hv : getV d s1 = .ok (v, s2)) (hread : Reading [] s s2 t) (hhigh : field x 63 6 = 0) :
    Enqueues (.mrowst d a) (.mrowst (x.extractLsb' 0 5) (bit x 5) t.vl v) t s s2 := by
  obtain ⟨q, hq⟩ := hread.thread
  refine enqueues_of_body h rfl rfl hread ((getS_inv hx).sources.trans (getV_inv hv).sources) hroom rfl
    ((bindRun_ok hx).trans ((bindRun_ok hv).trans ((bindRun_ok (selfRun hq)).trans ?_)))
  rw [if_neg (not_not.mpr hhigh)]
  rfl

end

/-- Settles O32: each command reads its sources, finds its operand legal and its queue with room, and enters. -/
theorem arraySetup : Obligations.ArraySetup := by
  unfold Obligations.ArraySetup
  refine ⟨?_, ?_, ?_, ?_⟩
  · intro s t a h hroom
    obtain ⟨x, s1, hx, hread⟩ := h.reading.getS
    exact ⟨x, s1, hx, mfmt_enqueues h hroom hx hread, mspar_enqueues h hroom hx hread, mscale_enqueues h hroom hx hread⟩
  · intro s t h hroom
    exact mzero_enqueues h hroom
  · intro s t a b h hroom
    obtain ⟨x, s1, hx, hread⟩ := h.reading.getS
    obtain ⟨y, s2, hy, hread⟩ := hread.getS
    refine ⟨x, s1, y, s2, hx, hy, ?_⟩
    intro n hfmt hhigh hbytes
    have hn : n = imageBytes (field y 3 0) := imageBytes_eq hfmt
    rw [hn] at hbytes ⊢
    exact mlatch_enqueues h hroom hx hy hread hfmt hhigh hbytes
  · intro s t d a h hroom
    obtain ⟨x, s1, hx, hread⟩ := h.reading.getS
    obtain ⟨v, s2, hv, hread⟩ := hread.getV
    exact ⟨x, s1, v, s2, hx, hv, mrowst_enqueues h hroom hx hv hread⟩

end Sys2Proof.Machine
end

section
/-! PROOFS. The array's operations: `mstream`, `mstreamz` and `mdrain` (R167, R170, R178, R180). -/

namespace Sys2Proof.Machine

/-! ### A token that arrives later -/

/-- Thread r has the core, domain, image and sealed batches of t: what an engine operation takes from the thread that issues it. -/
structure SameIssuer (t r : Thread) : Prop where
  core : r.core = t.core
  dom : r.dom = t.dom
  image : r.image = t.image
  sealed_ : r.lastSealed = t.lastSealed

theorem SameIssuer.newOp {t r : Thread} (h : SameIssuer t r) (kind : OpKind) (tid : Nat) (dest : Dest) (ord : Ord) (num : Nat)
    (rec_ : Vector Word 8) : newOp kind r tid dest ord num rec_ = newOp kind t tid dest ord num rec_ := by
  simp only [Machine.newOp, h.dom, h.image, h.sealed_]

/-- State v has the issuing agent of s, and its thread as an issuer of engine operations. -/
structure KeepsIssuer (s v : State) (t : Thread) : Prop where
  cur : v.cur = s.cur
  self : ∃ r, v.thread? v.cur.tid = some r ∧ SameIssuer t r

/-- The queues of a thread do not count for its operations. -/
theorem KeepsIssuer.withQueues {s v : State} {t : Thread} {q : Vector (List QEntry) 4} (h : KeepsIssuer s v { t with q := q }) :
    KeepsIssuer s v t := by
  obtain ⟨r, hr, hsame⟩ := h.self
  exact ⟨h.cur, r, hr, hsame.core, hsame.dom, hsame.image, hsame.sealed_⟩

section
variable {us : List Use} {s : State} {t : Thread} {c : BitVec 5}

theorem updSelf_keepsIssuer {u : State} (f : Thread → Thread) (hcur : u.cur = s.cur) (ht : u.thread? s.cur.tid = some t)
    (hf : SameIssuer t (f t)) : KeepsIssuer s (u.updThread s.cur.tid f) t :=
  ⟨(State.updThread_cur ..).trans hcur, f t,
    by rw [State.updThread_cur, hcur]; exact State.thread?_updThread_same f ht, hf⟩

/-- A T field that names a register, a queue or a port leaves its place pending, whatever its value will be (R30, R129, R20). -/
theorem laterS_run (hroom : Room (.tok c :: us) s) (ht : s.thread? s.cur.tid = some t) :
    ∃ d v, laterS c s = .ok (d, v) ∧ KeepsIssuer s v t := by
  have hsame : SameIssuer t t := ⟨rfl, rfl, rfl, rfl⟩
  by_cases hreg : c.toNat < 24
  · by_cases hzero : t.zeroReg c.toNat
    · exact ⟨.none, s, by simp [laterS, selfRun ht, hreg, hzero], rfl, t, ht, hsame⟩
    · refine ⟨.reg s.cur.acc c.toNat, _, by simp [laterS, selfRun ht, hreg, hzero, Machine.updCtx]; rfl,
        updSelf_keepsIssuer _ rfl ht ?_⟩
      by_cases hacc : s.cur.acc = true <;> simp only [Thread.updCtx, hacc] <;> exact ⟨rfl, rfl, rfl, rfl⟩
  · have ht' : ({ s with nextId := s.nextId + 1 } : State).thread? s.cur.tid = some t := ht
    by_cases hqueue : c.toNat < 28
    · refine ⟨.queue s.nextId, _, by simp [laterS, selfRun ht, hreg, hqueue, State.fresh]; rfl, ?_⟩
      refine updSelf_keepsIssuer _ rfl ht' ?_
      exact ⟨rfl, rfl, rfl, rfl⟩
    · obtain ⟨r, hr, -, -, hedge⟩ := hroom.self
      cases ht.symm.trans hr
      have hc : c.toNat < 32 := c.isLt
      have hport : (Use.tok c).port = some (c.toNat - 28, true) := if_pos (by omega)
      obtain ⟨n, hn⟩ := Option.isSome_iff_exists.mp (hedge _ (List.mem_cons_self ..) _ _ hport)
      obtain ⟨v, hpush, hcur, hself⟩ : ∃ v, pushPort (c.toNat - 28) (.reserved s.nextId) { s with nextId := s.nextId + 1 } =
          .ok ((), v) ∧ v.cur = s.cur ∧ v.thread? s.cur.tid = some t := ⟨_, pushPort_ok ht' hn, rfl, ht'⟩
      refine ⟨.port n (BitVec.ofNat 2 (opposite (c.toNat - 28))) s.nextId, v, ?_, hcur, t, hcur ▸ hself, hsame⟩
      simp only [laterS, bindRun, selfRun ht, meRun, hreg, hqueue, if_false, getRun, State.fresh, setRun, hpush, hn]
      rfl

theorem laterT_run (hroom : Room (.tok c :: us) s) (ht : s.thread? s.cur.tid = some t) :
    ∃ d v, laterT c s = .ok (d, v) ∧ KeepsIssuer s v t := by
  by_cases hc : c = 0
  · exact ⟨.none, s, by simp [laterT, hc], rfl, t, ht, rfl, rfl, rfl, rfl⟩
  · rw [laterT, if_neg hc]
    exact laterS_run hroom ht

/-- Handing an operation to the array and entering its command (R170). -/
theorem enterOp_run {dest : Dest} {v : State} {kind : OpKind} {rows : Nat} {ord : Ord} (f : Nat → ArrCmd)
    (hlater : laterT c s = .ok (dest, v)) (hv : KeepsIssuer s v t) :
    let p := v.acceptOp t.core (v.issued { newOp kind t s.cur.tid dest ord 0 (Vector.replicate 8 0) with rows := rows })
    enterOp kind rows c ord f s = .ok ((), p.2.enterCmd t.core s.cur.tid none p.1 (f p.1)) := by
  intro p
  obtain ⟨r, hr, hsame⟩ := hv.self
  have hp : p = v.acceptOp r.core (v.issued { newOp kind r v.cur.tid dest ord 0 (Vector.replicate 8 0) with rows := rows }) := by
    rw [hsame.newOp, hsame.core, hv.cur]
  simp only [enterOp, bindRun, hlater, meRun, selfRun hr, getRun, setRun]
  rw [hp, ← hv.cur, ← hsame.core]

end

/-! ### The operands of a stream and a drain -/

section
variable {s s1 s2 v : State} {th : Thread} {t a b : BitVec 5} {ord : Ord} {x y : Word} {dest : Dest}

/-- The issuing thread, once it has read A and B up to s2 and claimed T for a word that comes later. -/
structure Operating (ord : Ord) (a b t : BitVec 5) (s : State) (th : Thread) (x y : Word) (s2 : State) (dest : Dest) (v : State) :
    Prop where
  issues : CanIssue (operateNeed ord [.sR a, .sR b, .tok t]) s th
  uses : UsesArray s th
  room : ArrayRoom s th
  reads : ∃ s1, getS a s = .ok (x, s1) ∧ getS b s1 = .ok (y, s2)
  sources : SourcesRead s s2
  cur : s2.cur = s.cur
  self : ∃ q, s2.thread? s2.cur.tid = some { th with q := q }
  claims : laterT t s2 = .ok (dest, v)
  keeps : KeepsIssuer s2 v th

/-- A thread that can issue an operation reads A and B and claims T. -/
theorem operating (h : CanIssue (operateNeed ord [.sR a, .sR b, .tok t]) s th) (huses : UsesArray s th) (hroom : ArrayRoom s th) :
    ∃ x s1 y s2 dest v, getS a s = .ok (x, s1) ∧ getS b s1 = .ok (y, s2) ∧ laterT t s2 = .ok (dest, v) ∧
      Operating ord a b t s th x y s2 dest v := by
  obtain ⟨x, s1, hx, hread⟩ := h.reading.getS
  obtain ⟨y, s2, hy, hread⟩ := hread.getS
  obtain ⟨q, hq⟩ := hread.thread
  obtain ⟨dest, v, hlater, hv⟩ := laterT_run hread.room hq
  exact ⟨x, s1, y, s2, dest, v, hx, hy, hlater, h, huses, hroom, ⟨s1, hx, hy⟩, (getS_inv hx).sources.trans (getS_inv hy).sources,
    hread.cur, ⟨q, hq⟩, hlater, hv.withQueues⟩

theorem streamWordOk_of (h1 : field y 5 0 ≤ 32) (h2 : field y 7 6 = 0) (h3 : field y 16 8 ≤ 256) (h4 : field y 63 17 = 0) :
    streamWordOk y = true := by
  simp [streamWordOk, h1, h2, h3, h4]

theorem drainWordOk_of (h1 : field y 5 0 ≤ 32) (h2 : field y 7 6 = 0) (h3 : field y 15 8 ≤ 128) (h4 : field y 31 17 = 0)
    (h5 : field y 63 48 = 0) : drainWordOk y = true := by
  simp [drainWordOk, h1, h2, h3, h4, h5]

theorem entryAddr_run (h : GoodTarget x) (u : State) : entryAddr x u = .ok ((), u) := by
  simp [entryAddr, h.1, h.2]

/-- The last steps of every array operation: a free place in the queue, then the operation and its command (R168, R170). -/
theorem Operating.enters (h : Operating ord a b t s th x y s2 dest v) (kind : OpKind) (rows : Nat) (f : Nat → ArrCmd) :
    queueRoom s2 = .ok ((), s2) ∧
      let p := v.acceptOp th.core (v.issued { newOp kind th s.cur.tid dest ord 0 (Vector.replicate 8 0) with rows := rows })
      enterOp kind rows t ord f s2 = .ok ((), p.2.enterCmd th.core s.cur.tid none p.1 (f p.1)) := by
  obtain ⟨q, hq⟩ := h.self
  refine ⟨queueRoom_run hq ?_, ?_⟩
  · rw [h.sources.array]
    exact h.room
  · rw [← h.cur]
    exact enterOp_run f h.claims h.keeps

/-- `mstream` and `mstreamz` with a legal stream word and operand hand their pass to the array (R178). -/
theorem Operating.stream_retires (h : Operating ord a b t s th x y s2 dest v) (hy : streamWordOk y = true)
    (hbytes : ArrayBytes s th x (s.core th.core).array.streamExtent) (zero : Bool) :
    let mv := rowsFor (field y 5 0) (s.groupRegs th).emask
    let p := v.acceptOp th.core (v.issued { newOp .mstream th s.cur.tid dest ord 0 (Vector.replicate 8 0) with rows := mv })
    stream zero t a b ord s = .next ((p.2.enterCmd th.core s.cur.tid none p.1
      (.mstream zero (x.setWidth 19) mv (field y 16 8) (some p.1))).advance 4 .seq) := by
  intro mv p
  obtain ⟨s1, hx, hy'⟩ := h.reads
  obtain ⟨q, hq⟩ := h.self
  obtain ⟨hroom, henter⟩ := h.enters .mstream mv (fun id => .mstream zero (x.setWidth 19) mv (field y 16 8) (some id))
  have hregs : s2.groupRegs { th with q := q } = s.groupRegs th := h.sources.groupRegs rfl rfl
  have hop : arrayOperand x (s2.core th.core).array.streamExtent s2 = .ok ((), s2) := by
    rw [h.sources.array]
    exact arrayOperand_run hq (hbytes.ofSources h.sources)
  refine issue_completes h.issues rfl ((bindRun_ok (mayUseArray_run h.issues.self h.uses)).trans ((bindRun_ok hx).trans
    ((bindRun_ok hy').trans ((bindRun_ok (selfRun hq)).trans ?_))))
  rw [if_neg (by simp [hy])]
  refine (bindRun_ok (getRun s2)).trans ((bindRun_ok hop).trans ((bindRun_ok hroom).trans ?_))
  simp only [hregs]
  exact bindRun_ok henter

/-- `mdrain` with a good entry address and a legal drain word hands its drain to the array (R180). -/
theorem Operating.drain_retires (h : Operating ord a b t s th x y s2 dest v) (hx : GoodTarget x) (hy : drainWordOk y = true) :
    let e := (s.groupRegs th).emask
    let mv := rowsFor (field y 5 0) e
    let p := v.acceptOp th.core (v.issued { newOp .mdrain th s.cur.tid dest ord 0 (Vector.replicate 8 0) with rows := mv })
    Retires (.mdrain t a b ord) 4 s (p.2.enterCmd th.core s.cur.tid none p.1
      (.mdrain (x.extractLsb' 0 56) mv (colsFor (field y 15 8) e) (bit y 16) (y.extractLsb' 32 16) p.1)) := by
  intro e mv p
  obtain ⟨s1, hx', hy'⟩ := h.reads
  obtain ⟨q, hq⟩ := h.self
  obtain ⟨hroom, henter⟩ := h.enters .mdrain mv (fun id =>
    .mdrain (x.extractLsb' 0 56) mv (colsFor (field y 15 8) e) (bit y 16) (y.extractLsb' 32 16) id)
  have hregs : s2.groupRegs { th with q := q } = s.groupRegs th := h.sources.groupRegs rfl rfl
  refine issue_completes h.issues rfl ((bindRun_ok (mayUseArray_run h.issues.self h.uses)).trans ((bindRun_ok hx').trans
    ((bindRun_ok hy').trans ((bindRun_ok (selfRun hq)).trans ((bindRun_ok (entryAddr_run hx s2)).trans ?_)))))
  rw [if_neg (by simp [hy])]
  refine (bindRun_ok hroom).trans ((bindRun_ok (getRun s2)).trans ?_)
  simp only [hregs]
  exact bindRun_ok henter

end

/-- Settles O33: the sources read and T claimed, each operation passes its checks and enters its command. -/
theorem arrayOperations : Obligations.ArrayOperations := by
  unfold Obligations.ArrayOperations
  intro s th t a b ord h huses hroom
  obtain ⟨x, s1, y, s2, dest, v, hx, hy, hlater, hop⟩ := operating h huses hroom
  refine ⟨x, s1, y, s2, dest, v, hx, hy, hlater, ?_, ?_⟩
  · intro h1 h2 h3 h4 hbytes p z
    have hstream := hop.stream_retires (streamWordOk_of h1 h2 h3 h4) hbytes z
    cases z <;> exact hstream
  · intro hx h1 h2 h3 h4 h5
    exact hop.drain_retires hx (drainWordOk_of h1 h2 h3 h4 h5)

end Sys2Proof.Machine
end

section
/-! PROOFS. What waits for the array's commands, the output tiles of a gang and the addition of blocks (R179, R183, R184, R188). -/

namespace Sys2Proof.Machine

/-! ### Waiting for commands (R183, R184) -/

section
variable {s s1 : State} {t : Thread} {drains : Bool} {go : Exec Next} {d a : BitVec 5} {x : Word}

/-- Once the commands it waits for are done, an instruction goes on from the state it has found. -/
theorem waitCommands_done (ht : s.thread? s.cur.tid = some t) (h : CommandsDone s t drains) : waitCommands drains go s = go s := by
  simp only [waitCommands, bindRun, meRun, selfRun ht, ctx_run ht, getRun]
  rcases h with ⟨hgot, hqueue, hdrains⟩ | ⟨hgot, hdone⟩
  · have hlive : (if drains then ((s.core t.core).ops.filter (fun o => s.drainLive t.core o.1)).map
        (fun o => BitVec.ofNat 64 o.1) else ([] : List Word)) = [] := by
      cases drains with
      | false => rfl
      | true => simpa using hdrains rfl
    simp only [hgot, if_true, hqueue, List.flatMap_nil, List.map_nil, List.nil_append, hlive, List.isEmpty_nil]
  · have hnone : ((t.ctx s.cur.acc).got.any (fun i =>
        (s.core t.core).array.queue.any (fun q => BitVec.ofNat 64 q.id == i) || s.drainLive t.core i.toNat)) = false := by
      refine List.any_eq_false.mpr fun i hi => ?_
      obtain ⟨hids, hlive⟩ := hdone i hi
      simpa [hlive] using hids
    simp only [hgot, if_false, hnone]
    rfl

/-- An instruction that has noted commands of which one is not done goes on waiting. -/
theorem waitCommands_stalls (ht : s.thread? s.cur.tid = some t) (hgot : (t.ctx s.cur.acc).got ≠ []) (h : ¬CommandsDone s t drains) :
    waitCommands drains go s = .error (.stall .array id) := by
  have hsome : ((t.ctx s.cur.acc).got.any (fun i =>
      (s.core t.core).array.queue.any (fun q => BitVec.ofNat 64 q.id == i) || s.drainLive t.core i.toNat)) = true := by
    refine Classical.byContradiction fun hnone => h (.inr ⟨hgot, fun i hi => ?_⟩)
    have hi := List.any_eq_false.mp (eq_false_of_ne_true hnone) i hi
    rw [Bool.not_eq_true, Bool.or_eq_false_iff, List.any_eq_false] at hi
    simpa using hi
  simp only [waitCommands, bindRun, meRun, selfRun ht, ctx_run ht, getRun, hgot, if_false, hsome, if_true]
  rfl

/-- `mwait` asks whether its thread may use the array as it issues; a thread that may finds no difference. -/
theorem exec_mwait (ht : s.thread? s.cur.tid = some t) (h : UsesArray s t) :
    (do if !(← ctx).midway then mayUseArray
        waitCommands true (pure .seq) : Exec Next) s = waitCommands true (pure .seq) s := by
  refine (bindRun_ok (ctx_run ht)).trans ?_
  by_cases hm : (t.ctx s.cur.acc).midway
  · simp only [hm]
    rfl
  · simp only [hm]
    exact bindRun_ok (mayUseArray_run ht h)

theorem mwait_retires (h : CanIssue { plain true [] with cls := .noHeddle } s t) (huses : UsesArray s t)
    (hdone : CommandsDone s t true) : Retires .mwait 4 s s :=
  issue_completes h rfl ((exec_mwait h.self huses).trans ((waitCommands_done h.self hdone).trans (pureRun ..)))

theorem mwait_waits (h : CanIssue { plain true [] with cls := .noHeddle } s t) (huses : UsesArray s t)
    (hgot : (t.ctx s.cur.acc).got ≠ []) (hdone : ¬CommandsDone s t true) : Waits .mwait .array s :=
  issue_stalls h rfl ((exec_mwait h.self huses).trans (waitCommands_stalls h.self hgot hdone))

/-! ### `mrow` (R184) -/

theorem half_offset (x : Word) (k : Nat) : (if bit x k then 64 else 0) = 64 * field x k k := by
  rw [field_eq_mod, bit, BitVec.getLsbD, Nat.testBit_eq_decide_div_mod_eq, Nat.add_sub_cancel_left, pow_one]
  have := Nat.mod_two_eq_zero_or_one (x.toNat / 2 ^ k)
  split <;> simp_all

theorem mrow_writesLanes (h : CanIssue (setupNeed [.sR a, .vW d]) s t) (hx : getS a s = .ok (x, s1))
    (hread : Reading [.vW d] s s1 t) (hhigh : field x 63 6 = 0) (hdone : CommandsDone s t false) :
    WritesLanes (.mrow d a) 4 d (fun k => decide (k < t.vl))
      (fun k => vget (s.core t.core).array.acc (128 * field x 4 0 + 64 * field x 5 5 + k) 0) t s s1 := by
  obtain ⟨q, hq⟩ := hread.thread
  have hlanes : ∀ k, k < 64 → (BitVec.ofNat 64 (2 ^ t.vl - 1)).getLsbD k = decide (k < t.vl) := fun k hk => getLsbD_lanesBelow _ hk
  refine writesLanes_of_body _ h rfl hlanes hread rfl
    ((bindRun_ok (getRun s)).trans ((bindRun_ok hx).trans ((bindRun_ok (selfRun hq)).trans ?_)))
  rw [if_neg (not_not.mpr hhigh)]
  refine (bindRun_ok (getRun s1)).trans ((bindRun_ok (setRun s s1)).trans ((waitCommands_done h.self hdone).trans
    ((bindRun_ok (setRun s1 s)).trans ?_)))
  have hrow : (s1.core t.core).array.readRow (x.extractLsb' 0 5) (bit x 5) =
      fun k => vget (s.core t.core).array.acc (128 * field x 4 0 + 64 * field x 5 5 + k) 0 := by
    funext k
    rw [(getS_inv hx).sources.array, ArrayState.readRow, half_offset]
    rfl
  rw [hrow]

end

/-! ### Output tiles (R179) -/

section
variable {s s1 s2 : State} {t : Thread} {d a b : BitVec 5} {x y : Word}

/-- The state once a member's tile registers are set. -/
def State.setTile (s : State) (core : Nat) (row0 col0 : BitVec 32) (em : BitVec 24) : State :=
  s.updCore core (fun k => { k with grp := { (s.core core).grp with row0 := row0, col0 := col0, emask := em } })

/-- The last steps of `mgeom`: the tile registers, then whether there is a tile. -/
def putTile (d : BitVec 5) (core : Nat) (p : BitVec 32 × BitVec 32 × BitVec 24 × Bool) : Exec Next := do
  modify (fun s => s.updCore core (fun c => { c with grp := { c.grp with row0 := p.1, col0 := p.2.1, emask := p.2.2.1 } }))
  setS d (boolWord p.2.2.2)
  pure .seq

theorem putTile_run (core : Nat) (p : BitVec 32 × BitVec 32 × BitVec 24 × Bool) :
    putTile d core p s2 = (do setS d (boolWord p.2.2.2); pure Next.seq : Exec Next) (s2.setTile core p.1 p.2.1 p.2.2.1) :=
  bindRun_ok (modifyRun ..)

theorem Reading.setTile {us : List Use} (h : Reading us s s2 t) (core : Nat) (row0 col0 : BitVec 32) (em : BitVec 24) :
    Reading us s (s2.setTile core row0 col0 em) t :=
  ⟨h.room.updPorts _ (fun _ _ => Nat.le_refl _), h.cur, h.self⟩

/-- The tile that R179 gives member i of an M by N by K product: its rows, columns and `%emask`, and whether there is one. -/
def tileOf (x y : Word) (i : Nat) : BitVec 32 × BitVec 32 × BitVec 24 × Bool :=
  let m := field x 19 0
  let n := field x 39 20
  let k := field x 59 40
  let tm := (m + 31) / 32
  let tn := (n + 127) / 128
  if tm * tn ≤ i then (0, 0, 0, false)
  else
    let r := if bit y 0 then i % tm else i / tn
    let c := if bit y 0 then i / tm else i % tn
    let w : Nat × Nat × Nat :=
      if bit y 1 then (32, 128, 128) else (min 32 (m - 32 * r), min 128 (n - 128 * c), k - 128 * ((k + 127) / 128 - 1))
    (BitVec.ofNat 32 (32 * r), BitVec.ofNat 32 (128 * c), BitVec.ofNat 24 (w.2.2 * 65536 + w.2.1 * 256 + w.1), true)

/-- The operand words of an `mgeom` are legal (R179). -/
structure GoodGeometry (x y : Word) : Prop where
  m : field x 19 0 ≠ 0
  n : field x 39 20 ≠ 0
  k : field x 59 40 ≠ 0
  high : field x 63 60 = 0
  low : field y 15 2 = 0
  top : field y 63 48 = 0

theorem mgeom_writes (h : CanIssue (setupNeed [.sR a, .sR b, .sW d]) s t) (hx : getS a s = .ok (x, s1)) (hy : getS b s1 = .ok (y, s2))
    (hread : Reading [.sW d] s s2 t) (hgood : GoodGeometry x y) (hsize : (s.groupRegs t).gsize ≠ 0) :
    let p := tileOf x y ((s.groupRegs t).rank.toNat + field y 47 16 * (s.groupRegs t).gsize.toNat)
    Writes (.mgeom d a b) 4 d (boolWord p.2.2.2) s (s2.setTile t.core p.1 p.2.1 p.2.2.1) := by
  intro p
  obtain ⟨q, hq⟩ := hread.thread
  have hregs : s2.groupRegs { t with q := q } = s.groupRegs t :=
    ((getS_inv hx).sources.trans (getS_inv hy).sources).groupRegs rfl rfl
  refine writes_of_body h rfl (hread.setTile t.core p.1 p.2.1 p.2.2.1) rfl
    ((bindRun_ok hx).trans ((bindRun_ok hy).trans ((bindRun_ok (selfRun hq)).trans ((bindRun_ok (getRun s2)).trans ?_))))
  simp only [hregs]
  rw [if_neg (by simp [hgood.m, hgood.n, hgood.k, hgood.high]), if_neg (by simp [hgood.low, hgood.top]), if_neg hsize]
  refine Eq.trans ?_ (putTile_run t.core p)
  simp only [p, tileOf]
  split <;> rfl

/-- Past the last tile there is none. -/
theorem tileOf_none {i : Nat} (h : (field x 19 0 + 31) / 32 * ((field x 39 20 + 127) / 128) ≤ i) :
    tileOf x y i = (0, 0, 0, false) :=
  if_pos h

/-- What is left of K for the last pass of a tile. -/
theorem lastPass {k : Nat} (hk : k ≠ 0) : k - 128 * ((k + 127) / 128 - 1) = (k - 1) % 128 + 1 := by omega

/-- The extents of a tile as `%emask` holds them: MV, NV and KV (Table 1.6). -/
def tileExtents (x y : Word) (r c : Nat) : Nat × Nat × Nat :=
  if bit y 1 then (32, 128, 128)
  else (min 32 (field x 19 0 - 32 * r), min 128 (field x 39 20 - 128 * c), (field x 59 40 - 1) % 128 + 1)

theorem tileOf_some {i : Nat} (hk : field x 59 40 ≠ 0) (h : i < (field x 19 0 + 31) / 32 * ((field x 39 20 + 127) / 128)) :
    let tm := (field x 19 0 + 31) / 32
    let tn := (field x 39 20 + 127) / 128
    let r := if bit y 0 then i % tm else i / tn
    let c := if bit y 0 then i / tm else i % tn
    let w := tileExtents x y r c
    tileOf x y i = (BitVec.ofNat 32 (32 * r), BitVec.ofNat 32 (128 * c),
      BitVec.ofNat 24 (w.1 + 256 * w.2.1 + 65536 * w.2.2), true) := by
  intro tm tn r c w
  simp only [tileOf, if_neg (Nat.not_le.mpr h), lastPass hk]
  change (_, _, BitVec.ofNat 24 (w.2.2 * 65536 + w.2.1 * 256 + w.1), true) = _
  rw [show w.2.2 * 65536 + w.2.1 * 256 + w.1 = w.1 + 256 * w.2.1 + 65536 * w.2.2 by omega]

end

/-! ### Adding blocks (R188) -/

section
variable {s s1 s2 : State} {t : Thread} {d a b : BitVec 5} {i : Instr} {x y : VWord} {bx4 : Bool}

/-- The exact element j of block k of a vector of nb blocks (Table 3.5). -/
def blockElem (bx4 : Bool) (nb : Nat) (v : VWord) (k j : Nat) : FVal :=
  let c := codedOf bx4 nb k v
  if bx4 then c.bx4 j else c.bx8i j

/-- The sum of the blocks k of two vectors: one of a NaN block raises nothing (R92, R188). -/
def blockSumOf (bx4 : Bool) (nb : Nat) (x y : VWord) (k : Nat) : Coded :=
  let sums := (List.range 32).map (fun j => blockSum (blockElem bx4 nb x k j) (blockElem bx4 nb y k j))
  let r := if bx4 then bx4Rule sums else bx8iRule sums
  if (codedOf bx4 nb k x).scale = 255 ∨ (codedOf bx4 nb k y).scale = 255 then { r with flags := FF.none } else r

/-- The sums of the first nb blocks of two vectors. -/
def blockSums (bx4 : Bool) (nb : Nat) (x y : VWord) : List Coded := (List.range nb).map (blockSumOf bx4 nb x y)

/-- A sum of blocks has as many words of codes as its format (Table 5.6). -/
theorem blockSumOf_payload_length (nb k : Nat) : (blockSumOf bx4 nb x y k).payload.length = 4 * if bx4 then 4 else 8 := by
  have hlen (f : Nat → FVal) : ((List.range 32).map f).length = 32 := by simp
  rw [blockSumOf, apply_ite Coded.payload, ite_self]
  cases bx4 with
  | true => exact bx4Rule_payload_length (hlen _)
  | false => exact bx8iRule_payload_length (hlen _)

theorem wordsPerBlock_blockSums {nb : Nat} (hnb : nb ≠ 0) : wordsPerBlock (blockSums bx4 nb x y) = if bx4 then 4 else 8 := by
  obtain ⟨n, rfl⟩ := Nat.exists_eq_succ_of_ne_zero hnb
  rw [blockSums, List.range_succ_eq_map (n := n), List.map_cons, wordsPerBlock, blockSumOf_payload_length]
  exact Nat.mul_div_cancel_left _ (by decide)

/-- What a block addition does once its sources have been read: it puts their sums as a quantisation puts its blocks. -/
def putSums (bx4 : Bool) (vl : Nat) (x y : VWord) (d : BitVec 5) : Exec Next :=
  if vl / 32 = 0 then do
    if 28 ≤ d.toNat then setV d 0
    pure .seq
  else do
    mergeBlocks (blockSums bx4 (vl / 32) x y) (pure ())
    putLanes d (BitVec.ofNat 64 (2 ^ vl - 1)) (blockLanes (blockSums bx4 (vl / 32) x y) (if bx4 then 4 else 8))
    pure .seq

theorem putSums_eq_putBlocks (vl : Nat) : putSums bx4 vl x y d = putBlocks vl (blockSums bx4 (vl / 32) x y) d := by
  by_cases hnb : vl / 32 = 0
  · rw [putSums, putBlocks, if_pos hnb, if_pos hnb]
  · rw [putSums, putBlocks, if_neg hnb, if_neg hnb, wordsPerBlock_blockSums hnb]

theorem blockAdd_eq (s : State) : blockAdd bx4 d a b s = issue (vecNeed true [.vR a, .vR b, .vW d] 4) (do
    let x ← getV a
    let y ← getV b
    let t ← self
    putSums bx4 t.vl x y d) s := rfl

/-- A block addition whose sources have been read up to s2 puts the sums of their blocks. -/
theorem blockAdd_retires {v : State} (h : CanIssue (vecNeed true [.vR a, .vR b, .vW d] 4) s t) (hi : exec i s = blockAdd bx4 d a b s)
    (hx : getV a s = .ok (x, s1)) (hy : getV b s1 = .ok (y, s2)) (hread : Reading [.vW d] s s2 t)
    (hput : putBlocks t.vl (blockSums bx4 (t.vl / 32) x y) d s2 = .ok (.seq, v)) : Retires i 4 s v := by
  obtain ⟨q, hq⟩ := hread.thread
  rw [Retires, hi, blockAdd_eq]
  rw [← putSums_eq_putBlocks] at hput
  exact issue_completes h rfl ((bindRun_ok hx).trans ((bindRun_ok hy).trans ((bindRun_ok (selfRun hq)).trans hput)))

/-- The two block additions, their formats and the words of codes of each. -/
theorem baddq_cases {p : Instr × Bool × Nat} (hp : p ∈ [(Instr.baddqBx4 d a b, true, 4), (.baddqBx8i d a b, false, 8)]) :
    (∀ s, exec p.1 s = blockAdd p.2.1 d a b s) ∧ p.2.2 = if p.2.1 then 4 else 8 := by
  simp only [List.mem_cons, List.not_mem_nil, or_false] at hp
  rcases hp with rfl | rfl
  · exact ⟨fun _ => rfl, rfl⟩
  · exact ⟨fun _ => rfl, rfl⟩

end

/-! ### The obligation -/

/-- Settles O34: `mwait` and `mrow` once what they wait for is done, `mgeom` with and without a tile, and the block additions. -/
theorem arrayWaitsRowsAndTiles : Obligations.ArrayWaitsRowsAndTiles := by
  unfold Obligations.ArrayWaitsRowsAndTiles
  refine ⟨?_, ?_, ?_, ?_⟩
  · intro s t h huses
    exact ⟨mwait_retires h huses, mwait_waits h huses⟩
  · intro s t d a h
    obtain ⟨x, s1, hx, hread⟩ := h.reading.getS
    exact ⟨x, s1, hx, mrow_writesLanes h hx hread⟩
  · intro s t d a b h
    obtain ⟨x, s1, hx, hread⟩ := h.reading.getS
    obtain ⟨y, s2, hy, hread⟩ := hread.getS
    refine ⟨x, s1, y, s2, hx, hy, ?_⟩
    intro g m n k tm tn i r c w out own hm hn hk hhigh hlow htop hsize
    have htile := mgeom_writes h hx hy hread ⟨hm, hn, hk, hhigh, hlow, htop⟩ hsize
    refine ⟨fun hi => ?_, fun hi => ?_⟩
    · rw [tileOf_none hi] at htile
      exact htile
    · rw [tileOf_some hk hi] at htile
      exact htile
  · intro s t d a b h
    obtain ⟨x, s1, hx, hread⟩ := h.reading.getV
    obtain ⟨y, s2, hy, hread⟩ := hread.getV
    refine ⟨x, s1, y, s2, hx, hy, fun p hp => ?_⟩
    intro nb elem nan bs
    obtain ⟨hi, hper⟩ := baddq_cases hp
    have hbs : bs = blockSums p.2.1 nb x y := by
      refine List.map_congr_left fun k _ => ?_
      cases hb : p.2.1 <;> simp [blockSumOf, blockElem, elem, nan, hb]
    refine ⟨fun hnb hd => blockAdd_retires h (hi s) hx hy hread (putBlocks_none _ (by omega) hd), fun hnb hmax => ?_⟩
    have hvl : 32 ≤ t.vl := by omega
    obtain ⟨v, w, u, hv, hw, hset, hput⟩ := putBlocks_run (blockSums p.2.1 nb x y) hvl hread.keepsVectors
    rw [wordsPerBlock_blockSums hnb, ← hper] at hw
    rw [← hbs] at hv hw
    exact ⟨v, w, u, hv, hw, hset, blockAdd_retires h (hi s) hx hy hread hput⟩

end Sys2Proof.Machine
end

section
/-! PROOFS. What the device's own bookkeeping leaves: its records in memory, wakes, tokens given and threads let go (R253, R257, R275, R285,
R340). -/

namespace Sys2Proof.Machine

/-  Default tactics fill fields of structures here, for each of which an asynchronous elaboration holds a thread. -/
set_option Elab.async false

/-! ### Walks of page tables (R345) -/

/-- One level of a page-table walk (R345): `next` goes on from a table entry. -/
def State.walkStep (s : State) (cached : List (Nat × TlbEntry)) (key : KeyId) (allow : Word → Bool) (va : VAddr)
    (next : Nat → Word → Except WalkStop TlbEntry) (lvl base : Nat) (top : Word) : Except WalkStop TlbEntry :=
  let idx := va.toNat / 2 ^ (12 + 9 * lvl) % 512
  let a := if lvl = 0 then s.groupEntry (base + 16 * idx) else base + 16 * idx
  let hit := alGet cached a
  if hit.isNone && !s.readable (blockNo a) key then .error (.integrity a)
  else
    let w0 := (hit.map TlbEntry.w0).getD (BitVec.ofNat 64 (s.mem.num a 8))
    let w1 := (hit.map TlbEntry.w1).getD (BitVec.ofNat 64 (s.mem.num (a + 8) 8))
    match entryReason lvl w0 w1 with
    | some r => .error (.reason r lvl)
    | none =>
      let top := if lvl = 4 then w1 else top
      if lvl == 4 && !allow top then .error (.reason 6 4)
      else if bit w0 1 then
        let b := leafBits lvl (bit w0 7)
        .ok { va := va >>> b <<< b, bits := b, w0 := w0, w1 := w1, top := top }
      else next (field w0 51 13 * 8192) top

section
variable {s u : State} {cached : List (Nat × TlbEntry)} {key : KeyId} {allow allow' : Word → Bool} {va : VAddr} {lvl base : Nat}
  {top : Word} {e : TlbEntry}

set_option smartUnfolding false in
theorem State.walkFrom_zero :
    s.walkFrom cached key allow va 0 base top = s.walkStep cached key allow va (fun _ _ => .error (.reason 2 0)) 0 base top := rfl

set_option smartUnfolding false in
theorem State.walkFrom_succ (n : Nat) : s.walkFrom cached key allow va (n + 1) base top =
    s.walkStep cached key allow va (s.walkFrom cached key allow va n) (n + 1) base top := rfl

/-- A level of a walk that one check admits answers the same under every check that admits the page's owner. -/
theorem State.walkStep_admitted {next next' : Nat → Word → Except WalkStop TlbEntry}
    (hnext : ∀ b t, next b t = .ok e → e.top = t ∧ (allow' e.top = true → next' b t = .ok e))
    (h : s.walkStep cached key allow va next lvl base top = .ok e) :
    (lvl ≠ 4 → e.top = top) ∧ (allow' e.top = true → s.walkStep cached key allow' va next' lvl base top = .ok e) := by
  unfold State.walkStep at h ⊢
  dsimp only at h ⊢
  generalize (if lvl = 0 then _ else _) = a at h ⊢
  generalize BitVec.ofNat 64 (s.mem.num a 8) = m0 at h ⊢
  generalize BitVec.ofNat 64 (s.mem.num (a + 8) 8) = m1 at h ⊢
  generalize (Option.map TlbEntry.w0 (alGet cached a)).getD m0 = w0 at h ⊢
  generalize (Option.map TlbEntry.w1 (alGet cached a)).getD m1 = w1 at h ⊢
  split at h
  · cases h
  next hread =>
  rw [if_neg hread]
  split at h
  · cases h
  generalize htop : (if lvl = 4 then w1 else top) = top' at h ⊢
  split at h
  · cases h
  suffices hrest : e.top = top' ∧ (allow' e.top = true → _) by
    obtain ⟨htop', hgo⟩ := hrest
    refine ⟨fun hl => by rw [htop', ← htop, if_neg hl], fun hallow => ?_⟩
    rw [if_neg (by rw [← htop', hallow]; simp)]
    exact hgo hallow
  split at h
  next hleaf =>
    cases h
    exact ⟨rfl, fun _ => if_pos hleaf⟩
  next hleaf =>
    rw [if_neg hleaf]
    exact hnext _ _ h

theorem State.walkFrom_admitted (hl : lvl ≤ 4) (h : s.walkFrom cached key allow va lvl base top = .ok e) :
    (lvl ≠ 4 → e.top = top) ∧ (allow' e.top = true → s.walkFrom cached key allow' va lvl base top = .ok e) := by
  induction lvl generalizing base top with
  | zero =>
    rw [State.walkFrom_zero] at h ⊢
    exact State.walkStep_admitted (fun _ _ h => by cases h) h
  | succ n ih =>
    rw [State.walkFrom_succ] at h ⊢
    refine State.walkStep_admitted (fun b t h => ?_) h
    obtain ⟨htop, hgo⟩ := ih (by omega) h
    exact ⟨htop (by omega), hgo⟩

/-- A walk that one check admits answers the same under every check that admits the page's owner. -/
theorem State.walk_admitted {die : Nat} (h : s.walk die allow va = .ok e) (hallow : allow' e.top = true) : s.walk die allow' va = .ok e := by
  unfold State.walk at h ⊢
  dsimp only at h ⊢
  split at h
  · cases h
  next hroot =>
  rw [if_neg hroot]
  exact (State.walkFrom_admitted (Nat.le_refl 4) h).2 hallow

/-- Walks depend on the tick, the memory and what can be read of it. -/
theorem State.walkFrom_congr (htick : u.tick = s.tick) (hmem : u.mem = s.mem) (hread : ∀ b k, u.readable b k = s.readable b k) :
    u.walkFrom cached key allow va lvl base top = s.walkFrom cached key allow va lvl base top := by
  have hgroup (a : Nat) : u.groupEntry a = s.groupEntry a := by
    unfold State.groupEntry
    rw [hmem, htick]
  have hstep (next : Nat → Word → Except WalkStop TlbEntry) (lvl base : Nat) (top : Word) :
      u.walkStep cached key allow va next lvl base top = s.walkStep cached key allow va next lvl base top := by
    unfold State.walkStep
    simp only [hgroup, hmem, hread]
  induction lvl generalizing base top with
  | zero => rw [State.walkFrom_zero, State.walkFrom_zero, hstep]
  | succ n ih =>
    rw [State.walkFrom_succ, State.walkFrom_succ, hstep]
    exact congrArg (fun next => s.walkStep cached key allow va next (n + 1) base top) (funext fun b => funext fun t => ih)

end

/-! ### States without records -/

/-- No page is mapped to HBM or host memory but at address 0, which names no record. -/
def State.Unmapped (s : State) : Prop :=
  ∀ die allow va e, va ≠ 0 → s.walk die allow va = .ok e → (e.leaf va).loc ≠ 0 ∧ (e.leaf va).loc ≠ 1

theorem State.within_self (s : State) (d : DomId) : s.within d d = true := by
  unfold State.within State.lineage State.domChain
  split <;> simp

/-- The device finds no place for a record exactly where no page is mapped to HBM or host memory: the owner of a page finds its own. -/
theorem noRecords_iff (s : State) : NoRecords s ↔ s.Unmapped := by
  constructor
  · intro h die allow va e hva hw
    have hd := h die (BitVec.ofNat 20 (field e.top 19 0)) va
    rw [State.recordLeaf, if_neg hva, State.walk_admitted hw (State.within_self ..)] at hd
    simpa using hd
  · intro h die d va
    unfold State.recordLeaf
    split
    · rfl
    next hva =>
    split
    next e hw =>
      obtain ⟨h0, h1⟩ := h die _ va e hva hw
      exact if_neg (by simp [h0, h1])
    · rfl

/-! ### What bookkeeping keeps -/

/-- A die's fault ring tail, held entries and page table, which no bookkeeping touches. -/
structure SameDie (x y : Die) : Prop where
  frtail : y.frtail = x.frtail := by rfl
  heldPosts : y.heldPosts = x.heldPosts := by rfl
  ptroot : y.ptroot = x.ptroot := by rfl
  ptkey : y.ptkey = x.ptkey := by rfl
  walks : y.walks = x.walks := by rfl
  hbmStacks : y.hbmStacks = x.hbmStacks := by rfl

/-- Thread r is t after bookkeeping: it may have been given a token, may no longer be held, and may have been woken where it waited; with
`woken`, where it did not wait too. -/
structure SameLife (woken : Bool) (t r : Thread) : Prop where
  kind : r.kind = t.kind := by rfl
  core : r.core = t.core := by rfl
  saved : r.saved = t.saved := by rfl
  engFaults : r.engFaults = t.engFaults := by rfl
  pc (acc : Bool) : (r.ctx acc).pc = (t.ctx acc).pc := by exact fun _ => rfl
  pend (acc : Bool) (n : Nat) : (t.ctx acc).pend.getLsbD n = false → (r.ctx acc).pend.getLsbD n = false := by exact fun _ _ h => h
  status : r.status = t.status ∨ (woken = true ∨ ∃ k, t.status = .waiting k) ∧ r.status = .runnable := by exact .inl rfl

/-- State u is s after bookkeeping of the device: the registers, tables and memory of its threads, cores and dies that no bookkeeping
touches are those of s. -/
structure Frame (woken : Bool) (s u : State) : Prop where
  tick : u.tick = s.tick := by rfl
  regions : u.regions = s.regions := by rfl
  drafts : u.drafts = s.drafts := by rfl
  chans : u.chans = s.chans := by rfl
  gangs : u.gangs = s.gangs := by rfl
  dies (d : Nat) : SameDie (s.die d) (u.die d) := by exact fun _ => {}
  cores (c : Nat) : ∃ p l, u.core c = { s.core c with ports := p, dcache := l } := by exact fun _ => ⟨_, _, rfl⟩
  threads (k : Nat) (t : Thread) (h : s.thread? k = some t) : ∃ r, u.thread? k = some r ∧ SameLife woken t r := by
    exact fun _ t h => ⟨t, h, {}⟩

/-- It also writes no byte of memory where no record has a place. -/
structure Booked (woken : Bool) (s u : State) : Prop extends Frame woken s u where
  quiet (h : NoRecords s) : u.mem = s.mem ∧ u.blocks = s.blocks := by exact fun _ => ⟨rfl, rfl⟩

section
variable {woken : Bool} {s u v : State} {x y z : Die} {t r q : Thread}

theorem SameDie.trans (h : SameDie x y) (h' : SameDie y z) : SameDie x z where
  frtail := h'.frtail.trans h.frtail
  heldPosts := h'.heldPosts.trans h.heldPosts
  ptroot := h'.ptroot.trans h.ptroot
  ptkey := h'.ptkey.trans h.ptkey
  walks := h'.walks.trans h.walks
  hbmStacks := h'.hbmStacks.trans h.hbmStacks

theorem SameLife.trans (h : SameLife woken t r) (h' : SameLife woken r q) : SameLife woken t q where
  kind := h'.kind.trans h.kind
  core := h'.core.trans h.core
  saved := h'.saved.trans h.saved
  engFaults := h'.engFaults.trans h.engFaults
  pc acc := (h'.pc acc).trans (h.pc acc)
  pend acc n hn := h'.pend acc n (h.pend acc n hn)
  status := by
    rcases h'.status with hq | ⟨hw, hq⟩
    · rw [hq]
      exact h.status
    · rcases h.status with ht | ⟨hw, -⟩
      · exact .inr ⟨ht ▸ hw, hq⟩
      · exact .inr ⟨hw, hq⟩

/-- A thread that does not wait keeps its status. -/
theorem SameLife.status_eq (h : SameLife false t r) (hw : ∀ k, t.status ≠ .waiting k) : r.status = t.status :=
  h.status.resolve_right fun ⟨hk, _⟩ => hk.elim Bool.noConfusion fun ⟨k, hk⟩ => hw k hk

theorem Frame.trans (h : Frame woken s u) (h' : Frame woken u v) : Frame woken s v where
  tick := h'.tick.trans h.tick
  regions := h'.regions.trans h.regions
  drafts := h'.drafts.trans h.drafts
  chans := h'.chans.trans h.chans
  gangs := h'.gangs.trans h.gangs
  dies d := (h.dies d).trans (h'.dies d)
  cores c := by
    obtain ⟨p, l, hu⟩ := h.cores c
    obtain ⟨p', l', hv⟩ := h'.cores c
    exact ⟨p', l', by rw [hv, hu]⟩
  threads k t ht := by
    obtain ⟨r, hr, htr⟩ := h.threads k t ht
    obtain ⟨q, hq, hrq⟩ := h'.threads k r hr
    exact ⟨q, hq, htr.trans hrq⟩

theorem Frame.foldl {α : Type} {f : State → α → State} (l : List α) (h : ∀ u e, Frame woken u (f u e)) (s : State) :
    Frame woken s (l.foldl f s) := by
  induction l generalizing s with
  | nil => exact {}
  | cons e l ih => exact (h s e).trans (ih (f s e))

/-- Whether a record has a place depends on the memory, its blocks and the page tables. -/
theorem noRecords_congr (hn : NoRecords s) (hmem : u.mem = s.mem := by rfl) (hblocks : u.blocks = s.blocks := by rfl)
    (htick : u.tick = s.tick := by rfl) (hregions : u.regions = s.regions := by rfl) (hdrafts : u.drafts = s.drafts := by rfl)
    (hdies : ∀ d, SameDie (s.die d) (u.die d) := by exact fun _ => {}) : NoRecords u := by
  have hdraft (pa : Nat) : u.draftAt pa = s.draftAt pa := by
    unfold State.draftAt State.regionAt
    rw [hregions]
  have hblock (b : Nat) : u.block b = s.block b := by
    unfold State.block State.tagInitAt
    rw [hblocks, hdrafts, hdraft]
  have hread (b : Nat) (k : KeyId) : u.readable b k = s.readable b k := by
    unfold State.readable State.stackLost
    rw [hblock, (hdies _).hbmStacks]
  rw [noRecords_iff] at hn ⊢
  intro die allow va e hva hw
  refine hn die allow va e hva ?_
  rwa [State.walk, (hdies die).ptroot, (hdies die).ptkey, (hdies die).walks, State.walkFrom_congr htick hmem hread] at hw

theorem Booked.mem (h : Booked woken s u) (hn : NoRecords s) : u.mem = s.mem := (h.quiet hn).1

theorem Booked.noRecords (h : Booked woken s u) (hn : NoRecords s) : NoRecords u :=
  noRecords_congr hn (h.quiet hn).1 (h.quiet hn).2 h.tick h.regions h.drafts h.dies

theorem Booked.trans (h : Booked woken s u) (h' : Booked woken u v) : Booked woken s v where
  toFrame := h.toFrame.trans h'.toFrame
  quiet hn := by
    obtain ⟨hmem, hblocks⟩ := h.quiet hn
    obtain ⟨hmem', hblocks'⟩ := h'.quiet (h.noRecords hn)
    exact ⟨hmem'.trans hmem, hblocks'.trans hblocks⟩

theorem Booked.foldl {α : Type} {f : State → α → State} (l : List α) (h : ∀ u e, Booked woken u (f u e)) (s : State) :
    Booked woken s (l.foldl f s) := by
  induction l generalizing s with
  | nil => exact {}
  | cons e l ih => exact (h s e).trans (ih (f s e))

theorem Frame.array (h : Frame woken s u) (c : Nat) : (u.core c).array = (s.core c).array := by
  obtain ⟨p, l, hc⟩ := h.cores c
  rw [hc]

theorem Frame.slots (h : Frame woken s u) (c : Nat) : (u.core c).slots = (s.core c).slots := by
  obtain ⟨p, l, hc⟩ := h.cores c
  rw [hc]

theorem Frame.ops (h : Frame woken s u) (c : Nat) : (u.core c).ops = (s.core c).ops := by
  obtain ⟨p, l, hc⟩ := h.cores c
  rw [hc]

theorem Frame.eps (h : Frame woken s u) (c : Nat) : (u.core c).eps = (s.core c).eps := by
  obtain ⟨p, l, hc⟩ := h.cores c
  rw [hc]

theorem Booked.ite {p : Prop} [Decidable p] (h : Booked woken s u) (h' : Booked woken s v) : Booked woken s (if p then u else v) := by
  split
  · exact h
  · exact h'

/-! ### Writes at a home -/

theorem State.die_updDie (s : State) (i j : Nat) (f : Die → Die) :
    (s.updDie i f).die j = f (s.die j) ∨ (s.updDie i f).die j = s.die j := by
  by_cases hj : j = i
  · subst hj
    by_cases hlt : j < 4
    · exact .inl (State.die_updDie_same s f hlt)
    · refine .inr ?_
      simp [State.die, State.updDie, State.setDie, vget, vset, hlt]
  · exact .inr (State.die_updDie_other s f hj)

theorem Booked.updDie (s : State) (i : Nat) {f : Die → Die} (hf : ∀ x, SameDie x (f x)) : Booked woken s (s.updDie i f) where
  dies d := by
    rcases State.die_updDie s i d f with h | h
    · rw [h]
      exact hf _
    · rw [h]
      exact {}

theorem Frame.mapCores (s : State) (f : Nat × Core → Core) (hf : ∀ c, ∃ l, f c = { c.2 with dcache := l }) :
    Frame woken s { s with cores := s.cores.map (fun c => (c.1, f c)) } where
  cores c := by
    rw [State.core, State.core, alGetD, alGetD, alGet_map]
    cases alGet s.cores c with
    | none => exact ⟨_, _, rfl⟩
    | some x =>
      obtain ⟨l, hl⟩ := hf (c, x)
      exact ⟨x.ports, l, hl⟩

theorem Frame.dropOn (s : State) (d b : Nat) : Frame woken s (s.dropOn d b) := by
  unfold State.dropOn
  split
  · exact .mapCores s _ fun c => dcache_ite ..
  · exact {}

theorem Frame.spreadLines (s : State) (b : Nat) (key : KeyId) : Frame woken s (s.spreadLines b key) := by
  unfold State.spreadLines
  dsimp only
  split
  · exact {}
  · split
    · exact .mapCores s _ fun c => dcache_ite ..
    · exact .dropOn ..

theorem Frame.sendBridge (s : State) (src dst : Nat) (m : BridgeMsg) : Frame woken s (s.sendBridge src dst m) := {}

theorem Frame.homeEvent (s : State) (e b : Nat) (key : KeyId) : Frame woken s (s.homeEvent e b key) := by
  refine .trans (u := s.updDie e _) (Booked.updDie s e fun x => {}).toFrame (.foldl _ (fun u f => ?_) _)
  split
  · exact (Frame.sendBridge ..).trans (.sendBridge ..)
  · exact {}

theorem SameDie.makeRoom (x : Die) (b ctr : Nat) : SameDie x (x.makeRoom b ctr) := by
  unfold Die.makeRoom
  split
  · exact {}
  · dsimp only
    split <;> exact {}

theorem Frame.installHome (s : State) (b : Nat) (key : KeyId) : Frame woken s (s.installHome b key) :=
  .trans (u := { s with freeCtr := s.freeCtr + 1 }) {}
    (Booked.updDie _ _ fun x => (SameDie.makeRoom x b s.freeCtr).trans {}).toFrame

theorem Frame.homeWrite (s : State) (key : KeyId) (pa : Nat) (bs : List Byte) : Frame woken s (s.homeWrite key pa bs) := by
  let v := ({ s with mem := s.mem.putBytes pa bs } : State).updBlock (blockNo pa)
    (fun m => { m with sealedUnder := some key, poison := m.poison && !decide (bs.length = 128) })
  have hv : Frame woken s v := {}
  exact ((hv.trans (.spreadLines v ..)).trans (.installHome ..)).trans (.homeEvent ..)

/-! ### Records of the device -/

theorem Frame.putPiece (s : State) (die : Nat) (d : DomId) (va : VAddr) (bs : List Byte) : Frame woken s (s.putPiece die d va bs) := by
  unfold State.putPiece
  split
  · exact {}
  · split
    · exact {}
    · split
      · exact .homeWrite ..
      · exact {}

/-- A record that has no place is not written. -/
theorem State.putRecord_of_noRecords (hn : NoRecords s) (die : Nat) (d : DomId) (va : VAddr) (bs : List Byte) :
    s.putRecord die d va bs = s := by
  rw [State.putRecord, hn die d va]
  rfl

theorem Booked.putRecord (s : State) (die : Nat) (d : DomId) (va : VAddr) (bs : List Byte) : Booked woken s (s.putRecord die d va bs) where
  toFrame := by
    unfold State.putRecord
    split
    · exact {}
    · exact .foldl _ (fun u i => .putPiece ..) s
  quiet hn := by
    rw [State.putRecord_of_noRecords hn]
    exact ⟨rfl, rfl⟩

theorem Booked.putBobbin (s : State) (tid : Nat) : Booked woken s (s.putBobbin tid) := by
  unfold State.putBobbin
  split
  · exact {}
  · split
    · exact {}
    · exact .putRecord ..

theorem Booked.pushRun (s : State) (d : DomId) (e : RunEntry) : Booked woken s (s.pushRun d e) := by
  unfold State.pushRun
  split
  · exact {}
  · exact (Booked.putRecord ..).trans (.putRecord ..)

theorem Booked.putDcb (s : State) (d : DomId) (off : Nat) : Booked woken s (s.putDcb d off) := by
  unfold State.putDcb
  dsimp only
  split
  · exact {}
  · exact .putRecord ..

theorem Booked.updDom (s : State) (d : DomId) (f : Domain → Domain) : Booked woken s (s.updDom d f) := {}

theorem Booked.enqueue (s : State) (tid : Nat) (d : DomId) (die : Nat) : Booked woken s (s.enqueue tid d die) := by
  refine (Booked.putBobbin s tid).trans ?_
  unfold State.enqueue
  dsimp only
  split
  · exact .updDom ..
  · exact (Booked.pushRun ..).trans (.updDom ..)

theorem Booked.spillAppend (s : State) (d : DomId) (x : SpillEntry) : Booked woken s (s.spillAppend d x) := by
  unfold State.spillAppend
  dsimp only
  refine .trans ?_ ((Booked.updDom ..).trans (.putDcb ..))
  split
  · exact {}
  · exact .putRecord ..

/-! ### Wakes, tokens and threads let go -/

theorem Booked.setThread {tid : Nat} (ht : s.thread? tid = some t) (h : SameLife woken t r) : Booked woken s (s.setThread tid r) where
  threads k q hq := by
    by_cases hk : k = tid
    · subst hk
      cases ht.symm.trans hq
      exact ⟨r, State.thread?_setThread_same .., h⟩
    · exact ⟨q, (State.thread?_setThread_other _ _ hk).trans hq, {}⟩

theorem Booked.updThread (s : State) (tid : Nat) {f : Thread → Thread} (hf : ∀ t, SameLife woken t (f t)) :
    Booked woken s (s.updThread tid f) := by
  cases ht : s.thread? tid with
  | none =>
    simp only [State.updThread, ht]
    exact {}
  | some t =>
    rw [State.updThread_eq_setThread _ ht]
    exact .setThread ht (hf t)

theorem Booked.makeRunnable {tid : Nat} (ht : s.thread? tid = some t) (hw : woken = true ∨ ∃ k, t.status = .waiting k) :
    Booked woken s (s.makeRunnable tid) := by
  unfold State.makeRunnable
  rw [ht]
  dsimp only
  have hv := (Booked.setThread ht (r := { t with status := .runnable }) { status := .inr ⟨hw, rfl⟩ }).trans
    (.updDie _ (coreDie t.core) (f := fun d => { d with timed := alErase d.timed tid }) fun x => {})
  by_cases hheld : t.heldTo.isSome
  · rw [if_pos hheld]
    exact hv.trans (.putBobbin ..)
  · rw [if_neg hheld]
    exact hv.trans (.enqueue ..)

theorem Booked.wakeEngine (s : State) (tid : Nat) : Booked woken s (s.wakeEngine tid) := by
  unfold State.wakeEngine
  split
  next hst =>
    obtain ⟨t, ht, hw⟩ := Option.map_eq_some_iff.mp hst
    exact .makeRunnable ht (.inr ⟨_, hw⟩)
  · exact {}

theorem Booked.wakeIf (s : State) (p : Thread → WaitKey → Bool) : Booked true s (s.wakeIf p) := by
  refine .foldl _ (fun u e => ?_) s
  obtain ⟨tid, t⟩ := e
  dsimp only
  split
  · split
    · cases hr : u.thread? tid with
      | none =>
        rw [State.makeRunnable, hr]
        exact {}
      | some r => exact .makeRunnable hr (.inl rfl)
    · exact {}
  · exact {}

theorem Booked.wakeEndpoint (s : State) (core port : Nat) : Booked true s (s.wakeEndpoint core port) :=
  .wakeIf s _

theorem Booked.keepToken (s : State) (tid : Nat) (d : Dest) (w : Word) : Booked woken s (s.keepToken tid d w) := by
  unfold State.keepToken
  split
  · split
    · exact .putRecord ..
    · exact {}
  · exact {}

theorem Thread.ctx_updCtx_eq (t : Thread) (acc a : Bool) (f : Ctx → Ctx) :
    (t.updCtx acc f).ctx a = if a = acc then f (t.ctx a) else t.ctx a := by
  by_cases h : a = acc
  · subst h
    rw [if_pos rfl, Thread.ctx_updCtx]
  · obtain rfl : a = !acc := Bool.eq_not.mpr h
    rw [if_neg h, Thread.ctx_updCtx_other]

/-- A change of a stream's registers that leaves its PC and awaits no further register. -/
theorem SameLife.updCtx (t : Thread) (acc : Bool) {f : Ctx → Ctx} (hpc : ∀ c, (f c).pc = c.pc)
    (hpend : ∀ c n, c.pend.getLsbD n = false → (f c).pend.getLsbD n = false) : SameLife woken t (t.updCtx acc f) where
  kind := by cases acc <;> rfl
  core := by cases acc <;> rfl
  saved := by cases acc <;> rfl
  engFaults := by cases acc <;> rfl
  status := .inl (by cases acc <;> rfl)
  pc a := by
    rw [Thread.ctx_updCtx_eq]
    split
    · exact hpc _
    · rfl
  pend a n hn := by
    rw [Thread.ctx_updCtx_eq]
    split
    · exact hpend _ _ hn
    · exact hn

theorem Booked.deliver (s : State) (tid : Nat) (d : Dest) (w : Word) : Booked woken s (s.deliver tid d w) := by
  cases d with
  | none => exact {}
  | reg acc r =>
    refine .updThread s tid fun t => .updCtx t acc (fun c => ?_) (fun c n hn => ?_)
    · split
      · rfl
      · dsimp only
        split <;> rfl
    · split
      · exact hn
      · dsimp only
        split <;> simp [Ctx.setReg, setPend, hn]
  | queue id => exact .updThread s tid fun t => {}
  | port core dir id =>
    refine { cores := fun c => ?_ }
    by_cases hc : c = core
    · subst hc
      exact ⟨_, _, State.core_updCore_same ..⟩
    · exact ⟨_, _, State.core_updCore_other _ _ hc⟩

theorem Booked.arriveAt (s : State) (tid : Nat) (d : Dest) (w : Word) : Booked woken s (s.arriveAt tid d w) :=
  (Booked.keepToken ..).trans (.deliver ..)

theorem Booked.giveToken (s : State) (tid : Nat) (d : Dest) (w : Word) : Booked woken s (s.giveToken tid d w) :=
  (Booked.arriveAt ..).trans (.wakeEngine ..)

theorem Booked.unhold (s : State) (tid : Nat) : Booked woken s (s.unhold tid) := by
  unfold State.unhold
  split
  · exact {}
  next t ht =>
    have hfree : Booked woken s (s.setThread tid { t with heldTo := none }) := .setThread ht {}
    exact .ite {} (.ite (hfree.trans (.enqueue ..)) hfree)

/-! ### Memory where no record has a place -/

/-- What leads from s to u writes no byte of memory where no record of the device has a place. -/
structure MemoryKept (s u : State) : Prop where
  records : NoRecords s → NoRecords u
  mem : NoRecords s → u.mem = s.mem

theorem MemoryKept.refl (s : State) : MemoryKept s s := ⟨id, fun _ => rfl⟩

theorem MemoryKept.trans (h : MemoryKept s u) (h' : MemoryKept u v) : MemoryKept s v :=
  ⟨fun hn => h'.records (h.records hn), fun hn => (h'.mem (h.records hn)).trans (h.mem hn)⟩

theorem MemoryKept.of_booked (h : Booked woken s u) : MemoryKept s u :=
  ⟨h.noRecords, h.mem⟩

theorem MemoryKept.ite {p : Prop} [Decidable p] (h : MemoryKept s u) (h' : MemoryKept s v) : MemoryKept s (if p then u else v) := by
  split
  · exact h
  · exact h'

/-! ### Taking a bobbin and placing a pick (R182, R342) -/

section
variable {d : DomId} {die tid core slot : Nat} {full : Bool} {image : Image}

/-- Taking a bobbin writes at most its image's word. -/
theorem State.takeBobbin_eq (h : s.takeBobbin d die full image = some (tid, u)) :
    ∃ w f, u = w.updDom d f ∧ (w = s ∨ ∃ va bs, w = s.putRecord die d va bs) := by
  unfold State.takeBobbin at h
  dsimp only at h
  generalize (if full = true then _ else _) = limit at h
  split at h
  · cases h
  split at h
  · cases h
  cases h
  refine ⟨_, _, rfl, ?_⟩
  split
  · exact .inl rfl
  · exact .inr ⟨_, _, rfl⟩

theorem Booked.takeBobbin (h : s.takeBobbin d die full image = some (tid, u)) : Booked woken s u := by
  obtain ⟨w, f, rfl, rfl | ⟨va, bs, rfl⟩⟩ := State.takeBobbin_eq h
  · exact .updDom ..
  · exact (Booked.putRecord ..).trans (.updDom ..)

/-- A pick is placed: it runs with the registers it was given, in its slot. -/
theorem State.placePick_spec (s : State) (tid core slot : Nat) (t : Thread) :
    (s.placePick tid core slot t).thread? tid = some { t with core := core, slot := slot, status := .running } ∧
    ((s.placePick tid core slot t).core core).slots = vset (s.core core).slots slot (some tid) ∧
    ((s.placePick tid core slot t).core core).array = (s.core core).array ∧
    (NoRecords s → (s.placePick tid core slot t).mem = s.mem) := by
  let r := { t with core := core, slot := slot, status := .running }
  let v := (s.setThread tid r).updCore core (fun k => { k with slots := vset k.slots slot (some tid) })
  have hthread : v.thread? tid = some r := State.thread?_setThread_same ..
  have hcore : v.core core = { s.core core with slots := vset (s.core core).slots slot (some tid) } := State.core_updCore_same ..
  have hbooked : Booked false v (v.putBobbin tid) := .putBobbin ..
  obtain ⟨st, hst⟩ := (Undisturbed.putBobbin v tid).threads tid r hthread
  obtain ⟨q, hq, hlife⟩ := hbooked.threads tid r hthread
  cases hq.symm.trans hst
  refine ⟨?_, ?_, ?_, fun hn => hbooked.mem (noRecords_congr hn)⟩
  · have hrun : st = .running := hlife.status_eq (fun _ h => by cases h)
    exact hst.trans (by rw [hrun])
  · exact (hbooked.slots core).trans (by rw [hcore])
  · exact (hbooked.array core).trans (by rw [hcore])

end

end

end Sys2Proof.Machine
end

section
/-! PROOFS. The turns of array commands and the births of drained rows (R168 to R184). -/

namespace Sys2Proof.Machine

/-  Default tactics fill fields of structures here, for each of which an asynchronous elaboration holds a thread. -/
set_option Elab.async false

/-! ### The head of the queue takes its turn (R168, R186) -/

section
variable {s u v : State} {core : Nat} {q : QueuedCmd} {rest : List QueuedCmd} {f : ArrayState → ArrayState} {a : ArrayState} {i : Instr}

theorem State.queueHead_eq (hq : (s.core core).array.queue = q :: rest) (ht : s.throttled (coreDie core) = false) :
    s.queueHead core = some q := by
  simp [State.queueHead, ht, hq]

/-- Tell the copy whose follow-on command q is, if any, else let go a thread that its engine work alone held (R186, R257). -/
def State.tell (s : State) (core : Nat) (q : QueuedCmd) : State :=
  match q.follow with
  | some op => s.updOp core op (fun x => { x with follow := .done })
  | none => s.unhold q.tid

theorem State.tell_some {op : Nat} (h : q.follow = some op) :
    s.tell core q = s.updOp core op (fun x => { x with follow := .done }) := by
  simp only [State.tell, h]

theorem State.tell_none (h : q.follow = none) : s.tell core q = s.unhold q.tid := by
  simp only [State.tell, h]

/-- A turn takes the head off the queue and changes the array as its command says. -/
theorem State.turn_eq (hq : (s.core core).array.queue = q :: rest) (ha : a = { f (s.core core).array with queue := rest }) :
    s.turn core q f = (s.updArray core (fun _ => a)).tell core q := by
  have hrest : rest = (s.core core).array.queue.drop 1 := by rw [hq]; rfl
  have harray : s.updArray core (fun a => { f a with queue := a.queue.drop 1 }) = s.updArray core (fun _ => a) :=
    State.updCore_congr (by rw [ha, hrest])
  exact congrArg (fun v => v.tell core q) harray

/-- A command's event is its turn. -/
theorem takesTurn_of_exec (hq : (s.core core).array.queue = q :: rest) (ha : a = { f (s.core core).array with queue := rest })
    (hexec : exec i s = .next (s.turn core q f)) : TakesTurn i core q a s :=
  ⟨_, hexec, State.turn_eq hq ha⟩

/-! ### What a turn reads and writes -/

theorem Memory.getD_bytes (m : Memory) (a n : Nat) {i : Nat} (hi : i < n) : (m.bytes a n).getD i 0 = m.get (a + i) := by
  induction n generalizing a i with
  | zero => exact absurd hi (Nat.not_lt_zero i)
  | succ n ih =>
    cases i with
    | zero => rfl
    | succ i =>
      rw [Memory.bytes, List.getD_cons_succ, ih _ (by omega)]
      exact congrArg m.get (by omega)

theorem vget_map_range {α : Type} {n i : Nat} (g : Nat → α) (d : α) (hi : i < n) : vget ((Vector.range n).map g) i d = g i := by
  simp [vget, hi]

/-- The metadata store holds the nibbles of the operand (R174). -/
theorem vget_metaCodes (m : Memory) (a : Nat) {n g : Nat} (hn : n < 128) (hg : g < 64) :
    (vget (metaCodes (m.bytes a 4096)) (64 * n + g) 0).toNat = (m.get (a + (32 * n + g / 2))).toNat / 16 ^ (g % 2) % 16 := by
  have hbyte : imgByte (m.bytes a 4096) (32 * ((64 * n + g) / 64) + (64 * n + g) % 64 / 2) = (m.get (a + (32 * n + g / 2))).toNat := by
    rw [imgByte, show 32 * ((64 * n + g) / 64) + (64 * n + g) % 64 / 2 = 32 * n + g / 2 by omega, Memory.getD_bytes _ _ _ (by omega)]
  have hlt := (m.get (a + (32 * n + g / 2))).isLt
  rw [metaCodes, vget_map_range _ _ (by omega)]
  dsimp only
  rw [hbyte, show (64 * n + g) % 2 = g % 2 by omega]
  rcases Nat.mod_two_eq_zero_or_one g with h | h
  · simp [h]
  · simp [h]

/-- Rows that a stream does not reach keep their values, or are zero after `mstreamz` (R178). -/
theorem vget_stream_acc (a : ArrayState) (z : Bool) (img : List Byte) (mv kv : Nat) {i : Nat} (hi : i < 4096) (hrow : mv ≤ i / 128) :
    vget (a.stream z img mv kv).array.acc i 0 = if z then 0 else vget a.acc i 0 := by
  have hout : ¬i / 128 < mv := by omega
  unfold ArrayState.stream
  dsimp only
  rw [vget_map_range _ _ hi, if_neg hout]
  cases z with
  | false => rfl
  | true => simp [vget, hi]

/-- A stream changes the accumulator and flags, which `mstreamz` clears first, and nothing else of the array. -/
theorem stream_array (a : ArrayState) (z : Bool) (img : List Byte) (mv kv : Nat) :
    ∃ acc tspx tinf spx ainf, (a.stream z img mv kv).array =
      { (if z then { a with acc := Vector.replicate 4096 0, tspx := false, tinf := false } else a) with
        acc := acc, tspx := tspx, tinf := tinf, spx := spx, ainf := ainf } :=
  ⟨_, _, _, _, _, rfl⟩

theorem stream_tile_codes (a : ArrayState) (z : Bool) (img : List Byte) (mv kv : Nat) :
    (a.stream z img mv kv).array.tile = a.tile ∧ (a.stream z img mv kv).array.codes = a.codes := by
  obtain ⟨acc, tspx, tinf, spx, ainf, h⟩ := stream_array a z img mv kv
  rw [h]
  cases z <;> exact ⟨rfl, rfl⟩

/-! ### The commands (R172 to R176, R180, R184) -/

section
variable (hhead : s.queueHead core = some q)
include hhead

theorem exec_mfmtCommand {g : BitVec 4} {p : BitVec 5} (hcmd : q.cmd = .mfmt g p) :
    exec (.mfmtCommand core) s = .next (s.turn core q (fun a => { a with afmt := g, p := p })) := by
  show execMfmtCommand core s = _
  simp only [execMfmtCommand, hhead, hcmd]

theorem exec_mlatchCommand {img : List Byte} {w : BitVec 4} {sp : Bool} (hcmd : q.cmd = .mlatch img w sp) :
    exec (.mlatchCommand core) s = .next (s.turn core q (fun a => { a with tile := latchTile img w sp a.codes })) := by
  show execMlatchCommand core s = _
  simp only [execMlatchCommand, hhead, hcmd]

theorem exec_msparCommand {x : BitVec 19} (hcmd : q.cmd = .mspar x) :
    exec (.msparCommand core) s = .next (s.turn core q (fun a => { a with codes := metaCodes (s.lsRead core x.toNat 4096) })) := by
  show execMsparCommand core s = _
  simp only [execMsparCommand, hhead, hcmd]

theorem exec_mscaleCommand {x : BitVec 8} (hcmd : q.cmd = .mscale x) :
    exec (.mscaleCommand core) s = .next (s.turn core q (fun a => { a with mshift := x })) := by
  show execMscaleCommand core s = _
  simp only [execMscaleCommand, hhead, hcmd]

theorem exec_mzeroCommand (hcmd : q.cmd = .mzero) : exec (.mzeroCommand core) s = .next (s.turn core q ArrayState.zeroed) := by
  show execMzeroCommand core s = _
  simp only [execMzeroCommand, hhead, hcmd]

theorem exec_mrowstCommand {row : BitVec 5} {half : Bool} {vl : Nat} {x : VWord} (hcmd : q.cmd = .mrowst row half vl x) :
    exec (.mrowstCommand core) s = .next (s.turn core q (fun a => a.writeRow row half vl x)) := by
  show execMrowstCommand core s = _
  simp only [execMrowstCommand, hhead, hcmd]

theorem exec_mdrainCommand {e : VAddr} {mv nv : Nat} {clr : Bool} {flow : BitVec 16} {op : Nat}
    (hcmd : q.cmd = .mdrain e mv nv clr flow op) (hdrain : (s.core core).array.drain = []) :
    exec (.mdrainCommand core) s = .next ((s.turn core q (fun a => { (if clr then a.zeroed else a) with
      drain := (s.core core).array.drainRows e mv nv flow op })).updOp core op
        (fun x => { x with spx := (s.core core).array.tspx, inf := (s.core core).array.tinf, row := 1 })) := by
  show execMdrainCommand core s = _
  simp only [execMdrainCommand, hhead, hcmd, hdrain]
  rfl

end

/-! ### Streams (R178) -/

/-- The pass that a stream makes from its operand at x. -/
def State.pass (s : State) (core : Nat) (z : Bool) (x : BitVec 19) (mv kv : Nat) : StreamResult :=
  let a := (s.core core).array
  a.stream z (s.mem.bytes (lsLoc core x.toNat) (operandBytes (planesOf a.afmt.toNat) (kBlocks a.tile.sparse))) mv kv

theorem State.vget_pass_acc (s : State) (core : Nat) (z : Bool) (x : BitVec 19) {mv : Nat} (kv : Nat) {i : Nat} (hi : i < 4096)
    (hrow : mv ≤ i / 128) :
    vget (s.pass core z x mv kv).array.acc i 0 = if z then 0 else vget (s.core core).array.acc i 0 := by
  rw [State.pass]
  exact vget_stream_acc _ z _ mv kv hi hrow

theorem State.pass_tile_codes (s : State) (core : Nat) (z : Bool) (x : BitVec 19) (mv kv : Nat) :
    (s.pass core z x mv kv).array.tile = (s.core core).array.tile ∧
    (s.pass core z x mv kv).array.codes = (s.core core).array.codes := by
  rw [State.pass]
  exact stream_tile_codes ..

/-- The state after a stream's turn, before its operation or the copy it follows is told. -/
def State.passed (s : State) (core : Nat) (q : QueuedCmd) (r : StreamResult) : State :=
  (s.turn core q (fun _ => r.array)).updCore core (fun c =>
    { c with flagged := (if r.spx then some s.tick else c.flagged.1, if r.inf then some s.tick else c.flagged.2) })

/-- What a stream tells its operation. -/
def StreamResult.mark (r : StreamResult) (x : EngineOp) : EngineOp := { x with spx := x.spx || r.spx, inf := x.inf || r.inf, row := 1 }

theorem exec_streamCommand (s : State) (core : Nat) (z : Bool) :
    exec (if z then .mstreamzCommand core else .mstreamCommand core) s = .next (s.streamTurn core z) := by
  cases z <;> rfl

section
variable {z : Bool} {x : BitVec 19} {mv kv : Nat} {op : Option Nat} {id : Nat}
variable (hhead : s.queueHead core = some q) (hcmd : q.cmd = .mstream z x mv kv op)
include hhead hcmd

/-- A stream that completes an operation. -/
theorem streamTurn_op (hop : op = some id)
    (hready : ∀ y, s.op? core id = some y → y.state = .active ∧ (y.ord.acq = true → s.priorDone core y = true)) :
    s.streamTurn core z = ((s.passed core q (s.pass core z x mv kv)).updOp core id (s.pass core z x mv kv).mark).tryFinish core id := by
  subst hop
  have hgo : (s.op? core id).any (fun x => x.state != .active || (x.ord.acq && !s.priorDone core x)) = false := by
    cases hy : s.op? core id with
    | none => rfl
    | some y =>
      obtain ⟨hactive, hacq⟩ := hready y hy
      cases hord : y.ord.acq with
      | false => simp [hactive, hord]
      | true => simp [hactive, hacq hord]
  simp only [State.streamTurn, hhead, hcmd, Option.bind_some, hgo]
  exact if_neg (by simp)

/-- A follow-on stream tells its copy. -/
theorem streamTurn_follow (hop : op = none) (hfollow : q.follow = some id) :
    s.streamTurn core z = (s.passed core q (s.pass core z x mv kv)).updOp core id
      (fun y => { y with spx := y.spx || (s.pass core z x mv kv).spx, inf := y.inf || (s.pass core z x mv kv).inf }) := by
  subst hop
  simp only [State.streamTurn, hhead, hcmd, hfollow]
  exact if_neg (by simp)

/-- A stream that completes nothing. -/
theorem streamTurn_none (hop : op = none) (hfollow : q.follow = none) :
    s.streamTurn core z = s.passed core q (s.pass core z x mv kv) := by
  subst hop
  simp only [State.streamTurn, hhead, hcmd, hfollow]
  exact if_neg (by simp)

end

/-! ### What leaves an array as it is -/

theorem State.array_updArray_same (s : State) (core : Nat) (f : ArrayState → ArrayState) :
    ((s.updArray core f).core core).array = f (s.core core).array := by
  rw [State.updArray, State.core_updCore_same]

/-- State u has the array that core has in s, and the memory of s where no record has a place. -/
structure ArrayKept (core : Nat) (s u : State) : Prop where
  array : (u.core core).array = (s.core core).array
  memory : MemoryKept s u

theorem ArrayKept.refl (core : Nat) (s : State) : ArrayKept core s s := ⟨rfl, .refl s⟩

theorem ArrayKept.trans (h : ArrayKept core s u) (h' : ArrayKept core u v) : ArrayKept core s v where
  array := h'.array.trans h.array
  memory := h.memory.trans h'.memory

theorem ArrayKept.of_booked (h : Booked false s u) (core : Nat) : ArrayKept core s u :=
  ⟨h.array core, .of_booked h⟩

theorem ArrayKept.updCore (s : State) (core : Nat) {f : Core → Core} (hf : ∀ k, (f k).array = k.array) :
    ArrayKept core s (s.updCore core f) where
  array := by rw [State.core_updCore_same, hf]
  memory := ⟨fun hn => noRecords_congr hn, fun _ => rfl⟩

theorem ArrayKept.updOp (s : State) (core op : Nat) (f : EngineOp → EngineOp) : ArrayKept core s (s.updOp core op f) := by
  unfold State.updOp
  split
  · exact .updCore s core fun _ => rfl
  · exact .refl core s

/-- A finished operation gives its completion word and frees its thread; the array is as it was. -/
theorem ArrayKept.finishOp (s : State) (core op : Nat) (x : EngineOp) : ArrayKept core s (s.finishOp core op x) := by
  let v := s.updCore core (fun k => { k with ops := alErase k.ops op })
  let w := v.updThread x.tid (fun t => { t with writes := t.writes ++ x.writes })
  have hv : ArrayKept core s v := .updCore s core fun _ => rfl
  have hw : Booked false v w := .updThread v x.tid fun t => {}
  exact hv.trans (.of_booked (hw.trans ((Booked.giveToken ..).trans (.unhold ..))) core)

theorem ArrayKept.tryFinish (s : State) (core op : Nat) : ArrayKept core s (s.tryFinish core op) := by
  unfold State.tryFinish
  split
  · split
    · exact .finishOp ..
    · exact .refl core s
  · exact .refl core s

/-- After a turn the array is what the command makes it. -/
theorem State.turn_kept (hq : (s.core core).array.queue = q :: rest) (ha : a = { f (s.core core).array with queue := rest }) :
    ArrayKept core (s.updArray core (fun _ => a)) (s.turn core q f) := by
  rw [State.turn_eq hq ha]
  cases h : q.follow with
  | none =>
    rw [State.tell_none h]
    exact .of_booked (.unhold ..) core
  | some op =>
    rw [State.tell_some h]
    exact .updOp ..

/-- After a stream's turn the array is that of its pass. -/
theorem State.passed_kept (r : StreamResult) (hq : (s.core core).array.queue = q :: rest) :
    ArrayKept core (s.updArray core (fun _ => { r.array with queue := rest })) (s.passed core q r) :=
  (State.turn_kept (f := fun _ => r.array) hq rfl).trans (.updCore _ core fun _ => rfl)

/-- A stream leaves the memory and makes its pass, whatever it completes. -/
theorem streamTurn_kept {z : Bool} {x : BitVec 19} {mv kv : Nat} {op : Option Nat} (hq : (s.core core).array.queue = q :: rest)
    (hhead : s.queueHead core = some q) (hcmd : q.cmd = .mstream z x mv kv op)
    (hready : ∀ y, op.bind (s.op? core) = some y → y.state = .active ∧ (y.ord.acq = true → s.priorDone core y = true)) :
    ArrayKept core (s.updArray core (fun _ => { (s.pass core z x mv kv).array with queue := rest })) (s.streamTurn core z) := by
  have hpassed := State.passed_kept (s.pass core z x mv kv) hq
  cases hop : op with
  | some id =>
    rw [streamTurn_op hhead hcmd hop (fun y hy => hready y (by rw [hop]; exact hy))]
    exact hpassed.trans ((ArrayKept.updOp ..).trans (.tryFinish ..))
  | none =>
    cases hfollow : q.follow with
    | some id =>
      rw [streamTurn_follow hhead hcmd hop hfollow]
      exact hpassed.trans (.updOp ..)
    | none =>
      rw [streamTurn_none hhead hcmd hop hfollow]
      exact hpassed

/-- R178: a stream's turn keeps the rows that it does not reach, the latched tile, the metadata store and the memory. -/
theorem stream_changes {z : Bool} {x : BitVec 19} {mv kv : Nat} {op : Option Nat} (hq : (s.core core).array.queue = q :: rest)
    (hhead : s.queueHead core = some q) (hcmd : q.cmd = .mstream z x mv kv op)
    (hready : ∀ y, op.bind (s.op? core) = some y → y.state = .active ∧ (y.ord.acq = true → s.priorDone core y = true))
    (hn : NoRecords s) :
    ∃ u, exec (if z then .mstreamzCommand core else .mstreamCommand core) s = .next u ∧
      (∀ i, i < 4096 → mv ≤ i / 128 → vget (u.core core).array.acc i 0 = if z then 0 else vget (s.core core).array.acc i 0) ∧
      (u.core core).array.queue = rest ∧ (u.core core).array.tile = (s.core core).array.tile ∧
      (u.core core).array.codes = (s.core core).array.codes ∧ u.mem = s.mem := by
  obtain ⟨harray, hmemory⟩ := streamTurn_kept hq hhead hcmd hready
  obtain ⟨htile, hcodes⟩ := State.pass_tile_codes s core z x mv kv
  rw [State.array_updArray_same] at harray
  refine ⟨_, exec_streamCommand s core z, ?_⟩
  rw [harray]
  exact ⟨fun i hi hrow => State.vget_pass_acc s core z x kv hi hrow, rfl, htile, hcodes, hmemory.mem (noRecords_congr hn)⟩

/-! ### Births of drained rows (R180 to R182) -/

theorem lane_rowPick_half (core : Nat) (x : EngineOp) (r : DrainRow) {i : Nat} (hi : i < 64) :
    lane (vget (rowPick core x r).v 0 0) i = vget r.data i 0 ∧ lane (vget (rowPick core x r).v 1 0) i = vget r.data (64 + i) 0 := by
  constructor
  · rw [rowPick]
    dsimp only
    rw [vget_vset_other _ _ _ (by decide), vget_vset_same _ _ _ (by decide), lane_vecOf _ hi]
    simp
  · rw [rowPick]
    dsimp only
    rw [vget_vset_same _ _ _ (by decide), lane_vecOf _ hi]

theorem exec_rowPickBirth {tid : Nat} {r : DrainRow} {rows : List DrainRow} {x : EngineOp} (hdrain : (s.core core).array.drain = r :: rows)
    (hop : s.op? core r.op = some x) (hslot : vget (s.core core).slots 7 none = none) (hprior : s.priorDone core x = true)
    (hbob : s.takeBobbin x.dom (coreDie core) false x.image = some (tid, u)) :
    exec (.rowPickBirth core) s = .next (((u.updArray core (fun a => { a with drain := rows })).updOp core r.op
      (fun x => { x with live := x.live + 1, count := x.count + 1 })).placePick tid core 7 (rowPick core x r)) := by
  show execRowPickBirth core s = _
  simp only [execRowPickBirth, hdrain, hop, hslot, hprior, hbob]
  exact if_neg (by simp)

end

/-! ### The obligation -/

/-- Settles O35: each command's turn is one change of the array, and a drained row's birth is the placing of its pick. -/
theorem arrayTurns : Obligations.ArrayTurns := by
  unfold Obligations.ArrayTurns
  refine ⟨?_, ?_⟩
  · intro s core q rest a b hq ht
    have hhead := State.queueHead_eq hq ht
    refine ⟨?_, ?_, ?_, ?_, ?_, ?_, ?_, ?_, ?_⟩
    · exact fun f p hcmd => takesTurn_of_exec hq rfl (exec_mfmtCommand hhead hcmd)
    · exact fun img w sp hcmd => takesTurn_of_exec hq rfl (exec_mlatchCommand hhead hcmd)
    · intro x hcmd
      refine ⟨_, fun n g hn hg => (vget_metaCodes _ _ hn hg).trans ?_, takesTurn_of_exec hq rfl (exec_msparCommand hhead hcmd)⟩
      rw [lsLoc, lsLoc, show x.toNat + 32 * n + g / 2 = x.toNat + (32 * n + g / 2) by omega, Nat.add_assoc]
    · exact fun x hcmd => takesTurn_of_exec hq rfl (exec_mscaleCommand hhead hcmd)
    · exact fun hcmd => takesTurn_of_exec hq rfl (exec_mzeroCommand hhead hcmd)
    · intro row half vl x hcmd hvl
      exact ⟨_, fun i hi => vget_map_range _ _ hi, takesTurn_of_exec hq rfl (exec_mrowstCommand hhead hcmd)⟩
    · intro z x mv kv op id hcmd hfollow hop r
      have hr : s.pass core z x mv kv = r := rfl
      rw [exec_streamCommand, streamTurn_follow hhead hcmd hop hfollow, hr, State.passed, State.turn_eq hq rfl, State.tell_some hfollow]
    · exact fun z x mv kv op hcmd hready hn => stream_changes hq hhead hcmd hready hn
    · intro e mv nv clr flow op hcmd hfollow hdrain rows c
      rw [exec_mdrainCommand hhead hcmd hdrain, State.turn_eq hq rfl, State.tell_none hfollow]
      cases clr <;> rfl
  · intro s core tid r rest x u hdrain hop hslot hprior hbob hn
    have hu : Booked false s u := .takeBobbin hbob
    let w := u.updArray core (fun a => { a with drain := rest })
    let v := w.updOp core r.op (fun x => { x with live := x.live + 1, count := x.count + 1 })
    have hkept : ArrayKept core w v := .updOp ..
    have hw : NoRecords w := noRecords_congr (hu.noRecords hn)
    obtain ⟨hthread, hslots, harray, hmem⟩ := State.placePick_spec v tid core 7 (rowPick core x r)
    refine ⟨_, _, exec_rowPickBirth hdrain hop hslot hprior hbob, hthread, rfl, rfl, rfl, rfl, rfl, rfl, rfl, rfl, rfl,
      fun i hi => lane_rowPick_half core x r hi, ?_, ?_, ?_⟩
    · rw [harray, hkept.array, State.array_updArray_same]
    · rw [hslots, vget_vset_same _ _ _ (by decide)]
    · exact (hmem (hkept.memory.records hw)).trans ((hkept.memory.mem hw).trans (hu.mem hn))

end Sys2Proof.Machine
end

section
/-! PROOFS. Channel messages, births of channel picks, the block queue and the fault ring's retries (R189, R211, R213, R227, R263, R264,
R375). -/

namespace Sys2Proof.Machine

/-  Default tactics fill fields of structures here, for each of which an asynchronous elaboration holds a thread. -/
set_option Elab.async false

section
variable {s u v : State} {k c id tid die port : Nat} {m : ChanMsg} {d : DomId} {i : Instr}

/-! ### Endpoints -/

theorem MemoryKept.updEp (s : State) (c port : Nat) (f : Endpoint → Endpoint) : MemoryKept s (s.updEp c port f) :=
  ⟨fun hn => noRecords_congr hn, fun _ => rfl⟩

theorem MemoryKept.epReopen (s : State) (c port : Nat) : MemoryKept s (s.epReopen c port) := by
  unfold State.epReopen
  exact .ite (.updEp ..) (.refl s)

theorem Booked.spillDone (s : State) (die : Nat) (q : DomId) (r : Domain) (l : List (SpillEntry × Nat)) :
    Booked false s (l.foldl (fun s x =>
      if x.1.done then s.putRecord die q (r.spillAt (r.sphead.toNat + x.2)) x.1.bytes else s) s) :=
  .foldl _ (fun u x => .ite (.putRecord ..) {}) s

/-- Taking a message of an endpoint writes at most the spill queue's entries and control words. -/
theorem MemoryKept.epTake (s : State) (c port : Nat) : MemoryKept s (s.epTake c port) := by
  unfold State.epTake
  split
  · exact .refl s
  · split
    · dsimp only
      refine .trans (.trans ?_ (.of_booked ((Booked.updDom ..).trans (.putDcb (woken := false) ..)))) (.epReopen ..)
      split
      · exact .refl s
      · exact .of_booked (.spillDone ..)
    · exact .updEp ..

/-! ### Deposits (R211, R263) -/

/-- An open endpoint of core c with room takes message m: its record there has the CHECK that m names (R263). -/
structure Takes (s : State) (m : ChanMsg) (c : Nat) (d : DomId) : Prop where
  place : handleCore m.handle = some c
  check : (s.ep c (field m.handle 35 32)).check = m.handle.extractLsb' 0 32
  isOpen : (s.ep c (field m.handle 35 32)).state = .open
  owner : (s.ep c (field m.handle 35 32)).owner = some d
  room : (s.ep c (field m.handle 35 32)).msgs.length < 4

/-- The state after a message has been deposited at an endpoint: its sender's T becomes 0, and a thread that waits there wakes. -/
def State.deposit (s : State) (c port : Nat) (m : ChanMsg) : State :=
  ((s.updEp c port (fun e => { e with msgs := e.msgs ++ [m] })).giveToken m.stid m.dest 0).wakeEndpoint c port

theorem Takes.routeMsg (h : Takes s m c d) : s.routeMsg m = (.deposited, s.deposit c (field m.handle 35 32) m) := by
  have hroom : ¬4 ≤ (s.ep c (field m.handle 35 32)).msgs.length := by
    have := h.room
    omega
  unfold State.routeMsg
  simp only [h.place, State.record, h.check, if_true, h.isOpen, h.owner, hroom, if_false]
  rfl

theorem Booked.deposit (s : State) (c port : Nat) (m : ChanMsg) :
    Booked true (s.updEp c port (fun e => { e with msgs := e.msgs ++ [m] })) (s.deposit c port m) :=
  (Booked.giveToken ..).trans (.wakeEndpoint ..)

/-- A deposited message is the last of its endpoint. -/
theorem State.deposit_msgs (s : State) (c : Nat) (hport : port < 16) (m : ChanMsg) :
    ((s.deposit c port m).ep c port).msgs = (s.ep c port).msgs ++ [m] := by
  rw [State.ep, (Booked.deposit s c port m).eps, State.updEp, State.core_updCore_same]
  dsimp only
  rw [vget_vset_same _ _ _ hport]
  rfl

theorem MemoryKept.deposit (s : State) (c port : Nat) (m : ChanMsg) : MemoryKept s (s.deposit c port m) :=
  (MemoryKept.updEp ..).trans (.of_booked (.deposit ..))

theorem Undisturbed.wakeEngine (s : State) (tid : Nat) : Undisturbed s (s.wakeEngine tid) := by
  unfold State.wakeEngine
  split
  · exact .makeRunnable ..
  · exact .refl s

theorem Undisturbed.keepToken (s : State) (tid : Nat) (e : Dest) (w : Word) : Undisturbed s (s.keepToken tid e w) := by
  unfold State.keepToken
  split
  · split
    · exact .putRecord ..
    · exact .refl s
  · exact .refl s

theorem Undisturbed.wakeEndpoint (s : State) (c port : Nat) : Undisturbed s (s.wakeEndpoint c port) :=
  .wakeIf s _

/-- A stream whose awaited register r takes 0. -/
def Ctx.tokenZero (r : Nat) (x : Ctx) : Ctx := { x.setReg r 0 with pend := setPend x.pend r false }

theorem Thread.getReg_tokenZero (t : Thread) (acc : Bool) (st : Status) {r : Nat} (hr : 0 < r) (hr' : r < 24) :
    ({ t.updCtx acc (Ctx.tokenZero r) with status := st } : Thread).getReg acc r = 0 := by
  have hctx : ({ t.updCtx acc (Ctx.tokenZero r) with status := st } : Thread).ctx acc = (t.ctx acc).tokenZero r :=
    Thread.ctx_updCtx ..
  rw [Thread.getReg, hctx, if_neg (by simp [Thread.zeroReg, Nat.pos_iff_ne_zero.mp hr])]
  exact vget_vset_same _ _ _ hr'

theorem Thread.pend_tokenZero (t : Thread) (acc : Bool) (st : Status) (r : Nat) :
    (({ t.updCtx acc (Ctx.tokenZero r) with status := st } : Thread).ctx acc).pend.getLsbD r = false := by
  have hctx : ({ t.updCtx acc (Ctx.tokenZero r) with status := st } : Thread).ctx acc = (t.ctx acc).tokenZero r :=
    Thread.ctx_updCtx ..
  rw [hctx]
  simp [Ctx.tokenZero, setPend]

/-- The sender of a deposited message finds 0 in the register that awaited its T (R211). -/
theorem State.deposit_register {acc : Bool} {r : Nat} {t : Thread} (c port : Nat) (hdest : m.dest = .reg acc r)
    (ht : s.thread? m.stid = some t) (hr : 0 < r) (hpend : (t.ctx acc).pend.getLsbD r = true) :
    ∃ st, (s.deposit c port m).thread? m.stid = some { t.updCtx acc (Ctx.tokenZero r) with status := st } := by
  let v := s.updEp c port (fun e => { e with msgs := e.msgs ++ [m] })
  obtain ⟨st, hst⟩ := (Undisturbed.keepToken v m.stid m.dest 0).threads m.stid t ht
  have harrive : (v.arriveAt m.stid m.dest 0).thread? m.stid = some { t.updCtx acc (Ctx.tokenZero r) with status := st } := by
    rw [State.arriveAt, hdest, State.deliver, ← hdest, State.thread?_updThread_same _ hst]
    cases acc <;> simp_all [Thread.updCtx, Thread.ctx, Ctx.setReg, Ctx.tokenZero, Nat.pos_iff_ne_zero.mp hr]
  obtain ⟨st', hst'⟩ := ((Undisturbed.wakeEngine (v.arriveAt m.stid m.dest 0) m.stid).trans
    (.wakeEndpoint _ c port)).threads m.stid _ harrive
  exact ⟨st', hst'⟩

/-! ### Messages that arrive -/

theorem exec_delivery (s : State) (hi : i ∈ [Instr.messageArrival k, .sendRetry k]) : exec i s = .next (s.tryMessage k) := by
  simp only [List.mem_cons, List.not_mem_nil, or_false] at hi
  rcases hi with rfl | rfl <;> rfl

theorem tryMessage_deposited (hm : alGet s.chans k = some m) (horder : s.nextInOrder k m = true)
    (hdevice : m.handle.extractLsb' 49 15 = s.mgmt.device) (hrepair : bit m.handle 31 = false) (h : Takes s m c d) :
    s.tryMessage k = (s.deposit c (field m.handle 35 32) m).eraseMsg k := by
  simp only [State.tryMessage, hm, horder, hdevice, h.routeMsg, isRepair, hrepair]
  simp

/-- A message that no launch waits for just leaves its way. -/
theorem State.eraseMsg_of_unawaited (h : s.Unawaited k) : s.eraseMsg k = { s with chans := alErase s.chans k } := by
  have hfold (l : List (Nat × Gang)) (hl : ∀ g ∈ l, k ∉ g.2.sends) (u : State) :
      l.foldl (fun s e => if e.2.sends.contains k then s.gangCheck e.1 { e.2 with sends := e.2.sends.erase k } else s) u = u := by
    induction l with
    | nil => rfl
    | cons e l ih =>
      rw [List.foldl_cons, if_neg (by simpa using hl e (.head _))]
      exact ih fun g hg => hl g (.tail _ hg)
  exact hfold _ h _

/-- The delivery of the message that is all an ended launch waits for ends the launch (R227). -/
theorem State.eraseMsg_ends {g : Gang} (hgangs : s.gangs = [(id, g)]) (hsends : g.sends = [k]) (hended : g.ended = g.members.length)
    (hcword : g.cword = 0) : (s.eraseMsg k).gangs = [] := by
  simp [State.eraseMsg, hgangs, hsends, State.gangCheck, hended, State.gangDone, hcword, alErase]

/-! ### Births of channel picks (R213) -/

/-- Registers that words are put into hold them, and the others what they held. -/
theorem Ctx.reg_setRegs (x : Ctx) (ws : List Word) {r : Nat} (j : Nat) (hlen : r + ws.length ≤ 24) :
    (x.setRegs r ws).reg j = if r ≤ j ∧ j < r + ws.length then ws.getD (j - r) 0 else x.reg j := by
  induction ws generalizing x r with
  | nil => exact (if_neg (by simp)).symm
  | cons w ws ih =>
    rw [List.length_cons] at hlen
    rw [Ctx.setRegs, ih _ (by omega), List.length_cons]
    by_cases hj : j = r
    · subst hj
      rw [if_neg (by omega), if_pos (by omega), Nat.sub_self]
      exact vget_vset_same _ _ _ (by omega)
    · have hother : (x.setReg r w).reg j = x.reg j := vget_vset_other _ _ _ hj
      rw [hother]
      by_cases hin : r + 1 ≤ j ∧ j < r + 1 + ws.length
      · rw [if_pos hin, if_pos (by omega), show j - r = (j - (r + 1)) + 1 by omega, List.getD_cons_succ]
      · rw [if_neg hin, if_neg (by omega)]

theorem Ctx.pc_setRegs (x : Ctx) (ws : List Word) (r : Nat) : (x.setRegs r ws).pc = x.pc := by
  induction ws generalizing x r with
  | nil => rfl
  | cons w ws ih => exact ih ..

theorem words8_getD (x : BitVec 512) {i : Nat} (hi : i < 8) : (words8 x).getD i 0 = x.extractLsb' (64 * i) 64 := by
  simp [words8, hi]

theorem exec_channelPickBirth {p : BitVec 4} {slot : Nat} (howner : (s.ep c p.toNat).owner = some d)
    (hhead : s.epHead c p.toNat = some m) (hslot : freeSlot (s.core c) = some slot) (hhandler : (s.ep c p.toNat).handler ≠ 0)
    (hruns : s.ownerRuns c = true) (hstamp : m.stamp.leBut (s.die (coreDie c)).vc [] = true)
    (hbob : s.takeBobbin d (coreDie c) false (s.ep c p.toNat).image = some (tid, v)) :
    let t := pickInit c slot d (s.ep c p.toNat).image (s.ep c p.toNat).handler .channel
    exec (.channelPickBirth c p) s = .next ((v.epTake c p.toNat).placePick tid c slot
      { t with exe := t.exe.setRegs 0 (words8 m.data) }) := by
  show execChannelPickBirth c p s = _
  simp only [execChannelPickBirth, howner, hhead, hslot, hhandler, hruns, hstamp, hbob]
  exact if_neg (by simp)

/-! ### Handles of a core's endpoints (Table 7.10) -/

section
variable (device : BitVec 15) (core : Nat) (p : BitVec 4) (check : BitVec 32)

theorem mkHandle_toNat : (mkHandle device core p check).toNat =
    ((((device.toNat * 4 + coreDie core % 4) * 64 + placeCol core % 64) * 32 + placeRow core % 32) * 16 + p.toNat) * 2 ^ 32 +
      check.toNat := by
  simp only [mkHandle, toNat_append_eq_add, BitVec.toNat_ofNat]
  norm_num

theorem mkHandle_check : (mkHandle device core p check).extractLsb' 0 32 = check := by
  refine BitVec.eq_of_toNat_eq ?_
  have hlt := check.isLt
  rw [BitVec.extractLsb'_toNat, mkHandle_toNat, Nat.shiftRight_zero]
  omega

theorem mkHandle_port : field (mkHandle device core p check) 35 32 = p.toNat := by
  have hcheck := check.isLt
  have hport := p.isLt
  rw [field_eq_mod, mkHandle_toNat]
  omega

theorem handleCore_mkHandle (h : core < 4656) : handleCore (mkHandle device core p check) = some core := by
  have hcheck := check.isLt
  have hport := p.isLt
  have hdie : field (mkHandle device core p check) 48 47 = coreDie core % 4 := by
    rw [field_eq_mod, mkHandle_toNat]
    omega
  have hcol : field (mkHandle device core p check) 46 41 = placeCol core % 64 := by
    rw [field_eq_mod, mkHandle_toNat]
    omega
  have hrow : field (mkHandle device core p check) 40 36 = placeRow core % 32 := by
    rw [field_eq_mod, mkHandle_toNat]
    omega
  rw [handleCore, hdie, hcol, hrow]
  by_cases hs : core < 4608
  · have hsel : isSelvedge core = false := decide_eq_false (by omega)
    simp only [placeCol, placeRow, coreDie, hsel, hs, if_true, Bool.false_eq_true, if_false, coreCol, coreRow]
    rw [coreAt, if_pos (by omega), if_pos (by omega), shuttleAt]
    exact congrArg some (by omega)
  · have hsel : isSelvedge core = true := decide_eq_true (by omega)
    simp only [placeCol, placeRow, coreDie, hsel, hs, if_true, if_false]
    rw [coreAt, if_neg (by omega), if_pos (by omega)]
    exact congrArg some (by omega)

end

/-! ### The block queue (R189) -/

/-- The message that hands out the next block index of a flow to core c. -/
def State.blockMsg (s : State) (flow : BitVec 16) (f : Flow) (c : Nat) : ChanMsg :=
  { id := s.nextId, handle := mkHandle s.mgmt.device c 0 (s.ep c 0).check, sender := s.mgmt.device ++ 0xFFFF#16, stid := 0, sdom := 0,
    dest := .none, rel := false, scope := 0, stamp := Clock.zero, data := BitVec.ofNat 512 (f.next % 2 ^ 40 + flow.toNat * 2 ^ 40) }

/-- The state that hands out a block index: the message has its number. -/
def State.numbered (s : State) : State := { s with nextId := s.nextId + 1 }

theorem takes_blockMsg (s : State) (flow : BitVec 16) (f : Flow) (hc : c < 4656) (hopen : (s.ep c 0).state = .open)
    (howner : (s.ep c 0).owner = some d) (hroom : (s.ep c 0).msgs.length < 4) :
    Takes s.numbered (s.blockMsg flow f c) c d := by
  have hport : field (s.blockMsg flow f c).handle 35 32 = 0 := mkHandle_port ..
  refine ⟨handleCore_mkHandle _ _ _ _ hc, ?_, ?_, ?_, ?_⟩ <;> rw [hport]
  · exact (mkHandle_check ..).symm
  · exact hopen
  · exact howner
  · exact hroom

theorem exec_blockQueueHandout {b : BitVec 2} {flow : BitVec 16} {f : Flow} (hflow : alGet (s.die b.toNat).flows flow.toNat = some f)
    (hcore : f.cores[f.next % f.cores.length]? = some c) (h : Takes s.numbered (s.blockMsg flow f c) c d) :
    exec (.blockQueueHandout b flow) s =
      .next ((s.numbered.deposit c 0 (s.blockMsg flow f c)).updDie b.toNat
        (fun x => { x with flows := alSet x.flows flow.toNat { f with next := f.next + 1 } })) := by
  have hport : field (s.blockMsg flow f c).handle 35 32 = 0 := mkHandle_port ..
  have hroute := h.routeMsg
  rw [hport] at hroute
  simp only [State.numbered, State.blockMsg] at hroute ⊢
  show execBlockQueueHandout b flow s = _
  simp only [execBlockQueueHandout, hflow, hcore, hroute]

/-! ### The fault ring's retries (R375) -/

/-- Routing a message leaves the dies' fault rings. -/
theorem State.routeMsg_dies (s : State) (m : ChanMsg) (j : Nat) : SameDie (s.die j) ((s.routeMsg m).2.die j) := by
  unfold State.routeMsg
  split
  · exact {}
  · dsimp only
    split
    · exact {}
    · split
      · split
        · exact {}
        · exact (Booked.deposit ..).dies j
      · split
        · exact {}
        · exact ((Booked.spillAppend ..).trans ((Booked.giveToken ..).trans (.wakeEndpoint ..))).dies j
      · exact {}

theorem State.tellSupervisor_dies (s : State) (e : FaultEntry) (j : Nat) : SameDie (s.die j) ((s.tellSupervisor e).2.die j) := by
  unfold State.tellSupervisor
  split
  · dsimp only
    generalize hm : ChanMsg.mk _ _ _ _ _ _ _ _ _ _ _ = m
    have hroute := State.routeMsg_dies s.numbered m j
    split
    · next hr =>
      rw [State.numbered, hr] at hroute
      exact hroute
    · next hr =>
      rw [State.numbered, hr] at hroute
      exact hroute
    · next hr =>
      rw [State.numbered, hr] at hroute
      exact hroute
  · exact {}

theorem State.mkRepair_dies (s : State) (b : Nat) (e : FaultEntry) (j : Nat) : SameDie (s.die j) ((s.mkRepair b e).2.die j) := by
  unfold State.mkRepair
  dsimp only
  split
  · exact {}
  · split
    · split
      · refine (Booked.updDie (woken := false) (f := fun d => { d with repairs := d.repairs ++ _ }) _ b fun x => ?_).dies j
        exact {}
      · refine (Booked.updDie (woken := false) (f := fun d => { d with handless := d.handless ++ _ }) _ b fun x => ?_).dies j
        exact {}
    · exact {}

theorem State.ownBlock_dies (s : State) (key : KeyId) (n : Nat) : (s.ownBlock key n).dies = s.dies := by
  unfold State.ownBlock
  split
  · rfl
  · simp only [State.updBlock]

theorem State.deviceWrite_dies (s : State) (key : KeyId) (pa : Nat) (bs : List Byte) : (s.deviceWrite key pa bs).dies = s.dies := by
  have hfold (l : List Nat) (u : State) : (l.foldl (fun s i => s.ownBlock key (blockNo pa + i)) u).dies = u.dies := by
    induction l generalizing u with
    | nil => rfl
    | cons i l ih => rw [List.foldl_cons, ih, State.ownBlock_dies]
  rw [State.deviceWrite]
  exact hfold _ s

/-- A posted entry moves its die's tail and leaves the entries that wait. -/
theorem State.postNow_die (s : State) {b : Nat} (hb : b < 4) (e : FaultEntry) :
    ((s.postNow b e).die b).frtail = ((s.die b).frtail + 1) % 8192 ∧ ((s.postNow b e).die b).heldPosts = (s.die b).heldPosts := by
  let x := s.mkRepair b e
  let y := x.2.tellSupervisor { e with resumeh := x.1 }
  have hdie : SameDie (s.die b) (y.2.die b) := (State.mkRepair_dies s b e b).trans (State.tellSupervisor_dies ..)
  obtain ⟨w, hw, hpost⟩ : ∃ w : State, w.dies = y.2.dies ∧ s.postNow b e =
      (w.updDie b (fun d => { d with frtail := (d.frtail + 1) % 8192 })).alertTreadle :=
    ⟨_, State.deviceWrite_dies .., rfl⟩
  clear_value y
  have hnow : (s.postNow b e).die b = { y.2.die b with frtail := ((y.2.die b).frtail + 1) % 8192 } := by
    have hdie' : w.die b = y.2.die b := congrArg (vget · b Die.init) hw
    rw [hpost, ← hdie']
    exact State.die_updDie_same w (fun d => { d with frtail := (d.frtail + 1) % 8192 }) hb
  rw [hnow]
  exact ⟨by rw [← hdie.frtail], hdie.heldPosts⟩

theorem exec_faultRingRetry {b : BitVec 2} {e : FaultEntry} (hheld : (s.die b.toNat).heldPosts[k]? = some e)
    (hroom : (s.die b.toNat).frRoom = true) (hfirst : earlierHeld (s.die b.toNat).heldPosts k e = false) :
    exec (.faultRingRetry b k) s = .next (match e.holds with
      | some tid => ((s.updDie b.toNat (fun d => { d with heldPosts := d.heldPosts.eraseIdx k })).postNow b.toNat e).freeHeddle tid
      | none => (s.updDie b.toNat (fun d => { d with heldPosts := d.heldPosts.eraseIdx k })).postNow b.toNat e) := by
  show execFaultRingRetry b k s = _
  simp only [execFaultRingRetry, hheld, hroom, hfirst]
  exact if_neg (by simp)

end

end Sys2Proof.Machine
end

section
/-! PROOFS. Resume packets (R215, R307, R377), and the channel events and resumes as a whole. -/

namespace Sys2Proof.Machine

/-  Default tactics fill fields of structures here, for each of which an asynchronous elaboration holds a thread. -/
set_option Elab.async false

section
variable {s u : State} {k : Nat} {p : Packet} {t : Thread}

/-! ### Acceptance (R377) -/

theorem State.packet_msg (h : s.packet k = some p) : ∃ m, alGet s.chans k = some m := by
  unfold State.packet at h
  split at h
  · cases h
  · next m hm => exact ⟨m, hm⟩

theorem Booked.takeRepair (s : State) (p : Packet) : Booked false s (s.takeRepair p) := by
  unfold State.takeRepair
  exact .updDie s p.die fun x => {}

/-- Taking an accepted packet and its handle is bookkeeping once its message has left its way. -/
theorem Booked.takePacket (h : s.packet k = some p) (hu : s.Unawaited k) :
    Booked false { s with chans := alErase s.chans k } ((s.takePacket k).takeRepair p) := by
  obtain ⟨m, hm⟩ := State.packet_msg h
  have htake : s.takePacket k = ({ s with chans := alErase s.chans k } : State).giveToken m.stid m.dest 0 := by
    simp only [State.takePacket, hm, State.eraseMsg_of_unawaited hu]
  rw [htake]
  exact (Booked.giveToken ..).trans (.takeRepair ..)

/-- A thread after a packet has been taken. -/
theorem State.thread?_takePacket {tid : Nat} (h : s.packet k = some p) (hu : s.Unawaited k) (ht : s.thread? tid = some t) :
    ∃ r, ((s.takePacket k).takeRepair p).thread? tid = some r ∧ SameLife false t r :=
  (Booked.takePacket h hu).threads tid t ht

/-- Taking a packet leaves a core but for its ports and data cache. -/
theorem State.core_takePacket (h : s.packet k = some p) (hu : s.Unawaited k) (c : Nat) :
    ∃ l d, ((s.takePacket k).takeRepair p).core c = { s.core c with ports := l, dcache := d } :=
  (Booked.takePacket h hu).cores c

/-- An accepted packet that need not wait acts. -/
theorem State.runPacket_acts {actions : List Nat} (h : s.packet k = some p) (hok : p.ok = true) (haction : p.action ∈ actions)
    (hwait : s.packetWaits p = false) : s.runPacket k actions = ((s.takePacket k).takeRepair p).doPacket p := by
  have hmem : actions.contains p.action = true := List.contains_iff_mem.mpr haction
  simp only [State.runPacket, h, hmem, hok, hwait]
  simp

/-! ### What each ACTION waits for and does (R377) -/

section
variable {op : Nat} {x : EngineOp}

theorem State.runPacket_resumeThread (h : s.packet k = some p) (hok : p.ok = true) (haction : p.action = 0) (hsrc : p.rep.src = 0)
    (hstamp : p.stamp.leBut (s.die (coreDie p.rep.core)).vc [] = true) :
    exec (.resumePacket k) s = .next (((s.takePacket k).takeRepair p).resumeThread p.rep ((p.w 1).extractLsb' 0 56)) := by
  have hwait : s.packetWaits p = false := by simp [State.packetWaits, haction, hstamp]
  refine congrArg Host.Outcome.next ((State.runPacket_acts h hok (by simp [haction]) hwait).trans ?_)
  simp [State.doPacket, haction, hsrc]

theorem State.runPacket_resumeOp (h : s.packet k = some p) (hok : p.ok = true) (haction : p.action = 0) (hsrc : p.rep.src ≠ 0) :
    exec (.resumePacket k) s = .next (((s.takePacket k).takeRepair p).resumeOp p.rep) := by
  have hsrc : p.rep.src ≠ 0#4 := hsrc
  have hwait : s.packetWaits p = false := by simp [State.packetWaits, haction, hsrc]
  refine congrArg Host.Outcome.next ((State.runPacket_acts h hok (by simp [haction]) hwait).trans ?_)
  simp [State.doPacket, haction, hsrc]

theorem State.runPacket_abort (h : s.packet k = some p) (hok : p.ok = true) (haction : p.action = 1)
    (hop : s.packetOp p.rep = some (op, x)) (hinflight : x.inflight = []) :
    exec (.abortPacket k) s = .next (((s.takePacket k).takeRepair p).abortOp p.rep ((p.w 0).extractLsb' 8 8)) := by
  have hwait : s.packetWaits p = false := by simp [State.packetWaits, haction, hop, hinflight]
  refine congrArg Host.Outcome.next ((State.runPacket_acts h hok (by simp [haction]) hwait).trans ?_)
  simp [State.doPacket, haction]

theorem State.runPacket_discard {r : Thread} (h : s.packet k = some p) (hok : p.ok = true) (haction : p.action = 2)
    (ht : s.thread? p.rep.tid = some t) (hbusy : s.exitBusy p.rep.tid t = false) (hread : s.released p.rep.tid t false 4 = true)
    (hwrite : s.released p.rep.tid t true 4 = true) (hr : ((s.takePacket k).takeRepair p).thread? p.rep.tid = some r)
    (hstopped : r.status = .stopped) :
    exec (.discardPacket k) s = .next (((s.takePacket k).takeRepair p).endThread p.rep.tid true) := by
  have hwait : s.packetWaits p = false := by simp [State.packetWaits, haction, ht, hbusy, hread, hwrite]
  refine congrArg Host.Outcome.next ((State.runPacket_acts h hok (by simp [haction]) hwait).trans ?_)
  simp [State.doPacket, haction, hr, hstopped]

end

/-! ### RESUME of a thread -/

theorem State.epReopen_threads (s : State) (c port : Nat) : (s.epReopen c port).threads = s.threads := by
  unfold State.epReopen
  rw [apply_ite State.threads]
  exact ite_self _

theorem State.reopenEps_threads (s : State) (c : Nat) : (s.reopenEps c).threads = s.threads := by
  have hfold (l : List Nat) (u : State) : (l.foldl (fun s p => s.epReopen c p) u).threads = u.threads := by
    induction l generalizing u with
    | nil => rfl
    | cons i l ih => rw [List.foldl_cons, ih, State.epReopen_threads]
  exact hfold _ s

theorem MemoryKept.reopenEps (s : State) (c : Nat) : MemoryKept s (s.reopenEps c) := by
  have hfold (l : List Nat) (u : State) : MemoryKept u (l.foldl (fun s p => s.epReopen c p) u) := by
    induction l generalizing u with
    | nil => exact .refl u
    | cons i l ih => exact (MemoryKept.epReopen u c i).trans (ih _)
  exact hfold _ s

/-- A stopped thread as it runs again, at NEWPC where that is not 0. -/
def Thread.resumed (t : Thread) (acc : Bool) (newpc : VAddr) : Thread :=
  let q := t.updCtx acc (fun c => { c with pc := if newpc = 0 then c.pc else newpc, ahead := [] })
  { q with exe := { q.exe with atTarget := true }, acc := { q.acc with atTarget := true }, status := .running }

theorem State.resumeThread_eq {r : Repair} (newpc : VAddr) (ht : s.thread? r.tid = some t) (hstopped : t.status = .stopped)
    (hfull : (s.core t.core).full = some r.tid) :
    s.resumeThread r newpc = (s.setThread r.tid (t.resumed r.acc newpc)).reopenEps t.core := by
  have hcore (f : Ctx → Ctx) : (t.updCtx r.acc f).core = t.core := by
    cases r.acc <;> rfl
  have hrun : ¬t.status ≠ .stopped := not_not_intro hstopped
  unfold State.resumeThread
  rw [ht]
  dsimp only
  rw [if_neg hrun]
  refine (if_pos ?_).trans (congrArg (State.reopenEps _) (hcore _))
  rw [hcore]
  exact hfull

/-- A stopped full thread in its shuttle runs again, at NEWPC where that is not 0. -/
theorem State.resumeThread_spec {r : Repair} (newpc : VAddr) (ht : s.thread? r.tid = some t) (hstopped : t.status = .stopped)
    (hfull : (s.core t.core).full = some r.tid) :
    MemoryKept s (s.resumeThread r newpc) ∧ ∃ q, (s.resumeThread r newpc).thread? r.tid = some q ∧ q.status = .running ∧
      (q.ctx r.acc).pc = if newpc = 0 then (t.ctx r.acc).pc else newpc := by
  rw [State.resumeThread_eq newpc ht hstopped hfull]
  refine ⟨.trans (u := s.setThread r.tid _) ⟨fun hn => noRecords_congr hn, fun _ => rfl⟩ (.reopenEps ..),
    t.resumed r.acc newpc, ?_, rfl, ?_⟩
  · rw [State.thread?, State.reopenEps_threads]
    exact State.thread?_setThread_same ..
  · cases r.acc <;> rfl

/-! ### RESUME and ABORT of an engine operation -/

theorem State.packetOp_congr {r : Repair} (h : (u.core r.core).ops = (s.core r.core).ops) : u.packetOp r = s.packetOp r := by
  unfold State.packetOp
  rw [h]

theorem State.op?_congr {c : Nat} (h : (u.core c).ops = (s.core c).ops) (op : Nat) : u.op? c op = s.op? c op :=
  congrArg (alGet · op) h

theorem State.op?_updOp {c op : Nat} {x : EngineOp} (f : EngineOp → EngineOp) (h : s.op? c op = some x) :
    (s.updOp c op f).op? c op = some (f x) := by
  unfold State.updOp
  rw [h]
  exact (congrArg (fun c : Core => alGet c.ops op) (State.core_updCore_same ..)).trans (alGet_alSet_same ..)

/-- A resumed operation that no chain runs is active again, with the units it holds. -/
theorem State.resumeOp_eq {r : Repair} {op : Nat} {x : EngineOp} (hop : s.packetOp r = some (op, x)) (hchain : x.chain = false) :
    s.resumeOp r = s.updOp r.core op (fun x => { x with state := .active }) := by
  simp only [State.resumeOp, hop, hchain]
  simp

/-- The deferred fault of an aborted operation. -/
def EngineOp.abortFault (x : EngineOp) (r : Repair) (cause : Cause) (addr : Word) (onResume : Bool) : EngineFault :=
  { cause := cause, addr := addr, eng := r.eng, dest := x.dest, batch := x.batch, onResume := onResume }

/-- A thread as the abort of its operation x leaves it: a deferred fault comes, and no register awaits the operation's token (R215). -/
def Thread.aborted (t : Thread) (x : EngineOp) (r : Repair) (cause : Cause) (addr : Word) : Thread :=
  let q := { t with engFaults := t.engFaults ++
    [x.abortFault r cause addr (t.status != .running && t.status != .stopped || t.saved.isSome)] }
  match x.dest with
  | .reg acc n => q.updCtx acc (fun c => { c with pend := setPend c.pend n false })
  | _ => q

theorem Thread.aborted_engFaults (t : Thread) (x : EngineOp) (r : Repair) (cause : Cause) (addr : Word) :
    (t.aborted x r cause addr).engFaults = t.engFaults ++
      [x.abortFault r cause addr (t.status != .running && t.status != .stopped || t.saved.isSome)] := by
  unfold Thread.aborted
  split
  · next acc n _ => cases acc <;> rfl
  · rfl

theorem Thread.aborted_pend (t : Thread) {x : EngineOp} (r : Repair) (cause : Cause) (addr : Word) {acc : Bool} {n : Nat}
    (hdest : x.dest = .reg acc n) : ((t.aborted x r cause addr).ctx acc).pend.getLsbD n = false := by
  simp [Thread.aborted, hdest, setPend]

/-- The state in which an operation that no chain runs has ended. -/
def State.withoutOp (s : State) (c op : Nat) : State :=
  s.updCore c (fun k => { k with ops := alErase k.ops op, returned := k.returned.filter (fun b => b.op != op),
                                 array := { k.array with queue := k.array.queue.filter (fun q => q.streams != some op) } })

theorem State.abortOp_eq {r : Repair} {op : Nat} {x : EngineOp} {c : Cause} {a : Word} (cause : Cause) (hop : s.packetOp r = some (op, x))
    (hchain : x.chain = false) (hstate : x.state = .faulted c a) :
    s.abortOp r cause = (((s.withoutOp r.core op).updThread x.tid (fun t => t.aborted x r cause a)).wakeEngine x.tid).unhold x.tid := by
  simp only [State.abortOp, hop, hchain, hstate]
  rfl

/-- An aborted operation's thread takes a deferred fault with the address of the fault (R215, R377). -/
theorem State.abortOp_spec {r : Repair} {op : Nat} {x : EngineOp} {c : Cause} {a : Word} (cause : Cause)
    (hop : s.packetOp r = some (op, x)) (hchain : x.chain = false) (hstate : x.state = .faulted c a) (ht : s.thread? x.tid = some t) :
    ∃ q, (s.abortOp r cause).thread? x.tid = some q ∧ SameLife false (t.aborted x r cause a) q := by
  rw [State.abortOp_eq cause hop hchain hstate]
  have hthread : ((s.withoutOp r.core op).updThread x.tid (fun t => t.aborted x r cause a)).thread? x.tid = some (t.aborted x r cause a) :=
    State.thread?_updThread_same _ ht
  exact ((Booked.wakeEngine ..).trans (.unhold ..)).threads x.tid _ hthread

/-- Bookkeeping wakes waiting threads only: it changes no thread from or to one that runs or is stopped. -/
theorem SameLife.off_core {q : Thread} (h : SameLife false t q) :
    (q.status != .running && q.status != .stopped) = (t.status != .running && t.status != .stopped) := by
  rcases h.status with hq | ⟨hw, hq⟩
  · rw [hq]
  · obtain ⟨w, ht⟩ := hw.resolve_left Bool.noConfusion
    rw [hq, ht]
    rfl

end

/-! ### The obligation -/

/-- Settles O47: a message's delivery is its deposit and its erasure, a birth places a pick, a handout and a retry end in one change of a
die, and an accepted packet acts on a state that only bookkeeping has changed. -/
theorem channelEventsAndResumes : Obligations.ChannelEventsAndResumes := by
  unfold Obligations.ChannelEventsAndResumes
  refine ⟨⟨?_, ?_, ?_, ?_, ?_⟩, ?_⟩
  · intro s k c m d hm horder hdevice hrepair hplace p e hcheck hopen howner hroom hu i hi
    have htakes : Takes s m c d := ⟨hplace, hcheck, hopen, howner, hroom⟩
    have hbooked := Booked.deposit s c p m
    have hunawaited : (s.deposit c p m).Unawaited k := fun g hg => hu g (by rw [hbooked.gangs] at hg; exact hg)
    have hexec := (exec_delivery s hi).trans (congrArg _ ((tryMessage_deposited hm horder hdevice hrepair htakes).trans
      (State.eraseMsg_of_unawaited hunawaited)))
    refine ⟨_, hexec, State.deposit_msgs s c (BitVec.isLt _) m, (MemoryKept.deposit s c p m).mem, ?_, ?_⟩
    · exact congrArg (alErase · k) hbooked.chans
    · intro t acc r hdest ht hkind hr hr' hpend
      obtain ⟨st, hst⟩ := State.deposit_register c p hdest ht hr hpend
      exact ⟨_, hst, t.getReg_tokenZero acc st hr hr', t.pend_tokenZero acc st r⟩
  · intro s k c id m d g hm horder hdevice hrepair hplace e hcheck hopen howner hroom hgangs hsends hended hcword i hi
    have htakes : Takes s m c d := ⟨hplace, hcheck, hopen, howner, hroom⟩
    have hexec := (exec_delivery s hi).trans (congrArg _ (tryMessage_deposited hm horder hdevice hrepair htakes))
    exact ⟨_, hexec, State.eraseMsg_ends ((Booked.deposit s c _ m).gangs.trans hgangs) hsends hended hcword⟩
  · intro s v core slot tid port d m e howner hhead hslot hhandler hruns hstamp hbob
    obtain ⟨hthread, -, -, hmem⟩ := State.placePick_spec (v.epTake core port.toNat) tid core slot
      { pickInit core slot d e.image e.handler .channel with
        exe := (pickInit core slot d e.image e.handler .channel).exe.setRegs 0 (words8 m.data) }
    have hkept : MemoryKept s (v.epTake core port.toNat) := .trans (.of_booked (Booked.takeBobbin (woken := false) hbob)) (.epTake ..)
    refine ⟨_, _, exec_channelPickBirth howner hhead hslot hhandler hruns hstamp hbob, hthread, rfl, rfl, rfl, rfl, rfl, rfl,
      Ctx.pc_setRegs .., fun i hi => ?_, fun hn => (hmem (hkept.records hn)).trans (hkept.mem hn)⟩
    refine (Ctx.reg_setRegs _ _ i (by simp [words8])).trans ((if_pos ⟨Nat.zero_le i, by simpa [words8] using hi⟩).trans ?_)
    exact words8_getD _ hi
  · intro s die flow f c d hflow hcore hc hopen howner hroom
    have htakes := takes_blockMsg s flow f hc hopen howner hroom
    refine ⟨_, s.blockMsg flow f c, exec_blockQueueHandout hflow hcore htakes,
      State.deposit_msgs s.numbered c (by decide) (s.blockMsg flow f c), ?_, rfl, ?_⟩
    · exact congrArg (BitVec.ofNat 512) (congrArg _ (Nat.mul_comm ..))
    · rw [State.die_updDie_same _ _ die.isLt]
      exact alGet_alSet_same ..
  · intro s die k e hheld hroom hfirst
    let v := s.updDie die.toNat (fun d => { d with heldPosts := d.heldPosts.eraseIdx k })
    have hv : v.die die.toNat = { s.die die.toNat with heldPosts := (s.die die.toNat).heldPosts.eraseIdx k } :=
      State.die_updDie_same _ _ die.isLt
    obtain ⟨htail, hposts⟩ := State.postNow_die v die.isLt e
    rw [hv] at htail hposts
    exact ⟨_, exec_faultRingRetry hheld hroom hfirst, htail, hposts⟩
  · intro s k p hp hok hu
    let v := (s.takePacket k).takeRepair p
    have hv : Booked false { s with chans := alErase s.chans k } v := .takePacket hp hu
    refine ⟨?_, ?_, ?_, ?_⟩
    · intro haction hsrc hstamp t ht hstopped hkind hfull
      obtain ⟨r, hr, hlife⟩ := State.thread?_takePacket hp hu ht
      obtain ⟨l, d, hcore⟩ := State.core_takePacket hp hu t.core
      have hrstopped : r.status = .stopped := (hlife.status_eq (by simp [hstopped])).trans hstopped
      have hrfull : (v.core r.core).full = some p.rep.tid := by
        rw [hlife.core, hcore]
        exact hfull
      obtain ⟨hkept, q, hq, hrunning, hpc⟩ := State.resumeThread_spec ((p.w 1).extractLsb' 0 56) hr hrstopped hrfull
      refine ⟨_, q, State.runPacket_resumeThread hp hok haction hsrc hstamp, hq, hrunning, fun hn => ?_, ?_⟩
      · have hn' : NoRecords { s with chans := alErase s.chans k } := noRecords_congr hn
        exact (hkept.mem (hv.noRecords hn')).trans (hv.mem hn')
      · rw [hpc, hlife.pc]
        exact if_congr (BitVec.toNat_eq ..) rfl rfl
    · intro haction hsrc op x hop hx hchain
      have hops : (v.core p.rep.core).ops = (s.core p.rep.core).ops := hv.ops p.rep.core
      refine ⟨_, { x with state := .active }, State.runPacket_resumeOp hp hok haction hsrc, ?_, rfl, rfl, rfl⟩
      rw [State.resumeOp_eq ((State.packetOp_congr hops).trans hop) hchain]
      exact State.op?_updOp _ ((State.op?_congr hops op).trans hx)
    · intro haction op x a t hop hinflight hchain hstate ht
      obtain ⟨c, hstate⟩ := hstate
      obtain ⟨r, hr, hlife⟩ := State.thread?_takePacket hp hu ht
      have hops : (v.core p.rep.core).ops = (s.core p.rep.core).ops := hv.ops p.rep.core
      obtain ⟨q, hq, habort⟩ := State.abortOp_spec ((p.w 0).extractLsb' 8 8) ((State.packetOp_congr hops).trans hop) hchain hstate hr
      refine ⟨_, q, State.runPacket_abort hp hok haction hop hinflight, hq, ?_, fun acc n hdest =>
        habort.pend acc n (r.aborted_pend p.rep _ a hdest)⟩
      rw [habort.engFaults, r.aborted_engFaults, hlife.engFaults, hlife.off_core, hlife.saved, Bool.or_comm]
      rfl
    · intro haction t ht hstopped hbusy hread hwrite
      obtain ⟨r, hr, hlife⟩ := State.thread?_takePacket hp hu ht
      exact State.runPacket_discard hp hok haction ht hbusy hread hwrite hr ((hlife.status_eq (by simp [hstopped])).trans hstopped)

end Sys2Proof.Machine
end
